-- ==== Sys2Proof/Word.lean ====
section
/-! DEFINITION. The machine words of the Hieth Nuhel Crigal and the sparse table type that State is built of.
R2, R3: data is little-endian and bits are numbered from 0 at the least significant bit. -/

namespace Sys2Proof

/-- A hart register, an address, a CSR: 64 bits (R88, R90). -/
abbrev Word := BitVec 64

/-- One lane register of one lane: 32 bits (R88). -/
abbrev Word32 := BitVec 32

/-- One byte of memory or scratchpad. -/
abbrev Byte := BitVec 8

/-- One bit for each of the 128 lanes a wave may have: predicates, mask registers, `amask` (R88, R93). -/
abbrev Mask := BitVec 128

/-- A table with few entries filled in: key and value pairs, keys rising. A key that is not listed stands for the
blank value that the reader of the table names. -/
abbrev Table (β : Type) := List (Nat × β)

end Sys2Proof
end

