-- ==== Sys2Proof/Machine/Tables.lean ====
section
/-! DEFINITION. Sparse tables, memory bytes and the small bit helpers the rest of the machine is written with. -/

namespace Sys2Proof.Machine

/-- The value listed at key `k`, if any. -/
def Table.find {β : Type} : Table β → Nat → Option β
  | [], _ => none
  | (a, b) :: t, k => if a = k then some b else Table.find t k

/-- The value at key `k`, the blank value where nothing is listed. -/
def Table.get {β : Type} (t : Table β) (k : Nat) (blank : β) : β :=
  match Table.find t k with
  | some b => b
  | none => blank

/-- List `v` at key `k`, keeping the keys rising. -/
def Table.put {β : Type} : Table β → Nat → β → Table β
  | [], k, v => [(k, v)]
  | (a, b) :: t, k, v =>
    if k < a then (k, v) :: (a, b) :: t
    else if a = k then (k, v) :: t
    else (a, b) :: Table.put t k v

/-- Take key `k` off the table. -/
def Table.erase {β : Type} : Table β → Nat → Table β
  | [], _ => []
  | (a, b) :: t, k => if a = k then Table.erase t k else (a, b) :: Table.erase t k

/-- Keep the entries whose key satisfies `q`. -/
def Table.keep {β : Type} (t : Table β) (q : Nat → Bool) : Table β :=
  t.filter (fun e => q e.1)

/-- The keys are strictly rising. -/
def Table.rising {β : Type} : Table β → Bool
  | [] => true
  | [_] => true
  | (a, _) :: (b, c) :: t => decide (a < b) && Table.rising ((b, c) :: t)

/-- Put each value of a list at the keys from `k` on. -/
def Table.putAll {β : Type} (t : Table β) (k : Nat) : List β → Table β
  | [] => t
  | v :: vs => Table.putAll (Table.put t k v) (k + 1) vs

/-- A byte of a sparse byte store; an unlisted byte reads 0 (DESIGN CHOICE, log 1). -/
def Bytes.read (m : Table Byte) (a : Nat) : Byte := Table.get m a 0

/-- Write one byte; the byte an unlisted address reads as is not listed. -/
def Bytes.write (m : Table Byte) (a : Nat) (v : Byte) : Table Byte :=
  if v = 0 then Table.erase m a else Table.put m a v

/-- The canonical form of a byte store: addresses strictly rising and no listed zero. -/
def Bytes.wf (m : Table Byte) : Bool :=
  Table.rising m && m.all (fun e => decide (e.2 ≠ 0))

/-- Little-endian value of `n` bytes from address `a` (R2). -/
def Bytes.readLE (m : Table Byte) (a : Nat) : Nat → Nat
  | 0 => 0
  | n + 1 => (Bytes.read m a).toNat + 256 * Bytes.readLE m (a + 1) n

/-- Write the `n` low bytes of `v` from address `a`, little-endian (R2). -/
def Bytes.writeLE (m : Table Byte) (a : Nat) : Nat → Nat → Table Byte
  | 0, _ => m
  | n + 1, v => Bytes.writeLE (Bytes.write m a (BitVec.ofNat 8 v)) (a + 1) n (v / 256)

/-- Write a list of bytes from address `a`. -/
def Bytes.writeList (m : Table Byte) (a : Nat) : List Byte → Table Byte
  | [] => m
  | v :: vs => Bytes.writeList (Bytes.write m a v) (a + 1) vs

/-- The `n` bytes from address `a`. -/
def Bytes.readList (m : Table Byte) (a : Nat) : Nat → List Byte
  | 0 => []
  | n + 1 => Bytes.read m a :: Bytes.readList m (a + 1) n

/-- Bits `hi` to `lo` of a number. -/
def bits (v hi lo : Nat) : Nat := (v >>> lo) % 2 ^ (hi + 1 - lo)

/-- Bit `i` of a number. -/
def bit (v i : Nat) : Bool := v.testBit i

/-- 1 for true, 0 for false. -/
def b2n (b : Bool) : Nat := if b then 1 else 0

/-- `n` with its bits `hi` to `lo` replaced by the low bits of `v`. -/
def setBits (n hi lo v : Nat) : Nat :=
  n - (bits n hi lo) * 2 ^ lo + (v % 2 ^ (hi + 1 - lo)) * 2 ^ lo

/-- Field `hi:lo` of a 64-bit word as a number. -/
def fld (w : Word) (hi lo : Nat) : Nat := bits w.toNat hi lo

/-- A 64-bit word with field `hi:lo` replaced. -/
def setFld (w : Word) (hi lo v : Nat) : Word := BitVec.ofNat 64 (setBits w.toNat hi lo v)

/-- The number whose low `w` bits are read as two's complement. -/
def toSigned (w v : Nat) : Int :=
  let z := v % 2 ^ w
  if w ≠ 0 ∧ 2 ^ (w - 1) ≤ z then (z : Int) - 2 ^ w else z

/-- The `w`-bit pattern of an exact integer. -/
def wrapTo (w : Nat) (y : Int) : Nat := (y % (2 ^ w : Int)).toNat

/-- Sign extension of the `w`-bit pattern `v` to `n` bits. -/
def signExt (w n v : Nat) : Nat := wrapTo n (toSigned w v)

/-- The little-endian number of a list of bytes. -/
def leValue : List Byte → Nat
  | [] => 0
  | b :: t => b.toNat + 256 * leValue t

/-- `n` little-endian bytes of a number. -/
def leBytes : Nat → Nat → List Byte
  | 0, _ => []
  | n + 1, v => BitVec.ofNat 8 v :: leBytes n (v / 256)

end Sys2Proof.Machine
end

