-- ==== Sys2Proof/Syntax.lean ====
section
/-! DEFINITION. The instructions: one constructor of `Instr` for every row of the opcode table.
The lane words share the fields of R65; the device scalar words carry the operand fields of R62; the RISC-V words
are `Rv`; the device events carry no
fields: what one acts on, and the choices the manual leaves to firmware, to the host or to time, are its operands
`Args` in the state. -/

namespace Sys2Proof

/-- The fields of a lane word (R65) other than its major opcode, its pair bits and its paired scalar word.
`imm` is bits 95:64 and is zero in a 64-bit word; bits 127:96 of an unpaired word are zero (R67). -/
structure LaneWord where
  /-- Length code, bits 8:7. -/
  len : BitVec 2
  /-- Lookahead, bits 12:9. -/
  la : BitVec 4
  /-- Guard predicate, bits 16:13. -/
  guard : BitVec 4
  /-- Guard complement, bit 17. -/
  gneg : Bool
  /-- Destination field, bits 33:26. -/
  vd : BitVec 8
  /-- Source a, bits 41:34. -/
  va : BitVec 8
  /-- Source b, bits 49:42. -/
  vb : BitVec 8
  /-- Sub-function, bits 57:50. -/
  func : BitVec 8
  /-- Primary type code, bits 61:58 (R66). -/
  ty : BitVec 4
  /-- Immediate or vc with extended modifiers, bits 95:64. -/
  imm : BitVec 32
deriving DecidableEq, Repr

/-- Conditions of the RISC-V conditional branches. -/
inductive BranchOp | beq | bne | blt | bge | bltu | bgeu
deriving DecidableEq, Repr

/-- RISC-V integer loads. -/
inductive LoadOp | lb | lh | lw | ld | lbu | lhu | lwu
deriving DecidableEq, Repr

/-- RISC-V integer stores. -/
inductive StoreOp | sb | sh | sw | sd
deriving DecidableEq, Repr

/-- Two-register operations of OP: RV64I, M, Zba and Zbb. -/
inductive IntOp
  | add | sub | sll | slt | sltu | xor | srl | sra | or | and
  | mul | mulh | mulhsu | mulhu | div | divu | rem | remu
  | sh1add | sh2add | sh3add | andn | orn | xnor | max | maxu | min | minu | rol | ror
deriving DecidableEq, Repr

/-- Two-register operations of OP-32: RV64I, M, Zba and Zbb. -/
inductive IntOp32
  | addw | subw | sllw | srlw | sraw | mulw | divw | divuw | remw | remuw
  | addUw | sh1addUw | sh2addUw | sh3addUw | rolw | rorw
deriving DecidableEq, Repr

/-- Register-immediate operations of OP-IMM with a 12-bit immediate. -/
inductive ImmOp | addi | slti | sltiu | xori | ori | andi
deriving DecidableEq, Repr

/-- Shifts by a 6-bit amount: OP-IMM, and `slli.uw` of OP-IMM-32. -/
inductive ShiftOp | slli | srli | srai | rori | slliUw
deriving DecidableEq, Repr

/-- Shifts of words by a 5-bit amount, OP-IMM-32. -/
inductive ShiftOp32 | slliw | srliw | sraiw | roriw
deriving DecidableEq, Repr

/-- One-register operations of Zbb. -/
inductive UnaryOp | clz | ctz | cpop | sextB | sextH | orcB | rev8 | clzw | ctzw | cpopw | zextH
deriving DecidableEq, Repr

/-- Read-modify-write operations of the A extension. -/
inductive AmoOp | swap | add | xor | and | or | min | max | minu | maxu
deriving DecidableEq, Repr

/-- Precision of an F or D operation. -/
inductive FpFmt | s | d
deriving DecidableEq, Repr

/-- The four arithmetic operations of F and D. -/
inductive FpArith | add | sub | mul | div
deriving DecidableEq, Repr

/-- The four fused operations of F and D. -/
inductive FpFused | madd | msub | nmsub | nmadd
deriving DecidableEq, Repr

/-- Sign injections of F and D. -/
inductive FpSign | sgnj | sgnjn | sgnjx
deriving DecidableEq, Repr

/-- Comparisons of F and D. -/
inductive FpCompare | eq | lt | le
deriving DecidableEq, Repr

/-- The integer side of a conversion. -/
inductive FpInt | w | wu | l | lu
deriving DecidableEq, Repr

/-- Zicsr operations. -/
inductive CsrOp | rw | rs | rc
deriving DecidableEq, Repr

/-- The words of RV64IMAFD, Zicsr, Zba and Zbb (R61, R90), other than ECALL, MRET, SRET, FENCE.I and WFI, which
have rows of their own. -/
inductive Rv
  | lui (rd : BitVec 5) (imm : BitVec 20)
  | auipc (rd : BitVec 5) (imm : BitVec 20)
  | jal (rd : BitVec 5) (off : BitVec 20)
  | jalr (rd rs1 : BitVec 5) (imm : BitVec 12)
  | branch (op : BranchOp) (rs1 rs2 : BitVec 5) (off : BitVec 12)
  | load (op : LoadOp) (rd rs1 : BitVec 5) (imm : BitVec 12)
  | store (op : StoreOp) (rs1 rs2 : BitVec 5) (imm : BitVec 12)
  | opImm (op : ImmOp) (rd rs1 : BitVec 5) (imm : BitVec 12)
  | addiw (rd rs1 : BitVec 5) (imm : BitVec 12)
  | shiftImm (op : ShiftOp) (rd rs1 : BitVec 5) (shamt : BitVec 6)
  | shiftImm32 (op : ShiftOp32) (rd rs1 : BitVec 5) (shamt : BitVec 5)
  | unary (op : UnaryOp) (rd rs1 : BitVec 5)
  | op (op : IntOp) (rd rs1 rs2 : BitVec 5)
  | op32 (op : IntOp32) (rd rs1 rs2 : BitVec 5)
  | fence (rd rs1 : BitVec 5) (imm : BitVec 12)
  | ebreak
  | sfenceVma (rs1 rs2 : BitVec 5)
  | csr (op : CsrOp) (rd rs1 : BitVec 5) (csr : BitVec 12)
  | csrImm (op : CsrOp) (rd uimm : BitVec 5) (csr : BitVec 12)
  | lr (dword aq rl : Bool) (rd rs1 : BitVec 5)
  | sc (dword aq rl : Bool) (rd rs1 rs2 : BitVec 5)
  | amo (op : AmoOp) (dword aq rl : Bool) (rd rs1 rs2 : BitVec 5)
  | fload (fmt : FpFmt) (rd rs1 : BitVec 5) (imm : BitVec 12)
  | fstore (fmt : FpFmt) (rs1 rs2 : BitVec 5) (imm : BitVec 12)
  | fused (op : FpFused) (fmt : FpFmt) (rm : BitVec 3) (rd rs1 rs2 rs3 : BitVec 5)
  | farith (op : FpArith) (fmt : FpFmt) (rm : BitVec 3) (rd rs1 rs2 : BitVec 5)
  | fsqrt (fmt : FpFmt) (rm : BitVec 3) (rd rs1 : BitVec 5)
  | fsgnj (op : FpSign) (fmt : FpFmt) (rd rs1 rs2 : BitVec 5)
  | fminmax (isMax : Bool) (fmt : FpFmt) (rd rs1 rs2 : BitVec 5)
  | fcompare (op : FpCompare) (fmt : FpFmt) (rd rs1 rs2 : BitVec 5)
  | fclass (fmt : FpFmt) (rd rs1 : BitVec 5)
  | fmvToX (fmt : FpFmt) (rd rs1 : BitVec 5)
  | fmvToF (fmt : FpFmt) (rd rs1 : BitVec 5)
  | fcvtToInt (int : FpInt) (fmt : FpFmt) (rm : BitVec 3) (rd rs1 : BitVec 5)
  | fcvtToFp (int : FpInt) (fmt : FpFmt) (rm : BitVec 3) (rd rs1 : BitVec 5)
  | fcvtFmt (toFmt : FpFmt) (rm : BitVec 3) (rd rs1 : BitVec 5)
deriving DecidableEq, Repr

/-- The instructions and device events, in the order of the opcode table. -/
inductive Instr
  /-- Adds two integer lane operands per active lane and writes the result modulo 2^w (R114). -/
  | vadd (w : LaneWord)
  /-- Subtracts integer lane operands per active lane, modulo 2^w (R114). -/
  | vsub (w : LaneWord)
  /-- Saturating integer add per active lane (R114). -/
  | vadds (w : LaneWord)
  /-- Saturating integer subtract per active lane (R114). -/
  | vsubs (w : LaneWord)
  /-- Integer multiply per active lane, low w bits (R114). -/
  | vmul (w : LaneWord)
  /-- Writes the upper half of the exact 2w-bit integer product (R114). -/
  | vmulh (w : LaneWord)
  /-- Writes the exact 64-bit product of two 32-bit operands to a register pair (R114). -/
  | vmulw (w : LaneWord)
  /-- Integer multiply-add a*b+c per active lane (R114). -/
  | vmad (w : LaneWord)
  /-- Widening multiply-add of 32-bit operands into a 64-bit pair (R114). -/
  | vmadw (w : LaneWord)
  /-- Integer minimum per active lane (R114). -/
  | vmin (w : LaneWord)
  /-- Integer maximum per active lane (R114). -/
  | vmax (w : LaneWord)
  /-- Signed integer absolute value per active lane (R114). -/
  | vabs (w : LaneWord)
  /-- Integer negation per active lane (R114). -/
  | vneg (w : LaneWord)
  /-- Absolute difference written as an unsigned w-bit value (R114). -/
  | vabsd (w : LaneWord)
  /-- Clamps a lane value between two bounds (R114). -/
  | vclamp (w : LaneWord)
  /-- Bitwise AND of lane patterns (R116). -/
  | vand (w : LaneWord)
  /-- Bitwise OR of lane patterns (R116). -/
  | vor (w : LaneWord)
  /-- Bitwise XOR of lane patterns (R116). -/
  | vxor (w : LaneWord)
  /-- Bitwise AND with complement of the second operand (R116). -/
  | vandn (w : LaneWord)
  /-- Bitwise complement of a lane pattern (R116). -/
  | vnot (w : LaneWord)
  /-- Applies any three-input bit function selected by two truth tables (R116). -/
  | vbmux (w : LaneWord)
  /-- Logical left shift by the low log2(w) bits of the shift operand (R116). -/
  | vsll (w : LaneWord)
  /-- Logical right shift per active lane (R116). -/
  | vsrl (w : LaneWord)
  /-- Arithmetic right shift per active lane (R116). -/
  | vsra (w : LaneWord)
  /-- Rotate left per active lane (R116). -/
  | vrol (w : LaneWord)
  /-- Rotate right per active lane (R116). -/
  | vror (w : LaneWord)
  /-- Funnel shift extracting 32 bits from the 64-bit concatenation B:A (R116). -/
  | vshf (w : LaneWord)
  /-- Shift-and-add a*2^s+b per active lane (R114). -/
  | vshadd (w : LaneWord)
  /-- Counts set bits of a lane pattern (R116). -/
  | vpopc (w : LaneWord)
  /-- Counts leading zero bits (R116). -/
  | vclz (w : LaneWord)
  /-- Counts trailing zero bits (R116). -/
  | vctz (w : LaneWord)
  /-- Reverses the bit order of a lane pattern (R116). -/
  | vbrev (w : LaneWord)
  /-- Reverses the byte order of a lane pattern (R116). -/
  | vbswap (w : LaneWord)
  /-- Extracts a bit field by position and length with extension (R117). -/
  | vbext (w : LaneWord)
  /-- Inserts a bit field into the destination register (R117). -/
  | vbins (w : LaneWord)
  /-- Selects between two operands by a predicate per lane (R118). -/
  | vsel (w : LaneWord)
  /-- Moves a register or immediate pattern into lanes (R118). -/
  | vmov (w : LaneWord)
  /-- Writes a predicate with integer equality (R119). -/
  | vcmpeq (w : LaneWord)
  /-- Writes a predicate with integer inequality (R119). -/
  | vcmpne (w : LaneWord)
  /-- Writes a predicate with integer less-than (R119). -/
  | vcmplt (w : LaneWord)
  /-- Writes a predicate with integer less-or-equal (R119). -/
  | vcmple (w : LaneWord)
  /-- Writes a predicate with integer greater-than (R119). -/
  | vcmpgt (w : LaneWord)
  /-- Writes a predicate with integer greater-or-equal (R119). -/
  | vcmpge (w : LaneWord)
  /-- Writes a predicate set where (A AND B) is non-zero (R119). -/
  | vtst (w : LaneWord)
  /-- Sign-extends from a selected bit (R118). -/
  | vsext (w : LaneWord)
  /-- Zero-extends from a selected bit (R118). -/
  | vzext (w : LaneWord)
  /-- Integer floor of log2 of the magnitude (R116). -/
  | vilog2 (w : LaneWord)
  /-- Byte permutation from an 8-byte pool of two registers (R116). -/
  | vperm (w : LaneWord)
  /-- 32-bit add with carry in and carry out through a predicate (R115). -/
  | vaddc (w : LaneWord)
  /-- 32-bit subtract with borrow in and out through a predicate (R115). -/
  | vsubc (w : LaneWord)
  /-- Saturating integer multiply per active lane (R114). -/
  | vmuls (w : LaneWord)
  /-- Four-byte dot product with optional accumulate (R115). -/
  | vdot4 (w : LaneWord)
  /-- Packed 16-bit add per half (R120). -/
  | hadd (w : LaneWord)
  /-- Packed 16-bit saturating add (R120). -/
  | hadds (w : LaneWord)
  /-- Packed 16-bit subtract (R120). -/
  | hsub (w : LaneWord)
  /-- Packed 16-bit saturating subtract (R120). -/
  | hsubs (w : LaneWord)
  /-- Packed 16-bit minimum (R120). -/
  | hmin (w : LaneWord)
  /-- Packed 16-bit maximum (R120). -/
  | hmax (w : LaneWord)
  /-- Packed 16-bit average rounding up or down (R120). -/
  | havg (w : LaneWord)
  /-- Packed 16-bit absolute difference (R120). -/
  | habsd (w : LaneWord)
  /-- Packed 16-bit saturating absolute difference (R120). -/
  | habsds (w : LaneWord)
  /-- Packed 16-bit multiply, low bits (R120). -/
  | hmul (w : LaneWord)
  /-- Packed 16-bit saturating multiply (R120). -/
  | hmuls (w : LaneWord)
  /-- Packed 16-bit left shift (R120). -/
  | hshl (w : LaneWord)
  /-- Packed 16-bit right shift (R120). -/
  | hshr (w : LaneWord)
  /-- Two-element 16-bit dot product modulo 2^32 (R120). -/
  | hdot2 (w : LaneWord)
  /-- Two-element 16-bit dot product saturated to INT32 (R120). -/
  | hdot2s (w : LaneWord)
  /-- Sum of absolute differences of two halves (R120). -/
  | hsad (w : LaneWord)
  /-- Packs the low halves of two registers (R120). -/
  | hpack (w : LaneWord)
  /-- Packs two 32-bit values with 16-bit saturation (R120). -/
  | hpacks (w : LaneWord)
  /-- Unpacks two halves into a register pair with extension (R120). -/
  | hunpk (w : LaneWord)
  /-- Packs four 16-bit halves into bytes with saturation (R120). -/
  | hpk8 (w : LaneWord)
  /-- Unpacks a wave-wide packed-pixel stream chunk into packed INT16 lanes (R121). -/
  | sunpk (w : LaneWord)
  /-- Packs packed INT16 lanes into a packed-pixel stream chunk (R121). -/
  | spack (w : LaneWord)
  /-- Floating-point add with static rounding (R126). -/
  | vfadd (w : LaneWord)
  /-- Floating-point subtract (R126). -/
  | vfsub (w : LaneWord)
  /-- Floating-point multiply (R126). -/
  | vfmul (w : LaneWord)
  /-- Fused multiply-add rounded once (R126). -/
  | vffma (w : LaneWord)
  /-- Fused multiply-subtract (R126). -/
  | vffms (w : LaneWord)
  /-- Fused negated multiply-add (R126). -/
  | vffnma (w : LaneWord)
  /-- Fused negated multiply-subtract (R126). -/
  | vffnms (w : LaneWord)
  /-- Floating minimum ignoring a single NaN (R127). -/
  | vfmin (w : LaneWord)
  /-- Floating maximum ignoring a single NaN (R127). -/
  | vfmax (w : LaneWord)
  /-- Floating minimum propagating NaN (R127). -/
  | vfminx (w : LaneWord)
  /-- Floating maximum propagating NaN (R127). -/
  | vfmaxx (w : LaneWord)
  /-- Clears the sign of a floating value (R128). -/
  | vfabs (w : LaneWord)
  /-- Inverts the sign of a floating value (R128). -/
  | vfneg (w : LaneWord)
  /-- Takes the sign of b (R128). -/
  | vfsgnj (w : LaneWord)
  /-- Takes the inverse of b's sign (R128). -/
  | vfsgnjn (w : LaneWord)
  /-- Takes the XOR of both signs (R128). -/
  | vfsgnjx (w : LaneWord)
  /-- Ordered equal floating compare into a predicate (R129). -/
  | vfcmpeq (w : LaneWord)
  /-- Unordered or not-equal floating compare (R129). -/
  | vfcmpne (w : LaneWord)
  /-- Ordered less-than floating compare (R129). -/
  | vfcmplt (w : LaneWord)
  /-- Ordered less-or-equal floating compare (R129). -/
  | vfcmple (w : LaneWord)
  /-- Ordered greater-than floating compare (R129). -/
  | vfcmpgt (w : LaneWord)
  /-- Ordered greater-or-equal floating compare (R129). -/
  | vfcmpge (w : LaneWord)
  /-- Unordered floating compare (R129). -/
  | vfcmpun (w : LaneWord)
  /-- Writes a one-hot class mask of a floating value (R129). -/
  | vfclass (w : LaneWord)
  /-- Correctly rounded reciprocal, long-latency (R130). -/
  | vfrcp (w : LaneWord)
  /-- Correctly rounded reciprocal square root (R130). -/
  | vfrsq (w : LaneWord)
  /-- Correctly rounded square root (R130). -/
  | vfsqrt (w : LaneWord)
  /-- Correctly rounded division (R130). -/
  | vfdiv (w : LaneWord)
  /-- Faithful FP32 base-2 exponential (R131). -/
  | vfexp2 (w : LaneWord)
  /-- Faithful FP32 base-2 logarithm (R131). -/
  | vflog2 (w : LaneWord)
  /-- Faithful FP32 sin(pi*a) (R131). -/
  | vfsin (w : LaneWord)
  /-- Faithful FP32 cos(pi*a) (R131). -/
  | vfcos (w : LaneWord)
  /-- Scales a floating value by a power of two (R126). -/
  | vfscale (w : LaneWord)
  /-- Rounds to an integral floating value (R126). -/
  | vfrint (w : LaneWord)
  /-- Converts between floating and binary8 formats with element selectors (R135). -/
  | vcvtf (w : LaneWord)
  /-- Converts floating to integer by RoundNarrow (R135). -/
  | vcvtfi (w : LaneWord)
  /-- Converts integer to floating (R135). -/
  | vcvtif (w : LaneWord)
  /-- Converts between integer types (R135). -/
  | vcvtii (w : LaneWord)
  /-- Unpacks eight 4-bit elements into a register group (R136). -/
  | vunpk4 (w : LaneWord)
  /-- Packs eight elements into 4-bit codes with narrowing (R136). -/
  | vpk4 (w : LaneWord)
  /-- Narrows two FP32 values into a packed 16-bit pair (R135). -/
  | vpk2 (w : LaneWord)
  /-- Widens a packed 16-bit pair into two FP32 registers (R135). -/
  | vunp2 (w : LaneWord)
  /-- Narrows four FP32 values into binary8 bytes (R135). -/
  | vpk8 (w : LaneWord)
  /-- Widens four binary8 bytes to FP32 (R135). -/
  | vunp8 (w : LaneWord)
  /-- Converts INT32 fixed point to floating (R135). -/
  | vcvtxf (w : LaneWord)
  /-- Converts floating to INT32 fixed point (R135). -/
  | vcvtfx (w : LaneWord)
  /-- ANDs two predicates (R151). -/
  | pand (w : LaneWord)
  /-- ORs two predicates (R151). -/
  | por (w : LaneWord)
  /-- XORs two predicates (R151). -/
  | pxor (w : LaneWord)
  /-- ANDs a predicate with the complement of another (R151). -/
  | pandn (w : LaneWord)
  /-- Complements a predicate (R151). -/
  | pnot (w : LaneWord)
  /-- Sets a predicate in the lowest active lane only (R151). -/
  | pfirst (w : LaneWord)
  /-- Copies a predicate into a mask register (R151). -/
  | mfromp (w : LaneWord)
  /-- Copies a mask register into a predicate (R151). -/
  | pfromm (w : LaneWord)
  /-- Copies the active mask into a mask register (R151). -/
  | mgeta (w : LaneWord)
  /-- Sets the active mask from a mask register (R151). -/
  | mseta (w : LaneWord)
  /-- Collects a predicate over active lanes into an x register (R152). -/
  | vballot (w : LaneWord)
  /-- Sets a predicate from the bits of an x register (R152). -/
  | pfromx (w : LaneWord)
  /-- Computes a vote over a predicate into an x register (R152). -/
  | vvote (w : LaneWord)
  /-- Reads one lane's value into an x register (R153). -/
  | vrdlane (w : LaneWord)
  /-- Broadcasts an x register to the active lanes (R151). -/
  | vbcast (w : LaneWord)
  /-- Permutes values between lanes within segments (R153). -/
  | vlperm (w : LaneWord)
  /-- Reduces active lanes in ascending order and writes each active lane (R154). -/
  | vred (w : LaneWord)
  /-- Reduces active lanes into an x register (R154). -/
  | vredx (w : LaneWord)
  /-- Inclusive or exclusive scan over active lanes (R154). -/
  | vscan (w : LaneWord)
  /-- Sets a predicate where another active lane holds the same pattern (R151). -/
  | vmatch (w : LaneWord)
  /-- Writes each lane's index (R151). -/
  | vlaneid (w : LaneWord)
  /-- Writes the count of lower active lanes with the predicate set (R151). -/
  | vprank (w : LaneWord)
  /-- Loads per active lane from global memory through the load/store path (R230). -/
  | vldGlobal (w : LaneWord)
  /-- Stores per active lane to global memory (R230). -/
  | vstGlobal (w : LaneWord)
  /-- Loads per active lane from a tile of the own scratchpad (R230). -/
  | vldScratchpad (w : LaneWord)
  /-- Stores per active lane to a tile of the own scratchpad (R230). -/
  | vstScratchpad (w : LaneWord)
  /-- Loads through a cluster-window address (R230). -/
  | vldWindow (w : LaneWord)
  /-- Stores through a cluster-window address (R230). -/
  | vstWindow (w : LaneWord)
  /-- Loads through the constant path (R234). -/
  | vldc (w : LaneWord)
  /-- Samples an image described by a descriptor with filtering and edge modes (R237). -/
  | vsmp (w : LaneWord)
  /-- Prefetches lines into lane L1 or home L2 with no architectural effect (R235). -/
  | vpf (w : LaneWord)
  /-- Per-lane atomic operation on global memory (R240). -/
  | vamoGlobal (w : LaneWord)
  /-- Per-lane atomic operation on a scratchpad tile (R240). -/
  | vamoScratchpad (w : LaneWord)
  /-- Per-lane atomic operation through a window address (R240). -/
  | vamoWindow (w : LaneWord)
  /-- Per-lane compare-and-swap on global memory (R240). -/
  | vcasGlobal (w : LaneWord)
  /-- Per-lane compare-and-swap on a scratchpad tile (R240). -/
  | vcasScratchpad (w : LaneWord)
  /-- Per-lane compare-and-swap through a window address (R240). -/
  | vcasWindow (w : LaneWord)
  /-- Takes a lock word if free and raises the lock-holder count (R241). -/
  | amoLock (w : LaneWord)
  /-- Releases a lock word and lowers the lock-holder count (R241). -/
  | amoUnlk (w : LaneWord)
  /-- Hart load from a cluster scratchpad through a window address (R232). -/
  | xld (w : LaneWord)
  /-- Hart store to a cluster scratchpad through a window address (R232). -/
  | xst (w : LaneWord)
  /-- Loads accumulator tile elements into lanes (R233). -/
  | vldAccumulator (w : LaneWord)
  /-- Stores lane values into accumulator tile elements (R233). -/
  | vstAccumulator (w : LaneWord)
  /-- Consumes channel message elements from a receive ring into lanes (R292). -/
  | chRecv (w : LaneWord)
  /-- Copies granules from a scratchpad tile into an operand reservation (R256). -/
  | mld (w : LaneWord)
  /-- Multiplies two operand reservations into an accumulator tile through the sequencer (R258). -/
  | mma (w : LaneWord)
  /-- Multiplies with a cascade B reservation and hands the half to the next team core (R261). -/
  | mmac (w : LaneWord)
  /-- Copies an accumulator tile raw to a scratchpad tile (R264). -/
  | accSt (w : LaneWord)
  /-- Takes and zeroes free accumulator tiles for the wave (R263). -/
  | accTake (w : LaneWord)
  /-- Releases held accumulator tiles once no word uses them (R263). -/
  | accRel (w : LaneWord)
  /-- Zeroes held accumulator tiles (R263). -/
  | accClr (w : LaneWord)
  /-- Copies a scratchpad tile region into an accumulator tile (R264). -/
  | accLd (w : LaneWord)
  /-- Converts every accumulator element and writes them packed to a tile (R265). -/
  | accCvt (w : LaneWord)
  /-- Counts 4-bit operand pairs by exact product into a bank of every cell (R367). -/
  | cntAcc (w : LaneWord)
  /-- Adds k1 into k0 with saturation and clears k1 (R369). -/
  | cntMrg (w : LaneWord)
  /-- Drains a bank into an accumulator quadrant with optional scales (R370). -/
  | cntDrn (w : LaneWord)
  /-- Writes a bank image of every cell to a tile (R371). -/
  | cntSpl (w : LaneWord)
  /-- Loads a bank image from a tile and ORs overflow flags (R371). -/
  | cntFil (w : LaneWord)
  /-- Executes a lane part and a guarded scalar part issued as one 128-bit word (R71). -/
  | pairedWord (major : BitVec 8) (w : LaneWord) (all : Bool) (scalar : Rv)
  /-- Allocates a plain tile in the team window, optionally zeroed and checked (R317). -/
  | tileAlloc (checked zero : Bool) (a d : BitVec 5)
  /-- Vacates a plain tile or a ring with its members (R318). -/
  | tileFree (a d : BitVec 5)
  /-- Waits for a tile or ring read slot to be ready and acquires it (R319). -/
  | tileAwait (a d : BitVec 5)
  /-- Releases a tile or ring read slot, optionally with write-back (R320). -/
  | tileRel (writeBack : Bool) (a d : BitVec 5)
  /-- Returns word 0 of a tile table entry without waiting (R321). -/
  | tileState (a d : BitVec 5)
  /-- Attaches a named segment on the own core, refilling or waiting as needed (R327). -/
  | segAtt (m : BitVec 2) (b a d : BitVec 5)
  /-- Detaches the team's attachment as a team-scope release (R328). -/
  | segDet (a d : BitVec 5)
  /-- Detaches with a device-scope release and advances the generation (R328). -/
  | segDetRel (a d : BitVec 5)
  /-- Turns team tiles into a named-transient segment (R329). -/
  | segName (b a d : BitVec 5)
  /-- Marks an attached segment pinned within the domain quota (R330). -/
  | segPin (a d : BitVec 5)
  /-- Marks an attached segment transient (R330). -/
  | segUnpin (a d : BitVec 5)
  /-- Evicts a detached transient segment and waits for the write-back (R330). -/
  | segEvict (a d : BitVec 5)
  /-- Frees a detached transient segment without write-back (R330). -/
  | segEvictDrop (a d : BitVec 5)
  /-- Posts a copy entry to a copy command ring and publishes it (R278). -/
  | cpyPost (b a d : BitVec 5)
  /-- Posts a decompression entry to a decompression ring and publishes it (R278). -/
  | dczPost (b a d : BitVec 5)
  /-- Copies a message into the send unit for a channel to a receive ring (R290). -/
  | chSend (b a d : BitVec 5)
  /-- Writes an NVMe submission-queue tail doorbell after a system fence (R295). -/
  | sqRing (b a d : BitVec 5)
  /-- Writes an NVMe completion-queue head doorbell after a system fence (R295). -/
  | sqRingCq (b a d : BitVec 5)
  /-- Sets a barrier's expected arrivals when no wave waits and no engine arrival is pending (R359). -/
  | barInit (n a : BitVec 5)
  /-- Arrives at a team barrier and returns the arrival's phase (R359). -/
  | barArrive (n d : BitVec 5)
  /-- Waits until a barrier phase completes, then acquires (R359). -/
  | barWait (n a : BitVec 5)
  /-- Revokes a barrier and sends cause 49 to its waiters (R361). -/
  | barInv (n : BitVec 5)
  /-- Release and acquire fence at a scope, with L1 write-back and drains at wide scopes (R244). -/
  | fenceScope (s : BitVec 3)
  /-- Fences the named cache paths of the issuing core for the domain (R214). -/
  | pfence (p : BitVec 5)
  /-- Waits until a location holds a value other than the expected one, or a limit passes (R245). -/
  | waita (s : BitVec 3) (b a d : BitVec 5)
  /-- Hands out the next range of a cluster iteration counter (R374). -/
  | chunk (a d : BitVec 5)
  /-- Arrives and waits at a barrier, then gives every elect participant the result of one wave's prefixed word (R75). -/
  | elect (n : BitVec 5)
  /-- Calls into another domain through a gate, stashing lane registers and writing a frame (R346). -/
  | gateCall (b a : BitVec 5)
  /-- Returns from a gate call, scrubbing callee state and restoring the caller (R347). -/
  | gateRet
  /-- Returns domain, region, gate, slot or bank information by selector (R348). -/
  | domQuery (a d : BitVec 5)
  /-- Retires the wave after its outstanding operations complete (R167). -/
  | waveEnd
  /-- Gives up the wave's next own turn for lending (R168). -/
  | yield
  /-- Reserves and zeroes operand-buffer granules under a reservation record (R254). -/
  | obRsv (n : BitVec 3) (b a d : BitVec 5)
  /-- Releases an operand reservation once no word or delivery uses it (R254). -/
  | obRel (n : BitVec 3) (d : BitVec 5)
  /-- Reserves the counting array with a pair format and zeroes it (R365). -/
  | cntRsv (a d : BitVec 5)
  /-- Releases the counting array once no counting word is incomplete (R365). -/
  | cntRsvRel (d : BitVec 5)
  /-- Clears the named counting banks and all overflow flags (R365). -/
  | cntClr (k : BitVec 3)
  /-- Pushes the mask and narrows the active mask by a predicate, skipping when empty (R143). -/
  | maskIf (off : BitVec 13) (neg : Bool) (q : BitVec 4)
  /-- Activates the saved lanes not active at the else (R143). -/
  | maskElse (off : BitVec 13)
  /-- Restores the mask from a MASK entry and pops it (R143). -/
  | maskEndif
  /-- Pushes the active mask, optionally narrowing by a mask register (R144). -/
  | mpush (n : BitVec 5)
  /-- Pops a MASK entry or resumes deferred lanes of a PEND entry (R144). -/
  | mpop
  /-- Discards the top mask stack entry of any kind (R144). -/
  | mpopD
  /-- Opens a per-lane trip-count loop or ends an iteration of it (R146). -/
  | loopL (off : BitVec 13) (n : BitVec 5)
  /-- Removes lanes from the innermost loop (R147). -/
  | brkL (off : BitVec 13) (neg : Bool) (q : BitVec 4)
  /-- Ends the current iteration for selected lanes (R147). -/
  | contL (off : BitVec 13) (neg : Bool) (q : BitVec 4)
  /-- Calls per-lane targets one group at a time, pushing CALL and PEND entries (R148). -/
  | callL (b a : BitVec 5)
  /-- Jumps to per-lane targets with deferral of other groups (R149). -/
  | jmpL (b a : BitVec 5)
  /-- Returns from a divergent call through a CALL entry (R148). -/
  | retL
  /-- Retired form: product of the upper halfwords of the low words, via the compatibility unit (R76). -/
  | lmulhh (b a d : BitVec 5)
  /-- Retired form: adds the four unsigned halfwords of rs1 to rs2 (R76). -/
  | lsumh (b a d : BitVec 5)
  /-- Retired form: signed range test against packed bounds (R76). -/
  | linrng (b a d : BitVec 5)
  /-- Retired form: signed saturation to n bits (R76). -/
  | lsatw (b a d : BitVec 5)
  /-- Retired form: reverses the halfword order (R76). -/
  | lrevh (a d : BitVec 5)
  /-- Retired form: inserts a byte into rd at a selected position (R76). -/
  | linsb (b a d : BitVec 5)
  /-- Raises the environment-call cause of the current mode (R169). -/
  | ecall
  /-- Returns from an M-mode trap and restores the active mask (R157). -/
  | mret
  /-- Returns from an S-mode trap and restores the active mask (R157). -/
  | sret
  /-- Orders the wave's own stores before its later fetches (R215). -/
  | fenceI (rd rs1 : BitVec 5) (imm : BitVec 12)
  /-- Executes as a no-operation (R90). -/
  | wfi
  /-- Executes any other RV64IMAFD scalar word as the ratified specifications and the device's fixed points define (R90). -/
  | riscvScalarInstruction (i : Rv)
  /-- A long-latency instruction completes, writes its results and ORs its flags into nround (R138). -/
  | longLatencyCompletion
  /-- A fetched 32-byte block arrives and the waiting word may issue at the next own turn (R19). -/
  | fetchBlockArrival
  /-- The slot's turn count reaches sturncmp and sets mip.STIP (R97). -/
  | slotTimerExpiry
  /-- A tile wait lasts LIMIT+1 own turns and ends with cause 52 (R97). -/
  | tileWaitTimeout
  /-- A pending enabled interrupt is taken at the wave's own turn, ending certain waits (R161). -/
  | interruptTaken
  /-- A deferred cause 31, 55 or 57 becomes due and is taken at the wave's own turn (R159). -/
  | deferredCauseTaken
  /-- The register-miss micro-trap finishes loading an absent block or tile from the save area (R107). -/
  | registerMissLoadComplete
  /-- A write of SCTL.PRQ requests pre-emption of a bound slot (R305). -/
  | preemptionRequest
  /-- A write of PRDOM.GO requests pre-emption of every bound slot of a domain on the core (R305). -/
  | domainPreemptionRequest
  /-- A pending pre-emption request is acted on at the slot's own turn and the slot starts handing over (R173). -/
  | handoverBegin
  /-- The reclaim grace of a deferred lock holder passes and the request is acted on (R172). -/
  | reclaimGraceExpiry
  /-- An engine stops a command of the handed-over wave at its unit and acknowledges the collector (R173). -/
  | engineStopAck
  /-- Context stores and engine acknowledgements are complete and the slot becomes free (R173). -/
  | handoverComplete
  /-- The last outstanding operation of a retiring wave completes and its slot becomes free (R167). -/
  | waveRetireComplete
  /-- Dispatch acts on a new-wave bind record and binds all N waves or none (R302). -/
  | newWaveBind
  /-- Dispatch acts on a restore record and rebinds one saved wave (R303). -/
  | restoreBind
  /-- Firmware writes a cluster team table entry, and making it live initialises the team's barriers (R306). -/
  | teamTableEntryWrite
  /-- Firmware writes domain partition registers, with illegal parts ignored and moved banks or regions zeroed (R336). -/
  | domainPartitionWrite
  /-- A translation station receives an off-core request and translates it or allocates a miss (R194). -/
  | stationTranslate
  /-- A page walk completes and serves or fails every request it coalesced (R196). -/
  | stationWalkComplete
  /-- A park or segment fault record is appended to the cluster fault ring once room exists (R411). -/
  | faultRingAppend
  /-- Firmware resolves a park with Resume, reissuing the word or retrying the held request (R164). -/
  | parkResume
  /-- Firmware resolves a park with Deliver, taking the cause as a trap (R164). -/
  | parkDeliver
  /-- Firmware resolves a park with Retire, retiring the wave (R164). -/
  | parkRetire
  /-- The hub processes a kind-0 invalidation descriptor for a page range of a PASID (R199). -/
  | invPageRange
  /-- The hub processes a kind-1 invalidation descriptor for a whole PASID (R199). -/
  | invWholePasid
  /-- The hub processes a kind-2 invalidation descriptor for a host tag (R199). -/
  | invHostTag
  /-- The hub processes a kind-3 descriptor invalidating everything and applying new context-table registers (R199). -/
  | invEverything
  /-- A station acknowledges an invalidation; the 64th acknowledgement writes completion and advances HEAD (R199). -/
  | stationInvAck
  /-- A recorded core receives a drain request and writes back lines dirty at or before the epoch (R188). -/
  | releaseDirectoryDrain
  /-- A drain acknowledgement arrives; the last one clears the entry and completes the acquire (R188). -/
  | drainAck
  /-- The remote service slot executes the next active message from its inbound queue (R28). -/
  | activeMessageService
  /-- An active message's acknowledgement reaches its sender with a value or a fault (R219). -/
  | activeMessageAck
  /-- A 4-byte write to a notify page sets the interface's latch (R268). -/
  | notifyWrite
  /-- The front end takes a pending latch of a running interface and computes the packets to accept (R268). -/
  | latchTake
  /-- The front end reads, validates and journals one packet and advances HEAD (R275). -/
  | packetAccept
  /-- A LAUNCH command is handed to firmware to place and bind a grid (R270). -/
  | launchPacket
  /-- A SIGNAL command completes once every earlier command has completed (R270). -/
  | signalPacket
  /-- A WAIT command holds later commands until a word reaches a value (R270). -/
  | waitPacket
  /-- The WAIT word reaches the value and later commands may start (R270). -/
  | waitSatisfied
  /-- A QUIESCE command takes a quiesce point and applies its placement hints (R220). -/
  | quiescePacket
  /-- A NOP command completes with status 0 (R270). -/
  | nopPacket
  /-- A command completes with its status, completion store, COMPLETE record and optional vector (R272). -/
  | commandCompletion
  /-- QCFG.EN written 1 moves a disabled interface to running (R269). -/
  | queueEnable
  /-- QCFG.EN written 0 moves an interface to disabled (R269). -/
  | queueDisable
  /-- The restarted firmware column re-reads HEAD and latches and reopens intake (R276). -/
  | firmwareIntakeReopen
  /-- The count of host requests routed with the old home reaches zero and the forwarding entry closes (R221). -/
  | forwardWindowClose
  /-- A wave's plain store to a ring's WIDX publishes entries and notifies the engine dispatcher (R278). -/
  | widxStorePublish
  /-- A bound engine starts the next posted entry of a ring and reads its layout record (R282). -/
  | engineCommandStart
  /-- An engine finishes a granule, charges budget and chooses the next command to run (R288). -/
  | engineGranuleBoundary
  /-- A copy command completes or fails and writes its completion record (R281). -/
  | copyCompletion
  /-- A decompression command completes or fails and writes its completion record (R285). -/
  | decompressionCompletion
  /-- A draining segment tile's write-back completes or faults (R315). -/
  | tileWritebackComplete
  /-- Every tile of a refilling segment is ready and the pending attach returns (R324). -/
  | segmentRefillComplete
  /-- An evicting segment's write-back completes and it becomes absent or starts refilling (R324). -/
  | segmentEvictionComplete
  /-- Firmware starts the eviction of a detached named-transient segment (R324). -/
  | firmwareSegmentEviction
  /-- A receiver decides admission of a channel message at its head flit (R291). -/
  | messageAdmission
  /-- The tail flit writes the record and advances WR as a release (R291). -/
  | messageTailFlit
  /-- The send unit's backoff expires and a refused message is retried (R291). -/
  | channelSendRetry
  /-- A reset of the sending core aborts a message in flight and the receiver releases its reservation (R291). -/
  | messageAbort
  /-- The compatibility unit serves the next queued legacy request and returns its result (R296). -/
  | compatRequestService
  /-- The sequencer completes one K-block step of a tile-level word (R258). -/
  | sequencerKblockComplete
  /-- A cascade hand-off is delivered into the destination reservation's incoming half (R261). -/
  | cascadeArrival
  /-- A cascade reservation with CVALID 0 and IVALID 1 swaps halves (R261). -/
  | cascadeSwap
  /-- A write to the watched line or 64 own turns wake waita to read the location again (R245). -/
  | waitaRecheck
  /-- A write to DBADD adds units to a domain's budget, saturating at CAP (R375). -/
  | budgetAdd
  /-- A domain's residue reaches 1,024 occupied own turns and one unit is charged (R376). -/
  | coreBudgetCharge
  /-- A write of QT2B.INV drops a function's cached stage-1 entries (R351). -/
  | stage1Invalidate
  /-- Clearing MASK of a remapping entry with PEND sends its message once (R352). -/
  | irtMaskClear
  /-- A host CXL.mem read is served at the line's home (R388). -/
  | hostCxlMemRead
  /-- A host CXL.mem write is performed at its home before completion (R389). -/
  | hostCxlMemWrite
  /-- A host AtomicOp through the alias window is performed as a seq_cst atomic at the home (R389). -/
  | hostAtomicop
  /-- A CXL.io read or write through BAR2 or BAR4 is performed or failed (R389). -/
  | hostCxlioRequest
  /-- A peer device's request arrives and is performed at the home L2 or aborted (R394). -/
  | peerRequest
  /-- Every rank has started its entry for an instance and the collective moves data (R397). -/
  | collectiveInstanceStart
  /-- A rank's collective entry completes or fails with its completion release (R398). -/
  | collectiveCompletion
  /-- CUTCTL.GO starts a consistent cut of the job domains (R400). -/
  | cutGo
  /-- A cut marker from a JOB peer arrives, possibly moving the device to ready (R400). -/
  | cutMarkerArrival
  /-- CUTCTL.RESUME reopens acceptance and returns the device to idle (R400). -/
  | cutResume
  /-- The management core lowers or raises the arithmetic clock step at a rotation boundary (R404). -/
  | clockStepChange
  /-- At the critical temperature every core stops issuing as a fatal error (R404). -/
  | criticalTemperatureStop
  /-- An uncorrectable die-to-die link failure stops every core (R383). -/
  | dieLinkFatalError
  /-- Device reset zeroes measurements and restarts the boot chain (R407). -/
  | deviceReset
  /-- The boot ROM checks and measures the first stage and jumps to it (R406). -/
  | bootRomStage
  /-- The first stage loads, checks and measures the images and configures the device (R406). -/
  | firstStageBoot
  /-- Background scrubbing corrects a single-bit error in place (R201). -/
  | scrubCorrection
  /-- SPDM GET_VERSION is answered with version 1.3 (R408). -/
  | getVersion
  /-- SPDM GET_CAPABILITIES is answered with the certificate, challenge and measurement capabilities (R408). -/
  | getCapabilities
  /-- SPDM NEGOTIATE_ALGORITHMS is answered with Ed448 and SHA3-512 (R408). -/
  | negotiateAlgorithms
  /-- SPDM GET_DIGESTS for certificate slot 0 (R408). -/
  | getDigests
  /-- SPDM GET_CERTIFICATE for certificate slot 0 (R408). -/
  | getCertificate
  /-- SPDM CHALLENGE answered with an Ed448 signature over the transcript (R408). -/
  | challenge
  /-- SPDM GET_MEASUREMENTS returns the measurement registers (R408). -/
  | getMeasurements
  /-- Any other SPDM request receives ERROR UnsupportedRequest (R408). -/
  | spdmUnsupportedRequest
  /-- Management request that disables, retires, fails, frees and zeroes everything of a domain (R417). -/
  | domainReset
  /-- Management request that moves one queue interface to disabled (R413). -/
  | queueReset
  /-- Management request that writes bytes into the image slot not in use (R413). -/
  | imageWrite
  /-- Activates new management firmware by restarting the management core alone (R414). -/
  | activateManagementFirmware
  /-- Activates new column firmware by handing over to the standby cores (R415). -/
  | activateColumnFirmware
  /-- Activates new engine microcode, reloading one engine at a time between commands (R416). -/
  | activateEngineMicrocode
  /-- Management request that takes a program core out of service and moves its work (R418). -/
  | spare
  /-- Management request that checks digests and relaunches a recorded launch in another domain (R420). -/
  | replay
  /-- A write to a register without behaviour of its own stores the value under its access codes (R9). -/
  | registerWrite
  /-- A reserved or illegal word, such as an unassigned lane major or custom op, reaches issue and raises cause 2 (R60). -/
  | illegalInstruction
  /-- A reset of one core clears its channel endpoints and send unit, aborts its messages in flight and aborts its engine
  commands with ECODE 5 (R291). -/
  | coreReset
  /-- A CXL memory expander removed while the device runs makes its second-tier range unpopulated (R385). -/
  | memoryExpanderRemoval
  /-- The host snoops or claims a host-memory line held in a hub coherence cache, which CXL.cache keeps coherent (R391). -/
  | hostCxlCacheRequest
  /-- A CXL port's link goes down, trains or retrains, and PORTST reports its new width and speed (R387). -/
  | linkTraining
deriving DecidableEq, Repr

end Sys2Proof
end

