-- ==== Sys2Proof/Machine/Forms.lean ====
section
/-! DEFINITION. The formats of the lane words: which lengths, types, fields and modifiers each major opcode accepts,
and which registers and objects its fields name (R65 to R70, R112, R113 and the table of each family). -/

namespace Sys2Proof.Machine

/-- What a field of a lane word names (R65). -/
inductive OpKind | v | p | m | x | acc | resv | half | bank | tile | amask | nround
deriving DecidableEq, Repr

/-- An operand of a lane word: a run of `cnt` items from `idx`, and whether the word reads and writes it. -/
structure Operand where
  kind : OpKind
  idx : Nat
  cnt : Nat := 1
  rd : Bool := true
  wr : Bool := false
deriving DecidableEq, Repr

/-- Lengths code of R113, and 96t of R133. -/
inductive LenCode | only64 | imm96a | imm96b | c96 | a96 | t96
deriving DecidableEq, Repr

/-- How a register field is used: not at all (it must be zero), one element of the word's type, one 32-bit register,
an even pair, a group of `n` registers starting at a multiple of `n`, a predicate, a mask register or an x register. -/
inductive FieldUse | none | elt | one | pair | group (n : Nat) | pred | mreg | xreg
deriving DecidableEq, Repr

/-- A row of a family's table: lengths, accepted type codes, the use of vd, va, vb and vc, whether vd is also a source,
and the func bits the row defines. -/
structure LaneRow where
  len : LenCode
  types : List Nat
  d : FieldUse
  a : FieldUse
  b : FieldUse := .none
  c : FieldUse := .none
  dRead : Bool := false
  func : BitVec 8 := 0
deriving DecidableEq, Repr

/-- Major opcode of the immediate form: the word has a 96-bit form, or a 128-bit form with a non-zero immediate (R113). -/
def immForm (w : LaneWord) : Bool := w.len = 1 || (w.len = 2 && w.imm ≠ 0)

/-- The immediate stands for an operand of the word: its row has an immediate form, and the word is in it (R113). -/
def takesImm (row : Option LaneRow) (w : LaneWord) : Bool :=
  immForm w &&
    (match row with
      | some r => r.len = .imm96a || r.len = .imm96b
      | none => false)

/-- The index in the vc field, bits 71:64. -/
def vcOf (w : LaneWord) : Nat := bits w.imm.toNat 7 0

/-- Integer element width of a type code 0x0 to 0x7 (R66); 32 for the untyped form. -/
def intWidth (ty : Nat) : Nat := if ty < 8 then 8 <<< (ty % 4) else 32

/-- The type codes 0x0 to 0x3 are signed (R66). -/
def intSigned (ty : Nat) : Bool := ty < 4

/-- Whether an element of the type takes a register pair. -/
def isWide (ty : Nat) : Bool := ty = 3 || ty = 7 || ty = 11

/-- The operand a field names under its use, `none` where the field is illegal (R112). -/
def fieldOperand (u : FieldUse) (ty idx : Nat) (rd wr : Bool) : Option (List Operand) :=
  let run (n : Nat) : Option (List Operand) :=
    if idx % n = 0 then some [{ kind := .v, idx := idx, cnt := n, rd := rd, wr := wr }] else none
  match u with
  | .none => if idx = 0 then some [] else none
  | .elt => if isWide ty then run 2 else run 1
  | .one => run 1
  | .pair => run 2
  | .group n => run n
  | .pred => if idx < 16 then some [{ kind := .p, idx := idx, rd := rd, wr := wr }] else none
  | .mreg => if 0 < idx ∧ idx < 8 then some [{ kind := .m, idx := idx, rd := rd, wr := wr }] else none
  | .xreg => if idx < 32 then some [{ kind := .x, idx := idx, rd := rd, wr := wr }] else none

/-- The lengths a code accepts, with what bits 95:64 may hold (R113, R133). `paired` tells a paired word's lane part
from an unpaired word. -/
def lenLegal (c : LenCode) (paired : Bool) (w : LaneWord) : Bool :=
  match c with
  | .only64 => w.len ≠ 1 && w.imm = 0
  | .imm96a => w.len ≠ 0 || w.imm = 0
  | .imm96b => w.len ≠ 0 || w.imm = 0
  | .c96 => w.len ≠ 0 && bits w.imm.toNat 31 8 = 0
  | .a96 =>
    if w.func.getLsbD 0 then w.len ≠ 0 && bits w.imm.toNat 31 8 = 0 else w.imm = 0
  | .t96 => w.len = 1 || (w.len = 2 && paired)

/-- The P or 4-bit kind that the type field places in func (R66), as the func bits it owns; `none` where illegal. -/
def typeFunc (ty : Nat) (func : BitVec 8) : Option (BitVec 8) :=
  if ty = 12 ∨ ty = 13 then if func &&& 7#8 = 0 then none else some 7
  else if ty = 14 then if func &&& 3#8 = 3 then none else some 3
  else some 0

/-- The operands a word names under a row; `none` where the row makes the word illegal (R67, R112, R113). -/
def rowOperands (row : LaneRow) (paired : Bool) (w : LaneWord) : Option (List Operand) := do
  let ty := w.ty.toNat
  guard (w.len ≠ 3)
  guard (lenLegal row.len paired w)
  guard (row.types.contains ty)
  let own ← typeFunc ty w.func
  guard (w.func &&& ~~~(row.func ||| own) = 0)
  let immA := row.len = .imm96a && immForm w
  let immB := row.len = .imm96b && immForm w
  let hasC := row.len = .c96 || (row.len = .a96 && w.func.getLsbD 0)
  let d ← fieldOperand row.d ty w.vd.toNat row.dRead true
  let a ← fieldOperand (if immA then .none else row.a) ty w.va.toNat true false
  let b ← fieldOperand (if immB then .none else row.b) ty w.vb.toNat true false
  let c ← if hasC then fieldOperand row.c ty (vcOf w) true false else some []
  pure (d ++ a ++ b ++ c)

/-- The integer types I of R114. -/
def tyI : List Nat := [0, 1, 2, 3, 4, 5, 6, 7]
/-- The types I32+ of R114. -/
def tyI32 : List Nat := [2, 3, 6, 7]
/-- The types L of R116: untyped, `.i64` and `.n64`. -/
def tyL : List Nat := [15, 3, 7]

/-- Rows of the lane integer and bit majors 0x00 to 0x33 (R114 to R119). -/
def intRow (major : Nat) : Option LaneRow :=
  let bin (ts : List Nat) : Option LaneRow :=
    some { len := .imm96b, types := ts, d := .elt, a := .elt, b := .elt }
  let un (ts : List Nat) : Option LaneRow := some { len := .only64, types := ts, d := .elt, a := .elt }
  let tri (ts : List Nat) : Option LaneRow :=
    some { len := .c96, types := ts, d := .elt, a := .elt, b := .elt, c := .elt }
  let cmp (ts : List Nat) : Option LaneRow :=
    some { len := .imm96b, types := ts, d := .pred, a := .elt, b := .elt }
  let cnt : Option LaneRow := some { len := .only64, types := tyI, d := .one, a := .elt }
  match major with
  | 0x00 => bin tyI | 0x01 => bin tyI | 0x02 => bin tyI | 0x03 => bin tyI | 0x04 => bin tyI | 0x05 => bin tyI
  | 0x06 => some { len := .only64, types := [2, 6], d := .pair, a := .one, b := .one }
  | 0x07 => tri tyI
  | 0x08 => some { len := .c96, types := [2, 6], d := .pair, a := .one, b := .one, c := .pair }
  | 0x09 => bin tyI | 0x0A => bin tyI
  | 0x0B => un [0, 1, 2, 3]
  | 0x0C => un tyI
  | 0x0D => bin tyI
  | 0x0E => tri tyI
  | 0x0F => bin tyL | 0x10 => bin tyL | 0x11 => bin tyL | 0x12 => bin tyL
  | 0x13 => un tyL
  | 0x14 => some { len := .c96, types := tyL, d := .elt, a := .elt, b := .elt, c := .elt, func := 0xFF }
  | 0x15 => bin tyI | 0x16 => bin tyI | 0x17 => bin tyI | 0x18 => bin tyI | 0x19 => bin tyI
  | 0x1A => some { len := .c96, types := [15], d := .one, a := .one, b := .one, c := .one }
  | 0x1B => some { len := .imm96b, types := tyI32, d := .elt, a := .elt, b := .elt, func := 7 }
  | 0x1C => cnt | 0x1D => cnt | 0x1E => cnt
  | 0x1F => un tyI
  | 0x20 => un [1, 2, 3, 5, 6, 7]
  | 0x21 => some { len := .imm96b, types := tyI, d := .elt, a := .elt, b := .one }
  | 0x22 => some { len := .imm96b, types := tyI, d := .elt, a := .elt, b := .one, dRead := true }
  | 0x23 => some { len := .imm96b, types := tyL, d := .elt, a := .elt, b := .elt, func := 0x0F }
  | 0x24 => some { len := .imm96a, types := tyL, d := .elt, a := .elt }
  | 0x25 => cmp tyI | 0x26 => cmp tyI | 0x27 => cmp tyI | 0x28 => cmp tyI | 0x29 => cmp tyI | 0x2A => cmp tyI
  | 0x2B => cmp (tyI ++ [15])
  | 0x2C => bin tyI | 0x2D => bin tyI
  | 0x2E => cnt
  | 0x2F => some { len := .c96, types := [15], d := .one, a := .one, b := .one, c := .one }
  | 0x30 => some { len := .only64, types := [6], d := .one, a := .one, b := .one, func := 0x1F }
  | 0x31 => some { len := .only64, types := [6], d := .one, a := .one, b := .one, func := 0x1F }
  | 0x32 => bin tyI
  | 0x33 => some { len := .a96, types := [0, 4], d := .one, a := .one, b := .one, c := .one, func := 1 }
  | _ => none

/-- Rows of the packed INT16 and packed pixel majors 0x40 to 0x55 (R120, R121). -/
def packedRow (major : Nat) : Option LaneRow :=
  let bin : Option LaneRow := some { len := .imm96b, types := [1, 5], d := .one, a := .one, b := .one }
  let dot : Option LaneRow :=
    some { len := .a96, types := [1, 5], d := .one, a := .one, b := .one, c := .one, func := 1 }
  match major with
  | 0x40 => bin | 0x41 => bin | 0x42 => bin | 0x43 => bin | 0x44 => bin | 0x45 => bin
  | 0x46 => some { len := .imm96b, types := [1, 5], d := .one, a := .one, b := .one, func := 1 }
  | 0x47 => bin | 0x48 => bin | 0x49 => bin | 0x4A => bin | 0x4B => bin | 0x4C => bin
  | 0x4D => dot | 0x4E => dot | 0x4F => dot
  | 0x50 => some { len := .only64, types := [15], d := .one, a := .one, b := .one }
  | 0x51 => some { len := .only64, types := [1, 5], d := .one, a := .one, b := .one }
  | 0x52 => some { len := .only64, types := [1, 5], d := .pair, a := .one }
  | 0x53 => some { len := .only64, types := [0, 4], d := .one, a := .one, b := .one }
  | 0x54 => some { len := .only64, types := [1, 5], d := .one, a := .one, func := 3 }
  | 0x55 => some { len := .only64, types := [1, 5], d := .one, a := .one, func := 7 }
  | _ => none

/-- The types F of R126. -/
def tyF : List Nat := [8, 9, 10, 11]

/-- Rows of the lane floating-point majors 0x60 to 0x81 (R124, R126, R129, R130). -/
def floatRow (major : Nat) : Option LaneRow :=
  let bin (f : BitVec 8) : Option LaneRow :=
    some { len := .imm96b, types := tyF, d := .elt, a := .elt, b := .elt, func := f }
  let reg2 (f : BitVec 8) : Option LaneRow :=
    some { len := .only64, types := tyF, d := .elt, a := .elt, b := .elt, func := f }
  let tri : Option LaneRow :=
    some { len := .c96, types := tyF, d := .elt, a := .elt, b := .elt, c := .elt, func := 7 }
  let un (ts : List Nat) (f : BitVec 8) : Option LaneRow :=
    some { len := .only64, types := ts, d := .elt, a := .elt, func := f }
  let cmp : Option LaneRow := some { len := .imm96b, types := tyF, d := .pred, a := .elt, b := .elt }
  match major with
  | 0x60 => bin 7 | 0x61 => bin 7 | 0x62 => bin 7
  | 0x63 => tri | 0x64 => tri | 0x65 => tri | 0x66 => tri
  | 0x67 => bin 4 | 0x68 => bin 4 | 0x69 => bin 4 | 0x6A => bin 4
  | 0x6B => un tyF 4 | 0x6C => un tyF 4
  | 0x6D => reg2 4 | 0x6E => reg2 4 | 0x6F => reg2 4
  | 0x70 => cmp | 0x71 => cmp | 0x72 => cmp | 0x73 => cmp | 0x74 => cmp | 0x75 => cmp | 0x76 => cmp
  | 0x77 => some { len := .only64, types := tyF, d := .one, a := .elt }
  | 0x78 => un tyF 3 | 0x79 => un tyF 3 | 0x7A => un tyF 3
  | 0x7B => bin 3
  | 0x7C => un [10] 0 | 0x7D => un [10] 0 | 0x7E => un [10] 0 | 0x7F => un [10] 0
  | 0x80 => some { len := .imm96b, types := tyF, d := .elt, a := .elt, b := .one, func := 3 }
  | 0x81 => un tyF 3
  | _ => none

/-- R124, R125: the packed form is for 16-bit types, and without it a 16-bit immediate fills bits 15:0 only. -/
def floatExtra (major : Nat) (w : LaneWord) : Bool :=
  let is16 := w.ty = 8 || w.ty = 9
  let pk := w.func.getLsbD 2
  let hasImm := immForm w && (major ≤ 0x62 || (0x67 ≤ major && major ≤ 0x6A) ||
    (0x70 ≤ major && major ≤ 0x76) || major = 0x7B || major = 0x80)
  (!pk || is16) && !(hasImm && is16 && !pk && bits w.imm.toNat 31 16 ≠ 0)

/-- Source type code STYPE of a 96t word, bits 95:92 (R133). -/
def cvtSrcTy (w : LaneWord) : Nat := bits w.imm.toNat 31 28
/-- Source element selector SSEL, bits 91:90. -/
def cvtSsel (w : LaneWord) : Nat := bits w.imm.toNat 27 26
/-- Destination element selector DSEL, bits 89:88. -/
def cvtDsel (w : LaneWord) : Nat := bits w.imm.toNat 25 24
/-- P or kind of the source, SP, bits 86:84. -/
def cvtSp (w : LaneWord) : Nat := bits w.imm.toNat 22 20

/-- Element width in bits of a type code (R66). -/
def typeWidth (ty : Nat) : Nat :=
  if ty < 8 then 8 <<< (ty % 4)
  else if ty ≤ 9 then 16
  else if ty = 10 then 32
  else if ty = 11 then 64
  else if ty ≤ 13 then 8
  else if ty = 14 then 4
  else 32

/-- A type code of FT in R135: a floating or binary8 format. -/
def isFt (ty : Nat) : Bool := 8 ≤ ty && ty ≤ 13

/-- SP is legal for the source type: P of a binary8 source, the kind of a 4-bit source, otherwise zero (R133). -/
def spLegal (sty sp : Nat) : Bool :=
  if sty = 12 ∨ sty = 13 then sp ≠ 0
  else if sty = 14 then sp < 3
  else sp = 0

/-- A selector of an 8- or 16-bit floating side is below 32/width; any other selector is zero (R133). -/
def selLegal (used : Bool) (ty sel : Nat) : Bool :=
  if used && isFt ty && typeWidth ty ≤ 16 then sel < 32 / typeWidth ty else sel = 0

/-- The operand of a conversion side: a pair for a 64-bit side, else one register. -/
def cvtOperand (ty idx : Nat) (rd wr : Bool) : Option (List Operand) :=
  fieldOperand (if isWide ty then .pair else .one) ty idx rd wr

/-- The formats of the 96t conversions 0x90 to 0x95 (R133 to R136). -/
def cvtOperands (major : Nat) (paired : Bool) (w : LaneWord) : Option (List Operand) := do
  let d := w.ty.toNat
  let s := cvtSrcTy w
  guard (w.len ≠ 3 ∧ lenLegal .t96 paired w)
  guard (bits w.imm.toNat 23 23 = 0 ∧ bits w.imm.toNat 19 0 = 0 ∧ w.vb = 0)
  guard (spLegal s (cvtSp w))
  let own ← typeFunc d w.func
  guard (w.func &&& ~~~own = 0)
  let same := d = s ∧ (d < 12 ∨ (w.func.toNat = cvtSp w))
  let dsel := isFt d && typeWidth d ≤ 16 && (major = 0x90 || major = 0x92)
  guard (selLegal (major = 0x90 || major = 0x91) s (cvtSsel w))
  guard (selLegal (major = 0x90 || major = 0x92) d (cvtDsel w))
  let grp (ty : Nat) : Nat := typeWidth ty / 4
  let wideTypes : List Nat := [0, 1, 2, 4, 5, 6, 8, 9, 10]
  match major with
  | 0x90 =>
    guard (isFt d ∧ isFt s ∧ ¬ same)
    pure ((← cvtOperand d w.vd.toNat dsel true) ++ (← cvtOperand s w.va.toNat true false))
  | 0x91 =>
    guard (d < 8 ∧ isFt s)
    pure ((← cvtOperand d w.vd.toNat false true) ++ (← cvtOperand s w.va.toNat true false))
  | 0x92 =>
    guard (isFt d ∧ s < 8)
    pure ((← cvtOperand d w.vd.toNat dsel true) ++ (← cvtOperand s w.va.toNat true false))
  | 0x93 =>
    guard (d < 8 ∧ s < 8 ∧ d ≠ s)
    pure ((← cvtOperand d w.vd.toNat false true) ++ (← cvtOperand s w.va.toNat true false))
  | 0x94 =>
    guard (s = 14 ∧ wideTypes.contains d)
    guard (¬ (cvtSp w = 0 ∧ 4 ≤ d ∧ d ≤ 6) ∧ ¬ (cvtSp w = 2 ∧ d < 8))
    pure ((← fieldOperand (.group (grp d)) d w.vd.toNat false true) ++
      (← fieldOperand .one s w.va.toNat true false))
  | 0x95 =>
    guard (d = 14 ∧ wideTypes.contains s)
    guard (¬ (w.func &&& 3#8 = 2 ∧ s < 8))
    pure ((← fieldOperand .one d w.vd.toNat false true) ++
      (← fieldOperand (.group (grp s)) s w.va.toNat true false))
  | _ => none

/-- Rows of the conversion majors 0x96 to 0x9B (R135). -/
def cvtRow (major : Nat) : Option LaneRow :=
  match major with
  | 0x96 => some { len := .only64, types := [8, 9], d := .one, a := .one, b := .one }
  | 0x97 => some { len := .only64, types := [8, 9], d := .pair, a := .one }
  | 0x98 => some { len := .only64, types := [12, 13], d := .one, a := .group 4 }
  | 0x99 => some { len := .only64, types := [12, 13], d := .group 4, a := .one }
  | 0x9A => some { len := .only64, types := tyF, d := .elt, a := .one, func := 0xF8 }
  | 0x9B => some { len := .only64, types := tyF, d := .one, a := .elt, func := 0xF8 }
  | _ => none

/-- The types of `vrdlane` and `vbcast` (R151). -/
def tyMove : List Nat := [15, 2, 6, 3, 7]

/-- Rows of the mask and cross-lane majors 0xA0 to 0xB5 (R151). -/
def maskRow (major : Nat) : Option LaneRow :=
  let ppp : Option LaneRow := some { len := .only64, types := [15], d := .pred, a := .pred, b := .pred }
  match major with
  | 0xA0 => ppp | 0xA1 => ppp | 0xA2 => ppp | 0xA3 => ppp
  | 0xA4 => some { len := .only64, types := [15], d := .pred, a := .pred }
  | 0xA5 => some { len := .only64, types := [15], d := .pred, a := .none }
  | 0xA6 => some { len := .only64, types := [15], d := .mreg, a := .pred }
  | 0xA7 => some { len := .only64, types := [15], d := .pred, a := .mreg }
  | 0xA8 => some { len := .only64, types := [15], d := .mreg, a := .none }
  | 0xA9 => some { len := .only64, types := [15], d := .none, a := .mreg, func := 1 }
  | 0xAA => some { len := .only64, types := [15], d := .xreg, a := .pred, func := 1 }
  | 0xAB => some { len := .only64, types := [15], d := .pred, a := .xreg, func := 1 }
  | 0xAC => some { len := .only64, types := [15], d := .xreg, a := .pred, func := 7 }
  | 0xAD => some { len := .imm96b, types := tyMove, d := .xreg, a := .elt, b := .xreg }
  | 0xAE => some { len := .only64, types := tyMove, d := .elt, a := .xreg }
  | 0xAF => some { len := .imm96b, types := tyL, d := .elt, a := .elt, b := .one, func := 0x1F }
  | 0xB0 => some { len := .only64, types := tyMove ++ [10], d := .elt, a := .elt, func := 7 }
  | 0xB1 => some { len := .only64, types := tyMove ++ [10], d := .xreg, a := .elt, func := 7 }
  | 0xB2 => some { len := .only64, types := tyMove ++ [10], d := .elt, a := .elt, func := 15 }
  | 0xB3 => some { len := .only64, types := tyL, d := .pred, a := .elt }
  | 0xB4 => some { len := .only64, types := [15], d := .one, a := .none }
  | 0xB5 => some { len := .only64, types := [15], d := .one, a := .pred }
  | _ => none

/-- The types an operation code of `vred`, `vredx` and `vscan` takes (R154). -/
def redTypes (op : Nat) : List Nat :=
  if op ≤ 2 then [2, 6, 3, 7, 10] else if op ≤ 5 then tyL else []

/-- What the rows of 0x00 to 0xBF do not say: reserved modifier values and immediate bits that must be zero
(R117, R121, R125, R151 to R154). -/
def rowExtra (major : Nat) (w : LaneWord) : Bool :=
  let op := bits w.func.toNat 2 0
  match major with
  | 0x21 => !(immForm w) || bits w.imm.toNat 31 16 = 0
  | 0x22 => !(immForm w) || bits w.imm.toNat 31 16 = 0
  | 0x54 => bits w.func.toNat 1 0 ≠ 3
  | 0x55 => bits w.func.toNat 1 0 ≠ 3
  | 0xA8 => w.guard = 0 && !w.gneg
  | 0xA9 => w.guard = 0 && !w.gneg
  | 0xAC => op < 6
  | 0xAD => !(immForm w) || bits w.imm.toNat 31 7 = 0
  | 0xAF => !(immForm w) || bits w.imm.toNat 31 7 = 0
  | 0xB0 => (redTypes op).contains w.ty.toNat
  | 0xB1 => (redTypes op).contains w.ty.toNat
  | 0xB2 => (redTypes op).contains w.ty.toNat
  | m => if 0x60 ≤ m ∧ m ≤ 0x81 then floatExtra m w else true

/-- The predicate that `vaddc`, `vsubc` and `vsel` name in func bits 53:50 (R115, R118). -/
def funcPredicate (major : Nat) (w : LaneWord) : List Operand :=
  let q := bits w.func.toNat 3 0
  if major = 0x30 ∨ major = 0x31 then [{ kind := .p, idx := q, rd := true, wr := true }]
  else if major = 0x23 then [{ kind := .p, idx := q, rd := true }]
  else []

/-- The operands of a word whose family gives it a row: the row's fields and the predicate in func (R112). -/
def rowForm (row : Option LaneRow) (major : Nat) (paired : Bool) (w : LaneWord) : Option (List Operand) := do
  let r ← row
  let ops ← rowOperands r paired w
  guard (rowExtra major w)
  pure (ops ++ funcPredicate major w)

/-- An integer type holds every value of another (R135). -/
def intHolds (s d : Nat) : Bool :=
  if intSigned s = intSigned d then decide (typeWidth s ≤ typeWidth d) else !intSigned s && decide (typeWidth s < typeWidth d)

/-- A conversion word rounds, or reads a binary8 code: it reads `nround` at issue (R43, R44, R134). The pairs of formats that
hold every value of their source take neither. -/
def cvtRounds (major : Nat) (w : LaneWord) : Bool :=
  let d := w.ty.toNat
  let s := cvtSrcTy w
  match major with
  | 0x90 => !(s = d && decide (d < 12) || d = 11 && decide (s < 12) || d = 10 && decide (s < 10))
  | 0x92 => !(decide (8 ≤ d ∧ d < 12) && decide (2 * typeWidth s ≤ typeWidth d))
  | 0x93 => !intHolds s d
  | 0x94 => false
  | 0x97 => false
  | 0x9A => d ≠ 11
  | _ => true

/-- A conversion word that reads `nround` sets its flags: not `vunp8`, nor one from binary8 to BF16, FP32 or FP64, which is
exact whatever the precision and the infinity setting (R134). -/
def cvtFlags (major : Nat) (w : LaneWord) : Bool :=
  major ≠ 0x99 && !(major = 0x90 && decide (12 ≤ cvtSrcTy w) && [9, 10, 11].contains w.ty.toNat)

/-- `nround` as an operand of a word that rounds. -/
def roundOperand (rounds wr : Bool) : List Operand := if rounds then [{ kind := .nround, idx := 0, wr := wr }] else []

/-- The operands of a conversion word (R133 to R136). -/
def cvtForm (major : Nat) (paired : Bool) (w : LaneWord) : Option (List Operand) :=
  (if major ≤ 0x95 then cvtOperands major paired w else rowForm (cvtRow major) major paired w).map
    (fun ops => ops ++ roundOperand (cvtRounds major w) (cvtFlags major w))

/-! ### Memory words (R227, R228, R238) -/

/-- ORD, func bits 57:56. -/
def ordOf (w : LaneWord) : Nat := bits w.func.toNat 7 6
/-- SCOPE, func bits 55:53. -/
def scopeOf (w : LaneWord) : Nat := bits w.func.toNat 5 3
/-- OFS, func bit 52. -/
def ofsOf (w : LaneWord) : Bool := w.func.getLsbD 2
/-- VEC, func bits 51:50. -/
def vecOf (w : LaneWord) : Nat := bits w.func.toNat 1 0
/-- OP, RET and HINT of an atomic, bits 77:72 (R238). -/
def amoOp (w : LaneWord) : Nat := bits w.imm.toNat 13 11
def amoRet (w : LaneWord) : Bool := bit w.imm.toNat 10
def amoHint (w : LaneWord) : Nat := bits w.imm.toNat 9 8

/-- The set MT of R228. -/
def tyM : List Nat := [0, 1, 2, 3, 4, 5, 6, 7, 8, 9, 10, 11, 15]

/-- ORD is one of the values the major allows, and SCOPE fits it (R227). -/
def ordLegal (allowed : List Nat) (w : LaneWord) : Bool :=
  allowed.contains (ordOf w) && (if ordOf w = 0 then scopeOf w = 0 else decide (scopeOf w ≤ 4))

/-- The data register of a load or store: a pair for 64-bit types, 2^VEC registers for a vector of words (R228). -/
def dataField (ty vec : Nat) : FieldUse := if isWide ty then .pair else .group (2 ^ vec)

/-- The offset register vM, named by vb when OFS is set (R227). -/
def ofsField (w : LaneWord) : FieldUse := if ofsOf w then .one else .none

/-- The base of an address: an x register, a tile handle or an accumulator tile (R228). -/
def baseField (k : OpKind) (w : LaneWord) : Option (List Operand) :=
  match k with
  | .x => fieldOperand .xreg 0 w.va.toNat true false
  | .acc => if w.va.toNat < 32 then some [{ kind := .acc, idx := w.va.toNat }] else none
  | k => some [{ kind := k, idx := w.va.toNat }]

/-- The operands of a load or store of the lane registers (R228). -/
def ldStForm (base : OpKind) (store : Bool) (ords : List Nat) (types : List Nat) (w : LaneWord) :
    Option (List Operand) := do
  let ty := w.ty.toNat
  guard (w.len ≠ 3 ∧ (w.len ≠ 0 ∨ w.imm = 0) ∧ types.contains ty)
  guard (ordLegal ords w ∧ vecOf w ≠ 3 ∧ (typeWidth ty = 32 ∨ vecOf w = 0))
  guard (base ≠ .x ∨ ofsOf w = false ∨ w.imm = 0)
  let d ← fieldOperand (dataField ty (vecOf w)) ty w.vd.toNat store (!store)
  let a ← baseField base w
  let a := a.map (fun o => if base = .acc then { o with wr := store } else o)
  let b ← fieldOperand (ofsField w) ty w.vb.toNat true false
  pure (d ++ a ++ b)

/-- The types an atomic operation takes (R239). -/
def amoTypes (op : Nat) : List Nat :=
  if op ≤ 2 then [2, 6, 3, 7] else if op ≤ 5 then tyL else if op = 6 then [15, 2, 6, 3, 7] else [10, 11]

/-- The operands of `vamo` and `vcas` (R228, R238). -/
def amoForm (base : OpKind) (hints cas : Bool) (w : LaneWord) : Option (List Operand) := do
  let ty := w.ty.toNat
  guard (w.len = 1 ∨ w.len = 2)
  guard (bits w.imm.toNat 31 14 = 0 ∧ vecOf w = 0 ∧ ordLegal [0, 1, 2, 3] w)
  guard (base ≠ .tile ∨ ofsOf w)
  guard (if hints then amoHint w ≠ 3 else amoHint w = 0)
  guard (if cas then amoOp w = 0 ∧ amoRet w = false ∧ [15, 2, 6, 3, 7].contains ty else (amoTypes (amoOp w)).contains ty)
  let d ← if cas then fieldOperand .elt ty w.vd.toNat true true
    else if amoRet w then fieldOperand .elt ty w.vd.toNat false true else fieldOperand .none ty w.vd.toNat false false
  let a ← baseField base w
  let b ← fieldOperand (ofsField w) ty w.vb.toNat true false
  let c ← fieldOperand .elt ty (vcOf w) true false
  pure (d ++ a ++ b ++ c)

/-- The operands of a memory word, majors 0xC0 to 0xD4 (R228). -/
def memForm (major : Nat) (w : LaneWord) : Option (List Operand) := do
  let x (idx : Nat) (rd wr : Bool) := fieldOperand .xreg 0 idx rd wr
  match major with
  | 0xC0 => ldStForm .x false [0, 1] tyM w
  | 0xC1 => ldStForm .x true [0, 1] tyM w
  | 0xC2 => ldStForm .tile false [0, 1] tyM w
  | 0xC3 => ldStForm .tile true [0, 1] tyM w
  | 0xC4 => ldStForm .x false [0, 1] tyM w
  | 0xC5 => ldStForm .x true [0, 1] tyM w
  | 0xC6 => ldStForm .x false [0] tyM w
  | 0xC7 =>
    guard (lenLegal .only64 false w ∧ w.len ≠ 3 ∧ w.ty = 10 ∧ w.func = 0)
    pure ((← fieldOperand .one 10 w.vd.toNat false true) ++ (← x w.va.toNat true false) ++
      (← fieldOperand .pair 10 w.vb.toNat true false))
  | 0xC8 =>
    guard (w.len ≠ 3 ∧ (w.len ≠ 0 ∨ w.imm = 0) ∧ w.ty = 15 ∧ w.func &&& 0xFA#8 = 0 ∧ w.vd = 0)
    guard (ofsOf w = false ∨ w.imm = 0)
    pure ((← x w.va.toNat true false) ++ (← fieldOperand (ofsField w) 15 w.vb.toNat true false))
  | 0xC9 => amoForm .x true false w
  | 0xCA => amoForm .tile false false w
  | 0xCB => amoForm .x false false w
  | 0xCC => amoForm .x true true w
  | 0xCD => amoForm .tile false true w
  | 0xCE => amoForm .x false true w
  | 0xCF =>
    guard (lenLegal .only64 false w ∧ w.len ≠ 3 ∧ w.ty = 15 ∧ w.func = 0)
    pure ((← x w.vd.toNat false true) ++ (← x w.va.toNat true false) ++ (← x w.vb.toNat true false))
  | 0xD0 =>
    guard (lenLegal .only64 false w ∧ w.len ≠ 3 ∧ w.ty = 15 ∧ w.func = 0 ∧ w.vd = 0 ∧ w.vb = 0)
    x w.va.toNat true false
  | 0xD1 =>
    guard (w.len ≠ 3 ∧ (w.len ≠ 0 ∨ w.imm = 0) ∧ w.ty.toNat < 8 ∧ ordLegal [0, 1] w ∧ w.func &&& 7#8 = 0 ∧ w.vb = 0)
    pure ((← x w.vd.toNat false true) ++ (← x w.va.toNat true false))
  | 0xD2 =>
    guard (w.len ≠ 3 ∧ (w.len ≠ 0 ∨ w.imm = 0) ∧ w.ty.toNat < 8 ∧ ordLegal [0, 1] w ∧ w.func &&& 7#8 = 0 ∧ w.vb = 0)
    pure ((← x w.vd.toNat true false) ++ (← x w.va.toNat true false))
  | 0xD3 => ldStForm .acc false [0] [15, 2, 6, 10] w
  | 0xD4 => ldStForm .acc true [0] [15, 2, 6, 10] w
  | _ => none

/-- The operands of `ch.recv`, major 0xD5: a 96-bit word that never pairs (R292). -/
def recvForm (w : LaneWord) : Option (List Operand) := do
  guard (w.len = 1 ∧ w.ty = 15 ∧ w.func = 0 ∧ w.va.toNat < 16 ∧ bits w.imm.toNat 31 8 = 0 ∧ vcOf w < 32)
  pure [{ kind := .v, idx := w.vd.toNat, rd := false, wr := true }, { kind := .tile, idx := w.vb.toNat },
    { kind := .x, idx := vcOf w, rd := false, wr := true }]

/-! ### Matrix and accumulator words (R255 to R265) -/

/-- The common rules of 0xE0 to 0xE6 and the counting words on the guard (R255, R366). -/
def plainGuard (w : LaneWord) : Bool := w.guard = 0 && !w.gneg

/-- Second type TB of an `mma`, bits 95:92, and its P, bits 86:84 (R257). -/
def mmaTb (w : LaneWord) : Nat := bits w.imm.toNat 31 28
def mmaTbP (w : LaneWord) : Nat := bits w.imm.toNat 22 20

/-- The operands of `mma` and `mmac` (R257, R261). -/
def mmaForm (cascade : Bool) (w : LaneWord) : Option (List Operand) := do
  let ta := w.ty.toNat
  let tb := mmaTb w
  guard (plainGuard w ∧ (w.len = 1 ∨ w.len = 2) ∧ bits w.imm.toNat 27 23 = 0 ∧ bits w.imm.toNat 19 8 = 0)
  guard (cascade ∨ bits w.imm.toNat 7 0 = 0)
  let own ← typeFunc ta w.func
  guard (w.func &&& ~~~own = 0 ∧ spLegal tb (mmaTbP w))
  guard (w.va.toNat < 8 ∧ w.vb.toNat < 8 ∧ w.vd.toNat < 32 ∧ vcOf w < 32)
  let isB8 (t : Nat) : Bool := t = 12 || t = 13
  let i16 := ta = 1 ∨ ta = 5
  guard ((isB8 ta ∧ isB8 tb) ∨ (ta = 8 ∧ tb = 8) ∨ (ta = 9 ∧ tb = 9) ∨ (ta = 10 ∧ tb = 10) ∨
    (i16 ∧ (tb = 1 ∨ tb = 5)))
  guard (¬ i16 ∨ w.vd.toNat % 2 = 0)
  let q : List Operand := if cascade then [{ kind := .x, idx := vcOf w }] else []
  pure ([{ kind := .acc, idx := w.vd.toNat, cnt := if i16 then 2 else 1, wr := true },
    { kind := .resv, idx := w.va.toNat }, { kind := .resv, idx := w.vb.toNat }, { kind := .half, idx := w.va.toNat },
    { kind := .half, idx := w.vb.toNat, wr := cascade }] ++ q)

/-- The operands of the transfers between an accumulator tile and a scratchpad tile (R264). -/
def accMoveForm (load : Bool) (w : LaneWord) : Option (List Operand) := do
  guard (plainGuard w ∧ w.len ≠ 3 ∧ (w.len ≠ 0 ∨ w.imm = 0) ∧ w.ty = 15 ∧ w.func = 0 ∧ w.vb = 0)
  guard (w.vd.toNat < 32 ∧ w.imm.toNat % 64 = 0)
  pure [{ kind := .acc, idx := w.vd.toNat, rd := !load, wr := load }, { kind := .tile, idx := w.va.toNat, wr := !load }]

/-- The operands of `acc.take`, `acc.rel` and `acc.clr`, told apart by func bits 52:50 (R263). -/
def accHoldForm (op : Nat) (w : LaneWord) : Option (List Operand) := do
  guard (plainGuard w ∧ lenLegal .only64 false w ∧ w.len ≠ 3 ∧ w.ty = 15 ∧ w.func.toNat = op ∧ w.vb = 0)
  guard (w.va.toNat < 32 ∧ w.vd.toNat + w.va.toNat + 1 ≤ 32)
  pure [{ kind := .acc, idx := w.vd.toNat, cnt := w.va.toNat + 1, rd := false, wr := true }]

/-- Source code of `acc.cvt`, func bits 54:53 (R265). -/
def accCvtSrc (w : LaneWord) : Nat := bits w.func.toNat 4 3

/-- The operands of `acc.cvt` (R265). -/
def accCvtForm (w : LaneWord) : Option (List Operand) := do
  let ty := w.ty.toNat
  guard (plainGuard w ∧ w.len ≠ 3 ∧ (w.len ≠ 0 ∨ w.imm = 0) ∧ [0, 1, 2, 4, 5, 6, 8, 9, 10, 12, 13].contains ty)
  let own ← typeFunc ty w.func
  guard (w.func &&& ~~~(own ||| 0x18) = 0 ∧ w.vb = 0 ∧ w.vd.toNat < 32 ∧ w.imm.toNat % 64 = 0)
  guard (accCvtSrc w ≠ 2 ∨ w.vd.toNat % 2 = 0)
  pure <| [{ kind := .acc, idx := w.vd.toNat, cnt := if accCvtSrc w = 2 then 2 else 1 },
    { kind := .tile, idx := w.va.toNat, wr := true }] ++
    roundOperand (!(accCvtSrc w = 0 && w.ty = 10 || accCvtSrc w = 1 && w.ty = 2)) true

/-- The operands of `mld` (R256). -/
def mldForm (w : LaneWord) : Option (List Operand) := do
  let i := w.imm.toNat
  guard (plainGuard w ∧ (w.len = 1 ∨ w.len = 2) ∧ w.ty = 15 ∧ w.func = 0 ∧ w.vb = 0 ∧ w.vd.toNat < 8)
  guard (bits i 15 9 = 0 ∧ bits i 23 22 = 0 ∧ bits i 31 31 = 0 ∧ 1 ≤ bits i 30 24 ∧ bits i 30 24 ≤ 64)
  pure [{ kind := .resv, idx := w.vd.toNat, wr := true }, { kind := .tile, idx := w.va.toNat }]

/-! ### Counting words (R366 to R371) -/

/-- The overflow flags of the counting array with TPEND, as an operand (R367, R369 to R371). -/
def cntFlags (wr : Bool) : Operand := { kind := .bank, idx := 2, wr := wr }

/-- The operands of the counting words 0xE8 to 0xEC (R366). -/
def cntForm (major : Nat) (w : LaneWord) : Option (List Operand) := do
  guard (plainGuard w ∧ w.len ≠ 3)
  match major with
  | 0xE8 =>
    guard ((w.len = 1 ∨ w.len = 2) ∧ w.ty = 14 ∧ bits w.func.toNat 7 4 = 0 ∧ w.vd.toNat < 2 ∧ bits w.imm.toNat 31 30 = 0)
    guard (bits w.func.toNat 1 0 ≠ 3 ∧ bits w.func.toNat 3 2 ≠ 3)
    pure [{ kind := .bank, idx := w.vd.toNat, wr := true }, cntFlags true, { kind := .tile, idx := w.va.toNat },
      { kind := .tile, idx := w.vb.toNat }]
  | 0xE9 =>
    guard (lenLegal .only64 false w ∧ w.ty = 15 ∧ w.func = 0 ∧ w.vd = 0 ∧ w.va = 0 ∧ w.vb = 0)
    pure [{ kind := .bank, idx := 0, cnt := 2, wr := true }, cntFlags true]
  | 0xEA =>
    guard ((w.len ≠ 0 ∨ w.imm = 0) ∧ (w.ty = 2 ∨ w.ty = 10) ∧ bits w.func.toNat 7 4 = 0 ∧ w.vd.toNat < 32)
    guard (w.va.toNat < 2)
    let sc := w.func.getLsbD 1
    guard (if sc then w.ty = 10 else w.vb = 0 ∧ w.imm = 0)
    let t : List Operand := if sc then [{ kind := .tile, idx := w.vb.toNat }] else []
    pure ([{ kind := .acc, idx := w.vd.toNat, wr := true }, { kind := .bank, idx := w.va.toNat, wr := true }, cntFlags true] ++ t)
  | 0xEB =>
    guard ((w.len ≠ 0 ∨ w.imm = 0) ∧ w.ty = 15 ∧ w.func = 0 ∧ w.vb = 0 ∧ w.vd.toNat < 2 ∧ bits w.imm.toNat 31 9 = 0)
    pure [{ kind := .bank, idx := w.vd.toNat }, cntFlags false, { kind := .tile, idx := w.va.toNat, wr := true }]
  | 0xEC =>
    guard ((w.len ≠ 0 ∨ w.imm = 0) ∧ w.ty = 15 ∧ w.func = 0 ∧ w.vb = 0 ∧ w.vd.toNat < 2 ∧ bits w.imm.toNat 31 9 = 0)
    pure [{ kind := .bank, idx := w.vd.toNat, wr := true }, cntFlags true, { kind := .tile, idx := w.va.toNat }]
  | _ => none

/-- The operands of a lane word of any major; `none` where the word is illegal in itself (R67 to R69). -/
def laneForm (major : Nat) (paired : Bool) (w : LaneWord) : Option (List Operand) :=
  if major < 0x40 then rowForm (intRow major) major paired w
  else if major < 0x60 then rowForm (packedRow major) major paired w
  else if major < 0x90 then rowForm (floatRow major) major paired w
  else if major < 0xA0 then cvtForm major paired w
  else if major < 0xC0 then rowForm (maskRow major) major paired w
  else if major < 0xD5 then memForm major w
  else if major = 0xD5 then (if paired then none else recvForm w)
  else if paired then none
  else
    match major with
    | 0xE0 => mldForm w
    | 0xE1 => mmaForm false w
    | 0xE2 => mmaForm true w
    | 0xE3 => accMoveForm false w
    | 0xE4 => if w.func.toNat ≤ 2 then accHoldForm w.func.toNat w else none
    | 0xE5 => accMoveForm true w
    | 0xE6 => accCvtForm w
    | m => cntForm m w

/-- Bits 63:0 of a lane word (R65): the escape, the fields and the pair bits. -/
def laneLow (major : Nat) (pair all : Bool) (w : LaneWord) : Word :=
  BitVec.ofNat 64 (0x7F + w.len.toNat * 2 ^ 7 + w.la.toNat * 2 ^ 9 + w.guard.toNat * 2 ^ 13 + b2n w.gneg * 2 ^ 17 +
    (major % 256) * 2 ^ 18 + w.vd.toNat * 2 ^ 26 + w.va.toNat * 2 ^ 34 + w.vb.toNat * 2 ^ 42 + w.func.toNat * 2 ^ 50 +
    w.ty.toNat * 2 ^ 58 + b2n all * 2 ^ 62 + b2n pair * 2 ^ 63)

/-- Length in bytes of a lane word (R59, R65). -/
def laneBytes (w : LaneWord) : Nat := 8 + 4 * w.len.toNat

end Sys2Proof.Machine
end

