-- ==== Sys2Proof/WellFormed.lean ====
section
/-! DEFINITION. Which instructions are well formed: the operand values that an encoding admits and the manual does not
call illegal (R63 to R69, R72, R141, R243, R254, R316, R326, R359, R365). Budgets, profiles and modes depend on the
wave and are checked at issue. -/

namespace Sys2Proof

open Machine

/-- Major opcode and fields of a lane instruction (R68). -/
def Instr.laneParts : Instr → Option (Nat × LaneWord)
  | .vadd w => some (0x00, w)
  | .vsub w => some (0x01, w)
  | .vadds w => some (0x02, w)
  | .vsubs w => some (0x03, w)
  | .vmul w => some (0x04, w)
  | .vmulh w => some (0x05, w)
  | .vmulw w => some (0x06, w)
  | .vmad w => some (0x07, w)
  | .vmadw w => some (0x08, w)
  | .vmin w => some (0x09, w)
  | .vmax w => some (0x0A, w)
  | .vabs w => some (0x0B, w)
  | .vneg w => some (0x0C, w)
  | .vabsd w => some (0x0D, w)
  | .vclamp w => some (0x0E, w)
  | .vand w => some (0x0F, w)
  | .vor w => some (0x10, w)
  | .vxor w => some (0x11, w)
  | .vandn w => some (0x12, w)
  | .vnot w => some (0x13, w)
  | .vbmux w => some (0x14, w)
  | .vsll w => some (0x15, w)
  | .vsrl w => some (0x16, w)
  | .vsra w => some (0x17, w)
  | .vrol w => some (0x18, w)
  | .vror w => some (0x19, w)
  | .vshf w => some (0x1A, w)
  | .vshadd w => some (0x1B, w)
  | .vpopc w => some (0x1C, w)
  | .vclz w => some (0x1D, w)
  | .vctz w => some (0x1E, w)
  | .vbrev w => some (0x1F, w)
  | .vbswap w => some (0x20, w)
  | .vbext w => some (0x21, w)
  | .vbins w => some (0x22, w)
  | .vsel w => some (0x23, w)
  | .vmov w => some (0x24, w)
  | .vcmpeq w => some (0x25, w)
  | .vcmpne w => some (0x26, w)
  | .vcmplt w => some (0x27, w)
  | .vcmple w => some (0x28, w)
  | .vcmpgt w => some (0x29, w)
  | .vcmpge w => some (0x2A, w)
  | .vtst w => some (0x2B, w)
  | .vsext w => some (0x2C, w)
  | .vzext w => some (0x2D, w)
  | .vilog2 w => some (0x2E, w)
  | .vperm w => some (0x2F, w)
  | .vaddc w => some (0x30, w)
  | .vsubc w => some (0x31, w)
  | .vmuls w => some (0x32, w)
  | .vdot4 w => some (0x33, w)
  | .hadd w => some (0x40, w)
  | .hadds w => some (0x41, w)
  | .hsub w => some (0x42, w)
  | .hsubs w => some (0x43, w)
  | .hmin w => some (0x44, w)
  | .hmax w => some (0x45, w)
  | .havg w => some (0x46, w)
  | .habsd w => some (0x47, w)
  | .habsds w => some (0x48, w)
  | .hmul w => some (0x49, w)
  | .hmuls w => some (0x4A, w)
  | .hshl w => some (0x4B, w)
  | .hshr w => some (0x4C, w)
  | .hdot2 w => some (0x4D, w)
  | .hdot2s w => some (0x4E, w)
  | .hsad w => some (0x4F, w)
  | .hpack w => some (0x50, w)
  | .hpacks w => some (0x51, w)
  | .hunpk w => some (0x52, w)
  | .hpk8 w => some (0x53, w)
  | .sunpk w => some (0x54, w)
  | .spack w => some (0x55, w)
  | .vfadd w => some (0x60, w)
  | .vfsub w => some (0x61, w)
  | .vfmul w => some (0x62, w)
  | .vffma w => some (0x63, w)
  | .vffms w => some (0x64, w)
  | .vffnma w => some (0x65, w)
  | .vffnms w => some (0x66, w)
  | .vfmin w => some (0x67, w)
  | .vfmax w => some (0x68, w)
  | .vfminx w => some (0x69, w)
  | .vfmaxx w => some (0x6A, w)
  | .vfabs w => some (0x6B, w)
  | .vfneg w => some (0x6C, w)
  | .vfsgnj w => some (0x6D, w)
  | .vfsgnjn w => some (0x6E, w)
  | .vfsgnjx w => some (0x6F, w)
  | .vfcmpeq w => some (0x70, w)
  | .vfcmpne w => some (0x71, w)
  | .vfcmplt w => some (0x72, w)
  | .vfcmple w => some (0x73, w)
  | .vfcmpgt w => some (0x74, w)
  | .vfcmpge w => some (0x75, w)
  | .vfcmpun w => some (0x76, w)
  | .vfclass w => some (0x77, w)
  | .vfrcp w => some (0x78, w)
  | .vfrsq w => some (0x79, w)
  | .vfsqrt w => some (0x7A, w)
  | .vfdiv w => some (0x7B, w)
  | .vfexp2 w => some (0x7C, w)
  | .vflog2 w => some (0x7D, w)
  | .vfsin w => some (0x7E, w)
  | .vfcos w => some (0x7F, w)
  | .vfscale w => some (0x80, w)
  | .vfrint w => some (0x81, w)
  | .vcvtf w => some (0x90, w)
  | .vcvtfi w => some (0x91, w)
  | .vcvtif w => some (0x92, w)
  | .vcvtii w => some (0x93, w)
  | .vunpk4 w => some (0x94, w)
  | .vpk4 w => some (0x95, w)
  | .vpk2 w => some (0x96, w)
  | .vunp2 w => some (0x97, w)
  | .vpk8 w => some (0x98, w)
  | .vunp8 w => some (0x99, w)
  | .vcvtxf w => some (0x9A, w)
  | .vcvtfx w => some (0x9B, w)
  | .pand w => some (0xA0, w)
  | .por w => some (0xA1, w)
  | .pxor w => some (0xA2, w)
  | .pandn w => some (0xA3, w)
  | .pnot w => some (0xA4, w)
  | .pfirst w => some (0xA5, w)
  | .mfromp w => some (0xA6, w)
  | .pfromm w => some (0xA7, w)
  | .mgeta w => some (0xA8, w)
  | .mseta w => some (0xA9, w)
  | .vballot w => some (0xAA, w)
  | .pfromx w => some (0xAB, w)
  | .vvote w => some (0xAC, w)
  | .vrdlane w => some (0xAD, w)
  | .vbcast w => some (0xAE, w)
  | .vlperm w => some (0xAF, w)
  | .vred w => some (0xB0, w)
  | .vredx w => some (0xB1, w)
  | .vscan w => some (0xB2, w)
  | .vmatch w => some (0xB3, w)
  | .vlaneid w => some (0xB4, w)
  | .vprank w => some (0xB5, w)
  | .vldGlobal w => some (0xC0, w)
  | .vstGlobal w => some (0xC1, w)
  | .vldScratchpad w => some (0xC2, w)
  | .vstScratchpad w => some (0xC3, w)
  | .vldWindow w => some (0xC4, w)
  | .vstWindow w => some (0xC5, w)
  | .vldc w => some (0xC6, w)
  | .vsmp w => some (0xC7, w)
  | .vpf w => some (0xC8, w)
  | .vamoGlobal w => some (0xC9, w)
  | .vamoScratchpad w => some (0xCA, w)
  | .vamoWindow w => some (0xCB, w)
  | .vcasGlobal w => some (0xCC, w)
  | .vcasScratchpad w => some (0xCD, w)
  | .vcasWindow w => some (0xCE, w)
  | .amoLock w => some (0xCF, w)
  | .amoUnlk w => some (0xD0, w)
  | .xld w => some (0xD1, w)
  | .xst w => some (0xD2, w)
  | .vldAccumulator w => some (0xD3, w)
  | .vstAccumulator w => some (0xD4, w)
  | .chRecv w => some (0xD5, w)
  | .mld w => some (0xE0, w)
  | .mma w => some (0xE1, w)
  | .mmac w => some (0xE2, w)
  | .accSt w => some (0xE3, w)
  | .accTake w => some (0xE4, w)
  | .accRel w => some (0xE4, w)
  | .accClr w => some (0xE4, w)
  | .accLd w => some (0xE5, w)
  | .accCvt w => some (0xE6, w)
  | .cntAcc w => some (0xE8, w)
  | .cntMrg w => some (0xE9, w)
  | .cntDrn w => some (0xEA, w)
  | .cntSpl w => some (0xEB, w)
  | .cntFil w => some (0xEC, w)
  | _ => none

/-- A rounding-mode field is one of the modes, or dynamic; 5 and 6 are reserved. -/
def rmLegal (rm : BitVec 3) : Bool := rm ≠ 5 && rm ≠ 6

/-- The RISC-V words whose fields have reserved values. -/
def Rv.wellFormed : Rv → Bool
  | .fused _ _ rm _ _ _ _ => rmLegal rm
  | .farith _ _ rm _ _ _ => rmLegal rm
  | .fsqrt _ rm _ _ => rmLegal rm
  | .fcvtToInt _ _ rm _ _ => rmLegal rm
  | .fcvtToFp _ _ rm _ _ => rmLegal rm
  | .fcvtFmt _ rm _ _ => rmLegal rm
  | _ => true

/-- A RISC-V word of a major opcode that may stand in a pair (R72). -/
def Rv.pairable : Rv → Bool
  | .jal _ _ => false
  | .jalr _ _ _ => false
  | .branch _ _ _ _ => false
  | .fence _ _ _ => false
  | .ebreak => false
  | .sfenceVma _ _ => false
  | .csr _ _ _ _ => false
  | .csrImm _ _ _ _ => false
  | _ => true

/-- The x register a RISC-V word writes, if any. -/
def Rv.destX : Rv → Option (BitVec 5)
  | .lui rd _ => some rd
  | .auipc rd _ => some rd
  | .jal rd _ => some rd
  | .jalr rd _ _ => some rd
  | .load _ rd _ _ => some rd
  | .opImm _ rd _ _ => some rd
  | .addiw rd _ _ => some rd
  | .shiftImm _ rd _ _ => some rd
  | .shiftImm32 _ rd _ _ => some rd
  | .unary _ rd _ => some rd
  | .op _ rd _ _ => some rd
  | .op32 _ rd _ _ => some rd
  | .csr _ rd _ _ => some rd
  | .csrImm _ rd _ _ => some rd
  | .lr _ _ _ rd _ => some rd
  | .sc _ _ _ rd _ _ => some rd
  | .amo _ _ _ _ rd _ _ => some rd
  | .fcompare _ _ rd _ _ => some rd
  | .fclass _ rd _ => some rd
  | .fmvToX _ rd _ => some rd
  | .fcvtToInt _ _ _ rd _ => some rd
  | _ => none

/-- Both parts of a pair write the same x register; x0 counts as written by neither (R72). -/
def pairClash (ops : List Operand) (i : Rv) : Bool :=
  match i.destX with
  | none => false
  | some rd => rd ≠ 0 && ops.any (fun o => o.kind = .x && o.wr && decide (o.idx = rd.toNat))

/-- A paired word is legal (R71, R72). -/
def pairLegal (major : BitVec 8) (w : LaneWord) (i : Rv) : Bool :=
  match laneForm major.toNat true w with
  | none => false
  | some ops => w.len = 2 && i.pairable && i.wellFormed && !pairClash ops i

/-- The operand limits of the device scalar words: barriers to b15, scopes to `.sys`, a path mask that names a path,
a mask register to m7, four registers from a multiple of 4, a bank mask of `cnt.clr` (R64, R69, R141, R243, R278, R365). -/
def Instr.scalarLegal : Instr → Bool
  | .barInit n _ => decide (n.toNat < 16)
  | .barArrive n _ => decide (n.toNat < 16)
  | .barWait n _ => decide (n.toNat < 16)
  | .barInv n => decide (n.toNat < 16)
  | .elect n => decide (n.toNat < 16)
  | .fenceScope sc => decide (sc.toNat ≤ 4)
  | .waita sc _ _ _ => decide (sc.toNat ≤ 4)
  | .pfence p => p ≠ 0
  | .mpush n => decide (n.toNat < 8)
  | .cpyPost _ a _ => a.toNat % 4 = 0 && a ≠ 0
  | .dczPost _ a _ => a.toNat % 4 = 0 && a ≠ 0
  | .cntClr k => decide (1 ≤ k.toNat ∧ k.toNat ≤ 3)
  | .riscvScalarInstruction i => i.wellFormed
  | .pairedWord major w _ i => pairLegal major w i
  | _ => true

/-- An instruction is well formed. -/
def Instr.wellFormed (i : Instr) : Bool :=
  match i.laneParts with
  | some (major, w) =>
    (laneForm major false w).isSome &&
      (match i with
        | .accTake w => w.func = 0
        | .accRel w => w.func = 1
        | .accClr w => w.func = 2
        | _ => true)
  | none => i.scalarLegal

end Sys2Proof
end

