-- ==== Sys2Proof/Decode.lean ====
section
/-! DEFINITION. Decoding of instruction words and their encoding (R59 to R76). A word is given as its bits, bit 0 the
least significant bit of its first byte; decoding is total and turns every other word away by name. -/

namespace Sys2Proof

open Machine

/-- Why bits are no instruction. -/
inductive DecodeError
  /-- Bits 1:0 are not 0b11 (R59). -/
  | notAWord
  /-- A scalar word that no row assigns: reserved or illegal (R60 to R63, R76 apart). -/
  | scalar
  /-- A lane word with an unassigned major (R68) or an illegal length code (R67). -/
  | laneMajor
  /-- A lane word that its major makes illegal (R67, R69, R112). -/
  | laneFields
  /-- A paired word that R72 makes illegal. -/
  | pair
deriving DecidableEq, Repr

/-- Bits `hi` to `lo` of a word as a bit vector of `n` bits. -/
def field (n w lo : Nat) : BitVec n := BitVec.ofNat n (w / 2 ^ lo)

/-! ### RISC-V words (R61, R90) -/

/-- The 5-bit fields rd, rs1, rs2 and rs3 of a RISC-V word. -/
def rdOf (w : Nat) : BitVec 5 := field 5 w 7
def rs1Of (w : Nat) : BitVec 5 := field 5 w 15
def rs2Of (w : Nat) : BitVec 5 := field 5 w 20
def rs3Of (w : Nat) : BitVec 5 := field 5 w 27

/-- The I-type immediate. -/
def immI (w : Nat) : BitVec 12 := field 12 w 20

/-- The S-type immediate. -/
def immS (w : Nat) : BitVec 12 := BitVec.ofNat 12 (bits w 31 25 * 2 ^ 5 + bits w 11 7)

/-- The B-type offset in 2-byte units. -/
def immB (w : Nat) : BitVec 12 :=
  BitVec.ofNat 12 (bits w 31 31 * 2 ^ 11 + bits w 7 7 * 2 ^ 10 + bits w 30 25 * 2 ^ 4 + bits w 11 8)

/-- The J-type offset in 2-byte units. -/
def immJ (w : Nat) : BitVec 20 :=
  BitVec.ofNat 20 (bits w 31 31 * 2 ^ 19 + bits w 19 12 * 2 ^ 11 + bits w 20 20 * 2 ^ 10 + bits w 30 21)

/-- Words of OP-IMM. -/
def decodeOpImm (w : Nat) : Option Rv :=
  let f6 := bits w 31 26
  let i12 := bits w 31 20
  match bits w 14 12 with
  | 0 => some (.opImm .addi (rdOf w) (rs1Of w) (immI w))
  | 2 => some (.opImm .slti (rdOf w) (rs1Of w) (immI w))
  | 3 => some (.opImm .sltiu (rdOf w) (rs1Of w) (immI w))
  | 4 => some (.opImm .xori (rdOf w) (rs1Of w) (immI w))
  | 6 => some (.opImm .ori (rdOf w) (rs1Of w) (immI w))
  | 7 => some (.opImm .andi (rdOf w) (rs1Of w) (immI w))
  | 1 =>
    if f6 = 0 then some (.shiftImm .slli (rdOf w) (rs1Of w) (field 6 w 20))
    else if i12 = 0x600 then some (.unary .clz (rdOf w) (rs1Of w))
    else if i12 = 0x601 then some (.unary .ctz (rdOf w) (rs1Of w))
    else if i12 = 0x602 then some (.unary .cpop (rdOf w) (rs1Of w))
    else if i12 = 0x604 then some (.unary .sextB (rdOf w) (rs1Of w))
    else if i12 = 0x605 then some (.unary .sextH (rdOf w) (rs1Of w))
    else none
  | 5 =>
    if f6 = 0 then some (.shiftImm .srli (rdOf w) (rs1Of w) (field 6 w 20))
    else if f6 = 0x10 then some (.shiftImm .srai (rdOf w) (rs1Of w) (field 6 w 20))
    else if f6 = 0x18 then some (.shiftImm .rori (rdOf w) (rs1Of w) (field 6 w 20))
    else if i12 = 0x287 then some (.unary .orcB (rdOf w) (rs1Of w))
    else if i12 = 0x6B8 then some (.unary .rev8 (rdOf w) (rs1Of w))
    else none
  | _ => none

/-- Words of OP-IMM-32. -/
def decodeOpImm32 (w : Nat) : Option Rv :=
  let f7 := bits w 31 25
  let i12 := bits w 31 20
  match bits w 14 12 with
  | 0 => some (.addiw (rdOf w) (rs1Of w) (immI w))
  | 1 =>
    if f7 = 0 then some (.shiftImm32 .slliw (rdOf w) (rs1Of w) (rs2Of w))
    else if bits w 31 26 = 2 then some (.shiftImm .slliUw (rdOf w) (rs1Of w) (field 6 w 20))
    else if i12 = 0x600 then some (.unary .clzw (rdOf w) (rs1Of w))
    else if i12 = 0x601 then some (.unary .ctzw (rdOf w) (rs1Of w))
    else if i12 = 0x602 then some (.unary .cpopw (rdOf w) (rs1Of w))
    else none
  | 5 =>
    if f7 = 0 then some (.shiftImm32 .srliw (rdOf w) (rs1Of w) (rs2Of w))
    else if f7 = 0x20 then some (.shiftImm32 .sraiw (rdOf w) (rs1Of w) (rs2Of w))
    else if f7 = 0x30 then some (.shiftImm32 .roriw (rdOf w) (rs1Of w) (rs2Of w))
    else none
  | _ => none

/-- The two-register operation of OP that funct7 and funct3 name: its code is 8 × funct7 + funct3. -/
def intOpOf (code : Nat) : Option IntOp :=
  match code with
  | 0x000 => some .add | 0x001 => some .sll | 0x002 => some .slt | 0x003 => some .sltu | 0x004 => some .xor
  | 0x005 => some .srl | 0x006 => some .or | 0x007 => some .and
  | 0x100 => some .sub | 0x104 => some .xnor | 0x105 => some .sra | 0x106 => some .orn | 0x107 => some .andn
  | 0x008 => some .mul | 0x009 => some .mulh | 0x00A => some .mulhsu | 0x00B => some .mulhu
  | 0x00C => some .div | 0x00D => some .divu | 0x00E => some .rem | 0x00F => some .remu
  | 0x082 => some .sh1add | 0x084 => some .sh2add | 0x086 => some .sh3add
  | 0x02C => some .min | 0x02D => some .minu | 0x02E => some .max | 0x02F => some .maxu
  | 0x181 => some .rol | 0x185 => some .ror
  | _ => none

/-- The code of a two-register operation of OP. -/
def intOpCode : IntOp → Nat
  | .add => 0x000 | .sll => 0x001 | .slt => 0x002 | .sltu => 0x003 | .xor => 0x004 | .srl => 0x005 | .or => 0x006
  | .and => 0x007 | .sub => 0x100 | .xnor => 0x104 | .sra => 0x105 | .orn => 0x106 | .andn => 0x107
  | .mul => 0x008 | .mulh => 0x009 | .mulhsu => 0x00A | .mulhu => 0x00B
  | .div => 0x00C | .divu => 0x00D | .rem => 0x00E | .remu => 0x00F
  | .sh1add => 0x082 | .sh2add => 0x084 | .sh3add => 0x086
  | .min => 0x02C | .minu => 0x02D | .max => 0x02E | .maxu => 0x02F | .rol => 0x181 | .ror => 0x185

/-- The two-register operation of OP-32 with code 8 × funct7 + funct3. -/
def intOp32Of (code : Nat) : Option IntOp32 :=
  match code with
  | 0x000 => some .addw | 0x001 => some .sllw | 0x005 => some .srlw | 0x100 => some .subw | 0x105 => some .sraw
  | 0x008 => some .mulw | 0x00C => some .divw | 0x00D => some .divuw | 0x00E => some .remw | 0x00F => some .remuw
  | 0x020 => some .addUw | 0x082 => some .sh1addUw | 0x084 => some .sh2addUw | 0x086 => some .sh3addUw
  | 0x181 => some .rolw | 0x185 => some .rorw
  | _ => none

/-- The code of a two-register operation of OP-32. -/
def intOp32Code : IntOp32 → Nat
  | .addw => 0x000 | .sllw => 0x001 | .srlw => 0x005 | .subw => 0x100 | .sraw => 0x105
  | .mulw => 0x008 | .divw => 0x00C | .divuw => 0x00D | .remw => 0x00E | .remuw => 0x00F
  | .addUw => 0x020 | .sh1addUw => 0x082 | .sh2addUw => 0x084 | .sh3addUw => 0x086 | .rolw => 0x181 | .rorw => 0x185

/-- Words of AMO: funct5 and width (W or D). -/
def decodeAmo (w : Nat) : Option Rv :=
  let f3 := bits w 14 12
  let dw := f3 = 3
  let aq := bit w 26
  let rl := bit w 25
  let mk (op : AmoOp) : Option Rv := some (.amo op dw aq rl (rdOf w) (rs1Of w) (rs2Of w))
  if f3 ≠ 2 ∧ f3 ≠ 3 then none
  else
    match bits w 31 27 with
    | 0x02 => if rs2Of w = 0 then some (.lr dw aq rl (rdOf w) (rs1Of w)) else none
    | 0x03 => some (.sc dw aq rl (rdOf w) (rs1Of w) (rs2Of w))
    | 0x01 => mk .swap
    | 0x00 => mk .add
    | 0x04 => mk .xor
    | 0x0C => mk .and
    | 0x08 => mk .or
    | 0x10 => mk .min
    | 0x14 => mk .max
    | 0x18 => mk .minu
    | 0x1C => mk .maxu
    | _ => none

/-- funct5 of a read-modify-write operation. -/
def amoCode : AmoOp → Nat
  | .swap => 0x01 | .add => 0x00 | .xor => 0x04 | .and => 0x0C | .or => 0x08
  | .min => 0x10 | .max => 0x14 | .minu => 0x18 | .maxu => 0x1C

/-- The precision a fmt field names; H and Q are absent. -/
def fmtOf (n : Nat) : Option FpFmt := if n = 0 then some .s else if n = 1 then some .d else none

/-- The fmt field of a precision. -/
def fmtCode : FpFmt → Nat
  | .s => 0
  | .d => 1

/-- The integer side a conversion's rs2 field names. -/
def fpIntOf (n : Nat) : Option FpInt :=
  match n with
  | 0 => some .w
  | 1 => some .wu
  | 2 => some .l
  | 3 => some .lu
  | _ => none

/-- The rs2 field of a conversion's integer side. -/
def fpIntCode : FpInt → Nat
  | .w => 0
  | .wu => 1
  | .l => 2
  | .lu => 3

/-- A word with a rounding mode, when the mode is legal. -/
def withRm (w : Nat) (f : BitVec 3 → Rv) : Option Rv :=
  if rmLegal (field 3 w 12) then some (f (field 3 w 12)) else none

/-- Words of OP-FP. -/
def decodeOpFp (w : Nat) : Option Rv := do
  let f ← fmtOf (bits w 26 25)
  let rd := rdOf w
  let a := rs1Of w
  let b := rs2Of w
  let f3 := bits w 14 12
  match bits w 31 27 with
  | 0x00 => withRm w (fun rm => .farith .add f rm rd a b)
  | 0x01 => withRm w (fun rm => .farith .sub f rm rd a b)
  | 0x02 => withRm w (fun rm => .farith .mul f rm rd a b)
  | 0x03 => withRm w (fun rm => .farith .div f rm rd a b)
  | 0x0B => if b = 0 then withRm w (fun rm => .fsqrt f rm rd a) else none
  | 0x04 =>
    match f3 with
    | 0 => some (.fsgnj .sgnj f rd a b)
    | 1 => some (.fsgnj .sgnjn f rd a b)
    | 2 => some (.fsgnj .sgnjx f rd a b)
    | _ => none
  | 0x05 =>
    match f3 with
    | 0 => some (.fminmax false f rd a b)
    | 1 => some (.fminmax true f rd a b)
    | _ => none
  | 0x14 =>
    match f3 with
    | 0 => some (.fcompare .le f rd a b)
    | 1 => some (.fcompare .lt f rd a b)
    | 2 => some (.fcompare .eq f rd a b)
    | _ => none
  | 0x1C =>
    if b ≠ 0 then none
    else if f3 = 0 then some (.fmvToX f rd a)
    else if f3 = 1 then some (.fclass f rd a)
    else none
  | 0x1E => if b = 0 ∧ f3 = 0 then some (.fmvToF f rd a) else none
  | 0x18 =>
    let k ← fpIntOf b.toNat
    withRm w (fun rm => .fcvtToInt k f rm rd a)
  | 0x1A =>
    let k ← fpIntOf b.toNat
    withRm w (fun rm => .fcvtToFp k f rm rd a)
  | 0x08 =>
    match f with
    | .s => if b = 1 then withRm w (fun rm => .fcvtFmt .s rm rd a) else none
    | .d => if b = 0 then withRm w (fun rm => .fcvtFmt .d rm rd a) else none
  | _ => none

/-- Words of SYSTEM other than ECALL, MRET, SRET and WFI. -/
def decodeSystem (w : Nat) : Option Rv :=
  let c := field 12 w 20
  match bits w 14 12 with
  | 0 =>
    if w = 0x00100073 then some .ebreak
    else if bits w 31 25 = 0x09 ∧ bits w 11 7 = 0 then some (.sfenceVma (rs1Of w) (rs2Of w))
    else none
  | 1 => some (.csr .rw (rdOf w) (rs1Of w) c)
  | 2 => some (.csr .rs (rdOf w) (rs1Of w) c)
  | 3 => some (.csr .rc (rdOf w) (rs1Of w) c)
  | 5 => some (.csrImm .rw (rdOf w) (rs1Of w) c)
  | 6 => some (.csrImm .rs (rdOf w) (rs1Of w) c)
  | 7 => some (.csrImm .rc (rdOf w) (rs1Of w) c)
  | _ => none

/-- A RISC-V word, by its major opcode (R61). -/
def decodeRv (w : Nat) : Option Rv :=
  let rd := rdOf w
  let a := rs1Of w
  let b := rs2Of w
  let f3 := bits w 14 12
  let fused (op : FpFused) : Option Rv := do
    let f ← fmtOf (bits w 26 25)
    withRm w (fun rm => .fused op f rm rd a b (rs3Of w))
  match bits w 6 0 with
  | 0x37 => some (.lui rd (field 20 w 12))
  | 0x17 => some (.auipc rd (field 20 w 12))
  | 0x6F => some (.jal rd (immJ w))
  | 0x67 => if f3 = 0 then some (.jalr rd a (immI w)) else none
  | 0x63 =>
    match f3 with
    | 0 => some (.branch .beq a b (immB w))
    | 1 => some (.branch .bne a b (immB w))
    | 4 => some (.branch .blt a b (immB w))
    | 5 => some (.branch .bge a b (immB w))
    | 6 => some (.branch .bltu a b (immB w))
    | 7 => some (.branch .bgeu a b (immB w))
    | _ => none
  | 0x03 =>
    match f3 with
    | 0 => some (.load .lb rd a (immI w))
    | 1 => some (.load .lh rd a (immI w))
    | 2 => some (.load .lw rd a (immI w))
    | 3 => some (.load .ld rd a (immI w))
    | 4 => some (.load .lbu rd a (immI w))
    | 5 => some (.load .lhu rd a (immI w))
    | 6 => some (.load .lwu rd a (immI w))
    | _ => none
  | 0x23 =>
    match f3 with
    | 0 => some (.store .sb a b (immS w))
    | 1 => some (.store .sh a b (immS w))
    | 2 => some (.store .sw a b (immS w))
    | 3 => some (.store .sd a b (immS w))
    | _ => none
  | 0x13 => decodeOpImm w
  | 0x1B => decodeOpImm32 w
  | 0x33 => (intOpOf (bits w 31 25 * 8 + f3)).map (fun op => .op op rd a b)
  | 0x3B =>
    if bits w 31 20 = 0x080 ∧ f3 = 4 then some (.unary .zextH rd a)
    else (intOp32Of (bits w 31 25 * 8 + f3)).map (fun op => .op32 op rd a b)
  | 0x0F => if f3 = 0 then some (.fence rd a (immI w)) else none
  | 0x73 => decodeSystem w
  | 0x2F => decodeAmo w
  | 0x07 =>
    match f3 with
    | 2 => some (.fload .s rd a (immI w))
    | 3 => some (.fload .d rd a (immI w))
    | _ => none
  | 0x27 =>
    match f3 with
    | 2 => some (.fstore .s a b (immS w))
    | 3 => some (.fstore .d a b (immS w))
    | _ => none
  | 0x43 => fused .madd
  | 0x47 => fused .msub
  | 0x4B => fused .nmsub
  | 0x4F => fused .nmadd
  | 0x53 => decodeOpFp w
  | _ => none

/-- R-type word: funct7, rs2, rs1, funct3, rd, opcode. -/
def rType (f7 b a f3 d opc : Nat) : BitVec 32 :=
  BitVec.ofNat 32 (f7 * 2 ^ 25 + b * 2 ^ 20 + a * 2 ^ 15 + f3 * 2 ^ 12 + d * 2 ^ 7 + opc)

/-- I-type word. -/
def iType (imm : BitVec 12) (a f3 d opc : Nat) : BitVec 32 :=
  BitVec.ofNat 32 (imm.toNat * 2 ^ 20 + a * 2 ^ 15 + f3 * 2 ^ 12 + d * 2 ^ 7 + opc)

/-- S-type word. -/
def sType (imm : BitVec 12) (b a f3 opc : Nat) : BitVec 32 :=
  rType (imm.toNat / 2 ^ 5) b a f3 (imm.toNat % 2 ^ 5) opc

/-- B-type word, its offset in 2-byte units. -/
def bType (off : BitVec 12) (b a f3 : Nat) : BitVec 32 :=
  let n := off.toNat
  rType (bits n 11 11 * 2 ^ 6 + bits n 9 4) b a f3 (bits n 3 0 * 2 + bits n 10 10) 0x63

/-- J-type word, its offset in 2-byte units. -/
def jType (off : BitVec 20) (d : Nat) : BitVec 32 :=
  let n := off.toNat
  BitVec.ofNat 32 (bits n 19 19 * 2 ^ 31 + bits n 9 0 * 2 ^ 21 + bits n 10 10 * 2 ^ 20 + bits n 18 11 * 2 ^ 12 +
    d * 2 ^ 7 + 0x6F)

/-- funct3 of the branches, loads, stores and CSR operations. -/
def branchCode : BranchOp → Nat
  | .beq => 0 | .bne => 1 | .blt => 4 | .bge => 5 | .bltu => 6 | .bgeu => 7
def loadCode : LoadOp → Nat
  | .lb => 0 | .lh => 1 | .lw => 2 | .ld => 3 | .lbu => 4 | .lhu => 5 | .lwu => 6
def storeCode : StoreOp → Nat
  | .sb => 0 | .sh => 1 | .sw => 2 | .sd => 3
def immOpCode : ImmOp → Nat
  | .addi => 0 | .slti => 2 | .sltiu => 3 | .xori => 4 | .ori => 6 | .andi => 7
def csrCode : CsrOp → Nat
  | .rw => 1 | .rs => 2 | .rc => 3

/-- The word of a RISC-V instruction. -/
def encodeRv : Rv → BitVec 32
  | .lui d imm => BitVec.ofNat 32 (imm.toNat * 2 ^ 12 + d.toNat * 2 ^ 7 + 0x37)
  | .auipc d imm => BitVec.ofNat 32 (imm.toNat * 2 ^ 12 + d.toNat * 2 ^ 7 + 0x17)
  | .jal d off => jType off d.toNat
  | .jalr d a imm => iType imm a.toNat 0 d.toNat 0x67
  | .branch op a b off => bType off b.toNat a.toNat (branchCode op)
  | .load op d a imm => iType imm a.toNat (loadCode op) d.toNat 0x03
  | .store op a b imm => sType imm b.toNat a.toNat (storeCode op) 0x23
  | .opImm op d a imm => iType imm a.toNat (immOpCode op) d.toNat 0x13
  | .addiw d a imm => iType imm a.toNat 0 d.toNat 0x1B
  | .shiftImm op d a sh =>
    match op with
    | .slli => iType (BitVec.ofNat 12 sh.toNat) a.toNat 1 d.toNat 0x13
    | .srli => iType (BitVec.ofNat 12 sh.toNat) a.toNat 5 d.toNat 0x13
    | .srai => iType (BitVec.ofNat 12 (0x400 + sh.toNat)) a.toNat 5 d.toNat 0x13
    | .rori => iType (BitVec.ofNat 12 (0x600 + sh.toNat)) a.toNat 5 d.toNat 0x13
    | .slliUw => iType (BitVec.ofNat 12 (0x080 + sh.toNat)) a.toNat 1 d.toNat 0x1B
  | .shiftImm32 op d a sh =>
    match op with
    | .slliw => rType 0 sh.toNat a.toNat 1 d.toNat 0x1B
    | .srliw => rType 0 sh.toNat a.toNat 5 d.toNat 0x1B
    | .sraiw => rType 0x20 sh.toNat a.toNat 5 d.toNat 0x1B
    | .roriw => rType 0x30 sh.toNat a.toNat 5 d.toNat 0x1B
  | .unary op d a =>
    match op with
    | .clz => iType 0x600 a.toNat 1 d.toNat 0x13
    | .ctz => iType 0x601 a.toNat 1 d.toNat 0x13
    | .cpop => iType 0x602 a.toNat 1 d.toNat 0x13
    | .sextB => iType 0x604 a.toNat 1 d.toNat 0x13
    | .sextH => iType 0x605 a.toNat 1 d.toNat 0x13
    | .orcB => iType 0x287 a.toNat 5 d.toNat 0x13
    | .rev8 => iType 0x6B8 a.toNat 5 d.toNat 0x13
    | .clzw => iType 0x600 a.toNat 1 d.toNat 0x1B
    | .ctzw => iType 0x601 a.toNat 1 d.toNat 0x1B
    | .cpopw => iType 0x602 a.toNat 1 d.toNat 0x1B
    | .zextH => iType 0x080 a.toNat 4 d.toNat 0x3B
  | .op op d a b => rType (intOpCode op / 8) b.toNat a.toNat (intOpCode op % 8) d.toNat 0x33
  | .op32 op d a b => rType (intOp32Code op / 8) b.toNat a.toNat (intOp32Code op % 8) d.toNat 0x3B
  | .fence d a imm => iType imm a.toNat 0 d.toNat 0x0F
  | .ebreak => 0x00100073
  | .sfenceVma a b => rType 0x09 b.toNat a.toNat 0 0 0x73
  | .csr op d a c => iType c a.toNat (csrCode op) d.toNat 0x73
  | .csrImm op d u c => iType c u.toNat (csrCode op + 4) d.toNat 0x73
  | .lr dw aq rl d a => rType (0x02 * 4 + b2n aq * 2 + b2n rl) 0 a.toNat (2 + b2n dw) d.toNat 0x2F
  | .sc dw aq rl d a b => rType (0x03 * 4 + b2n aq * 2 + b2n rl) b.toNat a.toNat (2 + b2n dw) d.toNat 0x2F
  | .amo op dw aq rl d a b => rType (amoCode op * 4 + b2n aq * 2 + b2n rl) b.toNat a.toNat (2 + b2n dw) d.toNat 0x2F
  | .fload f d a imm => iType imm a.toNat (2 + fmtCode f) d.toNat 0x07
  | .fstore f a b imm => sType imm b.toNat a.toNat (2 + fmtCode f) 0x27
  | .fused op f rm d a b c =>
    let opc := match op with
      | .madd => 0x43
      | .msub => 0x47
      | .nmsub => 0x4B
      | .nmadd => 0x4F
    rType (c.toNat * 4 + fmtCode f) b.toNat a.toNat rm.toNat d.toNat opc
  | .farith op f rm d a b =>
    let k := match op with
      | .add => 0
      | .sub => 1
      | .mul => 2
      | .div => 3
    rType (k * 4 + fmtCode f) b.toNat a.toNat rm.toNat d.toNat 0x53
  | .fsqrt f rm d a => rType (0x0B * 4 + fmtCode f) 0 a.toNat rm.toNat d.toNat 0x53
  | .fsgnj op f d a b =>
    let k := match op with
      | .sgnj => 0
      | .sgnjn => 1
      | .sgnjx => 2
    rType (0x04 * 4 + fmtCode f) b.toNat a.toNat k d.toNat 0x53
  | .fminmax mx f d a b => rType (0x05 * 4 + fmtCode f) b.toNat a.toNat (b2n mx) d.toNat 0x53
  | .fcompare op f d a b =>
    let k := match op with
      | .le => 0
      | .lt => 1
      | .eq => 2
    rType (0x14 * 4 + fmtCode f) b.toNat a.toNat k d.toNat 0x53
  | .fclass f d a => rType (0x1C * 4 + fmtCode f) 0 a.toNat 1 d.toNat 0x53
  | .fmvToX f d a => rType (0x1C * 4 + fmtCode f) 0 a.toNat 0 d.toNat 0x53
  | .fmvToF f d a => rType (0x1E * 4 + fmtCode f) 0 a.toNat 0 d.toNat 0x53
  | .fcvtToInt k f rm d a => rType (0x18 * 4 + fmtCode f) (fpIntCode k) a.toNat rm.toNat d.toNat 0x53
  | .fcvtToFp k f rm d a => rType (0x1A * 4 + fmtCode f) (fpIntCode k) a.toNat rm.toNat d.toNat 0x53
  | .fcvtFmt f rm d a => rType (0x08 * 4 + fmtCode f) (1 - fmtCode f) a.toNat rm.toNat d.toNat 0x53

/-! ### Device scalar words (R62, R63, R76) -/

/-- A device scalar word from its fields (R62). -/
def deviceWord (op mod b a f3 d opc : Nat) : BitVec 32 :=
  BitVec.ofNat 32 (op * 2 ^ 28 + mod * 2 ^ 25 + b * 2 ^ 20 + a * 2 ^ 15 + f3 * 2 ^ 12 + d * 2 ^ 7 + opc)

/-- A custom-3 word with a signed offset in bits 27:15 (R141). -/
def offsetWord (op : Nat) (off : BitVec 13) (f3 d : Nat) : BitVec 32 :=
  BitVec.ofNat 32 (op * 2 ^ 28 + off.toNat * 2 ^ 15 + f3 * 2 ^ 12 + d * 2 ^ 7 + 0x7B)

/-- opd of a word with a negate bit and a predicate (R141). -/
def predField (neg : Bool) (q : BitVec 4) : Nat := b2n neg * 16 + q.toNat

/-- The 32-bit word of a scalar instruction: RISC-V words, device scalar words and retired forms. -/
def encodeScalar : Instr → Option (BitVec 32)
  | .tileAlloc c z a d => some (deviceWord 0 (b2n c * 2 + b2n z) 0 a.toNat 0 d.toNat 0x0B)
  | .tileFree a d => some (deviceWord 1 0 0 a.toNat 0 d.toNat 0x0B)
  | .tileAwait a d => some (deviceWord 2 0 0 a.toNat 0 d.toNat 0x0B)
  | .tileRel wb a d => some (deviceWord 3 (b2n wb) 0 a.toNat 0 d.toNat 0x0B)
  | .tileState a d => some (deviceWord 4 0 0 a.toNat 0 d.toNat 0x0B)
  | .segAtt m b a d => some (deviceWord 0 m.toNat b.toNat a.toNat 1 d.toNat 0x0B)
  | .segDet a d => some (deviceWord 1 0 0 a.toNat 1 d.toNat 0x0B)
  | .segDetRel a d => some (deviceWord 2 0 0 a.toNat 1 d.toNat 0x0B)
  | .segName b a d => some (deviceWord 3 0 b.toNat a.toNat 1 d.toNat 0x0B)
  | .segPin a d => some (deviceWord 4 0 0 a.toNat 1 d.toNat 0x0B)
  | .segUnpin a d => some (deviceWord 5 0 0 a.toNat 1 d.toNat 0x0B)
  | .segEvict a d => some (deviceWord 6 0 0 a.toNat 1 d.toNat 0x0B)
  | .segEvictDrop a d => some (deviceWord 6 1 0 a.toNat 1 d.toNat 0x0B)
  | .cpyPost b a d => some (deviceWord 0 0 b.toNat a.toNat 2 d.toNat 0x0B)
  | .dczPost b a d => some (deviceWord 0 0 b.toNat a.toNat 3 d.toNat 0x0B)
  | .chSend b a d => some (deviceWord 0 0 b.toNat a.toNat 4 d.toNat 0x0B)
  | .sqRing b a d => some (deviceWord 0 0 b.toNat a.toNat 5 d.toNat 0x0B)
  | .sqRingCq b a d => some (deviceWord 0 1 b.toNat a.toNat 5 d.toNat 0x0B)
  | .barInit n a => some (deviceWord 0 0 n.toNat a.toNat 0 0 0x2B)
  | .barArrive n d => some (deviceWord 1 0 n.toNat 0 0 d.toNat 0x2B)
  | .barWait n a => some (deviceWord 2 0 n.toNat a.toNat 0 0 0x2B)
  | .barInv n => some (deviceWord 3 0 n.toNat 0 0 0 0x2B)
  | .fenceScope sc => some (deviceWord 0 sc.toNat 0 0 1 0 0x2B)
  | .pfence p => some (deviceWord 1 0 p.toNat 0 1 0 0x2B)
  | .waita sc b a d => some (deviceWord 0 sc.toNat b.toNat a.toNat 2 d.toNat 0x2B)
  | .chunk a d => some (deviceWord 0 0 0 a.toNat 3 d.toNat 0x2B)
  | .elect n => some (deviceWord 0 0 n.toNat 0 4 0 0x2B)
  | .gateCall b a => some (deviceWord 0 0 b.toNat a.toNat 5 0 0x2B)
  | .gateRet => some (deviceWord 1 0 0 0 5 0 0x2B)
  | .domQuery a d => some (deviceWord 2 0 0 a.toNat 5 d.toNat 0x2B)
  | .waveEnd => some (deviceWord 0 0 0 0 6 0 0x2B)
  | .yield => some (deviceWord 1 0 0 0 6 0 0x2B)
  | .obRsv n b a d => some (deviceWord 0 n.toNat b.toNat a.toNat 0 d.toNat 0x5B)
  | .obRel n d => some (deviceWord 1 n.toNat 0 0 0 d.toNat 0x5B)
  | .cntRsv a d => some (deviceWord 0 0 0 a.toNat 1 d.toNat 0x5B)
  | .cntRsvRel d => some (deviceWord 0 1 0 0 1 d.toNat 0x5B)
  | .cntClr k => some (deviceWord 1 k.toNat 0 0 1 0 0x5B)
  | .maskIf off neg q => some (offsetWord 0 off 0 (predField neg q))
  | .maskElse off => some (offsetWord 1 off 0 0)
  | .maskEndif => some (offsetWord 2 0 0 0)
  | .mpush n => some (deviceWord 0 0 0 n.toNat 1 0 0x7B)
  | .mpop => some (deviceWord 1 0 0 0 1 0 0x7B)
  | .mpopD => some (deviceWord 1 1 0 0 1 0 0x7B)
  | .loopL off n => some (offsetWord 0 off 2 n.toNat)
  | .brkL off neg q => some (offsetWord 1 off 2 (predField neg q))
  | .contL off neg q => some (offsetWord 2 off 2 (predField neg q))
  | .callL b a => some (deviceWord 0 0 b.toNat a.toNat 3 0 0x7B)
  | .jmpL b a => some (deviceWord 1 0 b.toNat a.toNat 3 0 0x7B)
  | .retL => some (deviceWord 2 0 0 0 3 0 0x7B)
  | .lmulhh b a d => some (rType 0x00 b.toNat a.toNat 0 d.toNat 0x57)
  | .lsumh b a d => some (rType 0x01 b.toNat a.toNat 0 d.toNat 0x57)
  | .linrng b a d => some (rType 0x02 b.toNat a.toNat 0 d.toNat 0x57)
  | .lsatw b a d => some (rType 0x03 b.toNat a.toNat 0 d.toNat 0x57)
  | .lrevh a d => some (rType 0x04 0 a.toNat 0 d.toNat 0x57)
  | .linsb b a d => some (rType 0x05 b.toNat a.toNat 0 d.toNat 0x57)
  | .ecall => some 0x00000073
  | .mret => some 0x30200073
  | .sret => some 0x10200073
  | .wfi => some 0x10500073
  | .fenceI rd rs1 imm => some (iType imm rs1.toNat 1 rd.toNat 0x0F)
  | .riscvScalarInstruction i => some (encodeRv i)
  | _ => none

/-- The device scalar instruction that opcode, group, operation and the low mod bit of a word point to (R63, R76). -/
def deviceCandidate (w : Nat) : Option Instr :=
  let b := rs2Of w
  let a := rs1Of w
  let d := rdOf w
  let off := field 13 w 15
  let neg := bit w 11
  let q := field 4 w 7
  let mod3 := field 3 w 25
  let m0 := bit w 25
  match bits w 6 0, bits w 14 12, bits w 31 28 with
  | 0x0B, 0, 0 => some (.tileAlloc (bit w 26) m0 a d)
  | 0x0B, 0, 1 => some (.tileFree a d)
  | 0x0B, 0, 2 => some (.tileAwait a d)
  | 0x0B, 0, 3 => some (.tileRel m0 a d)
  | 0x0B, 0, 4 => some (.tileState a d)
  | 0x0B, 1, 0 => some (.segAtt (field 2 w 25) b a d)
  | 0x0B, 1, 1 => some (.segDet a d)
  | 0x0B, 1, 2 => some (.segDetRel a d)
  | 0x0B, 1, 3 => some (.segName b a d)
  | 0x0B, 1, 4 => some (.segPin a d)
  | 0x0B, 1, 5 => some (.segUnpin a d)
  | 0x0B, 1, 6 => some (if m0 then .segEvictDrop a d else .segEvict a d)
  | 0x0B, 2, 0 => some (.cpyPost b a d)
  | 0x0B, 3, 0 => some (.dczPost b a d)
  | 0x0B, 4, 0 => some (.chSend b a d)
  | 0x0B, 5, 0 => some (if m0 then .sqRingCq b a d else .sqRing b a d)
  | 0x2B, 0, 0 => some (.barInit b a)
  | 0x2B, 0, 1 => some (.barArrive b d)
  | 0x2B, 0, 2 => some (.barWait b a)
  | 0x2B, 0, 3 => some (.barInv b)
  | 0x2B, 1, 0 => some (.fenceScope mod3)
  | 0x2B, 1, 1 => some (.pfence b)
  | 0x2B, 2, 0 => some (.waita mod3 b a d)
  | 0x2B, 3, 0 => some (.chunk a d)
  | 0x2B, 4, 0 => some (.elect b)
  | 0x2B, 5, 0 => some (.gateCall b a)
  | 0x2B, 5, 1 => some .gateRet
  | 0x2B, 5, 2 => some (.domQuery a d)
  | 0x2B, 6, 0 => some .waveEnd
  | 0x2B, 6, 1 => some .yield
  | 0x5B, 0, 0 => some (.obRsv mod3 b a d)
  | 0x5B, 0, 1 => some (.obRel mod3 d)
  | 0x5B, 1, 0 => some (if m0 then .cntRsvRel d else .cntRsv a d)
  | 0x5B, 1, 1 => some (.cntClr mod3)
  | 0x7B, 0, 0 => some (.maskIf off neg q)
  | 0x7B, 0, 1 => some (.maskElse off)
  | 0x7B, 0, 2 => some .maskEndif
  | 0x7B, 1, 0 => some (.mpush a)
  | 0x7B, 1, 1 => some (if m0 then .mpopD else .mpop)
  | 0x7B, 2, 0 => some (.loopL off d)
  | 0x7B, 2, 1 => some (.brkL off neg q)
  | 0x7B, 2, 2 => some (.contL off neg q)
  | 0x7B, 3, 0 => some (.callL b a)
  | 0x7B, 3, 1 => some (.jmpL b a)
  | 0x7B, 3, 2 => some .retL
  | 0x57, 0, _ =>
    match bits w 31 25 with
    | 0 => some (.lmulhh b a d)
    | 1 => some (.lsumh b a d)
    | 2 => some (.linrng b a d)
    | 3 => some (.lsatw b a d)
    | 4 => some (.lrevh a d)
    | 5 => some (.linsb b a d)
    | _ => none
  | 0x0F, 1, _ => some (.fenceI d a (immI w))
  | _, _, _ => none

/-- A 32-bit scalar word: the device candidate when its fixed bits are all right, the words with rows of their own,
or a RISC-V word (R59 to R63, R76). -/
def decodeScalar (w : Nat) : Option Instr :=
  if w = 0x00000073 then some .ecall
  else if w = 0x30200073 then some .mret
  else if w = 0x10200073 then some .sret
  else if w = 0x10500073 then some .wfi
  else
    match deviceCandidate w with
    | some i => if encodeScalar i = some (BitVec.ofNat 32 w) ∧ i.scalarLegal then some i else none
    | none => (decodeRv w).map .riscvScalarInstruction

/-! ### Lane words (R65 to R68) -/

/-- The fields of a lane word from its bits (R65). -/
def unpackLane (n : Nat) : LaneWord :=
  { len := field 2 n 7, la := field 4 n 9, guard := field 4 n 13, gneg := bit n 17,
    vd := field 8 n 26, va := field 8 n 34, vb := field 8 n 42, func := field 8 n 50, ty := field 4 n 58,
    imm := if field 2 n 7 = 0 then 0 else field 32 n 64 }

/-- The bits of a lane word: the low 64, the immediate field and bits 127:96. -/
def packLane (major : Nat) (pair all : Bool) (w : LaneWord) (ext : BitVec 32) : Nat :=
  (laneLow major pair all w).toNat + w.imm.toNat * 2 ^ 64 + ext.toNat * 2 ^ 96

/-- The lane instruction of a major opcode and its fields (R68); 0xE4 is told apart by its operation code (R263). -/
def laneInstr (major : Nat) (w : LaneWord) : Option Instr :=
  match major with
  | 0x00 => some (.vadd w)
  | 0x01 => some (.vsub w)
  | 0x02 => some (.vadds w)
  | 0x03 => some (.vsubs w)
  | 0x04 => some (.vmul w)
  | 0x05 => some (.vmulh w)
  | 0x06 => some (.vmulw w)
  | 0x07 => some (.vmad w)
  | 0x08 => some (.vmadw w)
  | 0x09 => some (.vmin w)
  | 0x0A => some (.vmax w)
  | 0x0B => some (.vabs w)
  | 0x0C => some (.vneg w)
  | 0x0D => some (.vabsd w)
  | 0x0E => some (.vclamp w)
  | 0x0F => some (.vand w)
  | 0x10 => some (.vor w)
  | 0x11 => some (.vxor w)
  | 0x12 => some (.vandn w)
  | 0x13 => some (.vnot w)
  | 0x14 => some (.vbmux w)
  | 0x15 => some (.vsll w)
  | 0x16 => some (.vsrl w)
  | 0x17 => some (.vsra w)
  | 0x18 => some (.vrol w)
  | 0x19 => some (.vror w)
  | 0x1A => some (.vshf w)
  | 0x1B => some (.vshadd w)
  | 0x1C => some (.vpopc w)
  | 0x1D => some (.vclz w)
  | 0x1E => some (.vctz w)
  | 0x1F => some (.vbrev w)
  | 0x20 => some (.vbswap w)
  | 0x21 => some (.vbext w)
  | 0x22 => some (.vbins w)
  | 0x23 => some (.vsel w)
  | 0x24 => some (.vmov w)
  | 0x25 => some (.vcmpeq w)
  | 0x26 => some (.vcmpne w)
  | 0x27 => some (.vcmplt w)
  | 0x28 => some (.vcmple w)
  | 0x29 => some (.vcmpgt w)
  | 0x2A => some (.vcmpge w)
  | 0x2B => some (.vtst w)
  | 0x2C => some (.vsext w)
  | 0x2D => some (.vzext w)
  | 0x2E => some (.vilog2 w)
  | 0x2F => some (.vperm w)
  | 0x30 => some (.vaddc w)
  | 0x31 => some (.vsubc w)
  | 0x32 => some (.vmuls w)
  | 0x33 => some (.vdot4 w)
  | 0x40 => some (.hadd w)
  | 0x41 => some (.hadds w)
  | 0x42 => some (.hsub w)
  | 0x43 => some (.hsubs w)
  | 0x44 => some (.hmin w)
  | 0x45 => some (.hmax w)
  | 0x46 => some (.havg w)
  | 0x47 => some (.habsd w)
  | 0x48 => some (.habsds w)
  | 0x49 => some (.hmul w)
  | 0x4A => some (.hmuls w)
  | 0x4B => some (.hshl w)
  | 0x4C => some (.hshr w)
  | 0x4D => some (.hdot2 w)
  | 0x4E => some (.hdot2s w)
  | 0x4F => some (.hsad w)
  | 0x50 => some (.hpack w)
  | 0x51 => some (.hpacks w)
  | 0x52 => some (.hunpk w)
  | 0x53 => some (.hpk8 w)
  | 0x54 => some (.sunpk w)
  | 0x55 => some (.spack w)
  | 0x60 => some (.vfadd w)
  | 0x61 => some (.vfsub w)
  | 0x62 => some (.vfmul w)
  | 0x63 => some (.vffma w)
  | 0x64 => some (.vffms w)
  | 0x65 => some (.vffnma w)
  | 0x66 => some (.vffnms w)
  | 0x67 => some (.vfmin w)
  | 0x68 => some (.vfmax w)
  | 0x69 => some (.vfminx w)
  | 0x6A => some (.vfmaxx w)
  | 0x6B => some (.vfabs w)
  | 0x6C => some (.vfneg w)
  | 0x6D => some (.vfsgnj w)
  | 0x6E => some (.vfsgnjn w)
  | 0x6F => some (.vfsgnjx w)
  | 0x70 => some (.vfcmpeq w)
  | 0x71 => some (.vfcmpne w)
  | 0x72 => some (.vfcmplt w)
  | 0x73 => some (.vfcmple w)
  | 0x74 => some (.vfcmpgt w)
  | 0x75 => some (.vfcmpge w)
  | 0x76 => some (.vfcmpun w)
  | 0x77 => some (.vfclass w)
  | 0x78 => some (.vfrcp w)
  | 0x79 => some (.vfrsq w)
  | 0x7A => some (.vfsqrt w)
  | 0x7B => some (.vfdiv w)
  | 0x7C => some (.vfexp2 w)
  | 0x7D => some (.vflog2 w)
  | 0x7E => some (.vfsin w)
  | 0x7F => some (.vfcos w)
  | 0x80 => some (.vfscale w)
  | 0x81 => some (.vfrint w)
  | 0x90 => some (.vcvtf w)
  | 0x91 => some (.vcvtfi w)
  | 0x92 => some (.vcvtif w)
  | 0x93 => some (.vcvtii w)
  | 0x94 => some (.vunpk4 w)
  | 0x95 => some (.vpk4 w)
  | 0x96 => some (.vpk2 w)
  | 0x97 => some (.vunp2 w)
  | 0x98 => some (.vpk8 w)
  | 0x99 => some (.vunp8 w)
  | 0x9A => some (.vcvtxf w)
  | 0x9B => some (.vcvtfx w)
  | 0xA0 => some (.pand w)
  | 0xA1 => some (.por w)
  | 0xA2 => some (.pxor w)
  | 0xA3 => some (.pandn w)
  | 0xA4 => some (.pnot w)
  | 0xA5 => some (.pfirst w)
  | 0xA6 => some (.mfromp w)
  | 0xA7 => some (.pfromm w)
  | 0xA8 => some (.mgeta w)
  | 0xA9 => some (.mseta w)
  | 0xAA => some (.vballot w)
  | 0xAB => some (.pfromx w)
  | 0xAC => some (.vvote w)
  | 0xAD => some (.vrdlane w)
  | 0xAE => some (.vbcast w)
  | 0xAF => some (.vlperm w)
  | 0xB0 => some (.vred w)
  | 0xB1 => some (.vredx w)
  | 0xB2 => some (.vscan w)
  | 0xB3 => some (.vmatch w)
  | 0xB4 => some (.vlaneid w)
  | 0xB5 => some (.vprank w)
  | 0xC0 => some (.vldGlobal w)
  | 0xC1 => some (.vstGlobal w)
  | 0xC2 => some (.vldScratchpad w)
  | 0xC3 => some (.vstScratchpad w)
  | 0xC4 => some (.vldWindow w)
  | 0xC5 => some (.vstWindow w)
  | 0xC6 => some (.vldc w)
  | 0xC7 => some (.vsmp w)
  | 0xC8 => some (.vpf w)
  | 0xC9 => some (.vamoGlobal w)
  | 0xCA => some (.vamoScratchpad w)
  | 0xCB => some (.vamoWindow w)
  | 0xCC => some (.vcasGlobal w)
  | 0xCD => some (.vcasScratchpad w)
  | 0xCE => some (.vcasWindow w)
  | 0xCF => some (.amoLock w)
  | 0xD0 => some (.amoUnlk w)
  | 0xD1 => some (.xld w)
  | 0xD2 => some (.xst w)
  | 0xD3 => some (.vldAccumulator w)
  | 0xD4 => some (.vstAccumulator w)
  | 0xD5 => some (.chRecv w)
  | 0xE0 => some (.mld w)
  | 0xE1 => some (.mma w)
  | 0xE2 => some (.mmac w)
  | 0xE3 => some (.accSt w)
  | 0xE5 => some (.accLd w)
  | 0xE6 => some (.accCvt w)
  | 0xE8 => some (.cntAcc w)
  | 0xE9 => some (.cntMrg w)
  | 0xEA => some (.cntDrn w)
  | 0xEB => some (.cntSpl w)
  | 0xEC => some (.cntFil w)
  | 0xE4 =>
    if w.func = 0 then some (.accTake w)
    else if w.func = 1 then some (.accRel w)
    else if w.func = 2 then some (.accClr w)
    else none
  | _ => none

/-- Length in bytes of the word that starts with these bits: 4 for a scalar word, else by its length code
(R59, R65); `none` where the bits start no word. -/
def wordBytes (n : Nat) : Option Nat :=
  if n % 4 ≠ 3 then none
  else if n % 128 ≠ 0x7F then some 4
  else if bits n 8 7 = 3 then none
  else some (8 + 4 * bits n 8 7)

/-- Decode an unpaired lane word. -/
def decodeLane (n : Nat) : Except DecodeError Instr :=
  let w := unpackLane n
  if bit n 62 ∨ (w.len = 2 ∧ bits n 127 96 ≠ 0) then .error .laneFields
  else
    match laneInstr (bits n 25 18) w with
    | none => .error .laneMajor
    | some i => if i.wellFormed then .ok i else .error .laneFields

/-- Decode a paired word (R71, R72). -/
def decodePair (n : Nat) : Except DecodeError Instr :=
  let w := unpackLane n
  let ext := bits n 127 96
  match laneInstr (bits n 25 18) w, decodeRv ext with
  | some _, some i =>
    let p : Instr := .pairedWord (field 8 n 18) w (bit n 62) i
    if ext % 4 = 3 ∧ p.scalarLegal then .ok p else .error .pair
  | _, _ => .error .pair

/-- Decode the word at the bottom of 128 bits of an instruction stream (R59, R65). -/
def decode (bits128 : BitVec 128) : Except DecodeError Instr :=
  let n := bits128.toNat
  if n % 4 ≠ 3 then .error .notAWord
  else if n % 128 ≠ 0x7F then
    match decodeScalar (n % 2 ^ 32) with
    | some i => .ok i
    | none => .error .scalar
  else if bits n 8 7 = 3 then .error .laneMajor
  else if bit n 63 then (if bits n 8 7 = 2 then decodePair n else .error .pair)
  else decodeLane n

/-- The bits of an instruction, with its length in bytes; events have no word. -/
def encode (i : Instr) : Option (BitVec 128 × Nat) :=
  match i.laneParts with
  | some (major, w) => some (BitVec.ofNat 128 (packLane major false false w 0), laneBytes w)
  | none =>
    match i with
    | .pairedWord major w all sc => some (BitVec.ofNat 128 (packLane major.toNat true all w (encodeRv sc)), 16)
    | i => (encodeScalar i).map (fun e => (e.setWidth 128, 4))

/-- The instruction the decoder reads from bits numbered as the opcode table numbers them; bits above are zero. -/
def decodeTableWord (_nbits w : Nat) : Option Instr :=
  match decode (BitVec.ofNat 128 w) with
  | .ok i => some i
  | .error _ => none

end Sys2Proof
end

