-- ==== Sys2Proof/Config.lean ====
section
/-! DEFINITION. What the manual leaves open: constants without a body, so that no proof can see their value.
Each is named in the assumption log. -/

namespace Sys2Proof

/-- R131: where the exact value of a faithful function is no FP32 value, whether the result is the upper of its two
neighbours. The arguments are the function (0 exp2, 1 log2, 2 sin, 3 cos) and the input's bits. -/
opaque Config.faithfulUp : Nat → BitVec 32 → Bool

/-- A byte that the manual does not give: memory of a peer device, and state an outside agent holds. The argument is
the machine's free-value counter. -/
opaque Config.freeByte : Nat → BitVec 8

/-- A 64-bit value that the manual does not give. The argument is the machine's free-value counter. -/
opaque Config.freeWord : Nat → BitVec 64

/-- R394: a peer answers a request with Completer Abort. The argument is the machine's free-value counter. -/
opaque Config.peerAborts : Nat → Bool

/-- R408: byte `k` of the device's Ed448 signature over a 64-byte hash; its private key is in no manual. -/
opaque Config.signByte : BitVec 512 → Nat → BitVec 8

/-- R408: byte `k` of the certificate chain of slot 0, which the device is provisioned with. -/
opaque Config.certByte : Nat → BitVec 8

/-- R408: length in bytes of that certificate chain. -/
opaque Config.certLength : BitVec 16

end Sys2Proof
end

