-- ==== Sys2Proof/Machine/State.lean ====
section
/-! DEFINITION. The state of the machine, as plain data: everything the manual gives a card or a register.
A register that several waves, cores or dies each have is held once per owner; a table that is mostly blank lists only
its filled entries. Names follow the manual's state cards. -/

namespace Sys2Proof.Machine

/-- Why the machine stops. -/
inductive Fault
  /-- Raised by every meaning of a wave's word when no wave runs at the current core and slot: nothing can issue a
  word there (R32). Safe: the manual lets no such word issue. -/
  | noRunningWave
  /-- Raised by the step when the device has stopped on a fatal error and no event is due (R383, R404).
  Safe: no core issues until a device reset. -/
  | fatalStop
deriving DecidableEq, Repr

/-- Why an instruction is turned away. -/
inductive Refusal
  /-- Raised by an arm of `exec` whose instruction has no meaning yet. Safe. -/
  | notModelled (mnemonic : String)
deriving DecidableEq, Repr

/-- Privilege mode of a hart (R90). -/
inductive Mode | u | s | m
deriving DecidableEq, Repr

/-- State of a hart slot (R32, R305). -/
inductive SlotState | free | held | running | waiting | parked | handingOver | retiring
deriving DecidableEq, Repr

/-- State a word of a wave may read or write, as R21 lists it for lookahead. Bank 2 stands for the counting array as a
whole, which every counting word occupies (R363), bank 3 for the counting words that are not complete, which `cnt.clr` depends on
(R365). -/
inductive Loc
  | x (n : Nat) | f (n : Nat) | v (n : Nat) | p (n : Nat) | m (n : Nat)
  | acc (n : Nat) | bank (n : Nat) | tile (n : Nat) | resv (n : Nat) | half (n : Nat)
  | amask | nround | fcsr
deriving DecidableEq, Repr

/-- One result of a word on its own wave: an x or f register, one lane of a lane register or predicate, a mask
register under a lane mask, the active mask, the narrowing flags (bits NV OF UF NX of R42), the `fcsr` flags, a
deferred cause (R159), or CVALID of a reservation of its core (R256). -/
inductive Upd
  | x (n : Nat) (val : Word)
  | f (n : Nat) (val : Word)
  | v (reg lane : Nat) (val : Word32)
  | p (reg lane : Nat) (val : Bool)
  | m (n : Nat) (mask bits : Mask)
  | amask (val : Mask)
  | nflags (bits : BitVec 4)
  | fflags (bits : BitVec 5)
  | defer (cause : Nat) (tval : Word)
  | cvalid (n : Nat)
deriving DecidableEq, Repr

/-- Where the value that an acknowledgement brings back goes: an x register, an f register, or lane registers under a
width and signedness, `vec` of them for a vector element (R219). -/
structure AckPut where
  tag : Nat
  wd : Nat
  sgn : Bool
  toX : Bool
  toF : Bool := false
  reg : Nat
  lane : Nat
  vec : Nat := 0
deriving DecidableEq, Repr

/-- An issued long-latency word whose results are not complete (R20 to R22). -/
structure PendingOp where
  /-- Address of the word. -/
  pc : Word
  /-- Its lookahead field. -/
  la : Nat
  /-- Words the wave has issued since, less those a window closing cut off (R21, R23). -/
  since : Nat
  /-- The own turn at which every result is complete; not architectural (R201). -/
  due : Nat
  /-- The state it writes. -/
  locs : List Loc
  /-- Its results. -/
  upds : List Upd
  /-- Accumulator tiles and counting state that it only reads, which no word may take away before it is complete (R263,
  R366). -/
  reads : List Loc := []
  /-- A word of the wave has broken its window, and that has been counted (R22, R378). -/
  broken : Bool := false
  /-- Values still to come with acknowledgements of active messages. -/
  acks : List AckPut := []
  /-- It acquires at another core: no later word issues before it is complete (R206, R219). -/
  fence : Bool := false
deriving DecidableEq, Repr

/-- What a waiting slot waits for (R25, R32). -/
inductive WaitKind
  /-- A tile that is not ready (R97). -/
  | tile (handle : Nat)
  /-- A team barrier's phase (R359). -/
  | barrier (n : Nat) (phase : BitVec 32)
  /-- The wait of `elect`: its barrier, the phase and the prefixed word (R75). -/
  | elect (n : Nat) (phase : BitVec 32) (word : BitVec 32)
  /-- `waita`: physical address, virtual address, expected value, first own turn, limit, due recheck (R245). -/
  | waita (pa va : Nat) (expected : Word) (recheck : Nat)
  /-- `ch.recv` on an empty ring, with the elements it has consumed (R292). -/
  | recv (vals : List Word32)
  /-- The cascade wait of `mmac` (R261). -/
  | cascade (resv : Nat)
  /-- The own turn after `yield` (R168). -/
  | yield
  /-- `seg.att` once its row of R324 has been applied, with the segment table index (R327). -/
  | segAtt (seg : Nat)
  /-- The eviction wait of `seg.evict` (R330). -/
  | segEvict (seg : Nat)
  /-- The wait of `seg.det` for the fills of its tiles (R328). -/
  | segDet (seg : Nat)
deriving DecidableEq, Repr

/-- A wait in progress: its kind and the value of `turn` at its turn 0 (R97). -/
structure Wait where
  kind : WaitKind
  start : Nat
deriving DecidableEq, Repr

/-- Kinds of an active message (R297). -/
inductive MsgKind | load | store | atomic | cas
deriving DecidableEq, Repr

/-- An active message (R297). -/
structure ActiveMsg where
  kind : MsgKind
  size : Nat
  ord : Nat
  scope : Nat
  dom : Nat
  addr : Nat
  op : Nat
  ty : Nat
  operand : Nat
  operand2 : Nat
  sender : Nat
  slot : Nat
  vaddr : Nat
  tag : Nat
  /-- Sender chip: the peer's index, or none for this device (R297). -/
  chip : Option Nat := none
deriving DecidableEq, Repr

/-- A park in force (R163, R164). -/
structure Park where
  /-- A late park: the word has issued and its request is held. -/
  late : Bool
  cause : Nat
  /-- The cause the park record carries: 20, 21 or 23 for a host-stage page fault (R194). -/
  recordCause : Nat
  tval : Word
  /-- Address of the faulting word. -/
  pc : Word
  /-- The instructions whose requests a station or a destination holds, and the lanes not yet performed (late park);
  two where both parts of a pair are held. -/
  held : List (Instr × Mask)
  /-- Active messages that their destination refused, with that core (R182). -/
  msgs : List (Nat × ActiveMsg) := []
  /-- The x registers at the issue of a late-parked word. -/
  x : Vector Word 32 := Vector.replicate 32 0
deriving DecidableEq, Repr

/-- Where a long word of the wave stands when it is carried out over several turns: the compatibility unit has the
word, or has refused it (R34), a register miss is being loaded (R107). -/
inductive Busy
  | compat (word : BitVec 32) (result : Option Word)
  | refused (word : BitVec 32)
  | registerMiss (isAcc : Bool) (block : Nat) (due : Nat)
  | fetch (vaddr : Nat) (due : Nat)
deriving DecidableEq, Repr

/-- A fetched 32-byte block of a page that the instruction cache does not hold, until the wave leaves it (R73, R185,
R214): domain, PASID, address and bits. -/
structure FetchBuf where
  dom : Nat
  pasid : Nat
  block : Nat
  data : BitVec 256
deriving DecidableEq, Repr

/-- One mask stack entry: its mask and its `mstkt` word (R94). -/
structure MaskEntry where
  mask : Mask := 0
  word : Word := 0
deriving DecidableEq, Repr

/-- The CSRs of a wave that hold storage of their own (R90, R92). `mip` keeps STIP and SSIP; `wid` and `did` are in
their CSR form (R96). -/
structure Csrs where
  mstatus : Word := 0
  medeleg : Word := 0
  mideleg : Word := 0
  mie : Word := 0
  mip : Word := 0
  mtvec : Word := 0
  mscratch : Word := 0
  mepc : Word := 0
  mcause : Word := 0
  mtval : Word := 0
  mcounteren : Word := 0
  stvec : Word := 0
  scounteren : Word := 0
  sscratch : Word := 0
  sepc : Word := 0
  scause : Word := 0
  stval : Word := 0
  instret : Word := 0
  nround : Word := 0
  lastat : Word := 0
  mstkp : Word := 0
  mstksel : Word := 0
  sturncmp : Word := 0
  samask0 : Word := 0
  samask1 : Word := 0
  sgate : Word := 0
  stwlim : Word := 0
  mamask0 : Word := 0
  mamask1 : Word := 0
  mseq : Word := 0
  mdomfault : Word := 0
  mracefault : Word := 0
  mlav : Word := 0
  turn : Word := 0
  wid : Word := 0
  did : Word := 0
  fcsr : BitVec 32 := 0
deriving DecidableEq, Repr

/-- A bound wave. In a free slot it holds the blank wave (R87). -/
structure Wave where
  pc : Word := 0
  mode : Mode := .m
  x : Vector Word 32 := Vector.replicate 32 0
  f : Vector Word 32 := Vector.replicate 32 0
  p : Vector Mask 16 := Vector.replicate 16 0
  m : Vector Mask 8 := Vector.replicate 8 0
  amask : Mask := 0
  stack : Vector MaskEntry 32 := Vector.replicate 32 {}
  csrs : Csrs := {}
  /-- Declared profile set: bit 0 CL1, 1 CM1, 2 CK1, 3 CD1 (R77). -/
  profiles : BitVec 4 := 0
  /-- Lane register budget (R16). -/
  budget : Nat := 0
  /-- First register region (R16, R104). -/
  regBase : Nat := 0
  /-- Home group and home half (R15, R301). -/
  homeGroup : Bool := false
  homeHalf : Bool := false
  /-- Cluster team table index and team core index (R301). -/
  cteam : Nat := 0
  tcore : Nat := 0
  /-- Physical address of the context save area and its domain (R171). -/
  csa : Nat := 0
  csaDom : Nat := 0
  /-- Accumulator mask (R171). -/
  accMask : BitVec 32 := 0
  /-- Gate index of each level of the gate chain, level 1 first (R346). -/
  gates : List Nat := []
  /-- Lock count (R241). -/
  locks : Nat := 0
  /-- LR reservation: a 64-byte block (R90). -/
  reservation : Option Nat := none
  /-- Lane register blocks and accumulator tiles still absent after a restore (R106). -/
  absentBlocks : List Nat := []
  absentAccs : List Nat := []
  pending : List PendingOp := []
  wait : Option Wait := none
  park : Option Park := none
  busy : Option Busy := none
  /-- A precise cause that something outside the wave raised on its next word: cause and trap value (R361, R417). -/
  raised : Option (Nat × Word) := none
  /-- Deferred causes in order of arrival: cause and trap value (R159). -/
  deferred : List (Nat × Word) := []
  /-- Cycle at which the reclaim grace of a pending request started to count (R172). -/
  graceFrom : Option Nat := none
  /-- A late park was resolved during the handover in progress (R171). -/
  lateResolved : Bool := false
  /-- The fetched block that no cache holds (R185). -/
  fetchBuf : Option FetchBuf := none
deriving DecidableEq, Repr

/-- One of the 16 slots of a core (R32, R305). -/
structure Slot where
  state : SlotState := .free
  prq : Bool := false
  retd : Bool := false
  /-- Cycle at which the slot last issued a word (R24). -/
  lastIssue : Option Nat := none
  /-- Released or woken: it issues first at its own turn (R32). -/
  ownFirst : Bool := false
  wave : Wave := {}
deriving DecidableEq, Repr

/-- What the last word's meaning came to: it issued, it raised a trap or a precise park at issue, or it did not issue.
The step reads it to rank a pending pre-emption request after a cause at issue (R165). -/
inductive Verdict | issued | raised | notIssued
deriving DecidableEq, Repr

/-- A line of a virtually tagged core cache (R185 to R188). -/
structure CacheLine where
  dom : Nat
  pasid : Nat
  vline : Nat
  pline : Nat
  data : BitVec 512
  dirty : BitVec 64
  epoch : Nat
deriving DecidableEq, Repr

/-- Who holds an accumulator tile: the team, its team wave index and its domain (R249, R250). -/
structure Holder where
  team : Nat
  twave : Nat
  dom : Nat
deriving DecidableEq, Repr

/-- A reservation record: words 0, 1 and 2 as R251 lays them out (word 3 is zero), the holder's team, and for a cascade
reservation that no `mld` into it has completed since `ob.rsv` (the example of R262; DEDUCED, log 83). -/
structure Reserv where
  w0 : Word := 0
  w1 : Word := 0
  w2 : Word := 0
  team : Nat := 0
  fresh : Bool := false
deriving DecidableEq, Repr

/-- One granule of a scratchpad's granule pool (R312). -/
structure Granule where
  used : Bool := false
  dirty : Bool := false
deriving DecidableEq, Repr

/-- The race record of a 4-byte granule of a checked tile (R222). -/
structure RaceRec where
  wv : Bool := false
  wwave : Nat := 0
  wph : Nat := 0
  rv : Bool := false
  rwave : Nat := 0
  rph : Nat := 0
  rmulti : Bool := false
deriving DecidableEq, Repr

/-- A tile-level word in the sequencer (R258 to R261): its slot, address, fields, the step it is at, and whether it has
only its hand-off left. -/
structure SeqRun where
  slot : Nat
  pc : Word
  cascade : Bool
  word : LaneWord
  next : Nat
  last : Bool
  step : Nat
  nb : Nat
  sending : Bool
deriving DecidableEq, Repr

/-- A message in a send unit (R289 to R291): its parameters, bytes and sender (context save area, domain, team, address
of the word), when its next try is due, whether it is admitted (the ring's tile table entry and its padding), whether a
park of its sender holds it, and whether it is aborted. -/
structure Message where
  chan : Nat
  destCore : Nat
  tile : Nat
  endBit : Bool
  bytes : List Byte
  csa : Nat
  dom : Nat
  team : Nat
  pc : Word
  admitted : Option (Nat × Nat) := none
  held : Bool := false
  /-- The refusal of a bank of another domain, as an `mdomfault` word, that has not yet reached the sender: a saved wave,
  or one whose wait nothing divides (R162, R291). -/
  refused : Option Word := none
  aborted : Bool := false
  retries : Nat := 0
  due : Nat := 0
deriving DecidableEq, Repr

/-- An acknowledgement on its way back: the core it comes from, the message, its value, and its fault if any: cause and
`mdomfault` word (R297). -/
structure Ack where
  core : Nat
  msg : ActiveMsg
  value : Nat
  fault : Option (Nat × Word)
deriving DecidableEq, Repr

/-- A core (R13). -/
structure Core where
  slots : Table Slot := []
  /-- Lane registers, keyed ((region × 32 + entry) × 16 + lane within the half group) (R104). -/
  regs : Table Word32 := []
  /-- Scratchpad bytes by scratchpad byte address (R179). -/
  spad : Table Byte := []
  /-- Accumulator words, keyed tile × 2,048 + word (R248). -/
  acc : Table Word32 := []
  accHold : Table Holder := []
  /-- Operand buffer bytes (R184) and reservation records (R251). -/
  obuf : Table Byte := []
  resv : Table Reserv := []
  seq : Option SeqRun := none
  /-- Counting banks, keyed cell × 256 + counter, with k1 at 128 and on; overflow flags; the reservation record's
  words 0, 1 and 2 and its holder's team (R363, R364). -/
  bank : Table Nat := []
  cellFlag : Table Bool := []
  cntRec : Reserv := {}
  /-- Tile table entries, words 0 and 1 (R311), and the granule pool (R312). -/
  tiles : Table (Word × Word) := []
  granules : Table Granule := []
  /-- Window tiles of call gates: the gate key and level of the call that made each entry (R346); entries to be freed
  once idle (R347). -/
  gateTiles : Table (Nat × Nat) := []
  gateFree : List Nat := []
  /-- Race records by 4-byte scratchpad granule (R222). -/
  race : Table RaceRec := []
  send : List Message := []
  /-- The inbound queue of the remote service slot, and the messages held in the network (R297). -/
  inbound : List ActiveMsg := []
  network : List ActiveMsg := []
  /-- Cache lines: lane L1, hart data, instruction, constant, sampler (R184, R186). -/
  laneL1 : List CacheLine := []
  hartData : List CacheLine := []
  icache : List CacheLine := []
  constCache : List CacheLine := []
  samplerCache : List CacheLine := []
  /-- The cycle after the one in which lane words last accessed this core's scratchpad, and the banks they accessed in that
  one (R28; the model's own fields, DESIGN CHOICE, log 3). -/
  laneCycle : Nat := 0
  laneBanks : List Nat := []
  /-- Release epoch of the lane L1 (R188). -/
  epoch : Nat := 0
  /-- `DSLOT` by valid domain slot, DOMK of a slot that is not valid at 4 more; `DPREG0`–`DPREG15` as one slot code per
  register region, and `DPBANK0`–`DPBANK3` as one per bank, listed where they differ from reset (R335). -/
  dslot : Table Nat := []
  dpbank : Table Nat := []
  dpreg : Table Nat := []
  /-- Cycle at which the core was last reset: its own count starts there (R18). -/
  resetAt : Nat := 0
  /-- Bind record area, `BCTL`, `PRDOM`, `FWALL` (R300, R304, R305, R410). -/
  bindArea : Table Byte := []
  bctl : Word := 0
  prdom : Word := 0
  /-- The slots whose pre-emption the last writes of `PRDOM.GO` requested and that are not yet free (R305). -/
  prdomSlots : List Nat := []
  fwall : Word := 0
  /-- Occupied own turns not yet charged, by domain slot, with key 4 for a domain that has none (R376). -/
  residue : Table Nat := []
  /-- Event counters by number (R378). -/
  ev : Table Nat := []
deriving DecidableEq, Repr

/-- A team table entry: its word and CMAP (R306), the priority of its launch, which R288 reads, and one more than the
journal number of the launch command it belongs to, 0 for none (R308). -/
structure Team where
  word : Word := 0
  cmap : Table Nat := []
  prio : Nat := 0
  cmd : Nat := 0
deriving DecidableEq, Repr

/-- A team barrier (R356). -/
structure Barrier where
  exp : Nat := 0
  cnt : Nat := 0
  ph : Nat := 0
  wait : Nat := 0
  rev : Bool := false
  ref : Nat := 0
deriving DecidableEq, Repr

/-- The attach a segment's row of R324 waits to finish: team, core, first handle, slot and mode. -/
structure PendAttach where
  team : Nat
  core : Nat
  slot : Nat
  handle : Nat
  ro : Bool
deriving DecidableEq, Repr

/-- A segment table entry (R323) and its pending attach. -/
structure Segment where
  name : Word := 0
  dom : Nat := 0
  kind : Nat := 0
  att : Nat := 0
  res : Bool := false
  sst : Nat := 0
  rocnt : Nat := 0
  gen : BitVec 32 := 0
  back : Word := 0
  pasid : Nat := 0
  core : Nat := 0
  rwteam : Nat := 0
  /-- FIRST and granules of each tile. -/
  tiles : List (Nat × Nat) := []
  /-- Teams attached: team index, first handle (held by the tile tables in the device). -/
  teams : List (Nat × Nat) := []
  pend : Option PendAttach := none
  /-- The last eviction's write-back faulted. -/
  failed : Bool := false
deriving DecidableEq, Repr

/-- A cluster (R11). -/
structure Cluster where
  teams : Table Team := []
  /-- Team phases (R96, R224). -/
  phases : Table (BitVec 32) := []
  /-- Barriers, keyed team × 16 + N (R356). -/
  bars : Table Barrier := []
  segs : Table Segment := []
  /-- The 64-bit registers from 0x3_0000 on: iteration counters, event counters, `FRWR`, `FRRD` (R373, R379, R411). -/
  regs : Table Word := []
  /-- Park and segment fault records, 32 bytes each, not yet in the fault ring (R164, R411). -/
  faultWait : List (List Byte) := []
deriving DecidableEq, Repr

/-- A request in a die's compatibility queue (R296). -/
structure CompatReq where
  core : Nat
  slot : Nat
  word : BitVec 32
  rs1 : Word
  rs2 : Word
  rd : Word
deriving DecidableEq, Repr

/-- A compute die (R11). -/
structure Die where
  /-- Release directory: the recorded cores and epochs of each line (R188), and the drains not acknowledged, each with the
  epoch up to which its core drains. -/
  reldir : Table (List (Nat × Nat)) := []
  drains : Table (List (Nat × Nat)) := []
  predictor : Table Nat := []
  /-- The core that owns a line for its near atomics (R190). -/
  owners : Table Nat := []
  compat : List CompatReq := []
  /-- Domain and dirty bit of the L2 lines held (R189). -/
  l2 : Table (Nat × Bool) := []
  ecc : Table Nat := []
  eccBad : Table Nat := []
deriving DecidableEq, Repr

/-- A leaf held by a station: the page it translates, its result, and the leaf entries of the two stages (R195). -/
structure Leaf where
  pasid : Nat
  vpage : Nat
  ppage : Nat
  guest : Option Word
  host : Option Word
  htag : Nat
deriving DecidableEq, Repr

/-- Kinds of a translated access (R194). -/
inductive AccKind | fetch | load | store | amo
deriving DecidableEq, Repr

/-- Who waits for a translation (R196). -/
inductive ReqOrigin
  | wave (core slot : Nat)
  | engine (id : Nat)
  | host
  | prefetch
deriving DecidableEq, Repr

/-- A request at a station (R191). -/
structure StationReq where
  pasid : Nat
  dom : Nat
  va : Nat
  kind : AccKind
  mode : Mode
  sum : Bool
  origin : ReqOrigin
deriving DecidableEq, Repr

/-- A pointer entry held by a station: the walk it belongs to (a PASID and its host tag, stage 1, or a host tag alone,
stage 2), its level and the address bits above it, and the entry (R195). -/
structure PtrEntry where
  guest : Option Nat
  htag : Nat
  level : Nat
  prefix_ : Nat
  entry : Word
deriving DecidableEq, Repr

/-- A host-stage result held by a station: host tag, guest page, result page and leaf entry (R195). -/
structure HostPage where
  htag : Nat
  gpage : Nat
  ppage : Nat
  entry : Word
deriving DecidableEq, Repr

/-- A translation station (R191, R195). -/
structure Station where
  leaves : List Leaf := []
  /-- Context entries by PASID: word, GROOT, HROOT. -/
  ctx : Table (Word × Word × Word) := []
  /-- Pointer entries of guest walks, and host-stage results by guest page (R195). -/
  pointers : List PtrEntry := []
  hostPages : List HostPage := []
  /-- Miss table: the keys (PASID, VA[48:19]) of the walks, in the order of their first miss (R195). -/
  misses : List (Nat × Nat) := []
  /-- The request buffer: the requests that the walks of the miss table will serve, in arrival order; and those that wait at
  the mesh edge (R195). -/
  buffer : List StationReq := []
  edge : List StationReq := []
deriving DecidableEq, Repr

/-- A command accepted into the firmware column's intake and not complete (R275): its journal number, interface, packet
index and packet, the interface's domain and PASID when it was accepted, whether it is a recorded launch whose buffers could
not be read (R419), and whether it has started. -/
structure Command where
  seq : Nat
  iface : Nat
  index : Nat
  packet : List Byte
  dom : Nat
  pasid : Nat
  unreadable : Bool := false
  started : Bool := false
  /-- Every wave of every team of a co-resident grid has been bound at once, so that its waves may issue (R31). -/
  whole : Bool := false
  /-- Its completion store is made, and its COMPLETE record waits for room in the journal (R272). -/
  ended : Bool := false
deriving DecidableEq, Repr

/-- The engine command classes: copy, decompression, collective. -/
inductive EngClass | copy | dcz | coll
deriving DecidableEq, Repr

/-- Who posted an engine entry: core, slot, context save area, team, domain, PASID, its place in posting order, and for
a collective its instance of the group (R173, R278, R288, R397). -/
structure Poster where
  core : Nat
  slot : Nat
  csa : Nat
  team : Nat
  dom : Nat
  pasid : Nat
  seq : Nat := 0
  inst : Nat := 0
  /-- A reset has aborted the entry before its engine started it (R280). -/
  aborted : Bool := false
deriving DecidableEq, Repr

/-- A command an engine runs: its entry's position in the ring, the entry's image and its poster; the layout record or
dictionary it has read, whether its fill has begun, the tiles it fills as multicast bit, core and entry, the units it has
completed, its output where that is made as a whole, what a unit has not delivered, how it failed (error code, fault
cause, address and detail), the bytes it has written, whether only its completion is left, and whether it waits for its
tiles (R280 to R288, R398). -/
structure EngRun where
  index : Nat
  image : List Byte
  poster : Poster
  layout : List Byte := []
  begun : Bool := false
  targets : List (Nat × Nat × Nat) := []
  units : Nat := 0
  output : List Byte := []
  undel : Nat := 0
  failure : Option (Nat × Nat × Nat × Word) := none
  written : Nat := 0
  finished : Bool := false
  waiting : Bool := false
deriving DecidableEq, Repr

/-- A ring bound to an engine (R282, R288): its class, engine number, core and tile table entry, the posters of its
published entries not yet started, oldest first, the command that runs, and the save areas of waves whose commands are
asked to stop and stopped (R173). -/
structure Ring where
  id : Nat
  cls : EngClass
  engine : Nat
  core : Nat
  tile : Nat
  posters : List Poster := []
  running : Option EngRun := none
  asked : List Nat := []
  stopped : List Nat := []
deriving DecidableEq, Repr

/-- A collective instance started here: group, instance number, ring, and the other ranks' entries as they arrive from
the fabric: rank and entry bytes, and their SRC data (R397). -/
structure CollInst where
  group : Nat
  inst : Nat
  ring : Nat
  peers : List (Nat × List Byte × List Byte) := []
deriving DecidableEq, Repr

/-- What the device has sent out: a message, a doorbell, a request to a peer by its PBR ID and to a drive's BAR by bus address, a
rank's entry, data or failure to another rank, a marker, an SPDM answer, a management status. -/
inductive Out
  | msi (addr data : Nat)
  | doorbell (addr value : Nat)
  | peerWrite (pid addr : Nat) (bytes : List Byte)
  | peerRead (pid addr size : Nat)
  | peerAtomic (pid addr size op ty operand : Nat) (expected : Option Nat)
  | driveWrite (addr : Nat) (bytes : List Byte)
  | driveRead (addr size : Nat)
  | collective (pid group inst rank : Nat) (entry data : List Byte)
  | collectiveFailed (pid group inst rank : Nat)
  | marker (peer epoch : Nat)
  | hostData (tag : Nat) (bytes : List Byte) (poison : Bool)
  | hostDone (tag status : Nat)
  | answer (port code : Nat) (bytes : List Byte)
  | managed (status : Nat)
  | fatal
deriving DecidableEq, Repr

/-- Stages of the boot chain (R406). -/
inductive BootStage | reset | rom | firstStage | configured | failed
deriving DecidableEq, Repr

/-- The own turns after issue by which a result of each class is complete: this device's figures of R132 and R201,
not architectural (DEDUCED, log 5). -/
structure Latencies where
  special : Nat := 2
  divide : Nat := 3
  fp64 : Nat := 2
  fp64Special : Nat := 6
  scratchpad : Nat := 2
  window : Nat := 3
  cacheHit : Nat := 3
  l2 : Nat := 14
  accElement : Nat := 2
  accMove : Nat := 6
  countShort : Nat := 3
  countImage : Nat := 58
  countWide : Nat := 114
  registerMiss : Nat := 14
  fetch : Nat := 13
  activeMessage : Nat := 24
deriving DecidableEq, Repr

/-- The configuration in force (R409). -/
structure Cfg where
  colw : Nat := 1
  compat : Bool := true
  reclaim : Nat := 20
  period : Nat := 1000
  frbase : Nat := 0x100000
  recbase : Nat := 0
  rlog : Nat := 8
  colmap : List Nat := [0]
  colrole : List Nat := [7]
  funcport : Table Nat := []
  expanders : List (Nat × Nat) := []
  spare : Table Nat := []
  grant : Table Nat := []
deriving DecidableEq, Repr

/-- Operands of a device event: the core and slot, ring, queue, command or entry it acts on, and the choices and data
the manual leaves to firmware, to the host, to peers or to time. Each event's meaning says which it reads. -/
structure Args where
  core : Nat := 0
  slot : Nat := 0
  a : Nat := 0
  b : Nat := 0
  c : Nat := 0
  d : Nat := 0
  e : Nat := 0
  bytes : List Byte := []
  pairs : List (Nat × Nat) := []
  peers : List (Nat × List Byte × List Byte) := []
deriving DecidableEq, Repr

/-- A handover of the firmware column in progress (R415): each standby core with the old core whose place it takes, as indices
of COLMAP; the scheduling state that the old column has stored, which names its commands by journal number; and whether the
standby cores have read it. -/
structure ColHandover where
  pairs : List (Nat × Nat)
  stored : Option (List Nat) := none
  taken : Bool := false
deriving DecidableEq, Repr

/-- What the package is and how it is fitted: its ordering form (0 NHC-P8, 1 NHC-M8, 2 NHC-M8L), the ports that face a host
and a fabric switch as bit masks, its PBR ID, the expanders attached, as port × 256 + index and bytes, and the BARs of the
drives attached, as physical address and bytes (R1, R385, R387, R392, R393). Nothing that runs changes it. -/
structure Package where
  form : Nat := 0
  hostPorts : Nat := 0
  switchPorts : Nat := 0
  pbrId : Nat := 0
  expanders : List (Nat × Nat) := []
  drives : List (Nat × Nat) := []
deriving DecidableEq, Repr

/-- The machine. -/
structure State where
  /-- The core cycle (R18). -/
  cycle : Nat := 0
  /-- The number from which the next core to act in this cycle is looked for, and the core and slot that act now (the model's
  own fields, DESIGN CHOICE, log 3). -/
  coreIdx : Nat := 0
  curCore : Nat := 0
  curSlot : Nat := 0
  /-- The turn just taken may lend its other half group (R26; the model's own field, DESIGN CHOICE, log 3). -/
  half : Bool := false
  /-- Device events still to come, with their cycle (the model's own field, DESIGN CHOICE, log 2). -/
  agenda : List (Nat × Instr × Args) := []
  /-- Operands of the device event that acts (the model's own field, DESIGN CHOICE, log 2). -/
  args : Args := {}
  /-- Counter that the free values of `Config` are applied to (the model's own field, DESIGN CHOICE, log 1). -/
  freeCount : Nat := 0
  /-- What the last word came to (the model's own field, DESIGN CHOICE, log 3). -/
  verdict : Verdict := .issued
  /-- Latency of each class of long-latency word (DEDUCED, log 5). -/
  lat : Latencies := {}
  cores : Table Core := []
  clusters : Table Cluster := []
  dies : Table Die := []
  stations : Table Station := []
  /-- Global physical memory: HBM4, second tier and host memory (R178). -/
  mem : List Host.Cell := []
  /-- Device registers by offset in the register block, outside the core and cluster blocks (R384), where they differ
  from reset. -/
  regs : Table Word := []
  /-- Effective values of `TRPCTB` and `TRPCTL` (R197). -/
  pctb : Nat := 0
  pcount : Nat := 0
  /-- The invalidation in progress: the stations that have acknowledged it and its descriptor (R198, R199). -/
  inv : Option (List Nat × List Byte) := none
  /-- Home of a moved page and pages in host bias, by PA >> 19 (R189, R388); forwarding entries with their old home and
  count of host requests (R221). -/
  home : Table Nat := []
  hostBias : List Nat := []
  /-- Lines of pages in host bias, by PA / 64, whose bytes the host holds in its own caches, as the hub's resolution with the
  host brings them (R388). -/
  hostCopies : Table (List Byte) := []
  forwards : Table (Nat × Nat) := []
  /-- Poisoned 64-byte lines (R201); the populated second-tier ranges and those removed (R385). -/
  poison : List Nat := []
  populated : List (Nat × Nat) := []
  removed : List (Nat × Nat) := []
  /-- Acknowledgements of active messages on their way (R297) and the next reply tag. -/
  acks : List Ack := []
  nextTag : Nat := 0
  /-- Intake open, intake list, journal records waiting for room (R274 to R276). -/
  intake : Bool := true
  commands : List Command := []
  journalWait : List (List Byte) := []
  /-- Latch takes in progress: interface and the tail taken (R268). -/
  takes : Table Nat := []
  rings : List Ring := []
  nextRing : Nat := 0
  /-- Instance counts of the collective groups and instances started here (R395, R397). -/
  groupCount : Table Nat := []
  insts : List CollInst := []
  /-- Context save areas of saved waves (R171), and causes that reached them there: save area, cause, trap value and
  `mdomfault` (R291). -/
  saved : List Nat := []
  lateCauses : List (Nat × Nat × Word × Word) := []
  /-- Saved waves that a domain reset found inside a gate to that domain: the levels each leaves, by save area (R417). -/
  expelled : Table Nat := []
  /-- Cascade reservations of saved waves into which no `mld` has completed: save area and index (DEDUCED, log 83). -/
  freshHalves : List (Nat × Nat) := []
  /-- Cached stage-1 entries, keyed function × 32 + n (R351). -/
  stage1 : Table Word := []
  /-- Host-memory lines held in the hub coherence caches, the newest first (R386, R391). -/
  hostLines : List Nat := []
  /-- Markers kept, or counted in the cut in progress: peer and epoch; the device's own have been sent (R400). -/
  markers : List (Nat × Nat) := []
  markersSent : Bool := false
  outbox : List Out := []
  /-- Measurement registers, 64 bytes each (R407). -/
  meas : Table (List Byte) := []
  /-- Flash images, keyed kind × 2 + slot; next offset written to the slot not in use, by kind (R405, R413). -/
  flash : Table (List Byte) := []
  slotInUse : Table Nat := []
  /-- Fuses: the root key digest and the minimum SVN by kind (R405). -/
  rootDigest : List Byte := []
  minSvn : Table Nat := []
  stage : BootStage := .reset
  cfg : Cfg := {}
  pkg : Package := {}
  /-- Management core restarting; engines that reload microcode, keyed die and engine (R414, R416). -/
  mgmtBusy : Bool := false
  reloading : List (Nat × Nat) := []
  /-- What SPDM has exchanged over the mailbox of each host port (R408). -/
  transcripts : Table (List Byte) := []
  /-- A handover of the firmware column in progress (R415). -/
  column : Option ColHandover := none
  /-- A fatal error has stopped every core (R383). -/
  fatal : Bool := false
deriving DecidableEq, Repr

/-- The machine right after reset: the boot ROM is about to run (R406; DESIGN CHOICE, log 4). The manual leaves open which
ordering form the package is (R1), which ports face a host or a switch and which expanders it has: here an NHC-P8 with none
of them, `pkg := {}` (DESIGN CHOICE, log 4). -/
def State.reset : State := { agenda := [(1000, .bootRomStage, {})] }

end Sys2Proof.Machine
end

