-- ==== Sys2Proof/Machine/Ops.lean ====
section
/-! DEFINITION. The named operations over the machine's state: reading and changing the current core, slot and wave,
lane registers (R104), domain tags (R335), trap entry and return (R156, R157), parks (R163), and how a word's result
becomes the outcome of a step. -/

namespace Sys2Proof.Machine

/-! ### Cores, slots, waves -/

/-- Core `c` where it is not listed: as reset left it, with its idle cycles counted in `EVIDLE`, this cycle's among them once
its place in the order of the cores has passed (R378). -/
def State.idleCore (s : State) (c : Nat) : Core :=
  let n := s.cycle + (if c < s.coreIdx then 1 else 0)
  { ev := if n = 0 then [] else [(1, n)] }

/-- Core `c`. -/
def State.core (s : State) (c : Nat) : Core := Table.get s.cores c (s.idleCore c)

/-- Change core `c`. -/
def State.modCore (s : State) (c : Nat) (f : Core → Core) : State :=
  { s with cores := Table.put s.cores c (f (s.core c)) }

/-- Cluster of core `c` (R11). -/
def clusterOf (c : Nat) : Nat := c / 96

/-- Compute die of core `c` (R11). -/
def dieOf (c : Nat) : Nat := c / 192

/-- Cluster `k`. -/
def State.cluster (s : State) (k : Nat) : Cluster := Table.get s.clusters k {}

/-- Change cluster `k`. -/
def State.modCluster (s : State) (k : Nat) (f : Cluster → Cluster) : State :=
  { s with clusters := Table.put s.clusters k (f (s.cluster k)) }

/-- Slot `i` of a core. -/
def Core.slot (c : Core) (i : Nat) : Slot := Table.get c.slots i {}

/-- Change slot `i` of a core. -/
def Core.modSlot (c : Core) (i : Nat) (f : Slot → Slot) : Core :=
  { c with slots := Table.put c.slots i (f (c.slot i)) }

/-- Slot `i` of core `c`. -/
def State.slotAt (s : State) (c i : Nat) : Slot := (s.core c).slot i

/-- Change slot `i` of core `c`. -/
def State.modSlotAt (s : State) (c i : Nat) (f : Slot → Slot) : State :=
  s.modCore c (fun k => k.modSlot i f)

/-- Change the wave of slot `i` of core `c`. -/
def State.modWaveAt (s : State) (c i : Nat) (f : Wave → Wave) : State :=
  s.modSlotAt c i (fun k => { k with wave := f k.wave })

/-- The slot that acts. -/
def State.slot (s : State) : Slot := s.slotAt s.curCore s.curSlot

/-- The wave that acts. -/
def State.wave (s : State) : Wave := s.slot.wave

/-- Change the slot that acts. -/
def State.modSlot (s : State) (f : Slot → Slot) : State := s.modSlotAt s.curCore s.curSlot f

/-- Change the wave that acts. -/
def State.modWave (s : State) (f : Wave → Wave) : State := s.modWaveAt s.curCore s.curSlot f

/-- Change the CSRs of the wave that acts. -/
def State.modCsrs (s : State) (f : Csrs → Csrs) : State :=
  s.modWave (fun w => { w with csrs := f w.csrs })

/-- Change the core that acts. -/
def State.modCur (s : State) (f : Core → Core) : State := s.modCore s.curCore f

/-! ### Identity of a wave (R96) -/

/-- Width code of a wave (R83, R96). -/
def Wave.widthCode (w : Wave) : Nat := fld w.csrs.wid 1 0

/-- Declared width W. -/
def Wave.width (w : Wave) : Nat := 16 <<< w.widthCode

/-- Half groups the wave spans (R104). -/
def Wave.halves (w : Wave) : Nat := 1 <<< w.widthCode

/-- WM: the set of lanes 0 to W − 1 (R139). -/
def Wave.wm (w : Wave) : Mask := BitVec.ofNat 128 (2 ^ w.width - 1)

/-- Current domain (R96). -/
def Wave.dom (w : Wave) : Nat := fld w.csrs.did 7 0

/-- PASID of the current domain (R96). -/
def Wave.pasid (w : Wave) : Nat := fld w.csrs.did 35 16

/-- Gate nesting depth (R96). -/
def Wave.gdepth (w : Wave) : Nat := fld w.csrs.did 10 8

/-- Team wave index (R96). -/
def Wave.twave (w : Wave) : Nat := fld w.csrs.wid 26 19

/-- Team number within the grid (R96). -/
def Wave.team (w : Wave) : Nat := fld w.csrs.wid 55 32

/-- Register regions of the wave (R16). -/
def Wave.regions (w : Wave) : Nat := w.halves * (w.budget / 32)

/-! ### Hart registers and predicates (R89) -/

/-- x register `n`; x0 reads 0. -/
def Wave.getX (w : Wave) (n : Nat) : Word := if n = 0 then 0 else w.x.toList.getD n 0

/-- Write x register `n`; a write to x0 is discarded. -/
def Wave.setX (w : Wave) (n : Nat) (v : Word) : Wave :=
  if n = 0 then w else { w with x := w.x.setIfInBounds n v }

/-- f register `n`. -/
def Wave.getF (w : Wave) (n : Nat) : Word := w.f.toList.getD n 0

/-- Write f register `n`. -/
def Wave.setF (w : Wave) (n : Nat) (v : Word) : Wave := { w with f := w.f.setIfInBounds n v }

/-- Predicate `n`: p0 reads all ones, and lanes at or above W read 0. -/
def Wave.getP (w : Wave) (n : Nat) : Mask :=
  w.wm &&& (if n = 0 then BitVec.allOnes 128 else w.p.toList.getD n 0)

/-- Write the bits of `mask` in predicate `n`; writes to p0 and to lanes at or above W are ignored. -/
def Wave.setP (w : Wave) (n : Nat) (mask val : Mask) : Wave :=
  if n = 0 then w
  else { w with p := w.p.setIfInBounds n (((w.p.toList.getD n 0) &&& ~~~(mask &&& w.wm)) ||| (val &&& mask &&& w.wm)) }

/-- Mask register `n`, 1 to 7. -/
def Wave.getM (w : Wave) (n : Nat) : Mask := w.wm &&& w.m.toList.getD n 0

/-- Write the bits of `mask` in mask register `n`. -/
def Wave.setM (w : Wave) (n : Nat) (mask val : Mask) : Wave :=
  { w with m := w.m.setIfInBounds n (((w.m.toList.getD n 0) &&& ~~~(mask &&& w.wm)) ||| (val &&& mask &&& w.wm)) }

/-- Write `amask`; lanes at or above W stay clear (R93). -/
def Wave.setAmask (w : Wave) (v : Mask) : Wave := { w with amask := v &&& w.wm }

/-! ### Lane registers (R104) -/

/-- Region of register `n` of lane `l` (R104). -/
def Wave.region (w : Wave) (n l : Nat) : Nat := w.regBase + (n / 32) * w.halves + l / 16

/-- Key of register `n` of lane `l` in the core's lane register file. -/
def Wave.laneKey (w : Wave) (n l : Nat) : Nat := (w.region n l * 32 + n % 32) * 16 + l % 16

/-- Register `n` of lane `l`. -/
def Core.lane (c : Core) (w : Wave) (n l : Nat) : Word32 := Table.get c.regs (w.laneKey n l) 0

/-- Write register `n` of lane `l`. -/
def Core.setLane (c : Core) (w : Wave) (n l : Nat) (v : Word32) : Core :=
  { c with regs := Table.put c.regs (w.laneKey n l) v }

/-- Domain of a map code of DPREG or DPBANK: the domain of a valid slot, `none` where unassigned (R335). -/
def Core.domainOfCode (c : Core) (code : Nat) : Option Nat :=
  if code < 4 then Table.find c.dslot code else none

/-- Domain tag of a register region (R105, R335). -/
def Core.regionDom (c : Core) (r : Nat) : Option Nat := c.domainOfCode (Table.get c.dpreg r 4)

/-- Slot of a core that holds a domain. -/
def Core.slotOfDom (c : Core) (dom : Nat) : Option Nat := (c.dslot.find? (fun e => decide (e.1 < 4) && e.2 = dom)).map (fun e => e.1)

/-- The key of a core's residue of occupied own turns: one per domain slot, and one for what has none (R376). -/
def Core.residueKey (c : Core) (dom : Nat) : Nat := (c.slotOfDom dom).getD 4

/-- Domain tag of a scratchpad bank (R182, R335). -/
def Core.bankDom (c : Core) (b : Nat) : Option Nat := c.domainOfCode (Table.get c.dpbank b 4)

/-! ### Results of a word -/

/-- FS becomes Dirty: floating-point state changed. -/
def Wave.fpDirty (w : Wave) : Wave := { w with csrs := { w.csrs with mstatus := setFld w.csrs.mstatus 14 13 3 } }

/-- Apply one result to the wave of slot `i` of core `c`. -/
def State.applyAt (s : State) (c i : Nat) (u : Upd) : State :=
  match u with
  | .x n v => s.modWaveAt c i (fun w => w.setX n v)
  | .f n v => s.modWaveAt c i (fun w => (w.setF n v).fpDirty)
  | .v n l v => s.modCore c (fun k => k.setLane (k.slot i).wave n l v)
  | .p n l b => s.modWaveAt c i (fun w =>
      let mask := BitVec.ofNat 128 (2 ^ l)
      w.setP n mask (if b then mask else 0))
  | .m n mask v => s.modWaveAt c i (fun w => w.setM n mask v)
  | .amask v => s.modWaveAt c i (fun w => w.setAmask v)
  | .nflags b => s.modWaveAt c i (fun w =>
      { w with csrs := { w.csrs with nround := w.csrs.nround ||| (b.setWidth 64 <<< 8) } })
  | .fflags b => s.modWaveAt c i (fun w =>
      if b = 0 then w else ({ w with csrs := { w.csrs with fcsr := w.csrs.fcsr ||| b.setWidth 32 } }).fpDirty)
  | .defer cause tval =>
    if cause = 31 then
      (s.modCore c (fun k =>
        { k with cntRec := { k.cntRec with w1 := BitVec.ofNat 64 (tval.toNat * 2 ^ 16 + 1) } })).modWaveAt c i (fun w =>
          { w with deferred := if w.deferred.any (fun d => d.1 = 31)
              then w.deferred.map (fun d => if d.1 = 31 then (31, tval) else d)
              else w.deferred ++ [(31, tval)] })
    else s.modWaveAt c i (fun w => { w with deferred := w.deferred ++ [(cause, tval)] })
  | .cvalid n => s.modCore c (fun k =>
      match Table.find k.resv n with
      | some r => { k with resv := Table.put k.resv n { r with w2 := r.w2 ||| 0x100, fresh := false } }
      | none => k)

/-- Apply a word's results in order to the wave of slot `i` of core `c`. -/
def State.applyAllAt (s : State) (c i : Nat) (us : List Upd) : State :=
  us.foldl (fun s u => s.applyAt c i u) s

/-- Apply a word's results to the wave that acts. -/
def State.applyAll (s : State) (us : List Upd) : State := s.applyAllAt s.curCore s.curSlot us

/-- Count `n` more of event counter `k` of core `c` (R378). -/
def State.count (s : State) (c k n : Nat) : State :=
  s.modCore c (fun q => { q with ev := Table.put q.ev k ((Table.get q.ev k 0 + n) % 2 ^ 64) })

/-! ### Device events to come -/

/-- Events that charge a budget: they come last in their cycle, after a write of `DBADD` that meets them (R376, R381). -/
def chargesBudget (i : Instr) : Bool := i = .engineGranuleBoundary || i = .coreBudgetCharge

/-- An event comes before another: in an earlier cycle, or in the same one where only the other charges a budget. -/
def eventBefore (e a : Nat × Instr × Args) : Bool :=
  decide (e.1 < a.1) || (e.1 = a.1 && !chargesBudget e.2.1 && chargesBudget a.2.1)

/-- Put an event among those still to come; events of one cycle otherwise keep the order they were scheduled in. -/
def insertEvent (e : Nat × Instr × Args) : List (Nat × Instr × Args) → List (Nat × Instr × Args)
  | [] => [e]
  | a :: t => if eventBefore e a then e :: a :: t else a :: insertEvent e t

/-- Schedule a device event `delay` cycles from now. -/
def State.schedule (s : State) (delay : Nat) (i : Instr) (a : Args) : State :=
  { s with agenda := insertEvent (s.cycle + delay, i, a) s.agenda }

/-! ### Traps (R156, R157) -/

/-- The bit of a cause in a delegation register, taken into account below M-mode (R156). -/
def Wave.delegated (w : Wave) (intr : Bool) (cause : Nat) : Bool :=
  w.mode ≠ .m && bit (if intr then w.csrs.mideleg else w.csrs.medeleg).toNat cause

/-- Address of the handler: BASE, or BASE + 4 × cause for an interrupt in Vectored mode. -/
def trapTarget (tvec : Word) (intr : Bool) (cause : Nat) : Word :=
  let base := tvec &&& ~~~3#64
  if intr && tvec.getLsbD 0 then base + BitVec.ofNat 64 (4 * cause) else base

/-- The xcause word: bit 63 for an interrupt. -/
def causeWord (intr : Bool) (cause : Nat) : Word := BitVec.ofNat 64 (b2n intr * 2 ^ 63 + cause)

/-- Close every open lookahead window: each outstanding word's promise ends here (R23). -/
def Wave.closeWindows (w : Wave) : Wave :=
  { w with pending := w.pending.map (fun o => { o with la := 0 }) }

/-- Code of a mode in mstatus.MPP. -/
def Mode.code : Mode → Nat
  | .u => 0
  | .s => 1
  | .m => 3

/-- The mode of an MPP code; 2 names no mode and is never held (WARL). -/
def Mode.ofCode (n : Nat) : Mode := if n = 0 then .u else if n = 1 then .s else .m

/-- Trap entry of a wave at its word `epc` (R156). -/
def Wave.trapEntry (w : Wave) (intr : Bool) (cause : Nat) (tval epc : Word) : Wave :=
  let c := w.csrs
  let low := w.amask.setWidth 64
  let high := (w.amask >>> 64).setWidth 64
  let w := { w.closeWindows with reservation := none, amask := w.wm, wait := none, busy := none }
  if w.delegated intr cause then
    let st := c.mstatus.toNat
    let st := setBits st 5 5 (bits st 1 1)
    let st := setBits st 1 1 0
    let st := setBits st 8 8 (if w.mode = .u then 0 else 1)
    { w with
      mode := .s, pc := trapTarget c.stvec intr cause,
      csrs := { c with mstatus := BitVec.ofNat 64 st, sepc := epc &&& ~~~3#64, scause := causeWord intr cause,
                       stval := tval, samask0 := low, samask1 := high } }
  else
    let st := c.mstatus.toNat
    let st := setBits st 7 7 (bits st 3 3)
    let st := setBits st 3 3 0
    let st := setBits st 12 11 w.mode.code
    { w with
      mode := .m, pc := trapTarget c.mtvec intr cause,
      csrs := { c with mstatus := BitVec.ofNat 64 st, mepc := epc &&& ~~~3#64, mcause := causeWord intr cause,
                       mtval := tval, mamask0 := low, mamask1 := high } }

/-- Trap entry of the wave of slot `i` of core `c`; the slot runs (R32). -/
def State.trapAt (s : State) (c i : Nat) (intr : Bool) (cause : Nat) (tval epc : Word) : State :=
  s.modSlotAt c i (fun k => { k with state := .running, wave := k.wave.trapEntry intr cause tval epc })

/-- The active mask held in a pair of saved-mask registers. -/
def maskOf (low high : Word) : Mask := (high.setWidth 128 <<< 64) ||| low.setWidth 128

/-- `mret` (R157): mode, status and `amask` restored, windows closed. -/
def Wave.mretEffect (w : Wave) : Wave :=
  let c := w.csrs
  let st := c.mstatus.toNat
  let dst := Mode.ofCode (bits st 12 11)
  let st := setBits st 3 3 (bits st 7 7)
  let st := setBits st 7 7 1
  let st := setBits st 12 11 0
  let st := if dst = .m then st else setBits st 17 17 0
  { w.closeWindows with
    mode := dst, pc := c.mepc &&& ~~~3#64, amask := maskOf c.mamask0 c.mamask1 &&& w.wm,
    csrs := { c with mstatus := BitVec.ofNat 64 st } }

/-- `sret` (R157). -/
def Wave.sretEffect (w : Wave) : Wave :=
  let c := w.csrs
  let st := c.mstatus.toNat
  let dst := if bit st 8 then Mode.s else Mode.u
  let st := setBits st 1 1 (bits st 5 5)
  let st := setBits st 5 5 1
  let st := setBits st 8 8 0
  let st := setBits st 17 17 0
  { w.closeWindows with
    mode := dst, pc := c.sepc &&& ~~~3#64, amask := maskOf c.samask0 c.samask1 &&& w.wm,
    csrs := { c with mstatus := BitVec.ofNat 64 st } }

/-! ### Parks (R163, R164) -/

/-- The `mdomfault` word of a domain fault (R101). -/
def domFaultWord (write : Bool) (index point odom adom : Nat) : Word :=
  BitVec.ofNat 64 (b2n write * 2 ^ 28 + (index % 256) * 2 ^ 20 + (point % 16) * 2 ^ 16 + (odom % 256) * 2 ^ 8 + adom % 256)

/-- The 32 bytes of a park record (R164). -/
def parkRecord (c i : Nat) (w : Wave) (p : Park) : List Byte :=
  leBytes 8 p.pc.toNat ++ leBytes 8 p.tval.toNat ++ leBytes 2 c ++ leBytes 1 i ++ leBytes 1 p.recordCause ++
    leBytes 1 w.dom ++ leBytes 3 (w.pasid + b2n p.late * 2 ^ 23) ++
    leBytes 8 (if p.cause = 29 then w.csrs.mdomfault.toNat else 0)

/-- Park the wave of slot `i` of core `c` and send its park record towards the fault ring (R163, R164). -/
def State.parkAt (s : State) (c i : Nat) (p : Park) : State :=
  let w := (s.slotAt c i).wave
  let s := s.modSlotAt c i (fun k =>
    { k with
      state := if k.state = .handingOver then .handingOver else .parked,
      wave := { k.wave with park := some p, wait := none, busy := none } })
  (s.modCluster (clusterOf c) (fun q => { q with faultWait := q.faultWait ++ [parkRecord c i w p] })).schedule 0
    .faultRingAppend { core := clusterOf c }

/-! ### The outcome of a word -/

/-- What a word's meaning comes to before it is turned into the outcome of a step. -/
inductive Issue
  /-- The word issued, with its effect. -/
  | done (s : State)
  /-- A precise trap at the word (R159). The state carries what the trap's detail registers received. -/
  | trap (cause : Nat) (tval : Word) (s : State)
  /-- A cause that parks precisely at the word (R163). -/
  | park (cause : Nat) (tval : Word) (s : State)
  /-- The word's request is held at a station or cache tag: the wave parks late (R163). A word that has issued is held
  with its lanes; where nothing is listed, the word itself makes the request again on Resume. -/
  | latePark (cause recordCause : Nat) (tval pc : Word) (held : List (Instr × Mask)) (s : State)
  /-- The word does not issue and the slot waits (R32). -/
  | wait (kind : WaitKind) (s : State)
  /-- The word does not issue in this turn and the slot runs: a wait it may have been in has ended, and this one lends
  nothing (R25, R32). -/
  | hold (s : State)
  /-- The machine stops. -/
  | stop (r : Fault)

/-- A wait that moves the slot to the waiting state; one for a segment's eviction or its tiles' fills leaves it running,
since the table of R32 lists neither (R10, R32). -/
def WaitKind.moves : WaitKind → Bool
  | .segEvict _ => false
  | .segDet _ => false
  | _ => true

/-- A wait of the second kind goes on from one of the first: all but a `waita` that has read for the first time (R245). -/
def WaitKind.continues (old new : WaitKind) : Bool :=
  match new, old with
  | .waita _ _ _ _, .waita _ _ _ _ => true
  | .waita _ _ _ _, _ => false
  | _, _ => true

/-- The state after a word that did not issue and waits: the wait begins at this own turn, or goes on (R97). -/
def State.beginWait (s : State) (kind : WaitKind) : State :=
  s.modSlot (fun k =>
    { k with
      state := if kind.moves then .waiting else .running,
      wave := { k.wave with
        wait := some { kind := kind, start := match k.wave.wait with
          | some q => if q.kind.continues kind then q.start else k.wave.csrs.turn.toNat
          | none => k.wave.csrs.turn.toNat } } })

/-- The state after a word that does not issue and waits for no condition of R25: its slot runs, but for a slot whose
waiting word is fetched again (R19). -/
def State.endWait (s : State) : State :=
  match s.wave.wait, s.wave.busy with
  | none, _ => s
  | _, some (.fetch _ _) => s
  | _, _ => s.modSlot (fun k =>
      { k with state := if k.state = .waiting then .running else k.state, wave := { k.wave with wait := none } })

/-- The outcome of a word of the wave that acts. -/
def Issue.finish : Issue → Host.Outcome State Fault Refusal
  | .done s => .next { s with verdict := .issued }
  | .trap cause tval s =>
    .next { s.trapAt s.curCore s.curSlot false cause tval s.wave.pc with verdict := .raised }
  | .park cause tval s =>
    .next { s.parkAt s.curCore s.curSlot
      { late := false, cause := cause, recordCause := cause, tval := tval, pc := s.wave.pc, held := [] } with
      verdict := .raised }
  | .latePark cause rc tval pc held s =>
    .next { s.parkAt s.curCore s.curSlot
      { late := true, cause := cause, recordCause := rc, tval := tval, pc := pc, held := held,
        x := s.wave.x } with
      verdict := if held = [] then .notIssued else .issued }
  | .wait kind s => .next { s.beginWait kind with verdict := .notIssued }
  | .hold s => .next { s.endWait with verdict := .notIssued }
  | .stop r => .fault r

/-- Continue with the state of a word that issued. -/
def Issue.andThen (i : Issue) (f : State → Issue) : Issue :=
  match i with
  | .done s => f s
  | other => other

/-- Go on past checks that find nothing. -/
def afterCheck (r : Option Issue) (k : Unit → Issue) : Issue :=
  match r with
  | some i => i
  | none => k ()

/-- Account for a word of slot `i` of core `c` that has issued and goes on at `pc`: one more of `instret`, one more
position in every open window (R21, R90). -/
def State.issuedAt (s : State) (c i : Nat) (pc : Word) : State :=
  let s := s.modSlotAt c i (fun k =>
    { k with
      state := if k.state = .waiting then .running else k.state,
      lastIssue := some s.cycle,
      wave := { k.wave with
        pc := pc,
        wait := none,
        busy := none,
        pending := k.wave.pending.map (fun o => { o with since := o.since + 1 }),
        csrs := { k.wave.csrs with instret := k.wave.csrs.instret + 1 } } })
  s.count c 0 1

/-- The same for the slot that acts. -/
def State.issuedTo (s : State) (pc : Word) : State := s.issuedAt s.curCore s.curSlot pc

/-- Account for an issued word of `len` bytes that falls through. -/
def State.issued (s : State) (len : Nat) : State := s.issuedTo (s.wave.pc + BitVec.ofNat 64 len)

/-- A precise domain fault: `mdomfault` records the detail and the wave parks at the word (R101, R337). -/
def domFault (s : State) (write : Bool) (index point odom : Nat) (tval : Word) : Issue :=
  .park 29 tval (s.modCsrs (fun c => { c with mdomfault := domFaultWord write index point odom (fld c.did 7 0) }))

/-! ### Lookahead (R21, R22) -/

/-- The wave must wait: its next word would fall beyond the open window of an incomplete word, or follows an acquire
that is not complete at another core (R206, R219). -/
def Wave.windowClosed (w : Wave) : Bool := w.pending.any (fun o => o.fence || decide (o.la < o.since + 1))

/-- The outstanding words whose window the state `locs` touches lies in. -/
def Wave.violations (w : Wave) (locs : List Loc) : List PendingOp :=
  w.pending.filter (fun o => decide (o.since + 1 ≤ o.la) && o.locs.any (fun l => locs.contains l))

/-- The lookahead rules for a word that reads or writes `locs`: `none` where it may issue (R21, R22). A violation counts
once in `EVLAV`, however many turns its word then waits (R378). -/
def lookahead (s : State) (locs : List Loc) : Option Issue :=
  match s.wave.violations locs with
  | o :: rest =>
    let s := (s.modCsrs (fun c => { c with lastat := c.lastat ||| 1 })).count s.curCore 3 (b2n (!(o :: rest).any (fun q => q.broken)))
    let s := s.modWave (fun w => { w with pending := w.pending.map (fun q => if (o :: rest).contains q then { q with broken := true } else q) })
    if s.wave.csrs.mlav.getLsbD 0 then some (.trap 50 o.pc s) else some (.hold (s.count s.curCore 2 1))
  | [] => if s.wave.windowClosed then some (.hold (s.count s.curCore 2 1)) else none

/-- The location a lane word's operand names, for lookahead. -/
def Operand.locs (o : Operand) : List Loc :=
  (List.range o.cnt).map (fun k =>
    match o.kind with
    | .v => .v (o.idx + k)
    | .p => .p (o.idx + k)
    | .m => .m (o.idx + k)
    | .x => .x (o.idx + k)
    | .acc => .acc (o.idx + k)
    | .resv => .resv (o.idx + k)
    | .half => .half (o.idx + k)
    | .bank => .bank (o.idx + k)
    | .tile => .tile (o.idx + k)
    | .amask => .amask
    | .nround => .nround)

/-- x0 is no state: it neither waits nor breaks a window. -/
def liveLocs (ls : List Loc) : List Loc := ls.filter (fun l => l ≠ .x 0 && l ≠ .p 0)

/-! ### Illegal words and modes -/

/-- A word of profile `k` (0 CL1, 1 CM1, 2 CK1, 3 CD1) is enabled: always in M-mode, otherwise when the wave's
declared set holds it (R77). -/
def Wave.profileOn (w : Wave) (k : Nat) : Bool := w.mode = .m || bit w.profiles.toNat k

/-- The wave that acts runs or waits at this word. -/
def State.canIssue (s : State) : Bool := s.slot.state = .running || s.slot.state = .waiting

/-- An illegal-instruction trap (R60, R74). -/
def illegal (s : State) (bits63 : Word) : Issue := .trap 2 bits63 s

/-- A scalar device word of profile `k` with encoding `enc`: profile check, lookahead over `locs`, then its effect. -/
def scalarWord (s : State) (k : Nat) (enc : BitVec 32) (locs : List Loc) (legal : Bool) (body : State → Issue) :
    Host.Outcome State Fault Refusal :=
  if !s.canIssue then .fault .noRunningWave
  else if !(s.wave.profileOn k && legal) then (illegal s (enc.setWidth 64)).finish
  else
    match lookahead s (liveLocs locs) with
    | some i => i.finish
    | none => (body s).finish

end Sys2Proof.Machine
end

