-- ==== Sys2Proof/Machine/Physical.lean ====
section
/-! DEFINITION. Physical memory: the map of R178, reads and writes at the home L2 (R189), poisoned lines (R201), and
the fixed registers that say what is populated (R385, R393). -/

namespace Sys2Proof.Machine

/-- Die `d`. -/
def State.die (s : State) (d : Nat) : Die := Table.get s.dies d {}

/-- Change die `d`. -/
def State.modDie (s : State) (d : Nat) (f : Die → Die) : State := { s with dies := Table.put s.dies d (f (s.die d)) }

/-- The canonical form of the machine's memory: addresses strictly rising, and no entry equal to what an unlisted
address reads as. -/
def Memory.wf (m : List Host.Cell) : Bool := Bytes.wf m

/-- Send something to the outside. -/
def State.emit (s : State) (o : Out) : State := { s with outbox := s.outbox ++ [o] }

/-- Reset value of the device register at an offset of the register block (R267, R273, R350, R375, R385, R404). -/
def regReset (off : Nat) : Word :=
  if off = 0x0 then 0x7735940000
  else if off = 0x10 then 1
  else if off = 0x11008 then 6
  else if off = 0x13100 then 0x1000
  else if off = 0x13108 then 0x100004000
  else if off = 0x13110 then 0x200010000
  else if 0x13118 ≤ off ∧ off ≤ 0x13138 ∧ off % 8 = 0 then BitVec.ofNat 64 ((off - 0x13100) / 8 * 2 ^ 32)
  else if off = 0x1A000 then 2600
  else if 0x14000 ≤ off ∧ off < 0x15000 ∧ off % 16 = 8 then 0xFFFFFFFF00000000
  else if 0x100000 ≤ off ∧ off < 0x120000 ∧ off % 64 = 0 then 8
  else 0

/-- The stored value of a device register. -/
def State.reg (s : State) (off : Nat) : Word := Table.get s.regs off (regReset off)

/-- Store a device register. -/
def State.setReg (s : State) (off : Nat) (v : Word) : State := { s with regs := Table.put s.regs off v }

/-- What a physical address names (R178). -/
inductive PaKind | dram | peer | host | drive | aperture | register | nothing
deriving DecidableEq, Repr

/-- A byte range of the second tier is populated (R385). -/
def State.secondTier (s : State) (pa : Nat) : Bool :=
  s.populated.any (fun r => decide (r.1 ≤ pa ∧ pa < r.1 + r.2)) &&
    !s.removed.any (fun r => decide (r.1 ≤ pa ∧ pa < r.1 + r.2))

/-- Peer table entry of a peer (R393). -/
def State.peerEntry (s : State) (p : Nat) : Word := s.reg (0x18100 + 8 * p)

/-- The map of R178, with the BARs of drives in host memory (R392). -/
def State.paKind (s : State) (pa : Nat) : PaKind :=
  if pa < 2 ^ 48 then (if pa < fld (s.reg 0) 39 0 then .dram else .nothing)
  else if pa < 2 ^ 49 then (if s.secondTier pa then .dram else .nothing)
  else if pa < 2 ^ 50 then (if (s.peerEntry (bits pa 48 43)).getLsbD 63 then .peer else .nothing)
  else if pa < 2 ^ 51 then
    (if s.pkg.drives.any (fun r => decide (r.1 ≤ pa ∧ pa < r.1 + r.2)) then .drive else .host)
  else if 0xE000000000000 ≤ pa ∧ pa < 0xE000030000000 then .aperture
  else if 0xF000000000000 ≤ pa ∧ pa < 0x10000000000000 then .register
  else .nothing

/-- The 64-byte line `l` meets the `n` bytes at `pa`. -/
def lineMeets (pa n l : Nat) : Bool := decide (pa < 64 * l + 64 ∧ 64 * l < pa + n)

/-- The line of a physical address is poisoned (R201). -/
def State.poisoned (s : State) (pa : Nat) : Bool := s.poison.contains (pa / 64)

/-- One of the lines of `n` bytes is poisoned. -/
def State.poisonedIn (s : State) (pa n : Nat) : Bool := s.poison.any (fun l => lineMeets pa n l)

/-- Home die of a physical address (R189). -/
def State.homeDie (s : State) (pa : Nat) : Nat := Table.get s.home (pa >>> 19) ((pa >>> 19) % 8)

/-- Lines an L2 holds: 64 MiB of 64 bytes (R184). -/
def l2Capacity : Nat := 1048576

/-- Lines a hub die's coherence cache holds: 8 MiB of 64 bytes (R386). -/
def hubCapacity : Nat := 131072

/-- The hub die whose coherence cache holds a host line (DESIGN CHOICE, log 8). -/
def hubOf (line : Nat) : Nat := (line >>> 13) % 2

/-- Host lines with `line` the newest of its hub die; the oldest beyond the hub's capacity leaves (R386). -/
def keepHostLine (ls : List Nat) (line : Nat) : List Nat :=
  let rest := ls.filter (· ≠ line)
  let gone := (rest.filter (fun l => hubOf l = hubOf line)).drop (hubCapacity - 1)
  line :: rest.filter (fun l => !gone.contains l)

/-- Make room for a line in an L2 that does not hold it: where it is full, the first line listed leaves (R184;
DESIGN CHOICE, log 8). The bytes of a line stand in memory throughout, so that nothing else changes. -/
def Die.roomFor (d : Die) (line : Nat) : Table (Nat × Bool) :=
  if (Table.find d.l2 line).isSome || decide (d.l2.length < l2Capacity) then d.l2 else d.l2.tail

/-- A line is held at its home: in its home L2 for domain `dom`, where a line of another domain is written back first
(R189), or for host memory in a hub coherence cache (R391). No other line is held (R178, R394). -/
def State.touchL2 (s : State) (pa dom : Nat) (write : Bool) : State :=
  if s.paKind pa = .host then
    { s with hostLines := keepHostLine s.hostLines (pa / 64) }
  else
    if s.paKind pa ≠ .dram then s
    else s.modDie (s.homeDie pa) (fun d =>
      let old := Table.find d.l2 (pa / 64)
      let dirty := write || (match old with
        | some (q, b) => b && decide (q = dom)
        | none => false)
      { d with l2 := Table.put (d.roomFor (pa / 64)) (pa / 64) (dom, dirty) })

/-- The lines of `n` bytes at `pa` are held at their homes. -/
def State.touchRange (s : State) (pa n dom : Nat) (write : Bool) : State :=
  if n = 0 then s
  else (List.range ((pa + n - 1) / 64 - pa / 64 + 1)).foldl (fun s k => s.touchL2 (64 * (pa / 64 + k)) dom write) s

/-- A byte of device memory after the hub's resolution with the host: the host's copy of its line comes first (R388). -/
def State.resolvedByte (s : State) (a : Nat) : Byte :=
  match Table.find s.hostCopies (a / 64) with
  | some bs => bs.getD (a % 64) 0
  | none => Bytes.read s.mem a

/-- What a device write of bytes leaves of the host's copies. -/
def patchCopies (t : Table (List Byte)) (pa : Nat) (bs : List Byte) : Table (List Byte) :=
  t.map (fun e => (e.1, (List.range 64).map (fun k =>
    let a := 64 * e.1 + k
    if pa ≤ a ∧ a < pa + bs.length then bs.getD (a - pa) 0 else e.2.getD k 0)))

/-- The `n` bytes at a physical address as a little-endian number, as the home L2 has them; bytes of a peer and of a drive are
free values (R392, R394). -/
def State.readPhys (s : State) (pa n : Nat) : Nat :=
  match s.paKind pa with
  | .peer | .drive => leValue ((List.range n).map (fun k => Config.freeByte (s.freeCount + k)))
  | _ => if s.hostCopies = [] then Bytes.readLE s.mem pa n else leValue ((List.range n).map (fun k => s.resolvedByte (pa + k)))

/-- The PBR ID of the peer that a physical address names, and the peer's device physical address (R394). -/
def State.peerPlace (s : State) (pa : Nat) : Nat × Nat :=
  let e := s.peerEntry (bits pa 48 43)
  (fld e 11 0, bits pa 42 0 + (if e.getLsbD 61 then 2 ^ 48 else 0))

/-- Bus address of a physical address in a drive's BAR (R392). -/
def busAddress (pa : Nat) : Nat := pa - 0x4000000000000

/-- The state after one free value has been used. -/
def State.tookFree (s : State) : State := { s with freeCount := s.freeCount + 1 }

/-- A read whose bytes are free values travels to its peer or drive (R392, R394). -/
def State.usedFree (s : State) (pa n : Nat) : State :=
  let t : State := { s with freeCount := s.freeCount + n }
  match s.paKind pa with
  | .peer => t.emit (.peerRead (s.peerPlace pa).1 (s.peerPlace pa).2 n)
  | .drive => t.emit (.driveRead (busAddress pa) n)
  | _ => s

/-- A write of `n` bytes wakes the waves whose `waita` watches one of its lines, on one core or on all (R245). -/
def State.wake (s : State) (pa n : Nat) (only : Option Nat) : State :=
  s.cores.foldl (fun s c => c.2.slots.foldl (fun s k =>
    match k.2.wave.wait with
    | some { kind := .waita p _ _ _, start := _ } =>
      if lineMeets pa n (p / 64) ∧ (only = none ∨ only = some c.1) then
        s.schedule 0 .waitaRecheck { core := c.1, slot := k.1 }
      else s
    | _ => s) s) s

/-- Offsets of `IRTBASE` and `IRTCOUNT` (R352). -/
def irtbase : Nat := 0x16000
def irtcount : Nat := 0x16008

/-- Entries of the interrupt remapping table that a write of `n` bytes at `pa` leaves pending and not masked are to be sent
(R352). -/
def State.unmasked (s : State) (pa n : Nat) : State :=
  let base := fld (s.reg irtbase) 51 13 * 8192
  let count := (s.reg irtcount).toNat
  if pa + n ≤ base ∨ base + 16 * count ≤ pa then s
  else
    (List.range (n / 16 + 2)).foldl (fun s k =>
      let v := (pa - base) / 16 + k
      let f := Bytes.readLE s.mem (base + 16 * v + 12) 1
      if v < count ∧ bit f 0 ∧ bit f 2 ∧ !bit f 1 then s.schedule 0 .irtMaskClear { a := v } else s) s

/-- A line that `n` bytes from `pa` fill is no longer poisoned (R201). -/
def State.unpoison (s : State) (pa n : Nat) : State :=
  { s with poison := s.poison.filter (fun l => ¬ (pa ≤ 64 * l ∧ 64 * l + 64 ≤ pa + n)) }

/-- Write bytes at a physical address; a peer's and a drive's bytes leave the device (R392, R394), and a line written whole is
no longer poisoned (R201). -/
def State.writePhys (s : State) (pa : Nat) (bs : List Byte) : State :=
  match s.paKind pa with
  | .peer => s.emit (.peerWrite (s.peerPlace pa).1 (s.peerPlace pa).2 bs)
  | .drive => s.emit (.driveWrite (busAddress pa) bs)
  | _ =>
    (({ s with mem := Bytes.writeList s.mem pa bs, hostCopies := patchCopies s.hostCopies pa bs }.wake pa bs.length none).unmasked
      pa bs.length).unpoison pa bs.length

/-- Core bytes of a scratchpad (R179) with the granule's dirty bit (R312). -/
def Core.writeSpad (c : Core) (a : Nat) (bs : List Byte) : Core :=
  let touched := if bs = [] then [] else (List.range ((a + bs.length - 1) / 1024 - a / 1024 + 1)).map (· + a / 1024)
  { c with
    spad := Bytes.writeList c.spad a bs,
    granules := touched.foldl (fun g k => Table.put g k { Table.get g k {} with dirty := true }) c.granules }

/-- A store of `n` bytes breaks every other agent's LR reservation on a 64-byte block it meets (R90). -/
def State.breakBlock (s : State) (pa n : Nat) (own : Option (Nat × Nat)) : State :=
  s.cores.foldl (fun s c => c.2.slots.foldl (fun s k =>
    if k.2.wave.reservation.any (lineMeets pa n) ∧ own ≠ some (c.1, k.1) then
      s.modWaveAt c.1 k.1 (fun w => { w with reservation := none })
    else s) s) s

/-- Aperture address of a scratchpad byte (R181). -/
def spadPa (core a : Nat) : Nat := 0xE000000000000 + core * 0x80000 + a

/-- Put bytes into the scratchpad of a core, as any agent's store does (R90, R201, R245, R312). -/
def State.spadWrite (s : State) (core a : Nat) (bs : List Byte) (own : Option (Nat × Nat)) : State :=
  (((s.breakBlock (spadPa core a) bs.length own).modCore core (fun q => q.writeSpad a bs)).unpoison (spadPa core a) bs.length).wake
    (spadPa core a) bs.length none

/-- An agent other than a wave writes bytes at a physical address for a domain: memory, a scratchpad through the
aperture, or a register; an address that names nothing takes nothing. -/
def State.agentWriteAs (s : State) (dom pa : Nat) (bs : List Byte) : State :=
  match s.paKind pa with
  | .nothing => s
  | .aperture => s.spadWrite ((pa - 0xE000000000000) / 0x80000) ((pa - 0xE000000000000) % 0x80000) bs none
  | .register => s.schedule 0 .registerWrite { a := pa - 0xF000000000000, b := bs.length, c := leValue bs }
  | _ => ((s.touchRange pa bs.length dom true).breakBlock pa bs.length none).writePhys pa bs

/-- The same for an agent that carries no domain, as the host and the hub: it counts as domain 0 (DESIGN CHOICE,
log 51). -/
def State.agentWrite (s : State) (pa : Nat) (bs : List Byte) : State := s.agentWriteAs 0 pa bs

/-- Banks that `n` bytes of scratchpad from `a` lie in (R179). -/
def banksOf (a n : Nat) : List Nat :=
  if n = 0 then [] else (List.range ((a + n - 1) / 16384 - a / 16384 + 1)).map (· + a / 16384)

/-- The first bank of a range that is not the domain's (R182). -/
def Core.bankViolation (c : Core) (dom a n : Nat) : Option Nat :=
  (banksOf a n).find? (fun b => c.bankDom b ≠ some dom)

end Sys2Proof.Machine
end

