-- ==== Sys2Proof/Machine/Translate.lean ====
section
/-! DEFINITION. Translation stations: the PASID context table, the two-stage walk, cached leaf and context entries
(R191 to R196). -/

namespace Sys2Proof.Machine

/-- How a translation fails: a page fault of a stage, the PASID binding, or an access fault (R194, R178). -/
inductive TFault
  | page (stage : Nat)
  | domain (odom : Nat)
  | access
deriving DecidableEq, Repr

/-- A translated address and its memory type: 0 cacheable, 1 uncached, 2 device (R192). -/
structure Target where
  pa : Nat
  mt : Nat
deriving DecidableEq, Repr

/-- Station of a core's die for a virtual address (R191). -/
def stationOf (die va : Nat) : Nat := die * 8 + ((bits va 21 19) ^^^ (bits va 24 22) ^^^ (bits va 27 25))

/-- Station `k`. -/
def State.station (s : State) (k : Nat) : Station := Table.get s.stations k {}

/-- Change station `k`. -/
def State.modStation (s : State) (k : Nat) (f : Station → Station) : State :=
  { s with stations := Table.put s.stations k (f (s.station k)) }

/-- Page address of an entry, bits 51:13 (R192). -/
def pteAddr (e : Word) : Nat := fld e 51 13 * 2 ^ 13

/-- A valid entry with no reserved bit set (R192). -/
def pteValid (e : Word) : Bool := e.getLsbD 0 && fld e 63 54 = 0 && fld e 12 8 = 0 && !e.getLsbD 5

/-- The entry is a pointer: ZR, W and X clear. -/
def ptePointer (e : Word) : Bool := !e.getLsbD 1 && !e.getLsbD 2 && !e.getLsbD 3

/-- What an access needs of a leaf, without the U bit: A set, no W without ZR, and its own permission (R194). -/
def leafAllows (k : AccKind) (e : Word) : Bool :=
  e.getLsbD 6 && !(e.getLsbD 2 && !e.getLsbD 1) &&
    (match k with
      | .fetch => e.getLsbD 3
      | .load => e.getLsbD 1
      | .store => e.getLsbD 2 && e.getLsbD 7
      | .amo => e.getLsbD 1 && e.getLsbD 2 && e.getLsbD 7)

/-- The U-bit rule of a guest-stage leaf (R194). -/
def userAllows (k : AccKind) (mode : Mode) (sum : Bool) (e : Word) : Bool :=
  match mode with
  | .u => e.getLsbD 4
  | .s => !(e.getLsbD 4 && (k = .fetch || !sum))
  | .m => !(e.getLsbD 4 && k = .fetch)

/-- The checks a request makes of the leaf of each stage, and of the host-stage leaves of its guest walk. -/
structure LeafChecks where
  guest : Word → Bool
  host : Word → Bool
  table : Word → Bool := leafAllows .load

/-- The checks of an ordinary request. -/
def requestChecks (r : StationReq) : LeafChecks :=
  { guest := fun e => leafAllows r.kind e && userAllows r.kind r.mode r.sum e, host := leafAllows r.kind }

/-- What a finished walk has met: the address its result stands at, its leaf, and its pointer entries by level with the
address each was read at. -/
structure Walked where
  pa : Nat
  leaf : Word
  trail : List (Nat × Nat × Word) := []

/-- Address of the table entry of a level (R194). -/
def entryAddr (a lvl tbl : Nat) : Nat := tbl + 8 * bits a (10 * lvl + 28) (10 * lvl + 19)

/-- One walk over the levels still to read: a pointer entry that the station holds is not read again (R195); the entry
address goes through `xl`, and the leaf through `ok`. -/
def walkLevels (s : State) (stage : Nat) (ptr : Nat → Option Word) (xl : Nat → Except TFault Nat) (ok : Word → Bool)
    (a : Nat) (trail : List (Nat × Nat × Word)) : List Nat → Nat → Except TFault Walked
  | [], _ => .error (.page stage)
  | lvl :: rest, tbl =>
    match ptr lvl with
    | some e => walkLevels s stage ptr xl ok a trail rest (pteAddr e)
    | none => do
      let at' := entryAddr a lvl tbl
      let ea ← xl at'
      if s.paKind ea = .nothing ∨ s.poisoned ea then .error .access
      else
        let e := BitVec.ofNat 64 (s.readPhys ea 8)
        if !pteValid e then .error (.page stage)
        else if ptePointer e then
          if lvl = 0 ∨ e.getLsbD 4 ∨ e.getLsbD 6 ∨ e.getLsbD 7 ∨ fld e 53 52 ≠ 0 then .error (.page stage)
          else walkLevels s stage ptr xl ok a (trail ++ [(lvl, at', e)]) rest (pteAddr e)
        else
          let n := 19 + 10 * lvl
          if fld e 53 52 = 3 ∨ pteAddr e % 2 ^ n ≠ 0 ∨ !ok e then .error (.page stage)
          else .ok { pa := pteAddr e + a % 2 ^ n, leaf := e, trail := trail ++ [(lvl, at', e)] }

/-- The walk of one stage from its root (R194). -/
def walkStage (s : State) (stage : Nat) (ptr : Nat → Option Word) (xl : Nat → Except TFault Nat) (ok : Word → Bool)
    (a root : Nat) : Except TFault Walked :=
  if 2 ^ 49 ≤ a then .error (.page stage) else walkLevels s stage ptr xl ok a [] [2, 1, 0] root

/-- The pointer entry of a level that a station holds for a walk of address `a` (R195). -/
def Station.pointer (t : Station) (guest : Option Nat) (htag a lvl : Nat) : Option Word :=
  (t.pointers.find? (fun p => p.guest = guest && p.htag = htag && p.level = lvl &&
    p.prefix_ = a >>> (10 * lvl + 19))).map (fun p => p.entry)

/-- A context entry with no reserved bit set (R193). -/
def contextClean (c : Word × Word × Word) (tail : Nat) : Bool :=
  fld c.1 63 32 = 0 && fld c.1 7 3 = 0 && fld c.2.1 63 52 = 0 && fld c.2.1 12 0 = 0 &&
    fld c.2.2 63 52 = 0 && fld c.2.2 12 0 = 0 && tail = 0

/-- The context entry of a PASID as memory holds it (R193). -/
def State.contextWords (s : State) (pasid : Nat) : Word × Word × Word :=
  let a := s.pctb + 32 * pasid
  (BitVec.ofNat 64 (s.readPhys a 8), BitVec.ofNat 64 (s.readPhys (a + 8) 8), BitVec.ofNat 64 (s.readPhys (a + 16) 8))

/-- The context entry of a PASID for a domain, or the failed binding (R194); a table that no populated range holds is an
access fault (R178). -/
def State.context (s : State) (k pasid dom : Nat) : Except TFault (Word × Word × Word) :=
  let check (c : Word × Word × Word) (tail : Nat) : Except TFault (Word × Word × Word) :=
    if !c.1.getLsbD 0 then .error (.domain 0)
    else if fld c.1 15 8 ≠ dom ∨ !contextClean c tail then .error (.domain (fld c.1 15 8))
    else .ok c
  if s.pcount ≤ pasid then .error (.domain 0)
  else
    match Table.find (s.station k).ctx pasid with
    | some c => check c 0
    | none =>
      let at' := s.pctb + 32 * pasid
      if s.paKind at' = .nothing ∨ s.poisoned at' then .error .access
      else check (s.contextWords pasid) (s.readPhys (at' + 24) 8)

/-- A translation that succeeded: its address, the leaf entries it met, and what its station is to hold of it (R195). -/
structure Found where
  pa : Nat
  guest : Option Word
  host : Option Word
  pointers : List PtrEntry := []
  hostPages : List HostPage := []

/-- HTAG of a context (R193). -/
def htagOf (c : Word × Word × Word) : Nat := fld c.1 31 16

/-- The host-stage walk of a guest physical address at station `k`, or the result the station holds for its page
(R194, R195). -/
def hostWalk (s : State) (k : Nat) (c : Word × Word × Word) (ok : Word → Bool) (a : Nat) : Except TFault Walked :=
  let t := s.station k
  match t.hostPages.find? (fun p => p.htag = htagOf c && p.gpage = a >>> 19 && ok p.entry) with
  | some p => .ok { pa := p.ppage * 2 ^ 19 + a % 2 ^ 19, leaf := p.entry }
  | none => walkStage s 2 (t.pointer none (htagOf c) a) .ok ok a c.2.2.toNat

/-- Pointer entries of a walk as a station holds them. -/
def Walked.pointers (w : Walked) (guest : Option Nat) (htag a : Nat) : List PtrEntry :=
  (w.trail.filter (fun e => ptePointer e.2.2)).map (fun e =>
    { guest := guest, htag := htag, level := e.1, prefix_ := a >>> (10 * e.1 + 19), entry := e.2.2 })

/-- The two-stage translation of `va` at station `k` under the context of a PASID (R194). -/
def translateWalk (s : State) (k pasid : Nat) (c : Word × Word × Word) (chk : LeafChecks) (va : Nat) :
    Except TFault Found := do
  let s2 := c.1.getLsbD 2
  let entry (a : Nat) : Except TFault Nat :=
    if s2 then (hostWalk s k c chk.table a).map (fun q => q.pa) else .ok a
  let g ← if c.1.getLsbD 1 then
      walkStage s 1 ((s.station k).pointer (some pasid) (htagOf c) va) entry chk.guest va c.2.1.toNat
    else .ok { pa := va, leaf := 0 }
  let guest := if c.1.getLsbD 1 then some g.leaf else none
  if s2 then
    let h ← hostWalk s k c chk.host g.pa
    let tables := g.trail.filterMap (fun e =>
      match hostWalk s k c chk.table e.2.1 with
      | .ok w => some (e.2.1, w)
      | .error _ => none)
    let hosts := tables ++ [(g.pa, h)]
    pure { pa := h.pa, guest := guest, host := some h.leaf,
           pointers := g.pointers (some pasid) (htagOf c) va ++
             hosts.flatMap (fun q => q.2.pointers none (htagOf c) q.1),
           hostPages := hosts.map (fun q =>
             { htag := htagOf c, gpage := q.1 >>> 19, ppage := q.2.pa >>> 19, entry := q.2.leaf }) }
  else pure { pa := g.pa, guest := guest, host := none, pointers := g.pointers (some pasid) (htagOf c) va }

/-- MT of an optional leaf. -/
def mtOf (e : Option Word) : Nat := match e with
  | some e => fld e 53 52
  | none => 0

/-- The target of a translation: the stricter memory type of the two stages, and host-bias, peer and drive pages are
never cached (R194, R388, R392, R394). -/
def State.targetOf (s : State) (pa : Nat) (g h : Option Word) : Target :=
  let mt := if mtOf g < mtOf h then mtOf h else mtOf g
  let raw := s.paKind pa
  let mt := if mt = 0 ∧ (raw = .peer ∨ raw = .drive ∨ raw = .aperture ∨ raw = .register ∨ s.hostBias.contains (pa >>> 19)) then 1 else mt
  { pa := pa, mt := mt }

/-- Keep a new leaf: at most 4,096 of a station's 16,384 leaves hold one PASID (R195). -/
def Station.keepLeaf (st : Station) (l : Leaf) : Station :=
  let others := st.leaves.filter (fun q => ¬ (q.pasid = l.pasid ∧ q.vpage = l.vpage))
  let mine := others.filter (fun q => q.pasid = l.pasid)
  let others := if 4096 ≤ mine.length then others.filter (fun q => ¬ (q.pasid = l.pasid ∧ some q.vpage = (mine.getLast?.map (·.vpage)))) else others
  { st with leaves := (l :: others).take 16384 }

/-- Keep the pointer entries and host-stage results of a walk, the newest first; 16,384 of each at most (R184, R195). -/
def Station.keepWalk (st : Station) (f : Found) : Station :=
  { st with
    pointers := (f.pointers ++ st.pointers.filter (fun p => !f.pointers.any (fun q =>
      q.guest = p.guest && q.htag = p.htag && q.level = p.level && q.prefix_ = p.prefix_))).take 16384,
    hostPages := (f.hostPages ++ st.hostPages.filter (fun p => !f.hostPages.any (fun q =>
      q.htag = p.htag && q.gpage = p.gpage))).take 16384 }

/-- A leaf that the station holds serves the request. -/
def Leaf.serves (l : Leaf) (chk : LeafChecks) : Bool :=
  (match l.guest with
    | some e => chk.guest e
    | none => true) &&
  (match l.host with
    | some e => chk.host e
    | none => true)

/-- The hit in a station's leaf entries, if any (R195). -/
def State.leafHit (s : State) (k : Nat) (chk : LeafChecks) (pasid va : Nat) : Option Target :=
  ((s.station k).leaves.find? (fun l => l.pasid = pasid && l.vpage = va >>> 19 && l.serves chk)).map
    (fun l => s.targetOf (l.ppage * 2 ^ 19 + va % 2 ^ 19) l.guest l.host)

/-- What a walk leaves in station `k` (R195), and its target. -/
def State.keepFound (s : State) (k pasid va : Nat) (c : Word × Word × Word) (f : Found) : State × Target :=
  let l : Leaf :=
    { pasid := pasid, vpage := va >>> 19, ppage := f.pa >>> 19, guest := f.guest, host := f.host, htag := htagOf c }
  (s.modStation k (fun st => (({ st with ctx := Table.put st.ctx pasid c }).keepLeaf l).keepWalk f),
    s.targetOf f.pa f.guest f.host)

/-- Translate at station `k` under given leaf checks, keeping what the walk leaves in the station (R194, R195). -/
def State.translateWith (s : State) (k pasid dom va : Nat) (chk : LeafChecks) : State × Except TFault Target :=
  match s.context k pasid dom with
  | .error e => (s, .error e)
  | .ok c =>
    match s.leafHit k chk pasid va with
    | some t => (s, .ok t)
    | none =>
      match translateWalk s k pasid c chk va with
      | .error e => (s, .error e)
      | .ok f => let r := s.keepFound k pasid va c f; (r.1, .ok r.2)

/-- The same by a walk that passes over held leaves and held guest pointers, so that every host-stage leaf of the walk meets
its check. -/
def State.translateFresh (s : State) (k pasid dom va : Nat) (chk : LeafChecks) : State × Except TFault Target :=
  match s.context k pasid dom with
  | .error e => (s, .error e)
  | .ok c =>
    let bare := s.modStation k (fun st => { st with pointers := st.pointers.filter (fun p => p.guest = none) })
    match translateWalk bare k pasid c chk va with
    | .error e => (s, .error e)
    | .ok f => let r := s.keepFound k pasid va c f; (r.1, .ok r.2)

/-- Translate a request at station `k`; an address that no populated range holds is an access fault (R178, R194). -/
def State.translate (s : State) (k : Nat) (r : StationReq) : State × Except TFault Target :=
  match s.translateWith k r.pasid r.dom r.va (requestChecks r) with
  | (s, .ok t) => if s.paKind t.pa = .nothing then (s, .error .access) else (s, .ok t)
  | (s, .error e) => (s, .error e)

/-! ### Faults of a request -/

/-- Page fault cause of an access kind (R159). -/
def AccKind.pageFault : AccKind → Nat
  | .fetch => 12
  | .load => 13
  | .store => 15
  | .amo => 15

/-- Access fault cause of an access kind. -/
def AccKind.accessFault : AccKind → Nat
  | .fetch => 1
  | .load => 5
  | .store => 7
  | .amo => 7

/-- Misaligned-address cause of an access kind (R90). -/
def AccKind.alignFault : AccKind → Nat
  | .fetch => 0
  | .load => 4
  | .store => 6
  | .amo => 6

/-- A write, for `mdomfault.WRITE`. -/
def AccKind.writes : AccKind → Bool
  | .fetch => false
  | .load => false
  | .store => true
  | .amo => true

/-- What a failed request reports: cause, the cause its park record carries, xtval and, for cause 29, `mdomfault`. -/
structure ReqFault where
  cause : Nat
  recordCause : Nat
  tval : Word
  dom : Option Word := none
deriving DecidableEq, Repr

/-- The report of a failed translation (R194). -/
def TFault.report (f : TFault) (r : StationReq) : ReqFault :=
  let tval := BitVec.ofNat 64 r.va
  match f with
  | .page 1 => { cause := r.kind.pageFault, recordCause := r.kind.pageFault, tval := tval }
  | .page _ => { cause := r.kind.pageFault, recordCause := r.kind.pageFault + 8, tval := tval }
  | .access => { cause := r.kind.accessFault, recordCause := r.kind.accessFault, tval := tval }
  | .domain odom =>
    { cause := 29, recordCause := 29, tval := tval, dom := some (domFaultWord r.kind.writes r.pasid 4 odom r.dom) }

/-- The mode in which a load or store is checked: MPP while MPRV is set. -/
def Wave.dataMode (w : Wave) : Mode :=
  if w.csrs.mstatus.getLsbD 17 then Mode.ofCode (fld w.csrs.mstatus 12 11) else w.mode

/-- The request of the wave that acts for an access to `va`. -/
def Wave.request (w : Wave) (c i : Nat) (k : AccKind) (va : Nat) : StationReq :=
  { pasid := w.pasid, dom := w.dom, va := va, kind := k, mode := if k = .fetch then w.mode else w.dataMode, sum := w.csrs.mstatus.getLsbD 18,
    origin := .wave c i }

/-! ### What an invalidation covers (R199) -/

/-- An invalidation: kind, PASID or host tag, first page and pages. -/
structure Inval where
  kind : Nat
  tag : Nat
  first : Nat
  pages : Nat
deriving DecidableEq, Repr

/-- The invalidation covers a page of a PASID under a host tag. -/
def Inval.covers (v : Inval) (pasid page htag : Nat) : Bool :=
  match v.kind with
  | 0 => pasid = v.tag && decide (v.first ≤ page ∧ page < v.first + v.pages)
  | 1 => pasid = v.tag
  | 2 => htag = v.tag
  | _ => true

/-- The invalidation covers a held pointer entry: by PASID and the range its level spans, by host tag, or all. -/
def Inval.coversPointer (v : Inval) (p : PtrEntry) : Bool :=
  match v.kind with
  | 0 => p.guest = some v.tag &&
      decide (v.first < (p.prefix_ + 1) * 2 ^ (10 * p.level) ∧ p.prefix_ * 2 ^ (10 * p.level) < v.first + v.pages)
  | 1 => p.guest = some v.tag
  | 2 => p.htag = v.tag
  | _ => true

/-- The entries a station drops (R199 step 2), with the walks in progress started afresh (step 3). -/
def Station.invalidate (st : Station) (v : Inval) : Station :=
  { st with
    leaves := st.leaves.filter (fun l => !v.covers l.pasid l.vpage l.htag),
    pointers := st.pointers.filter (fun p => !v.coversPointer p),
    hostPages := st.hostPages.filter (fun p =>
      match v.kind with
      | 0 => true
      | 1 => true
      | 2 => p.htag ≠ v.tag
      | _ => false),
    ctx := st.ctx.filter (fun e =>
      match v.kind with
      | 0 => e.1 ≠ v.tag
      | 1 => e.1 ≠ v.tag
      | 2 => fld e.2.1 31 16 ≠ v.tag
      | _ => false) }

end Sys2Proof.Machine
end

