-- ==== Sys2Proof/Machine/Caches.lean ====
section
/-! DEFINITION. The virtually tagged core caches, lazy release and the release directory (R185 to R189, R213, R214). -/

namespace Sys2Proof.Machine

/-- The five caches; their order is the INDEX code of R186. -/
inductive CacheId | lane | hart | inst | const | sampler
deriving DecidableEq, Repr

/-- INDEX code of a cache (R186). -/
def CacheId.code : CacheId → Nat
  | .lane => 0
  | .hart => 1
  | .inst => 2
  | .const => 3
  | .sampler => 4

/-- Lines a cache holds (R184). -/
def CacheId.capacity : CacheId → Nat
  | .lane => 1024
  | .hart => 256
  | .inst => 1024
  | .const => 128
  | .sampler => 512

/-- Lines of a cache of a core. -/
def Core.lines (c : Core) : CacheId → List CacheLine
  | .lane => c.laneL1
  | .hart => c.hartData
  | .inst => c.icache
  | .const => c.constCache
  | .sampler => c.samplerCache

/-- Replace the lines of a cache. -/
def Core.setLines (c : Core) (k : CacheId) (ls : List CacheLine) : Core :=
  match k with
  | .lane => { c with laneL1 := ls }
  | .hart => { c with hartData := ls }
  | .inst => { c with icache := ls }
  | .const => { c with constCache := ls }
  | .sampler => { c with samplerCache := ls }

/-- Byte `k` of a line. -/
def CacheLine.byte (l : CacheLine) (k : Nat) : Byte := (l.data >>> (8 * k)).setWidth 8

/-- Write back the dirty bytes of a line to its recorded physical line (R187). -/
def State.writeBack (s : State) (l : CacheLine) : State :=
  if l.dirty = 0 then s
  else
    let s := if l.dirty = BitVec.allOnes 64 then s.writePhys (64 * l.pline) ((List.range 64).map l.byte)
      else (List.range 64).foldl (fun s k =>
        if l.dirty.getLsbD k then s.writePhys (64 * l.pline + k) [l.byte k] else s) s
    s.touchL2 (64 * l.pline) l.dom true

/-- Write back and drop the lines of a cache that `q` picks. -/
def State.dropLines (s : State) (c : Nat) (k : CacheId) (q : CacheLine → Bool) : State :=
  let ls := (s.core c).lines k
  let s := (ls.filter q).foldl State.writeBack s
  s.modCore c (fun d => d.setLines k (ls.filter (fun l => !q l)))

/-- Write back the dirty lines of a cache that `q` picks and keep them clean. -/
def State.cleanLines (s : State) (c : Nat) (k : CacheId) (q : CacheLine → Bool) : State :=
  let ls := (s.core c).lines k
  let s := (ls.filter q).foldl State.writeBack s
  s.modCore c (fun d => d.setLines k (ls.map (fun l => if q l then { l with dirty := 0 } else l)))

/-- The line a lookup hits: domain, PASID and virtual line all match (R186). -/
def Core.hit (c : Core) (k : CacheId) (dom pasid vline : Nat) : Option CacheLine :=
  (c.lines k).find? (fun l => l.dom = dom && l.pasid = pasid && l.vline = vline)

/-- The stale line of a lookup: PASID and virtual line match, the domain does not (R186). -/
def Core.stale (c : Core) (k : CacheId) (dom pasid vline : Nat) : Option CacheLine :=
  (c.lines k).find? (fun l => l.dom ≠ dom && l.pasid = pasid && l.vline = vline)

/-- Put a line at the head of a cache in place of its own tag; the oldest line beyond the capacity is written back and
dropped. -/
def State.keepLine (s : State) (c : Nat) (k : CacheId) (l : CacheLine) : State :=
  let ls := ((s.core c).lines k).filter (fun q => ¬ (q.dom = l.dom ∧ q.pasid = l.pasid ∧ q.vline = l.vline))
  let s := (ls.drop (k.capacity - 1)).foldl State.writeBack s
  s.modCore c (fun d => d.setLines k (l :: ls.take (k.capacity - 1)))

/-- Fill a line from the home L2. On the load/store path any other name of the physical line is first written back and
invalidated (R186). -/
def State.fillLine (s : State) (c : Nat) (k : CacheId) (dom pasid vline pline : Nat) : State :=
  let s := if k = .lane ∨ k = .hart
    then (s.dropLines c .lane (fun l => l.pline = pline)).dropLines c .hart (fun l => l.pline = pline)
    else s
  let s := s.touchL2 (64 * pline) dom false
  s.keepLine c k
    { dom := dom, pasid := pasid, vline := vline, pline := pline, data := BitVec.ofNat 512 (s.readPhys (64 * pline) 64),
      dirty := 0, epoch := 0 }

/-- `n` bytes at offset `o` of a line. -/
def CacheLine.read (l : CacheLine) (o n : Nat) : Nat := bits l.data.toNat (8 * (o + n) - 1) (8 * o)

/-- Write bytes into a line and set their dirty bits (R187); a clean line becomes dirty in the current epoch (R188). -/
def CacheLine.write (l : CacheLine) (o : Nat) (bs : List Byte) (epoch : Nat) : CacheLine :=
  let n := bs.length
  { l with
    data := BitVec.ofNat 512 (setBits l.data.toNat (8 * (o + n) - 1) (8 * o) (leValue bs)),
    dirty := l.dirty ||| BitVec.ofNat 64 ((2 ^ n - 1) * 2 ^ o),
    epoch := if l.dirty = 0 then epoch else l.epoch }

/-- Read `n` bytes at a virtual address through a cache, filling the line on a miss. -/
def State.cachedRead (s : State) (c : Nat) (k : CacheId) (dom pasid va pa n : Nat) : State × Nat :=
  match (s.core c).hit k dom pasid (va / 64) with
  | some l => (s, l.read (va % 64) n)
  | none =>
    let s := s.fillLine c k dom pasid (va / 64) (pa / 64)
    match (s.core c).hit k dom pasid (va / 64) with
    | some l => (s, l.read (va % 64) n)
    | none => (s, 0)

/-- Write bytes at a virtual address into the lane L1; a hart copy of the line is written back and invalidated (R187). -/
def State.laneWrite (s : State) (c dom pasid va pa : Nat) (bs : List Byte) : State :=
  let s := s.dropLines c .hart (fun l => l.pline = pa / 64)
  let s := match (s.core c).hit .lane dom pasid (va / 64) with
    | some _ => s
    | none => s.fillLine c .lane dom pasid (va / 64) (pa / 64)
  match (s.core c).hit .lane dom pasid (va / 64) with
  | some l => (s.keepLine c .lane (l.write (va % 64) bs (s.core c).epoch)).wake pa bs.length (some c)
  | none => s

/-- A hart access to a physical line: the lane L1's dirty bytes of it reach the line, and the L1 copy is dropped, so that
the core holds one name of it on the load/store path (R186, R187). The hart line itself always equals the home L2's (R184). -/
def State.hartTouch (s : State) (c dom pasid va pa : Nat) : State :=
  let s := s.dropLines c .lane (fun l => l.pline = pa / 64)
  let s := s.dropLines c .hart (fun l => l.pline = pa / 64 ∧ ¬ (l.dom = dom ∧ l.pasid = pasid ∧ l.vline = va / 64))
  s.keepLine c .hart { dom := dom, pasid := pasid, vline := va / 64, pline := pa / 64, data := 0, dirty := 0, epoch := 0 }

/-! ### Lazy release (R188) -/

/-- A recorded core drains: every line dirty at or before the epoch is written back. -/
def State.drainCore (s : State) (c epoch : Nat) : State := s.cleanLines c .lane (fun l => l.epoch ≤ epoch)

/-- The drain request of a directory entry reaches a recorded core; its acknowledgement is on the way. -/
def State.drainEntry (s : State) (d line c : Nat) : State :=
  match ((Table.get (s.die d).reldir line []).find? (fun e => e.1 = c)) with
  | none => s
  | some e =>
    (s.drainCore c e.2).modDie d (fun q => { q with
      drains := Table.put q.drains line ((c, e.2) :: (Table.get q.drains line []).filter (fun e => e.1 ≠ c)) })

/-- A drain acknowledgement arrives: the record of what was drained goes, while one of a later epoch stays; the last record
clears the entry. -/
def State.drainAcked (s : State) (d line c : Nat) : State :=
  let q := s.die d
  match (Table.get q.drains line []).find? (fun e => e.1 = c) with
  | none => s
  | some r =>
    let left := (Table.get q.reldir line []).filter (fun e => ¬ (e.1 = c ∧ e.2 ≤ r.2))
    let acks := (Table.get q.drains line []).filter (fun e => e.1 ≠ c)
    s.modDie d (fun q =>
      { q with
        reldir := if left = [] then Table.erase q.reldir line else Table.put q.reldir line left,
        drains := if acks = [] then Table.erase q.drains line else Table.put q.drains line acks })

/-- Drain every core recorded for a line and clear its entry. -/
def State.drainLine (s : State) (d line : Nat) : State :=
  (Table.get (s.die d).reldir line []).foldl (fun s e => (s.drainEntry d line e.1).drainAcked d line e.1) s

/-- A line with dirty bytes whose other bytes are those of its physical line at the home. -/
def CacheLine.refill (l : CacheLine) (home : Nat) : CacheLine :=
  { l with data := BitVec.ofNat 512 (leValue ((List.range 64).map (fun k =>
      if l.dirty.getLsbD k then l.byte k else BitVec.ofNat 8 (home / 2 ^ (8 * k))))) }

/-- The lane L1 of core `c` invalidates its clean lines of a domain at an acquire (R188). A line with dirty bytes stays, and
its other bytes are read anew from the home, so that none is read stale (R208, R211; DEDUCED, log 72). -/
def State.refreshL1 (s : State) (c dom : Nat) : State :=
  let kept := (s.core c).laneL1.filter (fun l => ¬ (l.dom = dom ∧ l.dirty = 0))
  let s := kept.foldl (fun s l => if l.dom = dom then s.touchL2 (64 * l.pline) dom false else s) s
  s.modCore c (fun q => { q with
    laneL1 := kept.map (fun l => if l.dom = dom then l.refill (s.readPhys (64 * l.pline) 64) else l) })

/-- An acquire of the line of `pa` by core `c`: the recorded cores drain and the entry is cleared, and the core's lane
L1 invalidates its clean lines of the acquiring domain (R188). Where core `c` itself is recorded its record stands and the
others drain, since R206 and R213 need their writes (DEDUCED, log 72). -/
def State.acquireLine (s : State) (c dom pa : Nat) : State :=
  let d := s.homeDie pa
  let others := (Table.get (s.die d).reldir (pa / 64) []).filter (fun e => e.1 ≠ c)
  (others.foldl (fun s e => (s.drainEntry d (pa / 64) e.1).drainAcked d (pa / 64) e.1) s).refreshL1 c dom

/-- Record a release by core `c` in the entry of the line of `pa`, with the eager fallback when eight cores stand there or
the directory is full, and for a line of a peer, whose home is no directory's here (R188, R394). A recorded core drains in
finite time even where no acquire of the line comes (R212; DESIGN CHOICE, log 72: 4,096 cycles later). -/
def State.releaseLine (s : State) (c pa : Nat) : State :=
  let d := s.homeDie pa
  let e := (s.core c).epoch
  let s := s.modCore c (fun q => { q with epoch := q.epoch + 1 })
  let entry := Table.get (s.die d).reldir (pa / 64) []
  if s.paKind pa = .peer || decide (8 ≤ entry.length) || (entry = [] && decide (4096 ≤ (s.die d).reldir.length)) then
    s.cleanLines c .lane (fun _ => true)
  else
    (s.modDie d (fun q =>
      { q with reldir := Table.put q.reldir (pa / 64) ((c, e) :: entry.filter (fun r => r.1 ≠ c)) })).schedule 4096
        .releaseDirectoryDrain { a := d, b := pa / 64, core := c }

/-- Drain every core recorded for a line that carries domain `dom`, in every die (R244). -/
def State.drainDomain (s : State) (dom : Nat) : State :=
  (List.range 8).foldl (fun s d =>
    let lines := ((s.die d).reldir.filter (fun e =>
      (match Table.find (s.die d).l2 e.1 with
        | some q => decide (q.1 = dom)
        | none => true))).map (fun e => e.1)
    lines.foldl (fun s l => s.drainLine d l) s) s

/-- The lane L1 of a core writes back its dirty lines and gives up every line: the part that core plays where a device
event is a release or an acquire of everything (R207). -/
def State.refreshCore (s : State) (c : Nat) : State := s.dropLines c .lane (fun _ => true)

/-- Every core does so: an event that orders all earlier accesses before all later ones (R207, R208). -/
def State.refreshAll (s : State) : State := s.cores.foldl (fun s e => s.refreshCore e.1) s

/-- Drain every recorded core, empty every directory, and leave no lane L1 line of before the point (R207, R220). -/
def State.drainAll (s : State) : State :=
  ((List.range 8).foldl (fun s d => ((s.die d).reldir.map (fun e => e.1)).foldl (fun s l => s.drainLine d l) s) s).refreshAll

/-- A fence at cluster scope or wider: steps 2 to 4 of R244. -/
def State.wideFence (s : State) (c dom : Nat) : State :=
  let s := s.cleanLines c .lane (fun l => l.dom = dom)
  let s := s.drainDomain dom
  s.modCore c (fun q => { q with laneL1 := q.laneL1.filter (fun l => ¬ (l.dirty = 0 ∧ l.dom = dom)) })

/-! ### Path fences and invalidation (R199, R214) -/

/-- The fetched but unissued words of every wave of a core are discarded (R199, R214). -/
def State.dropFetched (s : State) (c : Nat) : State :=
  s.modCore c (fun q => { q with slots := q.slots.map (fun e => (e.1, { e.2 with wave := { e.2.wave with fetchBuf := none } })) })

/-- `pfence` naming one path, by its mask bit: load/store, constant, sampler, tile-layout, fetch. Before a read-only
path reads L2 anew, the core's own lane L1 writes its dirty bytes back, so that the stores that are hb-before the fence
are there (R214, R226). -/
def State.pathFence (s : State) (c dom path : Nat) : State :=
  match path with
  | 0 => s.dropLines c .lane (fun l => l.dom = dom)
  | 1 => (s.cleanLines c .lane (fun l => l.dom = dom)).dropLines c .const (fun l => l.dom = dom)
  | 2 => (s.cleanLines c .lane (fun l => l.dom = dom)).dropLines c .sampler (fun l => l.dom = dom)
  | 4 => ((s.cleanLines c .lane (fun l => l.dom = dom)).dropLines c .inst (fun l => l.dom = dom)).dropFetched c
  | _ => s

/-- Every cache of a core writes back and drops the lines that `q` picks, and its fetched words are discarded. -/
def State.dropEverywhere (s : State) (c : Nat) (q : CacheLine → Bool) : State :=
  ([CacheId.lane, .hart, .inst, .const, .sampler].foldl (fun s k => s.dropLines c k q) s).dropFetched c

/-- A line is covered by an invalidation: by PASID and page for kinds 0 and 1, every line for kinds 2 and 3 (R199). -/
def Inval.coversLine (v : Inval) (l : CacheLine) : Bool :=
  if v.kind = 0 ∨ v.kind = 1 then v.covers l.pasid (l.vline / 8192) 0 else true

/-- The cores of a die that hold anything. -/
def State.coresOf (s : State) (d : Nat) : List Nat := (s.cores.filter (fun e => dieOf e.1 = d)).map (fun e => e.1)

/-- A stale line met by a lookup is written back and dropped; the access then takes cause 29 at POINT 2 (R186). -/
def State.staleFault (s : State) (c : Nat) (k : CacheId) (w : Wave) (va : Nat) (write : Bool) : Option (State × ReqFault) :=
  match (s.core c).stale k w.dom w.pasid (va / 64) with
  | none => none
  | some l =>
    let s := s.dropLines c k (fun q => q = l)
    some (s, { cause := 29, recordCause := 29, tval := BitVec.ofNat 64 va,
               dom := some (domFaultWord write k.code 2 l.dom w.dom) })

end Sys2Proof.Machine
end

