-- ==== Sys2Proof/Machine/Operands.lean ====
section
/-! DEFINITION. The operand forms of lane words: the active lanes, the helpers Src, ImmSrc and Put of R111, and the
checks every lane word meets at issue (R67, R69, R77, R105, R107). -/

namespace Sys2Proof.Machine

/-- What a lane word sees at issue: its core and wave, and the lanes in ACTIVE in ascending order (R5, R71). -/
structure LaneEnv where
  core : Core
  wave : Wave
  active : Mask
  lanes : List Nat

/-- The lanes of a mask below the width, ascending. -/
def lanesOf (m : Mask) (width : Nat) : List Nat := (List.range width).filter (fun l => m.getLsbD l)

/-- The guard value of a lane word (R65, R71). -/
def Wave.guardMask (wv : Wave) (w : LaneWord) : Mask :=
  if w.gneg then wv.wm &&& ~~~(wv.getP w.guard.toNat) else wv.getP w.guard.toNat

/-- ACTIVE: lanes of the width whose active-mask bit and guard are both set (R5). -/
def Wave.activeLanes (wv : Wave) (w : LaneWord) : Mask := wv.amask &&& wv.guardMask w

/-- The environment of a lane word of the wave that acts. -/
def laneEnv (s : State) (w : LaneWord) : LaneEnv :=
  let wv := s.wave
  let act := wv.activeLanes w
  { core := s.core s.curCore, wave := wv, active := act, lanes := lanesOf act wv.width }

/-- Register `n` of lane `l`. -/
def LaneEnv.reg (e : LaneEnv) (n l : Nat) : Nat := (e.core.lane e.wave n l).toNat

/-- The bits of a typed operand: a pair for a 64-bit type, else the low `wd` bits of one register (R111). -/
def LaneEnv.pattern (e : LaneEnv) (wd n l : Nat) : Nat :=
  if wd = 64 then e.reg n l + 2 ^ 32 * e.reg (n + 1) l else e.reg n l % 2 ^ wd

/-- The value a `wd`-bit pattern has under a signedness. -/
def typed (wd : Nat) (sgn : Bool) (v : Nat) : Int := if sgn then toSigned wd v else ((v % 2 ^ wd : Nat) : Int)

/-- ImmSrc of R111: the pattern of an immediate operand. -/
def immPattern (wd : Nat) (sgn : Bool) (imm : BitVec 32) : Nat :=
  if wd = 64 then (if sgn then signExt 32 64 imm.toNat else imm.toNat) else imm.toNat % 2 ^ wd

/-- Put of R111: write the exact integer `y` under a width and signedness. -/
def putUpd (wd : Nat) (sgn : Bool) (n l : Nat) (y : Int) : List Upd :=
  let z := wrapTo wd y
  if wd = 64 then [.v n l (BitVec.ofNat 32 z), .v (n + 1) l (BitVec.ofNat 32 (z / 2 ^ 32))]
  else [.v n l (BitVec.ofNat 32 (if sgn then signExt wd 32 z else z))]

/-- Sat of R111: clamp to the range of a `wd`-bit type. -/
def satTo (wd : Nat) (sgn : Bool) (y : Int) : Int :=
  let lo : Int := if sgn then -(2 ^ (wd - 1) : Int) else 0
  let hi : Int := if sgn then 2 ^ (wd - 1) - 1 else 2 ^ wd - 1
  if y < lo then lo else if hi < y then hi else y

/-! ### Checks at issue -/

/-- The lane registers a word names lie below the wave's budget (R69). -/
def inBudget (budget : Nat) (ops : List Operand) : Bool :=
  ops.all (fun o => o.kind ≠ .v || decide (o.idx + o.cnt ≤ budget))

/-- The profile of a lane major (R68, R77). -/
def majorProfile (major : Nat) : Nat := if major < 0xE0 then 0 else if major < 0xE8 then 1 else 2

/-- The regions that register `n` occupies in the lanes of `m`. -/
def Wave.regionsOf (wv : Wave) (n : Nat) (m : Mask) : List Nat :=
  ((List.range wv.halves).filter (fun h => (lanesOf (m >>> (16 * h)) 16) ≠ [])).map (fun h => wv.region n (16 * h))

/-- The least of a list of numbers. -/
def leastOf : List Nat → Option Nat
  | [] => none
  | a :: t => match leastOf t with
    | none => some a
    | some b => some (if b < a then b else a)

/-- A region the word touches whose tag is not the wave's domain (R105); `touch` gives the lanes in which each operand is
touched. Where several fail, R105 and R337 do not say which one INDEX and tval name: the lowest (DESIGN CHOICE, log 78). -/
def regionViolation (c : Core) (wv : Wave) (ops : List Operand) (touch : Operand → Mask) : Option Nat :=
  leastOf ((ops.filter (fun o => o.kind = .v)).flatMap (fun o =>
    ((List.range o.cnt).flatMap (fun k => wv.regionsOf (o.idx + k) (touch o))).filter
      (fun r => c.regionDom r ≠ some wv.dom)))

/-- The word writes a register that lies in a region: WRITE of its domain fault (R101). R101 does not say what WRITE is for
a word that reads the region and writes another: 0 (DESIGN CHOICE, log 78). -/
def regionWritten (wv : Wave) (ops : List Operand) (touch : Operand → Mask) (r : Nat) : Bool :=
  ops.any (fun o => o.kind = .v && o.wr && (List.range o.cnt).any (fun k => (wv.regionsOf (o.idx + k) (touch o)).contains r))

/-- The domain fault of a lane register region (R105). -/
def regionFault (s : State) (write : Bool) (r : Nat) : Issue :=
  domFault s write r 0 (((s.core s.curCore).regionDom r).getD 0) (BitVec.ofNat 64 r)

/-- The slot of a wave of a team whose saved accumulator tile is still absent from the core. -/
def Core.absentOwner (c : Core) (team k : Nat) : Option Nat :=
  (c.slots.find? (fun e => e.2.state ≠ .free && e.2.wave.cteam = team && e.2.wave.absentAccs.contains k)).map (fun e => e.1)

/-- The absent item a word names first: a lane register block of the wave, or a saved accumulator tile of a wave of its team
(R106, R107, R255). -/
def absentItem (s : State) (ops : List Operand) : Option (Bool × Nat) :=
  let wv := s.wave
  let blocks := (ops.filter (fun o => o.kind = .v)).flatMap (fun o =>
    (List.range o.cnt).map (fun k => (o.idx + k) / 32))
  let accs := (ops.filter (fun o => o.kind = .acc)).flatMap (fun o => (List.range o.cnt).map (fun k => o.idx + k))
  match blocks.find? (fun b => wv.absentBlocks.contains b) with
  | some b => some (false, b)
  | none => (accs.find? (fun a => ((s.core s.curCore).absentOwner wv.cteam a).isSome)).map (fun a => (true, a))

/-- The register-miss micro-trap: the word waits while the item is loaded from the save area (R107). -/
def registerMiss (s : State) (item : Bool × Nat) : Issue :=
  match s.wave.busy with
  | some (.registerMiss _ _ _) => .hold (s.count s.curCore 8 1)
  | _ => .hold ((((s.count s.curCore 7 1).count s.curCore 8 1).modWave (fun w =>
      { w with busy := some (.registerMiss item.1 item.2 (w.csrs.turn.toNat + s.lat.registerMiss)) })).schedule
      (16 * s.lat.registerMiss) .registerMissLoadComplete { core := s.curCore, slot := s.curSlot })

/-- The locations a lane word reads or writes: its operands and its guard. -/
def laneLocs (w : LaneWord) (ops : List Operand) : List Loc :=
  liveLocs (.p w.guard.toNat :: ops.flatMap Operand.locs)

/-- The state a lane word writes. -/
def writtenLocs (ops : List Operand) : List Loc :=
  liveLocs ((ops.filter (fun o => o.wr)).flatMap Operand.locs)

/-- The checks of a lane word at issue, in the order of R160: legality and budget, lookahead, absent registers, the
word's `own` causes that come before domain faults, then the region tags in the lanes touched. `none` where the word
may go on. -/
def laneChecks (major : Nat) (paired all : Bool) (w : LaneWord) (ops : List Operand) (touch : Operand → Mask)
    (own : State → Option Issue) (s : State) : Option Issue :=
  let wv := s.wave
  if !(wv.profileOn (majorProfile major) && inBudget wv.budget ops) then
    some (illegal s (laneLow major paired all w))
  else
    match lookahead s (laneLocs w ops) with
    | some i => some i
    | none =>
      match absentItem s ops with
      | some item => some (registerMiss s item)
      | none =>
        match own s with
        | some i => some i
        | none =>
          match regionViolation (s.core s.curCore) wv ops touch with
          | some r => some (regionFault s (regionWritten wv ops touch r) r)
          | none => none

/-- The state after an issued word of `len` bytes whose results are applied at once: an ordinary word (R20). -/
def ordinaryDone (len : Nat) (upds : List Upd) (s : State) : Issue := .done ((s.issued len).applyAll upds)

/-- The state after an issued long-latency word: its results become complete after `lat` own turns, and once the
acknowledgements `acks` have come (R20, R21); with `fence` no later word issues before that (R206, R219). -/
def longDoneWith (len la lat : Nat) (locs : List Loc) (upds : List Upd) (acks : List AckPut) (s : State)
    (fence : Bool := false) (reads : List Loc := []) : Issue :=
  let pc := s.wave.pc
  let s := s.issued len
  .done (s.modWave (fun w =>
    let op : PendingOp :=
      { pc := pc, la := la, since := 0, due := w.csrs.turn.toNat + lat, locs := locs, upds := upds, acks := acks,
        reads := reads, fence := fence }
    { w with pending := w.pending ++ [op] }))

/-- The state after an issued long-latency word that waits for no acknowledgement; `reads` is what it keeps in use. -/
def longDone (len la lat : Nat) (locs : List Loc) (upds : List Upd) (s : State) (reads : List Loc := []) : Issue :=
  longDoneWith len la lat locs upds [] s false reads

/-- A lane word of the wave that acts: no wave runs there, an illegal format, the checks with the word's own causes, or
its effect. -/
def laneIssueWith (major : Nat) (form : Option (List Operand)) (w : LaneWord) (touch : LaneEnv → Operand → Mask)
    (own : LaneEnv → State → Option Issue) (body : LaneEnv → List Operand → State → Issue) (s : State) : Issue :=
  if !s.canIssue then .stop .noRunningWave
  else
    match form with
    | none => illegal s (laneLow major false false w)
    | some ops =>
      let e := laneEnv s w
      match laneChecks major false false w ops (touch e) (own e) s with
      | some i => i
      | none => body e ops s

/-- A lane word with no causes of its own. -/
def laneIssue (major : Nat) (form : Option (List Operand)) (w : LaneWord) (touch : LaneEnv → Operand → Mask)
    (body : LaneEnv → List Operand → State → Issue) (s : State) : Issue :=
  laneIssueWith major form w touch (fun _ _ => none) body s

/-- An operand is touched in the lanes of ACTIVE (R110). -/
def touchActive (e : LaneEnv) (_ : Operand) : Mask := e.active

/-- The outcome of an ordinary lane word whose results are `f` of what it sees. -/
def ordinaryLane (major : Nat) (form : Option (List Operand)) (w : LaneWord) (f : LaneEnv → List Upd) (s : State) :
    Host.Outcome State Fault Refusal :=
  (laneIssue major form w touchActive (fun e _ s => ordinaryDone (laneBytes w) (f e) s) s).finish

end Sys2Proof.Machine
end

