-- ==== Sys2Proof/Machine/Device.lean ====
section
/-! DEFINITION. How the device scalar words reach their effects: legality, profile, lookahead and the accounts of an
issued word (R60, R62 to R64, R74, R77). -/

namespace Sys2Proof.Machine

/-- A device scalar word of profile `k` that reads or writes `locs` (R21): no wave runs there, an illegal word, a
lookahead wait, or its effect. -/
def deviceIssue (i : Instr) (k : Nat) (locs : List Loc) (body : State → Issue) (s : State) :
    Host.Outcome State Fault Refusal :=
  scalarWord s k ((encodeScalar i).getD 0) locs i.scalarLegal body

/-- An issued scalar word that falls through, with what it changes on the wave. -/
def scalarDone (s : State) (f : Wave → Wave) : Issue := .done ((s.issued 4).modWave f)

/-- An issued scalar word that writes `v` to x register `d`. -/
def scalarX (s : State) (d : BitVec 5) (v : Word) : Issue := scalarDone s (fun w => w.setX d.toNat v)

/-- The x registers a scalar word names, for lookahead. -/
def xLocs (rs : List (BitVec 5)) : List Loc := rs.map (fun r => .x r.toNat)

end Sys2Proof.Machine
end

