-- ==== Sys2Proof/Machine/Tiles.lean ====
section
/-! DEFINITION. Tile table entries, the granule pool, teams and phases, the checks of a scratchpad access, and race
detection (R180, R182, R222 to R224, R306, R309 to R315). -/

namespace Sys2Proof.Machine

/-! ### Teams (R306) -/

/-- Team table entry `j` of cluster `k`. -/
def State.team (s : State) (k j : Nat) : Team := Table.get (s.cluster k).teams j {}

/-- Change a team table entry. -/
def State.modTeam (s : State) (k j : Nat) (f : Team → Team) : State :=
  s.modCluster k (fun q => { q with teams := Table.put q.teams j (f (Table.get q.teams j {})) })

def Team.tcores (t : Team) : Nat := fld t.word 59 53
def Team.done (t : Team) : Nat := fld t.word 52 44
def Team.bound (t : Team) : Nat := fld t.word 43 35
def Team.waves (t : Team) : Nat := fld t.word 34 26
def Team.tbase (t : Team) : Nat := fld t.word 25 18
def Team.tcnt (t : Team) : Nat := fld t.word 17 9
def Team.dom (t : Team) : Nat := fld t.word 8 1
def Team.live (t : Team) : Bool := t.word.getLsbD 0

/-- The team of the wave that acts. -/
def State.myTeam (s : State) : Team := s.team (clusterOf s.curCore) s.wave.cteam

/-- The wave's team spans more than one core: team scope then acts as cluster scope (R188). -/
def State.teamSpans (s : State) : Bool := decide (1 < s.myTeam.tcores)

/-- A scope code that acts at cluster scope or wider for the wave that acts. -/
def State.wideScope (s : State) (scope : Nat) : Bool := decide (2 ≤ scope) || (scope = 1 && s.teamSpans)

/-- Phase of a team (R96). -/
def State.phase (s : State) (k j : Nat) : BitVec 32 := Table.get (s.cluster k).phases j 0

/-- The team phase advances by 1 (R224). -/
def State.advancePhase (s : State) (k j : Nat) : State :=
  s.modCluster k (fun q => { q with phases := Table.put q.phases j (Table.get q.phases j 0 + 1) })

/-! ### Tile table entries (R311) -/

/-- Words 0 and 1 of entry `e`; a vacant entry is all zeros. -/
def Core.tile (c : Core) (e : Nat) : Word × Word := Table.get c.tiles e (0, 0)

/-- Write an entry; a vacant entry is not listed. -/
def Core.setTile (c : Core) (e : Nat) (v : Word × Word) : Core :=
  { c with tiles := if v = (0, 0) then Table.erase c.tiles e else Table.put c.tiles e v }

def tFirst (w : Word) : Nat := fld w 8 0
def tGran (w : Word) : Nat := fld w 17 9 + 1
def tState (w : Word) : Nat := fld w 19 18
def tKind (w : Word) : Nat := fld w 21 20
def tRo (w : Word) : Bool := w.getLsbD 22
def tChk (w : Word) : Bool := w.getLsbD 23
def tFerr (w : Word) : Nat := fld w 25 24
def tTeam (w : Word) : Nat := fld w 31 26
def tDom (w : Word) : Nat := fld w 39 32
def tSeg (w : Word) : Nat := fld w 49 40
def tMembers (w : Word) : Nat := fld w 53 50 + 1
def tRp (w : Word) : Nat := fld w 57 54
def tWp (w : Word) : Nat := fld w 61 58
def tSegv (w : Word) : Bool := w.getLsbD 62

/-- STATE codes of a tile. -/
def tsEmpty : Nat := 0
def tsFilling : Nat := 1
def tsReady : Nat := 2
def tsDraining : Nat := 3

/-- Change word 0 of an entry. -/
def Core.modTile (c : Core) (e : Nat) (f : Word → Word) : Core := c.setTile e (f (c.tile e).1, (c.tile e).2)

/-- The race records of a tile are cleared (R222). -/
def Core.clearRace (c : Core) (w : Word) : Core :=
  let lo := 256 * tFirst w
  { c with race := Table.keep c.race (fun k => ¬ (lo ≤ k ∧ k < lo + 256 * tGran w)) }

/-- Put a tile into a state; becoming empty or ready clears its race records (R222, R315). -/
def Core.setTileState (c : Core) (e st : Nat) : Core :=
  let c := c.modTile e (fun w => setFld w 19 18 st)
  if st = tsEmpty ∨ st = tsReady then c.clearRace (c.tile e).1 else c

/-- Free the granules of an entry. -/
def Core.freeGranules (c : Core) (first n : Nat) : Core :=
  { c with granules := Table.keep c.granules (fun k => ¬ (first ≤ k ∧ k < first + n)) }

/-- Take granules, clean. -/
def Core.takeGranules (c : Core) (first n : Nat) : Core :=
  { c with granules := (List.range n).foldl (fun g k => Table.put g (first + k) { used := true, dirty := false }) c.granules }

/-- The lowest run of `n` free granules wholly in banks of a domain (R312). -/
def Core.findRun (c : Core) (dom n : Nat) : Option Nat :=
  let free (k : Nat) : Bool := !(Table.get c.granules k {}).used && c.bankDom (k / 16) = some dom
  (List.range 512).find? (fun f => decide (f + n ≤ 512) && (List.range n).all (fun k => free (f + k)))

/-- The tile table entry that a wave's handle names on core `c`, if any (R309, R346). -/
def State.handleEntry (s : State) (c : Nat) (w : Wave) (h : Nat) : Option Nat :=
  let t := s.team (clusterOf c) w.cteam
  let e := t.tbase + h
  let v := ((s.core c).tile e).1
  if h < t.tcnt ∧ tKind v ≠ 0 ∧ tTeam v = w.cteam then
    match Table.find (s.core c).gateTiles e with
    | some g => if g = (w.csa / 4096, w.gdepth) then some e else none
    | none => some e
  else none

/-- The entry a handle names on the core that acts. -/
def State.myEntry (s : State) (h : Nat) : Option Nat := s.handleEntry s.curCore s.wave h

/-- Word 0 of the entry a handle names, 0 where it names none. -/
def State.myTile (s : State) (h : Nat) : Word :=
  match s.myEntry h with
  | some e => ((s.core s.curCore).tile e).1
  | none => 0

/-- The handle's tile holds bytes: named, not a header, not empty (R180, R311). -/
def tileHolds (w : Word) : Bool := (tKind w = 1 || tKind w = 3) && tState w ≠ tsEmpty

/-- Length of a tile in bytes. -/
def tLen (w : Word) : Nat := 1024 * tGran w

/-- xtval of a scratchpad fault (R180). -/
def tileTval (h o : Nat) : Word := BitVec.ofNat 64 ((h <<< 32) ||| o)

/-- A precise trap for one of the lanes: the first of a list of offsets that meets `bad`. -/
def firstBad (bad : Nat → Bool) (os : List Nat) : Option Nat := os.find? bad

/-- The causes of R314 and R180 that come before domain faults, for accesses of `n` bytes at offsets `os` of tile `h`:
a rejected fill, no tile, misalignment, bounds. -/
def tileOwn (h n align : Nat) (k : AccKind) (os : List Nat) (s : State) : Option Issue :=
  let v := s.myTile h
  if os = [] then none
  else if tFerr v = 1 then
    some (.trap 56 (match s.myEntry h with
      | some e => ((s.core s.curCore).tile e).2
      | none => 0) s)
  else if !tileHolds v then some (.trap k.accessFault (tileTval h (os.headD 0)) s)
  else
    match firstBad (fun o => o % align ≠ 0) os with
    | some o => some (.trap k.alignFault (tileTval h o) s)
    | none =>
      match firstBad (fun o => decide (tLen v < o + n)) os with
      | some o => some (.trap k.accessFault (tileTval h o) s)
      | none => none

/-- A tile wait in which the word does not issue, or its time-out (R97, R314). -/
def tileWait (h : Nat) (s : State) : Issue :=
  let w := s.wave
  let start := match w.wait with
    | some q => q.start
    | none => w.csrs.turn.toNat
  let limit := fld w.csrs.stwlim 31 0
  if limit ≠ 0 ∧ start + limit + 1 ≤ w.csrs.turn.toNat then .trap 52 (BitVec.ofNat 64 h) s
  else .wait (.tile h) s

/-- The bank check, the wait and the read-only check that follow (R182, R314), and a load that meets a poisoned line, which
parks late and is made again when its word is (R163, R201); `none` where the access may go on. -/
def tileReady (h n : Nat) (k : AccKind) (os : List Nat) (s : State) : Option Issue :=
  let v := s.myTile h
  let c := s.core s.curCore
  let bad (o : Nat) : Option Nat := c.bankViolation s.wave.dom (1024 * tFirst v + o) n
  if os = [] then none
  else
    match os.find? (fun o => (bad o).isSome) with
    | some o =>
      let b := (bad o).getD 0
      some (domFault s k.writes b 1 ((c.bankDom b).getD 0) (tileTval h o))
    | none =>
      if tState v = tsFilling ∨ tState v = tsDraining then some (tileWait h s)
      else if k.writes && tRo v then some (.trap 7 (tileTval h (os.headD 0)) s)
      else (os.find? (fun o => !k.writes && s.poisonedIn (spadPa s.curCore (1024 * tFirst v + o)) n)).map (fun o =>
        .latePark 5 5 (tileTval h o) s.wave.pc [] s)

/-! ### Race detection (R222, R223) -/

/-- The granules of an access, as keys of the core's race table. -/
def raceKeys (v : Word) (o n : Nat) : List Nat :=
  (List.range ((o + n - 1) / 4 - o / 4 + 1)).map (fun k => 256 * tFirst v + o / 4 + k)

/-- Check of R223: KIND and FWAVE of a conflict. -/
def RaceRec.check (g : RaceRec) (w ph : Nat) (write : Bool) : Option (Nat × Nat) :=
  if g.wv && g.wph = ph && g.wwave ≠ w then some (if write then 0 else 1, g.wwave)
  else if write && g.rv && g.rph = ph && (g.rwave ≠ w || g.rmulti) then some (2, g.rwave)
  else none

/-- Update of R223. -/
def RaceRec.update (g : RaceRec) (w ph : Nat) (write : Bool) : RaceRec :=
  if write then { g with wv := true, wwave := w, wph := ph, rv := false, rmulti := false }
  else if !g.rv || g.rph ≠ ph then { g with rv := true, rwave := w, rph := ph, rmulti := false }
  else if g.rwave ≠ w then { g with rmulti := true }
  else g

/-- The first conflict of plain accesses to a checked tile: offset, granule key, KIND and FWAVE. -/
def raceConflict (s : State) (v : Word) (n : Nat) (write : Bool) (os : List Nat) : Option (Nat × Nat × Nat × Nat) :=
  let c := s.core s.curCore
  let ph := (s.phase (clusterOf s.curCore) s.wave.cteam).toNat % 65536
  ((os.flatMap (fun o => (raceKeys v o n).map (fun k => (o, k)))).findSome? (fun p =>
    ((Table.get c.race p.2 {}).check s.wave.twave ph write).map (fun q => (p.1, p.2, q.1, q.2))))

/-- The race fault of a word on a checked tile, if any (R223). -/
def raceFault (h n : Nat) (write plain : Bool) (os : List Nat) (s : State) : Option Issue :=
  let v := s.myTile h
  if !(tChk v && plain) then none
  else
    match raceConflict s v n write os with
    | none => none
    | some (o, key, kind, f) =>
      let g := key - 256 * tFirst v
      some (.trap 30 (tileTval h o) (s.modCsrs (fun c =>
        { c with mracefault := BitVec.ofNat 64 (kind * 2 ^ 33 + f * 2 ^ 25 + h * 2 ^ 17 + g) })))

/-- Record the plain accesses of a word to a checked tile (R223). -/
def raceRecord (h n : Nat) (write plain : Bool) (os : List Nat) (s : State) : State :=
  let v := s.myTile h
  if !(tChk v && plain) then s
  else
    let ph := (s.phase (clusterOf s.curCore) s.wave.cteam).toNat % 65536
    let tw := s.wave.twave
    (os.flatMap (fun o => raceKeys v o n)).foldl (fun s k =>
      s.modCur (fun c => { c with race := Table.put c.race k ((Table.get c.race k {}).update tw ph write) })) s

/-! ### Window addresses (R180) -/

/-- A window address resolved by the wave that acts: target core and scratchpad byte, or the reason it fails. -/
inductive WinFault | access | domain (bank odom : Nat)
deriving DecidableEq, Repr

/-- Target of an `n`-byte window access: the checks of R180 and R182 at the target core. -/
def State.window (s : State) (a n : Nat) : Except WinFault (Nat × Nat) :=
  let idx := bits a 33 27
  let c := 96 * clusterOf s.curCore + idx
  let k := s.core c
  if 2 ^ 34 ≤ a ∨ 96 ≤ idx ∨ k.fwall.getLsbD 0 then .error .access
  else
    match s.handleEntry c s.wave (bits a 26 19) with
    | none => .error .access
    | some e =>
      let v := (k.tile e).1
      let o := bits a 18 0
      if !tileHolds v ∨ tLen v < o + n then .error .access
      else
        let p := 1024 * tFirst v + o
        match k.bankViolation s.wave.dom p n with
        | some b => .error (.domain b ((k.bankDom b).getD 0))
        | none => .ok (c, p)

/-- The same for an access of a kind: a load that meets a poisoned line fails (R201). -/
def State.windowAs (s : State) (k : AccKind) (a n : Nat) : Except WinFault (Nat × Nat) :=
  match s.window a n with
  | .ok (c, p) => if !k.writes && s.poisonedIn (spadPa c p) n then .error .access else .ok (c, p)
  | .error f => .error f

/-- What a failed window access reports. -/
def WinFault.report (f : WinFault) (k : AccKind) (dom a : Nat) : ReqFault :=
  match f with
  | .access => { cause := k.accessFault, recordCause := k.accessFault, tval := BitVec.ofNat 64 a }
  | .domain b od =>
    { cause := 29, recordCause := 29, tval := BitVec.ofNat 64 a, dom := some (domFaultWord k.writes b 1 od dom) }

end Sys2Proof.Machine
end

