-- ==== Sys2Proof/Machine/RegRead.lean ====
section
/-! DEFINITION. What a read of the device register block returns (R267, R300, R304, R305, R335, R373 to R384, R410). -/

namespace Sys2Proof.Machine

/-- Code of a slot state in `SCTL.STATE` (R305). -/
def SlotState.code : SlotState → Nat
  | .free => 0
  | .held => 1
  | .running => 2
  | .waiting => 3
  | .parked => 4
  | .handingOver => 5
  | .retiring => 6

/-- The slot whose context slot `i` shows: the even slot of a width-128 wave (R305). -/
def Core.shown (c : Core) (i : Nat) : Nat :=
  if i % 2 = 1 ∧ (c.slot i).state = .free ∧ (c.slot (i - 1)).state ≠ .free ∧ (c.slot (i - 1)).wave.widthCode = 3 then i - 1 else i

/-- `SCTL` of a slot (R305). -/
def Core.sctl (c : Core) (i : Nat) : Word :=
  let k := c.slot (c.shown i)
  let w := k.wave
  BitVec.ofNat 64 (w.locks * 2 ^ 48 + w.dom * 2 ^ 40 + w.cteam * 2 ^ 34 + k.state.code * 2 ^ 16 + b2n k.retd * 2 + b2n k.prq)

/-- `DSLOT` (R335). -/
def Core.dslotWord (c : Core) : Word :=
  BitVec.ofNat 64 ((List.range 4).foldl (fun a k =>
    match Table.find c.dslot k with
    | some d => a + 2 ^ (32 + k) + d * 2 ^ (8 * k)
    | none => a + Table.get c.dslot (k + 4) 0 * 2 ^ (8 * k)) 0)

/-- A map register: eight slot codes (R335). -/
def mapWord (t : Table Nat) (i : Nat) : Word :=
  BitVec.ofNat 64 (leValue ((List.range 8).map (fun j => BitVec.ofNat 8 (Table.get t (8 * i + j) 4))))

/-- Messages queued at a core's remote service slot (R300). -/
def Core.rsqStatus (c : Core) : Word := BitVec.ofNat 64 c.inbound.length

/-- Eight bytes of the bind record area. -/
def Core.bindWord (c : Core) (o : Nat) : Word := BitVec.ofNat 64 (Bytes.readLE c.bindArea o 8)

/-- `PRDOM.GO` reads 1 until no slot of the domain is bound (R305). -/
def Core.prdomWord (c : Core) : Word := c.prdom

/-- The register at an offset of a core's block (R300). -/
def Core.readReg (c : Core) (o : Nat) : Word :=
  if o < 0x80 then c.bindWord o
  else if o = 0x80 then c.bctl
  else if 0x100 ≤ o ∧ o < 0x180 then c.sctl ((o - 0x100) / 8)
  else if o = 0x180 then c.rsqStatus
  else if o = 0x200 then c.prdomWord
  else if o = 0x280 then c.fwall
  else if o = 0x300 then c.dslotWord
  else if 0x400 ≤ o ∧ o < 0x420 then mapWord c.dpbank ((o - 0x400) / 8)
  else if 0x500 ≤ o ∧ o < 0x580 then mapWord c.dpreg ((o - 0x500) / 8)
  else if 0x800 ≤ o ∧ o < 0x880 then BitVec.ofNat 64 (Table.get c.ev ((o - 0x800) / 8) 0)
  else if 0x1000 ≤ o ∧ o < 0x2000 then
    let t := c.tile ((o - 0x1000) / 16)
    if o / 8 % 2 = 0 then t.1 else t.2
  else 0

/-- The 64 bytes of a segment table entry (R323). -/
def Segment.bytes (g : Segment) : List Byte :=
  leBytes 8 g.name.toNat ++ leBytes 1 g.dom ++ leBytes 1 g.kind ++ leBytes 1 (g.att + b2n g.res * 4 + g.sst * 8) ++
    leBytes 1 g.rocnt ++ leBytes 4 g.gen.toNat ++ leBytes 8 g.back.toNat ++ leBytes 4 g.pasid ++ leBytes 1 g.core ++
    leBytes 1 g.rwteam ++ leBytes 1 g.tiles.length ++ leBytes 1 0 ++
    ((g.tiles.flatMap (fun (t : Nat × Nat) => leBytes 4 (t.1 + t.2 * 2 ^ 9))) ++ List.replicate 32 0).take 32

/-- Word 0 and word 1 of a barrier register pair (R356). -/
def Barrier.words (b : Barrier) : Word × Word :=
  (BitVec.ofNat 64 (b2n b.rev * 2 ^ 57 + b.wait * 2 ^ 48 + b.ph * 2 ^ 32 + b.cnt * 2 ^ 16 + b.exp % 65536), BitVec.ofNat 64 b.ref)

/-- Eight bytes of a list as a number. -/
def wordAt (bs : List Byte) (o : Nat) : Word := BitVec.ofNat 64 (leValue ((bs.drop o).take 8))

/-- The register at an offset of a cluster's block (R300, R306, R323, R356, R373, R379, R411). -/
def Cluster.readReg (q : Cluster) (o : Nat) : Word :=
  if o < 0x2000 then
    let t := Table.get q.teams (o / 128) {}
    let r := o % 128
    if r = 0 then t.word
    else if r < 103 then BitVec.ofNat 64 (leValue ((List.range 8).map (fun j => BitVec.ofNat 8 (Table.get t.cmap (r - 8 + j) 0))))
    else 0
  else if 0x10000 ≤ o ∧ o < 0x20000 then wordAt (Table.get q.segs ((o - 0x10000) / 64) {}).bytes (o % 64)
  else if 0x20000 ≤ o ∧ o < 0x24000 then
    let b : Word × Word := Barrier.words (Table.get q.bars ((o - 0x20000) / 16) {})
    if o / 8 % 2 = 0 then b.1 else b.2
  else if 0x30000 ≤ o ∧ o < 0x34000 then Table.get q.regs o 0
  else 0

/-- Granules of a segment. -/
def Segment.granules (g : Segment) : Nat := g.tiles.foldl (fun a t => a + t.2) 0

/-- `DPINQ.USED`: granules of a domain's pinned segments, device-wide (R338). -/
def State.pinnedUsed (s : State) (dom : Nat) : Nat :=
  s.clusters.foldl (fun a c => c.2.segs.foldl (fun a e =>
    if e.2.kind = 3 ∧ e.2.dom = dom then a + e.2.granules else a) a) 0

/-- The 8-byte register at an aligned offset of the device register block (R384). -/
def State.readReg (s : State) (o : Nat) : Word :=
  if 0x1000000 ≤ o ∧ o < 0x1000000 + 0x2000 * 1536 then (s.core ((o - 0x1000000) / 0x2000)).readReg (o % 0x2000)
  else if 0x2000000 ≤ o ∧ o < 0x2000000 + 0x40000 * 16 then (s.cluster ((o - 0x2000000) / 0x40000)).readReg (o % 0x40000)
  else if 0x14000 ≤ o ∧ o < 0x15000 ∧ o % 16 = 0 then
    let u := fld (s.reg o) 31 0
    BitVec.ofNat 64 (b2n (decide (u = 0)) * 2 ^ 32 + u)
  else if 0x20000 ≤ o ∧ o < 0x22000 ∧ o % 32 = 16 then setFld (s.reg o) 47 24 (s.pinnedUsed ((o - 0x20000) / 32))
  else if 0x17000 ≤ o ∧ o < 0x17800 then
    let d := s.die ((o - 0x17000) / 256)
    let r := o % 256
    BitVec.ofNat 64 (if r < 0x80 then Table.get d.ecc (r / 8) 0 else Table.get d.eccBad ((r - 0x80) / 8) 0)
  else s.reg o

/-- `n` bytes at an offset of the register block. -/
def State.readRegBytes (s : State) (o n : Nat) : Nat := bits (s.readReg (o / 8 * 8)).toNat (8 * (o % 8 + n) - 1) (8 * (o % 8))

end Sys2Proof.Machine
end

