-- ==== Sys2Proof/Machine/Access.lean ====
section
/-! DEFINITION. One access of a wave to global memory, the aperture, a register or a window: where it goes, what it
reads and writes, and what it reports when it fails (R176 to R183, R187 to R196, R203 to R208, R219). -/

namespace Sys2Proof.Machine

/-- Where an access goes. -/
inductive Dest
  /-- Memory behind the home L2, with its memory type. -/
  | mem (va : Nat) (t : Target)
  /-- Scratchpad of a core of the own cluster: core and scratchpad byte. -/
  | spad (core addr : Nat)
  /-- Scratchpad of a core elsewhere: an active message. -/
  | remote (core addr va : Nat)
  /-- A device register. -/
  | reg (off : Nat)
deriving DecidableEq, Repr

/-- Resolve a global access of `n` bytes of wave `w` in slot `i` of core `c`: the tag of the cache it looks up, the
translation, and the place it names (R178, R181, R182, R186, R194, R201, R410); which requests a peer answers with an abort is
the peer's (R394). -/
def State.resolve (s : State) (c i : Nat) (w : Wave) (cache : CacheId) (k : AccKind) (va n : Nat) :
    State × Except ReqFault Dest :=
  match s.staleFault c cache w va k.writes with
  | some (s, f) => (s, .error f)
  | none =>
    let r := w.request c i k va
    match s.translate (stationOf (dieOf c) va) r with
    | (s, .error f) => (s, .error (f.report r))
    | (s, .ok t) =>
      match s.paKind t.pa with
      | .aperture =>
        let core := (t.pa - 0xE000000000000) / 0x80000
        let a := (t.pa - 0xE000000000000) % 0x80000
        if (s.core core).fwall.getLsbD 0 ∨ 524288 < a + n then (s, .error (TFault.report .access r))
        else if clusterOf core ≠ clusterOf c then (s, .ok (.remote core a va))
        else
          match (s.core core).bankViolation w.dom a n with
          | some b =>
            (s, .error { cause := 29, recordCause := 29, tval := BitVec.ofNat 64 va,
                         dom := some (domFaultWord k.writes b 1 (((s.core core).bankDom b).getD 0) w.dom) })
          | none =>
            if s.poisonedIn t.pa n && (k = .load || k = .fetch) then (s, .error (TFault.report .access r))
            else (s, .ok (.spad core a))
      | .register => (s, .ok (.reg (t.pa - 0xF000000000000)))
      | .peer =>
        (s.tookFree, if Config.peerAborts s.freeCount then .error (TFault.report .access r) else .ok (.mem va t))
      | _ =>
        if s.poisoned t.pa && (k = .load || k = .fetch) then (s, .error (TFault.report .access r))
        else (s, .ok (.mem va t))

/-- The path an access takes: the lane path, the hart path, or one of the read-only paths. -/
inductive Path | lane | hart | const | sampler
deriving DecidableEq, Repr

/-- The cache of a path. -/
def Path.cache : Path → CacheId
  | .lane => .lane
  | .hart => .hart
  | .const => .const
  | .sampler => .sampler

/-- The core's own copies of a physical line reach the home and leave the lane L1, before an access performed there. -/
def State.toHome (s : State) (c pa : Nat) : State := s.dropLines c .lane (fun l => l.pline = pa / 64)

/-- Send an active message to the core it names: its inbound queue of 32, or the network when that is full (R297). -/
def State.sendMessage (s : State) (core : Nat) (m : ActiveMsg) : State :=
  let full := decide (32 ≤ (s.core core).inbound.length)
  let s := if full then
      (s.modCore core (fun q => { q with network := q.network ++ [m] })).count core 15 1
    else s.modCore core (fun q => { q with inbound := q.inbound ++ [m] })
  { s with nextTag := s.nextTag + 1 }.schedule s.lat.activeMessage .activeMessageService { core := core }

/-- A wave has active messages that are not acknowledged (R219). -/
def State.messagesOut (s : State) (c i : Nat) : Bool :=
  s.acks.any (fun a => a.msg.sender = c && a.msg.slot = i) ||
    s.cores.any (fun e => e.2.inbound.any (fun m => m.sender = c && m.slot = i) ||
      e.2.network.any (fun m => m.sender = c && m.slot = i))

/-- The effect of a wide acquire or release that names no line of global memory: the lane L1 gives up its lines of the
domain, or writes its dirty bytes back (R188, R206, R213). -/
def State.acquireAt (s : State) (c dom : Nat) (wide : Bool) : State := if wide then s.refreshL1 c dom else s

def State.releaseAt (s : State) (c : Nat) (wide : Bool) : State :=
  if wide then s.cleanLines c .lane (fun _ => true) else s

/-- What `n` bytes of device registers read as now: the register writes of this turn that are still on their way count,
in their order (R208; DEDUCED, log 75). -/
def State.regBytesNow (s : State) (o n : Nat) : Nat :=
  let late := s.agenda.filter (fun e => e.2.1 = .registerWrite && decide (e.1 ≤ s.cycle))
  leValue ((List.range n).map (fun k =>
    (late.foldl (fun (v : Byte) e =>
      let a := e.2.2
      if a.a ≤ o + k ∧ o + k < a.a + a.b then BitVec.ofNat 8 (a.c / 2 ^ (8 * (o + k - a.a))) else v)
      (BitVec.ofNat 8 (s.readRegBytes o n / 2 ^ (8 * k))))))

/-- Read `n` bytes; a synchronising read at a wide scope is performed at the home after the drain (R231). A remote read
has no value yet. -/
def State.readDest (s : State) (c : Nat) (w : Wave) (p : Path) (wideAcq : Bool) (n : Nat) (d : Dest) : State × Nat :=
  match d with
  | .mem va t =>
    if wideAcq then
      let s := (s.toHome c t.pa).acquireLine c w.dom t.pa
      ((s.touchL2 t.pa w.dom false).usedFree t.pa n, s.readPhys t.pa n)
    else if t.mt = 0 ∧ p ≠ .hart then s.cachedRead c p.cache w.dom w.pasid va t.pa n
    else if t.mt = 0 then
      let s := s.hartTouch c w.dom w.pasid va t.pa
      (s.touchL2 t.pa w.dom false, s.readPhys t.pa n)
    else
      let s := if p = .lane ∨ p = .hart then s.toHome c t.pa else s
      ((s.touchL2 t.pa w.dom false).usedFree t.pa n, s.readPhys t.pa n)
  | .spad k a => (s.acquireAt c w.dom wideAcq, Bytes.readLE (s.core k).spad a n)
  | .reg o => (s.acquireAt c w.dom wideAcq, s.regBytesNow o n)
  | .remote _ _ _ => (s, 0)

/-- The tile of a core whose command ring has its WIDX among `n` bytes from scratchpad byte `a` (R277, R278). -/
def Core.widxTile (c : Core) (a n : Nat) : Option Nat :=
  (c.tiles.find? (fun e =>
    let v := e.2.1
    let base := 1024 * fld v 8 0
    (fld v 21 20 = 1 || fld v 21 20 = 3) && fld v 19 18 ≠ 0 && decide (a < base + 4 ∧ base < a + n) &&
      [0x43, 0x44, 0x4C].contains (Bytes.read c.spad (base + 8)).toNat)).map (fun e => e.1)

/-- A store by the wave of slot `i` of core `c` to a scratchpad, with what it publishes (R278). -/
def State.storeSpad (s : State) (c i core a : Nat) (bs : List Byte) : State :=
  let s := s.spadWrite core a bs (some (c, i))
  match (s.core core).widxTile a bs.length with
  | some e => s.schedule 0 .widxStorePublish { core := c, slot := i, a := e, b := core }
  | none => s

/-- Write bytes; a release at a wide scope is performed at the home after a new release epoch (R188, R231). A register
write reaches its register as an event before the next word (R9); a remote write leaves as an active message (R219). -/
def State.writeDest (s : State) (c i : Nat) (w : Wave) (p : Path) (ord scope : Nat) (wideRel : Bool) (bs : List Byte)
    (d : Dest) : State :=
  match d with
  | .mem va t =>
    let s := s.breakBlock t.pa bs.length (some (c, i))
    if wideRel then ((s.releaseLine c t.pa).toHome c t.pa |>.touchL2 t.pa w.dom true).writePhys t.pa bs
    else if t.mt = 0 ∧ p = .lane then s.laneWrite c w.dom w.pasid va t.pa bs
    else if t.mt = 0 then ((s.hartTouch c w.dom w.pasid va t.pa).touchL2 t.pa w.dom true).writePhys t.pa bs
    else ((s.toHome c t.pa).touchL2 t.pa w.dom true).writePhys t.pa bs
  | .spad k a => (s.releaseAt c wideRel).storeSpad c i k a bs
  | .reg o => (s.releaseAt c wideRel).schedule 0 .registerWrite { a := o, b := bs.length, c := leValue bs }
  | .remote k a va =>
    (s.releaseAt c wideRel).sendMessage k
      { kind := .store, size := bs.length, ord := ord, scope := scope, dom := w.dom, addr := a, op := 0, ty := 0,
        operand := leValue bs, operand2 := 0, sender := c, slot := i, vaddr := va, tag := s.nextTag }

/-! ### Atomic operations (R239, R240) -/

/-- New value of `vamo.op` under a type (R239); `OP` 7 is the floating add. -/
def amoNew (fadd : Nat → Nat → Nat) (op : Nat) (sgn : Bool) (wd f c : Nat) : Nat :=
  let a := typed wd sgn f
  let b := typed wd sgn c
  match op with
  | 0 => wrapTo wd (a + b)
  | 1 => if a ≤ b then f else c
  | 2 => if a ≤ b then c else f
  | 3 => f &&& c
  | 4 => f ||| c
  | 5 => f ^^^ c
  | 6 => c
  | _ => fadd f c

/-- What an atomic does at its location: an operation, or a compare with an expected value. -/
inductive AtomicOp
  | rmw (op ty : Nat) (sgn : Bool) (wd : Nat)
  | cas (expected : Nat)
deriving DecidableEq, Repr

/-- The value an atomic writes, if it writes. -/
def AtomicOp.result (o : AtomicOp) (fadd : Nat → Nat → Nat → Nat) (old operand : Nat) : Option Nat :=
  match o with
  | .rmw op ty sgn wd => some (amoNew (fadd ty) op sgn wd old operand)
  | .cas e => if old = e then some operand else none

/-- Where an atomic to a cacheable line is performed: `hint` 1 forces near and 2 far, else the home's predictor counter
decides, near for 0 or 1. Near takes ownership of the line into core `c`; far ends it. The counter rises when ownership
moves between cores and falls when its owner performs a further atomic (R190). The result is the same either way. A line's
counter is that of its number mod 16,384, and a far atomic leaves the counter as it is (DESIGN CHOICE, log 84). -/
def State.placeAtomic (s : State) (c pa hint : Nat) : State :=
  s.modDie (s.homeDie pa) (fun d =>
    let line := pa / 64
    let key := line % 16384
    let n := Table.get d.predictor key 0
    if hint = 1 ∨ (hint = 0 ∧ n < 2) then
      let n' := match Table.find d.owners line with
        | some q => if q = c then n - 1 else if n < 3 then n + 1 else 3
        | none => n
      { d with predictor := Table.put d.predictor key n', owners := Table.put d.owners line c }
    else { d with owners := Table.erase d.owners line })

/-- An atomic that travels to a peer as one request: an operation code and its type, or the value a compare and swap expects
(R394). -/
def AtomicOp.toPeer (o : AtomicOp) (pid pa n operand : Nat) : Out :=
  match o with
  | .rmw op ty _ _ => .peerAtomic pid pa n op ty operand none
  | .cas e => .peerAtomic pid pa n 0 15 operand (some e)

/-- The read and write of one atomic at its home or bank, with its ordering at a wide scope (R190, R208, R240); at a peer it is
one request, performed there (R394). -/
def State.atomicDest (s : State) (c i : Nat) (w : Wave) (fadd : Nat → Nat → Nat → Nat) (o : AtomicOp) (ord scope hint : Nat)
    (acq rel : Bool) (n operand : Nat) (d : Dest) : State × Nat :=
  match d with
  | .mem _ t =>
    let s := if t.mt = 0 ∧ s.paKind t.pa = .dram then s.placeAtomic c t.pa hint else s
    let s := s.toHome c t.pa
    let s := s.dropLines c .hart (fun l => l.pline = t.pa / 64)
    let s := if acq then s.acquireLine c w.dom t.pa else s
    let old := s.readPhys t.pa n
    if s.paKind t.pa = .peer then
      let s := if rel then s.releaseLine c t.pa else s
      let place := s.peerPlace t.pa
      (({ s with freeCount := s.freeCount + n } : State).emit (o.toPeer place.1 place.2 n operand), old)
    else
    let s := s.usedFree t.pa n
    let s := match o.result fadd old operand with
      | some v =>
        let s := if rel then s.releaseLine c t.pa else s
        ((s.breakBlock t.pa n (some (c, i))).touchL2 t.pa w.dom true).writePhys t.pa (leBytes n v)
      | none => s.touchL2 t.pa w.dom false
    (s, old)
  | .spad k a =>
    let old := Bytes.readLE (s.core k).spad a n
    let s := match o.result fadd old operand with
      | some v =>
        (s.releaseAt c rel).spadWrite k a (leBytes n v) (some (c, i))
      | none => s
    (s.acquireAt c w.dom acq, old)
  | .reg off =>
    let old := s.regBytesNow off n
    let s := match o.result fadd old operand with
      | some v => (s.releaseAt c rel).schedule 0 .registerWrite { a := off, b := n, c := v }
      | none => s
    (s.acquireAt c w.dom acq, old)
  | .remote k a va =>
    let m : ActiveMsg :=
      { kind := match o with
          | .cas _ => .cas
          | .rmw _ _ _ _ => .atomic,
        size := n, ord := ord, scope := scope, dom := w.dom, addr := a,
        op := match o with
          | .rmw op _ _ _ => op
          | .cas _ => 0,
        ty := match o with
          | .rmw _ ty _ _ => ty
          | .cas _ => 15,
        operand := operand,
        operand2 := match o with
          | .cas e => e
          | .rmw _ _ _ _ => 0,
        sender := c, slot := i, vaddr := va, tag := s.nextTag }
    ((s.releaseAt c rel).sendMessage k m, 0)

/-- A load of a remote core's scratchpad leaves as an active message (R219). -/
def State.remoteLoad (s : State) (c i : Nat) (w : Wave) (ord scope n : Nat) (core a va : Nat) : State :=
  s.sendMessage core
    { kind := .load, size := n, ord := ord, scope := scope, dom := w.dom, addr := a, op := 0, ty := 0, operand := 0,
      operand2 := 0, sender := c, slot := i, vaddr := va, tag := s.nextTag }

/-! ### The checks of a global access at issue (R177, R229) -/

/-- An access of `n` bytes at `a` leaves the 49-bit address space (R177). -/
def outside49 (a n : Nat) : Bool := decide (2 ^ 49 < a + n)

/-- Record what a late fault reports in the wave's registers (R101). -/
def State.noteFault (s : State) (f : ReqFault) : State :=
  match f.dom with
  | some d => s.modCsrs (fun c => { c with mdomfault := d })
  | none => s

/-- `due` of the results of a word that has parked late: they wait for the park's resolution (R164, R230, R240). -/
def parkDue : Nat := 2 ^ 70

/-- The results that a late-parked word already has, held with it: its destination is written as a whole or not at all. -/
def State.holdResults (s : State) (pc : Word) (locs : List Loc) (upds : List Upd) (acks : List AckPut) : State :=
  if upds = [] ∧ acks = [] then s
  else s.modWave (fun w =>
    { w with pending := w.pending ++
        [{ pc := pc, la := 0, since := 0, due := parkDue, locs := locs, upds := upds, acks := acks }] })

/-- The outcome of a word whose request failed after it issued: a late park with the instruction and lanes held (R163). -/
def lateFault (pc : Word) (f : ReqFault) (held : Instr × Mask) (s : State) : Issue :=
  .latePark f.cause f.recordCause f.tval pc [held] (s.noteFault f)

/-- The outcome of a fetch, or of a read of `waita`, that fails at a station, a bank or a cache tag: a late park at the
word, whose request is made again when the word is looked at again (R163, R164, R178, R246; DEDUCED, log 73). -/
def lateAtWord (f : ReqFault) (s : State) : Issue :=
  .latePark f.cause f.recordCause f.tval s.wave.pc [] (s.noteFault f)

end Sys2Proof.Machine
end

