-- ==== Sys2Proof/Machine/Float.lean ====
section
/-! DEFINITION. Exact floating-point values, the formats of R35 and R39, rounding (R37, R125, R45) and the operations
that round once. A value is computed exactly and rounded at the end. -/

namespace Sys2Proof.Machine

/-- A floating-point value: a NaN, an infinity, or (−1)^neg × m × 2^e. Zero has m = 0 and a sign. -/
inductive Fv
  | nan (signalling : Bool)
  | inf (neg : Bool)
  | fin (neg : Bool) (m : Nat) (e : Int)
deriving DecidableEq, Repr

/-- Rounding directions (R37, R42, and RISC-V). -/
inductive Rm | rne | rtz | rdn | rup | rna
deriving DecidableEq, Repr

/-- A floating-point format: an IEEE interchange layout (R35), or a binary8 variant with precision P and infinity
setting (R39, R41). -/
inductive Fmt
  | ieee (expBits fracBits : Nat)
  | b8 (signed : Bool) (p : Nat) (inf : Bool)
deriving DecidableEq, Repr

/-- FP64, FP32, FP16 and BF16 (R35). -/
def Fmt.f64 : Fmt := .ieee 11 52
def Fmt.f32 : Fmt := .ieee 8 23
def Fmt.f16 : Fmt := .ieee 5 10
def Fmt.bf16 : Fmt := .ieee 8 7

/-- Significand bits P. -/
def Fmt.prec : Fmt → Nat
  | .ieee _ f => f + 1
  | .b8 _ p _ => p

/-- Exponent bias (R35, R39). -/
def Fmt.bias : Fmt → Nat
  | .ieee x _ => 2 ^ (x - 1) - 1
  | .b8 sgn p _ => 2 ^ ((if sgn then 7 else 8) - p)

/-- Exponent of the least normal value. -/
def Fmt.emin (f : Fmt) : Int := 1 - (f.bias : Int)

/-- Largest finite magnitude as a code without its sign (R40). -/
def Fmt.maxCode : Fmt → Nat
  | .ieee x f => (2 ^ x - 1) * 2 ^ f - 1
  | .b8 sgn _ inf => (if sgn then 0x7F else 0xFE) - b2n inf

/-- The magnitude a code without sign encodes, as significand and exponent (R39). -/
def Fmt.magnitude (f : Fmt) (code : Nat) : Nat × Int :=
  let t := f.prec - 1
  let e := code / 2 ^ t
  let frac := code % 2 ^ t
  if e = 0 then (frac, f.emin - t) else (frac + 2 ^ t, f.emin - t + (e : Int) - 1)

/-- The value of a code (R35, R39). -/
def Fmt.decode (f : Fmt) (v : Nat) : Fv :=
  match f with
  | .ieee x fb =>
    let neg := bit v (x + fb)
    let code := v % 2 ^ (x + fb)
    if code / 2 ^ fb = 2 ^ x - 1 then
      (if code % 2 ^ fb = 0 then .inf neg else .nan (!bit v (fb - 1)))
    else
      let q := f.magnitude code
      .fin neg q.1 q.2
  | .b8 true _ inf =>
    let v := v % 256
    if v = 0x80 then .nan false
    else if inf && (v = 0x7F || v = 0xFF) then .inf (bit v 7)
    else
      let q := f.magnitude (v % 128)
      .fin (bit v 7) q.1 q.2
  | .b8 false _ inf =>
    let v := v % 256
    if v = 0xFF then .nan false
    else if inf && v = 0xFE then .inf false
    else
      let q := f.magnitude v
      .fin false q.1 q.2

/-- Bit position of the sign in a code; binary8 unsigned has none. -/
def Fmt.signBit : Fmt → Nat
  | .ieee x f => x + f
  | .b8 _ _ _ => 7

/-- Code without sign of the magnitude m × 2^e, which the format holds. -/
def Fmt.codeOf (f : Fmt) (m : Nat) (e : Int) : Nat :=
  if m = 0 then 0
  else
    let t := f.prec - 1
    let top : Int := (Nat.log2 m : Int) + e
    let unit : Int := (if top < f.emin then f.emin else top) - t
    let sig := if unit ≤ e then m * 2 ^ (e - unit).toNat else m / 2 ^ (unit - e).toNat
    if top < f.emin then sig else sig + ((top - f.emin).toNat) * 2 ^ t

/-- The code of a value of the format; NaNs are canonical (R36). -/
def Fmt.encode (f : Fmt) (v : Fv) : Nat :=
  match f, v with
  | .ieee x fb, .nan _ => (2 ^ x - 1) * 2 ^ fb + 2 ^ (fb - 1)
  | .ieee x fb, .inf neg => (2 ^ x - 1) * 2 ^ fb + b2n neg * 2 ^ (x + fb)
  | .b8 true _ _, .nan _ => 0x80
  | .b8 false _ _, .nan _ => 0xFF
  | .b8 true _ _, .inf neg => if neg then 0xFF else 0x7F
  | .b8 false _ _, .inf _ => 0xFE
  | .ieee x fb, .fin neg m e => (Fmt.ieee x fb).codeOf m e + b2n neg * 2 ^ (x + fb)
  | .b8 sgn p i, .fin neg m e =>
    let c := (Fmt.b8 sgn p i).codeOf m e
    if c = 0 then 0 else c + b2n (neg && sgn) * 128

/-- Largest finite value of a format, with a sign. -/
def Fmt.maxFinite (f : Fmt) (neg : Bool) : Fv :=
  let q := f.magnitude f.maxCode
  .fin neg q.1 q.2

/-- Whether the format has infinities (R45). -/
def Fmt.hasInf : Fmt → Bool
  | .ieee _ _ => true
  | .b8 _ _ inf => inf

/-! ### Rounding -/

/-- m / 2^k rounded to an integer in a direction, where `sticky` says that the exact value lies strictly above m / 2^0
by less than one unit. With one significand bit both neighbours of a tie between normals have the significand 1, so that
"to even" does not choose: the tie goes to the larger magnitude, by the parity of the scaled integer (R45, R134 settle only
the tie below emin; DESIGN CHOICE, log 80). -/
def roundShift (rm : Rm) (neg : Bool) (m k : Nat) (sticky : Bool) : Nat :=
  let q := m / 2 ^ k
  let r := m % 2 ^ k
  let half := 2 ^ k / 2
  let inexact := r ≠ 0 || sticky
  let above := if k = 0 then false else decide (half < r) || (decide (r = half) && sticky)
  let tie := k ≠ 0 && decide (r = half) && !sticky
  let up := match rm with
    | .rne => above || (tie && q % 2 = 1)
    | .rna => above || tie
    | .rtz => false
    | .rdn => neg && inexact
    | .rup => !neg && inexact
  if up then q + 1 else q

/-- RoundToPrecision of R45 on m × 2^e, a little more where `sticky`: the rounded significand and exponent, and
whether rounding changed the value. `emin` of `none` means no lower exponent limit. -/
def roundPrec (p : Nat) (emin : Option Int) (rm : Rm) (neg : Bool) (m : Nat) (e : Int) (sticky : Bool) :
    Nat × Int × Bool :=
  if m = 0 ∧ sticky = false then (0, e, false)
  else
    let top : Int := (Nat.log2 m : Int) + e
    let lim : Int := match emin with
      | some x => if top < x then x else top
      | none => top
    let unit : Int := lim - (p - 1 : Nat)
    if unit ≤ e then (m, e, sticky)
    else
      let k := (unit - e).toNat
      let q := roundShift rm neg m k sticky
      (q, unit, decide (m % 2 ^ k ≠ 0) || sticky)

/-- |m × 2^e| compared with a magnitude: strictly greater. -/
def magGt (m : Nat) (e : Int) (m' : Nat) (e' : Int) : Bool :=
  if e' ≤ e then decide (m' < m * 2 ^ (e - e').toNat) else decide (m' * 2 ^ (e' - e).toNat < m)

/-- Exact comparison of signed values m × 2^e: less than. -/
def dyLt (a : Int) (e : Int) (b : Int) (e' : Int) : Bool :=
  if e' ≤ e then decide (a * 2 ^ (e - e').toNat < b) else decide (a < b * 2 ^ (e' - e).toNat)

/-- What IEEE 754 exceptions a rounding met: inexact, underflow (tiny after rounding and inexact), overflow. -/
structure RoundFlags where
  nx : Bool := false
  uf : Bool := false
  of : Bool := false
deriving DecidableEq, Repr

/-- RoundT of R125 on m × 2^e (a little more where `sticky`): the IEEE 754-2019 result in format `f`. -/
def Fmt.round (f : Fmt) (rm : Rm) (neg : Bool) (m : Nat) (e : Int) (sticky : Bool) : Fv × RoundFlags :=
  let r := roundPrec f.prec (some f.emin) rm neg m e sticky
  let mx := f.magnitude f.maxCode
  if magGt r.1 r.2.1 mx.1 mx.2 then
    let toInf := match rm with
      | .rne => true
      | .rna => true
      | .rtz => false
      | .rdn => neg
      | .rup => !neg
    (if toInf then .inf neg else f.maxFinite neg, { nx := true, of := true })
  else
    let free := roundPrec f.prec none rm neg m e sticky
    let tiny := (m ≠ 0 || sticky) && magGt 1 f.emin free.1 free.2.1
    (.fin neg r.1 r.2.1, { nx := r.2.2, uf := r.2.2 && tiny })

/-! ### Exact operations -/

/-- The result of an operation before rounding: special, an exact zero with its sign, or m × 2^e with a sticky bit.
`nv` marks an invalid operation and `dz` a division of a finite number by zero. -/
inductive Raw
  | nan (nv : Bool)
  | inf (neg : Bool) (dz : Bool)
  | num (neg : Bool) (m : Nat) (e : Int) (sticky : Bool)
deriving DecidableEq, Repr

/-- A value is a NaN. -/
def Fv.isNan : Fv → Bool
  | .nan _ => true
  | _ => false

/-- A value is a signalling NaN. -/
def Fv.isSnan : Fv → Bool
  | .nan q => q
  | _ => false

/-- Negation: the sign inverted. -/
def Fv.neg : Fv → Fv
  | .nan q => .nan q
  | .inf n => .inf (!n)
  | .fin n m e => .fin (!n) m e

/-- The signed significand of a finite value. -/
def sgnOf (neg : Bool) (m : Nat) : Int := if neg then -(m : Int) else m

/-- Exact sum of a × 2^e and b × 2^e', with the sign of a zero result where both are zero or they cancel (R36). -/
def addFin (rm : Rm) (n1 : Bool) (m1 : Nat) (e1 : Int) (n2 : Bool) (m2 : Nat) (e2 : Int) : Raw :=
  let e := if e1 ≤ e2 then e1 else e2
  let z : Int := sgnOf n1 m1 * 2 ^ (e1 - e).toNat + sgnOf n2 m2 * 2 ^ (e2 - e).toNat
  if z = 0 then
    let neg := if m1 = 0 ∧ m2 = 0 ∧ n1 = n2 then n1 else decide (rm = .rdn)
    .num neg 0 0 false
  else .num (decide (z < 0)) z.natAbs e false

/-- x + y. -/
def Fv.add (rm : Rm) (x y : Fv) : Raw :=
  match x, y with
  | .nan a, .nan b => .nan (a || b)
  | .nan a, _ => .nan a
  | _, .nan b => .nan b
  | .inf a, .inf b => if a = b then .inf a false else .nan true
  | .inf a, _ => .inf a false
  | _, .inf b => .inf b false
  | .fin n1 m1 e1, .fin n2 m2 e2 => addFin rm n1 m1 e1 n2 m2 e2

/-- x × y. -/
def Fv.mul (x y : Fv) : Raw :=
  match x, y with
  | .nan a, .nan b => .nan (a || b)
  | .nan a, _ => .nan a
  | _, .nan b => .nan b
  | .inf a, .inf b => .inf (a ^^ b) false
  | .inf a, .fin b m _ => if m = 0 then .nan true else .inf (a ^^ b) false
  | .fin a m _, .inf b => if m = 0 then .nan true else .inf (a ^^ b) false
  | .fin a m e, .fin b m' e' => .num (a ^^ b) (m * m') (e + e') false

/-- x × y + z, rounded once by the caller. ∞ × 0 is invalid whatever z is. -/
def Fv.fma (rm : Rm) (x y z : Fv) : Raw :=
  match Fv.mul x y with
  | .nan nv => .nan (nv || z.isSnan)
  | .inf a _ =>
    match z with
    | .nan q => .nan q
    | .inf b => if a = b then .inf a false else .nan true
    | .fin _ _ _ => .inf a false
  | .num a m e _ =>
    match z with
    | .nan q => .nan q
    | .inf b => .inf b false
    | .fin b m' e' => addFin rm a m e b m' e'

/-- x / y to at least `p` + 3 significant bits, with a sticky bit. -/
def Fv.div (p : Nat) (x y : Fv) : Raw :=
  match x, y with
  | .nan a, .nan b => .nan (a || b)
  | .nan a, _ => .nan a
  | _, .nan b => .nan b
  | .inf _, .inf _ => .nan true
  | .inf a, .fin b _ _ => .inf (a ^^ b) false
  | .fin a _ _, .inf b => .num (a ^^ b) 0 0 false
  | .fin a m e, .fin b m' e' =>
    if m' = 0 then (if m = 0 then .nan true else .inf (a ^^ b) true)
    else if m = 0 then .num (a ^^ b) 0 0 false
    else
      let k := p + 3 + Nat.log2 m'
      let q := (m * 2 ^ k) / m'
      .num (a ^^ b) q (e - e' - k) (decide ((m * 2 ^ k) % m' ≠ 0))

/-- Newton steps towards the integer square root of `n` from `x` above it. -/
def isqrtLoop (n : Nat) : Nat → Nat → Nat
  | 0, x => x
  | k + 1, x =>
    let y := (x + n / x) / 2
    if y < x then isqrtLoop n k y else x

/-- Integer square root. -/
def isqrt (n : Nat) : Nat :=
  if n = 0 then 0 else isqrtLoop n (2 * Nat.log2 n + 4) (2 ^ (Nat.log2 n / 2 + 1))

/-- √x to at least `p` + 3 significant bits. -/
def Fv.sqrt (p : Nat) (x : Fv) : Raw :=
  match x with
  | .nan a => .nan a
  | .inf true => .nan true
  | .inf false => .inf false false
  | .fin neg m e =>
    if m = 0 then .num neg 0 0 false
    else if neg then .nan true
    else
      let k := 2 * (p + 3)
      let k := if (e - k) % 2 = 0 then k else k + 1
      let n := m * 2 ^ k
      let r := isqrt n
      .num false r ((e - k) / 2) (decide (r * r ≠ n))

/-- 1/√x to at least `p` + 3 significant bits; 1/√−0 = −∞ (R130). -/
def Fv.rsqrt (p : Nat) (x : Fv) : Raw :=
  match x with
  | .nan a => .nan a
  | .inf true => .nan true
  | .inf false => .num false 0 0 false
  | .fin neg m e =>
    if m = 0 then .inf neg true
    else if neg then .nan true
    else
      -- 1/√(m·2^e) = √(2^k / m) · 2^(−(e+k)/2) with e + k even
      let k := 2 * (p + 4) + Nat.log2 m
      let k := if (e + k) % 2 = 0 then k else k + 1
      let n := 2 ^ k / m
      let r := isqrt n
      .num false r (-((e + k) / 2)) (decide (r * r * m ≠ 2 ^ k))

/-- The value and flags of a raw result rounded to a format. -/
def Fmt.finish (f : Fmt) (rm : Rm) (r : Raw) : Fv × RoundFlags :=
  match r with
  | .nan _ => (.nan false, {})
  | .inf n _ => (.inf n, {})
  | .num n m e st => if m = 0 ∧ st = false then (.fin n 0 0, {}) else f.round rm n m e st

/-- The code of a raw result rounded to a format (R125). -/
def Fmt.result (f : Fmt) (rm : Rm) (r : Raw) : Nat := f.encode (f.finish rm r).1

/-- A raw result was invalid, or a division by zero. -/
def Raw.invalid : Raw → Bool
  | .nan nv => nv
  | _ => false
def Raw.divZero : Raw → Bool
  | .inf _ dz => dz
  | _ => false

/-! ### Comparisons (R127, R129) -/

/-- x < y for two values that are not NaN; −0 equals +0. -/
def Fv.lt (x y : Fv) : Bool :=
  match x, y with
  | .inf a, .inf b => a && !b
  | .inf a, _ => a
  | _, .inf b => !b
  | .fin a m e, .fin b m' e' => dyLt (sgnOf a m) e (sgnOf b m') e'
  | _, _ => false

/-- Ordered and equal. -/
def Fv.eq (x y : Fv) : Bool := !x.isNan && !y.isNan && !x.lt y && !y.lt x

/-- The sign of a value. -/
def Fv.isNeg : Fv → Bool
  | .nan _ => false
  | .inf n => n
  | .fin n _ _ => n

/-- The lesser of two values that are not NaN, −0 below +0. -/
def Fv.minOf (x y : Fv) : Fv := if x.lt y then x else if y.lt x then y else if x.isNeg then x else y

/-- The greater of two values that are not NaN, −0 below +0. -/
def Fv.maxOf (x y : Fv) : Fv := if x.lt y then y else if y.lt x then x else if x.isNeg then y else x

/-! ### RoundNarrow (R45) -/

/-- The narrowing state of `nround` (R42): mode and saturation. -/
structure Narrow where
  mode : Rm
  sat : Nat
  b8inf : Bool
deriving DecidableEq, Repr

/-- The narrowing state an `nround` value sets; illegal codes are never held (R42). -/
def narrowOf (nround : Word) : Narrow :=
  { mode := match fld nround 2 0 with
      | 1 => .rtz
      | 2 => .rdn
      | 3 => .rup
      | 4 => .rna
      | _ => .rne,
    sat := if fld nround 4 3 = 3 then 0 else fld nround 4 3,
    b8inf := nround.getLsbD 5 }

/-- The `nround` flags as bits NX, UF, OF, NV from bit 0 up. -/
def nflag (nx uf of nv : Bool) : BitVec 4 := BitVec.ofNat 4 (b2n nx + 2 * b2n uf + 4 * b2n of + 8 * b2n nv)

/-- RoundNarrow to a floating-point format: the value and the flags (R45). -/
def narrowFp (n : Narrow) (f : Fmt) (x : Fv) : Fv × BitVec 4 :=
  match x with
  | .nan sg => (if n.sat = 1 then .fin false 0 0 else .nan false, nflag false false false sg)
  | _ =>
    let unsignedNeg := match f, x with
      | .b8 false _ _, .inf neg => neg
      | .b8 false _ _, .fin neg m _ => neg && m ≠ 0
      | _, _ => false
    if unsignedNeg then (if n.sat = 0 then .nan false else .fin false 0 0, nflag false false false true)
    else
      match x with
      | .inf neg =>
        if n.sat ≠ 0 then (f.maxFinite neg, 0)
        else if f.hasInf then (.inf neg, 0)
        else (.nan false, nflag false false false true)
      | .fin neg m e =>
        let r := roundPrec f.prec (some f.emin) n.mode neg m e false
        let mx := f.magnitude f.maxCode
        if magGt r.1 r.2.1 mx.1 mx.2 then
          let y := if n.sat ≠ 0 ∨ n.mode = .rtz ∨ (n.mode = .rdn ∧ neg = false) ∨ (n.mode = .rup ∧ neg = true)
            then f.maxFinite neg
            else if f.hasInf then .inf neg else .nan false
          (y, nflag true false true false)
        else
          let free := roundPrec f.prec none n.mode neg m e false
          let uf := r.2.2 && magGt 1 f.emin free.1 free.2.1
          let isB8 := match f with
            | .b8 _ _ _ => true
            | _ => false
          (.fin (neg && !(isB8 && r.1 = 0)) r.1 r.2.1, nflag r.2.2 uf false false)
      | .nan _ => (.nan false, 0)

/-- RoundToInteger of R45. -/
def roundToInt (rm : Rm) (neg : Bool) (m : Nat) (e : Int) : Int :=
  let q := if 0 ≤ e then m * 2 ^ e.toNat else roundShift rm neg m (-e).toNat false
  sgnOf neg q

/-- RoundNarrow to an integer range: the value and the flags (R45). -/
def narrowInt (n : Narrow) (lo hi : Int) (x : Fv) : Int × BitVec 4 :=
  match x with
  | .nan _ => (if n.sat = 0 then hi else 0, nflag false false false true)
  | .inf neg => (if neg then lo else hi, nflag false false false true)
  | .fin neg m e =>
    let y := roundToInt n.mode neg m e
    if hi < y then (hi, nflag false false false true)
    else if y < lo then (lo, nflag false false false true)
    else
      let exact := decide (0 ≤ e) || decide (m % 2 ^ (-e).toNat = 0)
      (y, nflag (!exact) false false false)

/-- The value of an exact integer. -/
def Fv.ofInt (y : Int) : Fv := .fin (decide (y < 0)) y.natAbs 0

end Sys2Proof.Machine
end

