-- ==== Sys2Proof/Machine/Transcend.lean ====
section
/-! DEFINITION. The faithful functions exp2, log2, sin(π·x) and cos(π·x) on FP32 (R131). Each is bounded from below in
fixed point with far more bits than FP32 holds; the two FP32 neighbours follow by rounding that bound down and up, and
`Config.faithfulUp` says which of them the device gives. -/

namespace Sys2Proof.Machine

/-- Fraction bits of the fixed-point bounds. -/
def fxBits : Nat := 320

/-- One in fixed point. -/
def fxOne : Nat := 2 ^ fxBits

/-- Fixed-point product, rounded down. -/
def fxMul (a b : Nat) : Nat := a * b / fxOne

/-- The FP32 neighbour a faithful function gives: the bound `neg`, m × 2^e lies strictly below the exact magnitude and
no FP32 value lies between them. -/
def faithful (fn : Nat) (input : BitVec 32) (neg : Bool) (m : Nat) (e : Int) : Fv :=
  let rm : Rm := if Config.faithfulUp fn input then .rup else .rdn
  (Fmt.f32.round rm neg m e true).1

/-- Product of the roots 2^(2^−i) for the set bits of a fraction `f` of `n` bits, from the highest. -/
def exp2Fraction (f : Nat) : Nat → Nat → Nat → Nat
  | 0, _, acc => acc
  | n + 1, root, acc =>
    exp2Fraction f n (isqrt (root * fxOne)) (if bit f n then fxMul acc root else acc)

/-- `vfexp2` (R131). -/
def faithfulExp2 (input : BitVec 32) : Fv :=
  match Fmt.f32.decode input.toNat with
  | .nan _ => .nan false
  | .inf neg => if neg then .fin false 0 0 else .inf false
  | .fin neg m e =>
    if !neg && magGt m e 127 0 && !magGt 128 0 m e then .inf false
    else if neg && !magGt 150 0 m e then .fin false 0 0
    else if decide (0 ≤ e) || decide (m % 2 ^ (-e).toNat = 0) then
      let n : Int := roundToInt .rtz neg m e
      .fin false 1 n
    else
      let k := (-e).toNat
      let z : Int := sgnOf neg m
      let whole : Int := z / 2 ^ k
      let frac := (z % 2 ^ k).toNat
      faithful 0 input false (exp2Fraction frac k (isqrt (2 * fxOne * fxOne)) fxOne) (whole - fxBits)

/-- Binary digits of log2 of a fixed-point number in [1, 2), `n` of them, by squaring. -/
def log2Digits : Nat → Nat → Nat → Nat
  | 0, _, acc => acc
  | n + 1, x, acc =>
    let y := fxMul x x
    if 2 * fxOne ≤ y then log2Digits n (y / 2) (2 * acc + 1) else log2Digits n y (2 * acc)

/-- Digits of the logarithm's fraction. -/
def logBits : Nat := 140

/-- `vflog2` (R131). -/
def faithfulLog2 (input : BitVec 32) : Fv :=
  match Fmt.f32.decode input.toNat with
  | .nan _ => .nan false
  | .inf neg => if neg then .nan false else .inf false
  | .fin neg m e =>
    if m = 0 then .inf true
    else if neg then .nan false
    else
      let top := Nat.log2 m
      let whole : Int := (top : Int) + e
      if m = 2 ^ top then (if whole = 0 then .fin false 0 0 else Fv.ofInt whole)
      else
        let d := log2Digits logBits (m * 2 ^ (fxBits - top)) 0
        let z : Int := whole * 2 ^ logBits + d
        if z < 0 then
          -- the exact value lies strictly above z: its magnitude is strictly below |z|
          let mag := (-z).toNat - 1
          faithful 1 input true mag (-(logBits : Int))
        else faithful 1 input false z.toNat (-(logBits : Int))

/-- Sum of the arctangent series of 1/`x` in fixed point. -/
def atanInv (x : Nat) : Nat → Nat → Nat → Nat → Bool → Nat
  | 0, _, _, acc, _ => acc
  | n + 1, power, k, acc, plus =>
    let t := power / k
    atanInv x n (power / (x * x)) (k + 2) (if plus then acc + t else acc - t) (!plus)

/-- π in fixed point, to within a few hundred units (Machin's formula). -/
def fxPi : Nat :=
  4 * (4 * atanInv 5 75 (fxOne / 5) 1 0 true - atanInv 239 25 (fxOne / 239) 1 0 true)

/-- Sum of the sine series of a fixed-point angle. -/
def sineSeries (sq : Nat) : Nat → Nat → Nat → Nat → Bool → Nat
  | 0, _, _, acc, _ => acc
  | n + 1, term, k, acc, plus =>
    let acc := if plus then acc + term else acc - term
    sineSeries sq n (fxMul term sq / ((k + 1) * (k + 2))) (k + 2) acc (!plus)

/-- sin(π·y) for y = a / 2^k between 0 and 1/2, in fixed point, a little below the exact value. -/
def fxSinPi (a k : Nat) : Nat :=
  let th := fxPi * a / 2 ^ k
  sineSeries (fxMul th th) 60 th 1 0 true - 2 ^ 20

/-- sin(π·x) for the dyadic x = z / 2^k, exact at multiples of one half, otherwise faithful (R131). `zeroNeg` is the
sign a zero result takes. -/
def faithfulSinPi (fn : Nat) (input : BitVec 32) (z : Int) (k : Nat) (zeroNeg : Bool) : Fv :=
  let r := (z % (2 ^ (k + 1) : Int)).toNat
  let neg := decide (2 ^ k ≤ r)
  let r := if neg then r - 2 ^ k else r
  if r = 0 then .fin zeroNeg 0 0
  else
    let r := if 2 ^ k < 2 * r then 2 ^ k - r else r
    if 2 * r = 2 ^ k then .fin neg 1 0
    else faithful fn input neg (fxSinPi r k) (-(fxBits : Int))

/-- `vfsin`: sin(π·a) (R131). -/
def faithfulSin (input : BitVec 32) : Fv :=
  match Fmt.f32.decode input.toNat with
  | .nan _ => .nan false
  | .inf _ => .nan false
  | .fin neg m e =>
    if 0 ≤ e then .fin neg 0 0 else faithfulSinPi 2 input (sgnOf neg m) (-e).toNat neg

/-- `vfcos`: cos(π·a) = sin(π·(a + 1/2)) (R131). -/
def faithfulCos (input : BitVec 32) : Fv :=
  match Fmt.f32.decode input.toNat with
  | .nan _ => .nan false
  | .inf _ => .nan false
  | .fin neg m e =>
    let k := (-e).toNat + 1
    let z : Int := if 0 ≤ e then sgnOf neg m * 2 ^ e.toNat * 2 else sgnOf neg m * 2
    faithfulSinPi 3 input (z + 2 ^ (k - 1)) k false

end Sys2Proof.Machine
end

