-- ==== Sys2Proof/Machine/LaneFloat.lean ====
section
/-! DEFINITION. Lane floating-point instructions, majors 0x60 to 0x81 (R123 to R132). -/

namespace Sys2Proof.Machine

/-- Format of a floating type code 0x8 to 0xB (R66). -/
def laneFmt (ty : Nat) : Fmt := if ty = 8 then .f16 else if ty = 9 then .bf16 else if ty = 10 then .f32 else .f64

/-- Static rounding direction, func bits 51:50 (R124). -/
def laneRm (w : LaneWord) : Rm :=
  match bits w.func.toNat 1 0 with
  | 1 => .rtz
  | 2 => .rdn
  | 3 => .rup
  | _ => .rne

/-- Packed 16-bit form, func bit 52 (R124). -/
def isPk (w : LaneWord) : Bool := w.func.getLsbD 2

/-- The bits of element `j` of floating operand `n` (FSrc of R125). -/
def fBits (e : LaneEnv) (ty n l j : Nat) : Nat :=
  if ty = 11 then e.pattern 64 n l else if ty = 10 then e.reg n l else (e.reg n l / 2 ^ (16 * j)) % 2 ^ 16

/-- The value of an immediate standing for vb (FImm of R125). -/
def fImm (ty : Nat) (imm : BitVec 32) (j : Nat) : Fv :=
  if ty = 11 ∨ ty = 10 then Fmt.f32.decode imm.toNat
  else (laneFmt ty).decode ((imm.toNat / 2 ^ (16 * j)) % 2 ^ 16)

/-- What a floating word computes from: element `j` of va, of vb or the immediate, and of vc. -/
structure FOps where
  a : Fv
  b : Fv
  c : Fv

/-- The operands of element `j` in lane `l`; with `imm` the immediate stands for vb (R113, R125, R126). -/
def fOps (imm : Bool) (e : LaneEnv) (w : LaneWord) (l j : Nat) : FOps :=
  let ty := w.ty.toNat
  let f := laneFmt ty
  { a := f.decode (fBits e ty w.va.toNat l j),
    b := if imm then fImm ty w.imm j else f.decode (fBits e ty w.vb.toNat l j),
    c := f.decode (fBits e ty (vcOf w) l j) }

/-- FPut of R125 for the codes of elements 0 and 1. -/
def fPut (w : LaneWord) (l c0 c1 : Nat) : List Upd :=
  let n := w.vd.toNat
  if w.ty = 11 then [.v n l (BitVec.ofNat 32 c0), .v (n + 1) l (BitVec.ofNat 32 (c0 / 2 ^ 32))]
  else if isPk w then [.v n l (BitVec.ofNat 32 (c0 + 2 ^ 16 * c1))]
  else [.v n l (BitVec.ofNat 32 c0)]

/-- The result is complete: at once for ordinary words, after the class's own turns for long-latency ones (R123). -/
def floatDone (w : LaneWord) (special : Nat) (ops : List Operand) (upds : List Upd) (s : State) : Issue :=
  let f64 := w.ty = 11
  if special = 0 ∧ ¬ f64 then ordinaryDone (laneBytes w) upds s
  else
    let lat := if special = 0 then s.lat.fp64 else if f64 then s.lat.fp64Special
      else if special = 2 then s.lat.divide else s.lat.special
    longDone (laneBytes w) w.la.toNat lat (writtenLocs ops) upds s

/-- The outcome of a floating word; `special` is 0 for arithmetic, 1 for special functions, 2 for divide. -/
def floatWord (major special : Nat) (w : LaneWord) (f : LaneEnv → Nat → List Upd) (s : State) :
    Host.Outcome State Fault Refusal :=
  (laneIssue major (rowForm (floatRow major) major false w) w touchActive
    (fun e ops s => floatDone w special ops (e.lanes.flatMap (f e)) s) s).finish

/-- The outcome of a word that writes the code `f` gives of its operands, element by element (R126). -/
def floatMap (major special : Nat) (w : LaneWord) (f : Fmt → Rm → FOps → Nat) (s : State) :
    Host.Outcome State Fault Refusal :=
  floatWord major special w (fun e l =>
    let g := f (laneFmt w.ty.toNat) (laneRm w)
    let imm := takesImm (floatRow major) w
    fPut w l (g (fOps imm e w l 0)) (g (fOps imm e w l 1))) s

/-- `vfadd` (R126). -/
def execVfadd (w : LaneWord) (s : State) : Host.Outcome State Fault Refusal :=
  floatMap 0x60 0 w (fun f rm o => f.result rm (o.a.add rm o.b)) s

/-- `vfsub` (R126). -/
def execVfsub (w : LaneWord) (s : State) : Host.Outcome State Fault Refusal :=
  floatMap 0x61 0 w (fun f rm o => f.result rm (o.a.add rm o.b.neg)) s

/-- `vfmul` (R126). -/
def execVfmul (w : LaneWord) (s : State) : Host.Outcome State Fault Refusal :=
  floatMap 0x62 0 w (fun f rm o => f.result rm (o.a.mul o.b)) s

/-- `vffma`: a × b + c (R126). -/
def execVffma (w : LaneWord) (s : State) : Host.Outcome State Fault Refusal :=
  floatMap 0x63 0 w (fun f rm o => f.result rm (Fv.fma rm o.a o.b o.c)) s

/-- `vffms`: a × b − c (R126). -/
def execVffms (w : LaneWord) (s : State) : Host.Outcome State Fault Refusal :=
  floatMap 0x64 0 w (fun f rm o => f.result rm (Fv.fma rm o.a o.b o.c.neg)) s

/-- `vffnma`: −(a × b) + c (R126). -/
def execVffnma (w : LaneWord) (s : State) : Host.Outcome State Fault Refusal :=
  floatMap 0x65 0 w (fun f rm o => f.result rm (Fv.fma rm o.a.neg o.b o.c)) s

/-- `vffnms`: −(a × b) − c (R126). -/
def execVffnms (w : LaneWord) (s : State) : Host.Outcome State Fault Refusal :=
  floatMap 0x66 0 w (fun f rm o => f.result rm (Fv.fma rm o.a.neg o.b o.c.neg)) s

/-- Min or max where one NaN gives the other operand (R127). -/
def pickNumber (pick : Fv → Fv → Fv) (a b : Fv) : Fv :=
  if a.isNan then b else if b.isNan then a else pick a b

/-- Min or max where any NaN gives NaN (R127). -/
def pickStrict (pick : Fv → Fv → Fv) (a b : Fv) : Fv :=
  if a.isNan ∨ b.isNan then .nan false else pick a b

/-- `vfmin` (R127). -/
def execVfmin (w : LaneWord) (s : State) : Host.Outcome State Fault Refusal :=
  floatMap 0x67 0 w (fun f _ o => f.encode (pickNumber Fv.minOf o.a o.b)) s

/-- `vfmax` (R127). -/
def execVfmax (w : LaneWord) (s : State) : Host.Outcome State Fault Refusal :=
  floatMap 0x68 0 w (fun f _ o => f.encode (pickNumber Fv.maxOf o.a o.b)) s

/-- `vfminx` (R127). -/
def execVfminx (w : LaneWord) (s : State) : Host.Outcome State Fault Refusal :=
  floatMap 0x69 0 w (fun f _ o => f.encode (pickStrict Fv.minOf o.a o.b)) s

/-- `vfmaxx` (R127). -/
def execVfmaxx (w : LaneWord) (s : State) : Host.Outcome State Fault Refusal :=
  floatMap 0x6A 0 w (fun f _ o => f.encode (pickStrict Fv.maxOf o.a o.b)) s

/-- A sign operation on codes: the sign of b is its sign bit even for a NaN; a NaN a gives the canonical NaN (R128). -/
def signWord (major : Nat) (w : LaneWord) (f : Bool → Bool → Bool) (s : State) : Host.Outcome State Fault Refusal :=
  floatWord major 0 w (fun e l =>
    let ty := w.ty.toNat
    let fm := laneFmt ty
    let g (j : Nat) : Nat :=
      let a := fBits e ty w.va.toNat l j
      let b := fBits e ty w.vb.toNat l j
      if (fm.decode a).isNan then fm.encode (.nan false)
      else a % 2 ^ fm.signBit + b2n (f (bit a fm.signBit) (bit b fm.signBit)) * 2 ^ fm.signBit
    fPut w l (g 0) (g 1)) s

/-- `vfabs` (R128). -/
def execVfabs (w : LaneWord) (s : State) : Host.Outcome State Fault Refusal :=
  signWord 0x6B w (fun _ _ => false) s

/-- `vfneg` (R128). -/
def execVfneg (w : LaneWord) (s : State) : Host.Outcome State Fault Refusal :=
  signWord 0x6C w (fun a _ => !a) s

/-- `vfsgnj` (R128). -/
def execVfsgnj (w : LaneWord) (s : State) : Host.Outcome State Fault Refusal :=
  signWord 0x6D w (fun _ b => b) s

/-- `vfsgnjn` (R128). -/
def execVfsgnjn (w : LaneWord) (s : State) : Host.Outcome State Fault Refusal :=
  signWord 0x6E w (fun _ b => !b) s

/-- `vfsgnjx` (R128). -/
def execVfsgnjx (w : LaneWord) (s : State) : Host.Outcome State Fault Refusal :=
  signWord 0x6F w (fun a b => a ^^ b) s

/-- The outcome of a floating compare: predicate vd takes the condition (R129). -/
def floatCompare (major : Nat) (w : LaneWord) (f : Fv → Fv → Bool) (s : State) : Host.Outcome State Fault Refusal :=
  floatWord major 0 w (fun e l =>
    let o := fOps (takesImm (floatRow major) w) e w l 0
    [.p w.vd.toNat l (f o.a o.b)]) s

/-- Unordered: some operand is a NaN (R129). -/
def unordered (a b : Fv) : Bool := a.isNan || b.isNan

/-- `vfcmpeq` (R129). -/
def execVfcmpeq (w : LaneWord) (s : State) : Host.Outcome State Fault Refusal :=
  floatCompare 0x70 w (fun a b => a.eq b) s

/-- `vfcmpne` (R129). -/
def execVfcmpne (w : LaneWord) (s : State) : Host.Outcome State Fault Refusal :=
  floatCompare 0x71 w (fun a b => !a.eq b) s

/-- `vfcmplt` (R129). -/
def execVfcmplt (w : LaneWord) (s : State) : Host.Outcome State Fault Refusal :=
  floatCompare 0x72 w (fun a b => !unordered a b && a.lt b) s

/-- `vfcmple` (R129). -/
def execVfcmple (w : LaneWord) (s : State) : Host.Outcome State Fault Refusal :=
  floatCompare 0x73 w (fun a b => !unordered a b && !b.lt a) s

/-- `vfcmpgt` (R129). -/
def execVfcmpgt (w : LaneWord) (s : State) : Host.Outcome State Fault Refusal :=
  floatCompare 0x74 w (fun a b => !unordered a b && b.lt a) s

/-- `vfcmpge` (R129). -/
def execVfcmpge (w : LaneWord) (s : State) : Host.Outcome State Fault Refusal :=
  floatCompare 0x75 w (fun a b => !unordered a b && !a.lt b) s

/-- `vfcmpun` (R129). -/
def execVfcmpun (w : LaneWord) (s : State) : Host.Outcome State Fault Refusal :=
  floatCompare 0x76 w (fun a b => unordered a b) s

/-- The class bit of a value in a format (R129). -/
def classBit (f : Fmt) (v : Fv) : Nat :=
  match v with
  | .nan sg => if sg then 8 else 9
  | .inf neg => if neg then 0 else 7
  | .fin neg m e =>
    if m = 0 then (if neg then 3 else 4)
    else
      let sub := magGt 1 f.emin m e
      if neg then (if sub then 2 else 1) else (if sub then 5 else 6)

/-- `vfclass` (R129). -/
def execVfclass (w : LaneWord) (s : State) : Host.Outcome State Fault Refusal :=
  floatWord 0x77 0 w (fun e l =>
    let f := laneFmt w.ty.toNat
    [.v w.vd.toNat l (BitVec.ofNat 32 (2 ^ classBit f (f.decode (fBits e w.ty.toNat w.va.toNat l 0))))]) s

/-- `vfrcp`: 1 / a (R130). -/
def execVfrcp (w : LaneWord) (s : State) : Host.Outcome State Fault Refusal :=
  floatMap 0x78 1 w (fun f rm o => f.result rm (Fv.div f.prec (.fin false 1 0) o.a)) s

/-- `vfrsq`: 1 / √a (R130). -/
def execVfrsq (w : LaneWord) (s : State) : Host.Outcome State Fault Refusal :=
  floatMap 0x79 1 w (fun f rm o => f.result rm (Fv.rsqrt f.prec o.a)) s

/-- `vfsqrt` (R130). -/
def execVfsqrt (w : LaneWord) (s : State) : Host.Outcome State Fault Refusal :=
  floatMap 0x7A 1 w (fun f rm o => f.result rm (Fv.sqrt f.prec o.a)) s

/-- `vfdiv` (R130). -/
def execVfdiv (w : LaneWord) (s : State) : Host.Outcome State Fault Refusal :=
  floatMap 0x7B 2 w (fun f rm o => f.result rm (Fv.div f.prec o.a o.b)) s

/-- The outcome of a faithful function of an FP32 register (R131). -/
def faithfulWord (major : Nat) (w : LaneWord) (f : BitVec 32 → Fv) (s : State) : Host.Outcome State Fault Refusal :=
  floatWord major 1 w (fun e l =>
    [.v w.vd.toNat l (BitVec.ofNat 32 (Fmt.f32.encode (f (BitVec.ofNat 32 (e.reg w.va.toNat l)))))]) s

/-- `vfexp2` (R131). -/
def execVfexp2 (w : LaneWord) (s : State) : Host.Outcome State Fault Refusal :=
  faithfulWord 0x7C w faithfulExp2 s

/-- `vflog2` (R131). -/
def execVflog2 (w : LaneWord) (s : State) : Host.Outcome State Fault Refusal :=
  faithfulWord 0x7D w faithfulLog2 s

/-- `vfsin` (R131). -/
def execVfsin (w : LaneWord) (s : State) : Host.Outcome State Fault Refusal :=
  faithfulWord 0x7E w faithfulSin s

/-- `vfcos` (R131). -/
def execVfcos (w : LaneWord) (s : State) : Host.Outcome State Fault Refusal :=
  faithfulWord 0x7F w faithfulCos s

/-- a × 2^k as a raw result. A shift beyond ±5,000 rounds as ±5,000 does in every format. -/
def scaleBy (a : Fv) (k : Int) : Raw :=
  match a with
  | .nan q => .nan q
  | .inf n => .inf n false
  | .fin n m e => .num n m (e + max (-5000) (min 5000 k)) false

/-- `vfscale`: a × 2^k, k a 32-bit two's complement register or immediate (R126). -/
def execVfscale (w : LaneWord) (s : State) : Host.Outcome State Fault Refusal :=
  floatWord 0x80 0 w (fun e l =>
    let f := laneFmt w.ty.toNat
    let k := toSigned 32 (if immForm w then w.imm.toNat else e.reg w.vb.toNat l)
    fPut w l (f.result (laneRm w) (scaleBy (fOps false e w l 0).a k)) 0) s

/-- `vfrint`: a rounded to an integral value (R126). -/
def execVfrint (w : LaneWord) (s : State) : Host.Outcome State Fault Refusal :=
  floatMap 0x81 0 w (fun f rm o =>
    match o.a with
    | .fin n m e =>
      if 0 ≤ e then f.encode (.fin n m e)
      else f.encode (.fin n (roundShift rm n m (-e).toNat false) 0)
    | v => f.encode v) s

end Sys2Proof.Machine
end

