-- ==== Sys2Proof/Machine/Messages.lean ====
section
/-! DEFINITION. Active messages at their destination: what refuses one, what it does there, and the service of a core's
inbound queue (R28, R182, R219, R297). -/

namespace Sys2Proof.Machine

/-- The floating add of `vamo.fadd` (R239). -/
def amoFadd (ty a b : Nat) : Nat :=
  let f := laneFmt ty
  f.result .rne (Fv.add .rne (f.decode a) (f.decode b))

/-! ### The remote service slot (R28, R182, R297) -/

/-- A message that its destination refuses: the acknowledgement's cause and `mdomfault` word. -/
def State.messageFault (s : State) (core : Nat) (m : ActiveMsg) : Option (Nat × Word) :=
  let c := s.core core
  let write : Bool := m.kind ≠ .load
  if c.fwall.getLsbD 0 ∨ 524288 < m.addr + m.size then some (if write then 7 else 5, 0)
  else
    match c.bankViolation m.dom m.addr m.size with
    | some b => some (29, domFaultWord write b 1 ((c.bankDom b).getD 0) m.dom)
    | none => if !write && s.poisonedIn (spadPa core m.addr) m.size then some (5, 0) else none

/-- What a message does at the scratchpad of its destination: the state and the value it brings back. -/
def State.messageEffect (s : State) (core : Nat) (m : ActiveMsg) : State × Nat :=
  let old := Bytes.readLE (s.core core).spad m.addr m.size
  let own := some (m.sender, m.slot)
  let wd := 8 * m.size
  match m.kind with
  | .load => (s, old)
  | .store => (s.storeSpad m.sender m.slot core m.addr (leBytes m.size m.operand), 0)
  | .atomic =>
    match (AtomicOp.rmw m.op m.ty (intSigned m.ty) wd).result amoFadd old m.operand with
    | some v => (s.spadWrite core m.addr (leBytes m.size v) own, old)
    | none => (s, old)
  | .cas =>
    match (AtomicOp.cas m.operand2).result amoFadd old m.operand with
    | some v => (s.spadWrite core m.addr (leBytes m.size v) own, old)
    | none => (s, old)

/-- The first message held in the network enters a queue that has room. -/
def Core.admitHeld (c : Core) : Core :=
  match c.network with
  | m :: rest => if c.inbound.length < 32 then { c with inbound := c.inbound ++ [m], network := rest } else c
  | [] => c

/-- The oldest message of a core's inbound queue runs to completion, and its acknowledgement leaves. -/
def State.serveMessage (s : State) (core : Nat) : State :=
  match (s.core core).inbound with
  | [] => s
  | m :: rest =>
    let s := s.modCore core (fun c => Core.admitHeld { c with inbound := rest })
    let fault := s.messageFault core m
    let r := match fault with
      | some _ => (s, 0)
      | none => s.messageEffect core m
    let ack : Ack := { core := core, msg := m, value := r.2, fault := fault }
    let s : State := { r.1 with acks := r.1.acks ++ [ack] }
    s.schedule s.lat.activeMessage .activeMessageAck { a := m.tag }

/-- Everything queued or held for a core runs to completion, in arrival order. -/
def State.serveQueue (s : State) (core : Nat) : State :=
  let c := s.core core
  (List.range (c.inbound.length + c.network.length)).foldl (fun s _ => s.serveMessage core) s

/-- A message whose sender waits for its answer: it comes after all that stands in the destination's queue, and answers
its value or the fault of R182. Its travelling time is not architectural (R201; DEDUCED, log 76). -/
def State.messageNow (s : State) (core : Nat) (m : ActiveMsg) : State × Except (Nat × Word) Nat :=
  let s := s.serveQueue core
  match s.messageFault core m with
  | some f => (s, .error f)
  | none =>
    let r := s.messageEffect core m
    (r.1, .ok r.2)

/-- What a refused message reports to its sender (R182). -/
def refusedReport (va : Nat) (f : Nat × Word) : ReqFault :=
  { cause := f.1, recordCause := f.1, tval := BitVec.ofNat 64 va, dom := if f.1 = 29 then some f.2 else none }

/-- A plain message of `n` bytes. -/
def plainMessage (kind : MsgKind) (c i dom n a va v tag : Nat) : ActiveMsg :=
  { kind := kind, size := n, ord := 0, scope := 0, dom := dom, addr := a, op := 0, ty := 0, operand := v,
    operand2 := 0, sender := c, slot := i, vaddr := va, tag := tag }

/-- A load of `n` bytes from another cluster's scratchpad whose value the sender waits for (R181, R219). -/
def State.remoteValue (s : State) (c i : Nat) (w : Wave) (n core a va : Nat) : State × Except ReqFault Nat :=
  let r := s.messageNow core (plainMessage .load c i w.dom n a va 0 s.nextTag)
  (r.1, match r.2 with
    | .ok v => .ok v
    | .error f => .error (refusedReport va f))

/-- `n` doublewords of another cluster's scratchpad, by as many messages (R181, R219), as one number. -/
def State.remoteRead (s : State) (c i : Nat) (w : Wave) (n core a va : Nat) : State × Except ReqFault Nat :=
  (List.range n).foldl (fun (q : State × Except ReqFault Nat) k =>
    match q.2 with
    | .error _ => q
    | .ok v =>
      let r := q.1.remoteValue c i w 8 core (a + 8 * k) (va + 8 * k)
      (r.1, r.2.map (fun x => v + 2 ^ (64 * k) * x))) (s, .ok 0)

/-- The doublewords of some bytes are stored to another cluster's scratchpad, by as many messages, up to the first that is
refused. -/
def State.remoteWrite (s : State) (c i : Nat) (w : Wave) (bs : List Byte) (core a va : Nat) : State × Option ReqFault :=
  (List.range (bs.length / 8)).foldl (fun (q : State × Option ReqFault) k =>
    match q.2 with
    | some _ => q
    | none =>
      let r := q.1.messageNow core
        (plainMessage .store c i w.dom 8 (a + 8 * k) (va + 8 * k) (leValue ((bs.drop (8 * k)).take 8)) q.1.nextTag)
      (r.1, match r.2 with
        | .ok _ => none
        | .error f => some (refusedReport (va + 8 * k) f))) (s, none)

end Sys2Proof.Machine
end

