-- ==== Sys2Proof/Machine/Fetch.lean ====
section
/-! DEFINITION. Fetching a word: what the instruction cache holds at an address, and bringing a block in
(R19, R59, R73, R74). -/

namespace Sys2Proof.Machine

/-- What a fetch finds at an address: a word, bits that are none, a misplaced word, or nothing in the instruction
cache. -/
inductive Fetched
  | word (i : Instr)
  | illegal (low : Nat)
  | misplaced
  | absent
deriving DecidableEq, Repr

/-- The word that 128 bits of the instruction stream hold at byte `o` of a 32-byte block. -/
def fetchWord (o : Nat) (bits128 : BitVec 128) : Fetched :=
  let v := bits128.toNat
  match wordBytes v with
  | none => .illegal (v % 2 ^ (if v % 128 = 0x7F then 64 else 32))
  | some n =>
    if 32 < o + n ∨ (n = 16 ∧ o % 16 ≠ 0) then .misplaced
    else
      match decode bits128 with
      | .ok i => .word i
      | .error _ => .illegal (v % 2 ^ (if n = 4 then 32 else 64))

/-- The bits from address `pc` to the end of its 32-byte block, if the instruction cache or the wave's fetched block holds
them. What lies beyond the block is not fetched (R73) and reads 0, also in the xtval of an illegal word (DESIGN CHOICE,
log 74). -/
def State.codeAt (s : State) (pc : Nat) : Option (BitVec 128) :=
  let w := s.wave
  match (s.core s.curCore).hit .inst w.dom w.pasid (pc / 64) with
  | some l => some (BitVec.ofNat 128 (l.read (pc % 64) (32 - pc % 32)))
  | none =>
    match w.fetchBuf with
    | some b =>
      if b.dom = w.dom ∧ b.pasid = w.pasid ∧ b.block = pc / 32 then some ((b.data >>> (8 * (pc % 32))).setWidth 128) else none
    | none => none

/-- What the wave that acts fetches at an address. -/
def State.fetchedAt (s : State) (pc : Nat) : Fetched :=
  if pc % 4 ≠ 0 then .misplaced
  else
    match s.codeAt pc with
    | none => .absent
    | some v => fetchWord (pc % 32) v

/-- What the wave that acts fetches. -/
def State.fetched (s : State) : Fetched := s.fetchedAt s.wave.pc.toNat

/-- A message fault as a fetch reports it: its access fault is cause 1 (R178). -/
def asFetch (f : ReqFault) : ReqFault :=
  if f.cause = 29 then f else { f with cause := 1, recordCause := 1 }

/-- The place that a fetch at `pc` of the wave in slot `i` of core `c` reads: memory, or a scratchpad through the aperture, at
another cluster by messages that its core accepts (R181, R182). No rule lets a fetch read a device register (DEDUCED,
log 17). -/
def State.fetchDest (s : State) (c i pc : Nat) : State × Except ReqFault Dest :=
  let w := (s.slotAt c i).wave
  let tval := BitVec.ofNat 64 pc
  if outside49 pc 4 then (s, .error { cause := 12, recordCause := 12, tval := tval })
  else
    match s.resolve c i w .inst .fetch pc 4 with
    | (s, .error f) => (s, .error f)
    | (s, .ok (.reg _)) => (s, .error { cause := 1, recordCause := 1, tval := tval })
    | (s, .ok (.remote k a va)) =>
      (s, match s.messageFault k (plainMessage .load c i w.dom 8 (a / 32 * 32) va 0 0) with
        | some f => .error (asFetch (refusedReport va f))
        | none => .ok (.remote k a va))
    | (s, .ok d) => (s, .ok d)

/-- A fetch wait for the block at `pc`: the block is on its way, or the fetch faults. An address outside the 49-bit space
parks precisely (R177), any other fault late, at the station or the cache tag (R19, R74, R163, R178, R186). -/
def fetchWait (pc : Nat) (s : State) : Issue :=
  match s.wave.busy with
  | some (.fetch _ _) => .hold s
  | _ =>
    match s.fetchDest s.curCore s.curSlot pc with
    | (s, .error f) => if outside49 pc 4 then .park f.cause f.tval s else lateAtWord f s
    | (s, .ok _) =>
      .hold ((s.modWave (fun w => { w with busy := some (.fetch pc (w.csrs.turn.toNat + s.lat.fetch)) })).schedule
        (16 * s.lat.fetch) .fetchBlockArrival { core := s.curCore, slot := s.curSlot })

/-- The 32-byte block of a place that no core cache holds. -/
def State.fetchBlock (s : State) (c i : Nat) (w : Wave) (d : Dest) : State × Except ReqFault Nat :=
  match d with
  | .mem _ t =>
    let pa := t.pa / 32 * 32
    ((s.touchL2 pa w.dom false).usedFree pa 32, .ok (s.readPhys pa 32))
  | .spad k a => (s, .ok (Bytes.readLE (s.core k).spad (a / 32 * 32) 32))
  | .remote k a va => s.remoteRead c i w 4 k (a / 32 * 32) (va / 32 * 32)
  | .reg _ => (s, .ok 0)

/-- The fetched block reaches the instruction cache of the core (R19), or the wave alone where no core cache holds its page or
place (R185, R388). -/
def State.fetchArrives (s : State) (c i : Nat) : State :=
  let w := (s.slotAt c i).wave
  match w.busy with
  | some (.fetch va _) =>
    let s := s.modWaveAt c i (fun w => { w with busy := none })
    match s.fetchDest c i va with
    | (s, .ok d) =>
      match (match d with
        | .mem _ t => if t.mt = 0 then some t.pa else none
        | _ => none) with
      | some pa => s.fillLine c .inst w.dom w.pasid (va / 64) (pa / 64)
      | none =>
        match s.fetchBlock c i w d with
        | (s, .ok v) =>
          let b : FetchBuf := { dom := w.dom, pasid := w.pasid, block := va / 32, data := BitVec.ofNat 256 v }
          s.modWaveAt c i (fun w => { w with fetchBuf := some b })
        | (s, .error _) => s
    | (s, .error _) => s
  | _ => s

/-- A fetched 32-byte block arrives for the wave of slot `args.slot` of core `args.core`. -/
def execFetchBlockArrival (s : State) : Host.Outcome State Fault Refusal :=
  .next (s.fetchArrives s.args.core s.args.slot)

end Sys2Proof.Machine
end

