-- ==== Sys2Proof/Machine/Flags.lean ====
section
/-! DEFINITION. Flag and status computations: the accrued flags and rounding mode of `fcsr`, NaN boxing, the sticky
narrowing flags of `nround` (R42), and the fields of `mstatus` (R90). -/

namespace Sys2Proof.Machine

/-! ### `fcsr` (R90: the F and D extensions) -/

/-- The flags NX, UF, OF, DZ, NV at bits 0 to 4. -/
def fflagBits (nv dz of uf nx : Bool) : BitVec 5 :=
  BitVec.ofNat 5 (b2n nx + 2 * b2n uf + 4 * b2n of + 8 * b2n dz + 16 * b2n nv)

/-- The flags of a result rounded to a format. -/
def Fmt.flags (f : Fmt) (rm : Rm) (r : Raw) : BitVec 5 :=
  let g := (f.finish rm r).2
  fflagBits r.invalid r.divZero g.of g.uf g.nx

/-- The rounding mode of a field: 7 takes `frm`; `none` for a reserved mode. -/
def rmOf (fcsr : BitVec 32) (rm : BitVec 3) : Option Rm :=
  match (if rm = 7 then bits fcsr.toNat 7 5 else rm.toNat) with
  | 0 => some .rne
  | 1 => some .rtz
  | 2 => some .rdn
  | 3 => some .rup
  | 4 => some .rna
  | _ => none

/-- The single-precision value in an f register: its low half where the upper half is all ones, else the canonical
NaN. -/
def unbox (v : Word) : Nat := if fld v 63 32 = 0xFFFFFFFF then fld v 31 0 else 0x7FC00000

/-- A single-precision value boxed in an f register. -/
def box (v : Nat) : Word := BitVec.ofNat 64 (0xFFFFFFFF * 2 ^ 32 + v % 2 ^ 32)

/-! ### `mstatus` (R90, the privileged specification) -/

/-- The bits of `mstatus` that hold a value: SIE, MIE, SPIE, MPIE, SPP, MPP, FS, MPRV, SUM, MXR, TVM, TW, TSR. -/
def mstatusMask : Word := 0x7E79AA

/-- `mstatus` as written: an MPP of 2 keeps the old one. -/
def mstatusLegal (old v : Word) : Word :=
  let v := v &&& mstatusMask
  if fld v 12 11 = 2 then setFld v 12 11 (fld old 12 11) else v

/-- `mstatus` as read: UXL and SXL read 2, and SD summarises FS. -/
def mstatusRead (v : Word) : Word :=
  BitVec.ofNat 64 (v.toNat + 2 * 2 ^ 32 + 2 * 2 ^ 34 + b2n (decide (fld v 14 13 = 3)) * 2 ^ 63)

/-- The bits of `sstatus`: SIE, SPIE, SPP, FS, SUM, MXR. -/
def sstatusMask : Word := 0xC6122

/-- FS is not Off. -/
def Wave.fpOn (w : Wave) : Bool := fld w.csrs.mstatus 14 13 ≠ 0

/-! ### `nround` and `lastat` (R42, R95) -/

/-- `nround` as written: sticky flags cleared by ones, illegal codes replaced. -/
def nroundWrite (old v : Word) : Word :=
  let flags := bits old.toNat 11 8 - (bits old.toNat 11 8 &&& bits v.toNat 11 8)
  let sat := if fld v 4 3 = 3 then 0 else fld v 4 3
  let mode := if 4 < fld v 2 0 then 0 else fld v 2 0
  BitVec.ofNat 64 (flags * 256 + fld v 5 5 * 32 + sat * 8 + mode)

end Sys2Proof.Machine
end

