-- ==== Sys2Proof/Machine/Csr.lean ====
section
/-! DEFINITION. The control and status registers: their numbers, who may read and write them, and their fields
(R42, R90 to R103, R158, R161). -/

namespace Sys2Proof.Machine

/-- The core's identity (R103): the FW bit is the core's firewall bit COL. -/
def State.mcoreid (s : State) (c : Nat) : Word :=
  BitVec.ofNat 64 (b2n ((s.core c).fwall.getLsbD 0) * 2 ^ 25 + dieOf c * 2 ^ 22 + clusterOf c * 2 ^ 18 +
    c % 96 / 12 * 2 ^ 15 + c % 12 * 2 ^ 11 + c)

/-- Cycles of a core since its reset (R18). -/
def State.coreCycle (s : State) (c : Nat) : Nat := s.cycle - (s.core c).resetAt

/-- The bits of `medeleg`, `mideleg` and `mie` that hold a value (R158, R161). -/
def medelegMask : Word := 0x3DF00009700B3FF
def midelegMask : Word := 0x22
def mieMask : Word := 0xAAA

/-- Bits of `mcounteren` and `scounteren` that hold a value (DEDUCED, log 14). -/
def counterMask : Word := 0xFFFFFFFF

/-- The value `mtvec` and `stvec` take: the modes are Direct and Vectored, and a reserved mode is replaced by Direct (R90;
PRESUMED, log 67). -/
def tvecLegal (v : Word) : Word := if v.getLsbD 1 then v &&& ~~~3#64 else v

/-- A CSR the hart has: the machine-mode information, trap and counter registers, the supervisor registers, the user
registers and the device CSRs (R90, R92). RV64 has no `pmpcfg` of an odd number. -/
def csrExists (n : Nat) : Bool :=
  [0x001, 0x002, 0x003, 0x100, 0x104, 0x105, 0x106, 0x10A, 0x140, 0x141, 0x142, 0x143, 0x144, 0x180,
    0x300, 0x301, 0x302, 0x303, 0x304, 0x305, 0x306, 0x30A, 0x320, 0x340, 0x341, 0x342, 0x343, 0x344,
    0xB00, 0xB02, 0xC00, 0xC02, 0xF11, 0xF12, 0xF13, 0xF14, 0xF15,
    0x5C0, 0x5C1, 0x5C2, 0x5C3, 0x5C4, 0xCC0, 0xCC1, 0xCC2, 0xCC3, 0xFC0, 0xFC1].contains n ||
  decide (0x800 ≤ n ∧ n ≤ 0x808) || decide (0x7C0 ≤ n ∧ n ≤ 0x7C5) ||
  decide (0x323 ≤ n ∧ n ≤ 0x33F) || decide (0xB03 ≤ n ∧ n ≤ 0xB1F) || decide (0xC03 ≤ n ∧ n ≤ 0xC1F) ||
  decide (0x3A0 ≤ n ∧ n ≤ 0x3EF ∧ ¬ (n ≤ 0x3AF ∧ n % 2 = 1))

/-- A counter read below M-mode is enabled by `mcounteren`, and in U-mode by `scounteren` too. -/
def Wave.counterOn (w : Wave) (k : Nat) : Bool :=
  match w.mode with
  | .m => true
  | .s => bit w.csrs.mcounteren.toNat k
  | .u => bit w.csrs.mcounteren.toNat k && bit w.csrs.scounteren.toNat k

/-- An access to CSR `n` is legal: it exists, the mode reaches it, a write does not meet a read-only number, and the
`fcsr`, counter and TVM conditions hold. -/
def Wave.csrLegal (w : Wave) (n : Nat) (write : Bool) : Bool :=
  csrExists n && decide (bits n 9 8 ≤ w.mode.code) && !(write && decide (bits n 11 10 = 3)) &&
    !(decide (1 ≤ n ∧ n ≤ 3) && !w.fpOn) &&
    !(decide (0xC00 ≤ n ∧ n ≤ 0xC1F) && !w.counterOn (n - 0xC00)) &&
    !(n = 0x180 && w.mode = .s && w.csrs.mstatus.getLsbD 20)

/-- The mask stack entry the window shows (R94). -/
def Wave.shownEntry (w : Wave) : MaskEntry := w.stack.toList.getD (fld w.csrs.mstksel 4 0) {}

/-- Change the shown entry. -/
def Wave.setShown (w : Wave) (f : MaskEntry → MaskEntry) : Wave :=
  { w with stack := w.stack.setIfInBounds (fld w.csrs.mstksel 4 0) (f w.shownEntry) }

/-- The value of CSR `n`. -/
def State.csrRead (s : State) (w : Wave) (n : Nat) : Word :=
  let c := w.csrs
  match n with
  | 0x001 => c.fcsr.setWidth 64 &&& 0x1F
  | 0x002 => (c.fcsr.setWidth 64 >>> 5) &&& 7
  | 0x003 => c.fcsr.setWidth 64 &&& 0xFF
  | 0x100 => mstatusRead (c.mstatus &&& sstatusMask) &&& ~~~(0xC00000000#64)
  | 0x104 => c.mie &&& c.mideleg
  | 0x105 => c.stvec
  | 0x106 => c.scounteren
  | 0x140 => c.sscratch
  | 0x141 => c.sepc
  | 0x142 => c.scause
  | 0x143 => c.stval
  | 0x144 => c.mip &&& c.mideleg
  | 0x300 => mstatusRead c.mstatus
  | 0x301 => 0x8000000000941129
  | 0x302 => c.medeleg
  | 0x303 => c.mideleg
  | 0x304 => c.mie
  | 0x305 => c.mtvec
  | 0x306 => c.mcounteren
  | 0x340 => c.mscratch
  | 0x341 => c.mepc
  | 0x342 => c.mcause
  | 0x343 => c.mtval
  | 0x344 => c.mip
  | 0xB00 => BitVec.ofNat 64 (s.coreCycle s.curCore)
  | 0xC00 => BitVec.ofNat 64 (s.coreCycle s.curCore)
  | 0xB02 => c.instret
  | 0xC02 => c.instret
  | 0xF12 => 0x4E484331
  | 0xF13 => 1
  | 0xF14 => BitVec.ofNat 64 (32 * s.curCore + s.curSlot)
  | 0x800 => c.nround
  | 0x801 => c.lastat
  | 0x802 => w.amask.setWidth 64
  | 0x803 => (w.amask >>> 64).setWidth 64
  | 0x804 => c.mstkp
  | 0x805 => c.mstksel
  | 0x806 => (w.shownEntry.mask &&& w.wm).setWidth 64
  | 0x807 => ((w.shownEntry.mask &&& w.wm) >>> 64).setWidth 64
  | 0x808 => w.shownEntry.word
  | 0xCC0 => c.wid
  | 0xCC1 => c.did
  | 0xCC2 => c.turn
  | 0xCC3 => (s.phase (clusterOf s.curCore) w.cteam).setWidth 64
  | 0x5C0 => c.sturncmp
  | 0x5C1 => c.samask0
  | 0x5C2 => c.samask1
  | 0x5C3 => c.sgate
  | 0x5C4 => c.stwlim
  | 0x7C0 => c.mamask0
  | 0x7C1 => c.mamask1
  | 0x7C2 => c.mseq
  | 0x7C3 => c.mdomfault
  | 0x7C4 => c.mracefault
  | 0x7C5 => c.mlav
  | 0xFC0 => s.mcoreid s.curCore
  | 0xFC1 => 0x01010101
  | _ => 0

/-- Bits of `v` where `mask` is set, of `old` elsewhere. -/
def mergeBits (old v mask : Word) : Word := (old &&& ~~~mask) ||| (v &&& mask)

/-- STIP stands while `turn` has reached `sturncmp` (R97). -/
def Csrs.timer (c : Csrs) : Csrs :=
  { c with mip := setFld c.mip 5 5 (b2n (decide (c.sturncmp.toNat ≤ c.turn.toNat))) }

/-- The CSR fields after a write of `v` to `n`. -/
def Csrs.write (c : Csrs) (n : Nat) (v : Word) : Csrs :=
  match n with
  | 0x001 => { c with fcsr := (c.fcsr &&& 0xE0) ||| (v.setWidth 32 &&& 0x1F) }
  | 0x002 => { c with fcsr := (c.fcsr &&& 0x1F) ||| ((v.setWidth 32 &&& 7) <<< 5) }
  | 0x003 => { c with fcsr := v.setWidth 32 &&& 0xFF }
  | 0x100 => { c with mstatus := mstatusLegal c.mstatus (mergeBits c.mstatus v sstatusMask) }
  | 0x104 => { c with mie := mergeBits c.mie v (c.mideleg &&& mieMask) }
  | 0x105 => { c with stvec := tvecLegal v }
  | 0x106 => { c with scounteren := v &&& counterMask }
  | 0x140 => { c with sscratch := v }
  | 0x141 => { c with sepc := v &&& ~~~3#64 }
  | 0x142 => { c with scause := v }
  | 0x143 => { c with stval := v }
  | 0x144 => { c with mip := mergeBits c.mip v (c.mideleg &&& 2) }
  | 0x300 => { c with mstatus := mstatusLegal c.mstatus v }
  | 0x302 => { c with medeleg := v &&& medelegMask }
  | 0x303 => { c with mideleg := v &&& midelegMask }
  | 0x304 => { c with mie := v &&& mieMask }
  | 0x305 => { c with mtvec := tvecLegal v }
  | 0x306 => { c with mcounteren := v &&& counterMask }
  | 0x340 => { c with mscratch := v }
  | 0x341 => { c with mepc := v &&& ~~~3#64 }
  | 0x342 => { c with mcause := v }
  | 0x343 => { c with mtval := v }
  | 0x344 => { c with mip := mergeBits c.mip v 2 }
  | 0xB02 => { c with instret := v }
  | 0x800 => { c with nround := nroundWrite c.nround v }
  | 0x801 => { c with lastat := c.lastat &&& ~~~v &&& 1 }
  | 0x804 => { c with mstkp := BitVec.ofNat 64 (if 32 < fld v 5 0 then 32 else fld v 5 0) }
  | 0x805 => { c with mstksel := v &&& 0x1F }
  | 0x5C0 => { c with sturncmp := v }.timer
  | 0x5C1 => { c with samask0 := v }
  | 0x5C2 => { c with samask1 := v }
  | 0x5C4 => { c with stwlim := v &&& 0xFFFFFFFF }
  | 0x7C0 => { c with mamask0 := v }
  | 0x7C1 => { c with mamask1 := v }
  | 0x7C2 => { c with mseq := v &&& 0x1FFFF }
  | 0x7C3 => { c with mdomfault := v &&& 0x1FFFFFFF }
  | 0x7C4 => { c with mracefault := v &&& 0x7FFFFFFFF }
  | 0x7C5 => { c with mlav := v &&& 1 }
  | _ => c

/-- The wave after a write of `v` to CSR `n`: the mask windows (R93, R94), else a CSR field; writing `fcsr` makes the
floating-point state dirty. -/
def Wave.csrWrite (w : Wave) (n : Nat) (v : Word) : Wave :=
  match n with
  | 0x802 => w.setAmask (maskOf v ((w.amask >>> 64).setWidth 64))
  | 0x803 => w.setAmask (maskOf (w.amask.setWidth 64) v)
  | 0x806 => w.setShown (fun e => { e with mask := maskOf v ((e.mask >>> 64).setWidth 64) &&& w.wm })
  | 0x807 => w.setShown (fun e => { e with mask := maskOf (e.mask.setWidth 64) v &&& w.wm })
  | 0x808 => w.setShown (fun e => { e with word := v &&& 0xC001FFFFFFFFFFFC })
  | _ =>
    let q := { w with csrs := w.csrs.write n v }
    if 1 ≤ n ∧ n ≤ 3 then q.fpDirty else q

end Sys2Proof.Machine
end

