-- ==== Sys2Proof/Machine/LaneMemory.lean ====
section
/-! DEFINITION. Memory lane words, majors 0xC0 to 0xD4: loads, stores, constant loads, prefetch, atomics, locks, window
words and accumulator elements (R227 to R241). -/

namespace Sys2Proof.Machine

/-! ### Addresses and data (R229, R230) -/

/-- Element width in bits and access size in bytes (R229). -/
def memWidth (w : LaneWord) : Nat := typeWidth w.ty.toNat
def memSize (w : LaneWord) : Nat := memWidth w / 8 * 2 ^ vecOf w

/-- EA of a global or window form in a lane. -/
def LaneEnv.address (e : LaneEnv) (w : LaneWord) (window atomic : Bool) (l : Nat) : Nat :=
  let off := if ofsOf w then (if window then e.reg w.vb.toNat l else signExt 32 64 (e.reg w.vb.toNat l)) else 0
  let imm := if atomic then 0 else signExt 32 64 w.imm.toNat
  ((e.wave.getX w.va.toNat).toNat + off + imm) % 2 ^ 64

/-- Byte offset of a scratchpad or accumulator form in a lane. -/
def LaneEnv.offset (e : LaneEnv) (w : LaneWord) (atomic : Bool) (l : Nat) : Nat :=
  (if ofsOf w then e.reg w.vb.toNat l else 0) + (if atomic then 0 else w.imm.toNat)

/-- The results of a load whose bytes in lane `l` are `v` (R230). -/
def loadUpds (w : LaneWord) (l v : Nat) : List Upd :=
  if vecOf w = 0 then putUpd (memWidth w) (intSigned w.ty.toNat) w.vd.toNat l (typed (memWidth w) (intSigned w.ty.toNat) v)
  else (List.range (2 ^ vecOf w)).map (fun k => .v (w.vd.toNat + k) l (BitVec.ofNat 32 (v / 2 ^ (32 * k))))

/-- The bytes a store writes from lane `l` (R230). -/
def storeBytes (e : LaneEnv) (w : LaneWord) (l : Nat) : List Byte :=
  if vecOf w = 0 then leBytes (memSize w) (e.pattern (memWidth w) w.vd.toNat l)
  else (List.range (2 ^ vecOf w)).flatMap (fun k => leBytes 4 (e.reg (w.vd.toNat + k) l))

/-! ### What performing a word comes to -/

/-- The outcome of the accesses of a word: the state, its results, the values still to come, and the first failed
request with the lanes not performed. -/
structure MemOut where
  s : State
  upds : List Upd := []
  acks : List AckPut := []
  fault : Option (ReqFault × Mask) := none

/-- Where each lane's access goes, in ascending lane order. -/
def resolveLanes (s : State) (f : State → Nat → State × Except ReqFault Dest) (lanes : List Nat) :
    State × List (Nat × Except ReqFault Dest) :=
  lanes.foldl (fun q l =>
    let r := f q.1 l
    (r.1, q.2 ++ [(l, r.2)])) (s, [])

/-- The first failed lane and the lanes that failed. -/
def failedLanes (ds : List (Nat × Except ReqFault Dest)) : Option (ReqFault × Mask) :=
  let m := ds.foldl (fun (a : Mask) d =>
    match d.2 with
    | .ok _ => a
    | .error _ => a ||| BitVec.ofNat 128 (2 ^ d.1)) 0
  (ds.findSome? (fun d => match d.2 with
    | .ok _ => none
    | .error f => some f)).map (fun f => (f, m))

/-- The lanes as a mask. -/
def maskOfLanes (ls : List Nat) : Mask := ls.foldl (fun a l => a ||| BitVec.ofNat 128 (2 ^ l)) 0

/-- Load every lane, or hold them all when one fails (R230, R240). -/
def loadLanes (c i : Nat) (wv : Wave) (w : LaneWord) (p : Path) (wide : Bool) (n : Nat)
    (ds : List (Nat × Except ReqFault Dest)) (s : State) : MemOut :=
  match failedLanes ds with
  | some (f, _) => { s := s, fault := some (f, maskOfLanes (ds.map (fun d => d.1))) }
  | none =>
    ds.foldl (fun o d =>
      match d.2 with
      | .ok (.remote k a va) =>
        let put : AckPut :=
          { tag := o.s.nextTag, wd := memWidth w, sgn := intSigned w.ty.toNat, toX := false, reg := w.vd.toNat, lane := d.1,
            vec := if vecOf w = 0 then 0 else 2 ^ vecOf w }
        { o with s := o.s.remoteLoad c i wv (ordOf w) (scopeOf w) n k a va, acks := o.acks ++ [put] }
      | .ok t =>
        let r := o.s.readDest c wv p wide n t
        { o with s := r.1, upds := o.upds ++ loadUpds w d.1 r.2 }
      | .error _ => o) { s := s }

/-- Store every lane that resolves, in ascending lane order; the others are held (R230). -/
def storeLanes (c i : Nat) (wv : Wave) (w : LaneWord) (wide : Bool) (data : Nat → List Byte)
    (ds : List (Nat × Except ReqFault Dest)) (s : State) : MemOut :=
  let s := ds.foldl (fun s d =>
    match d.2 with
    | .ok t => s.writeDest c i wv .lane (ordOf w) (scopeOf w) wide (data d.1) t
    | .error _ => s) s
  { s := s, fault := failedLanes ds }

/-- The operation of an atomic word in lane `l` (R239, R240). -/
def atomicOf (cas : Bool) (e : LaneEnv) (w : LaneWord) (l : Nat) : AtomicOp :=
  if cas then .cas (e.pattern (memWidth w) w.vd.toNat l)
  else .rmw (amoOp w) w.ty.toNat (intSigned w.ty.toNat) (memWidth w)

/-- Perform an atomic in every lane that resolves, in ascending lane order; the others are held (R164, R240). ORD 0b01, which
R227 gives as acquire for a load and release for a store, makes an atomic both (DESIGN CHOICE, log 84). -/
def atomicLanes (cas : Bool) (c i : Nat) (e : LaneEnv) (w : LaneWord) (wide : Bool)
    (ds : List (Nat × Except ReqFault Dest)) (s : State) : MemOut :=
  let ret := cas || amoRet w
  let wd := memWidth w
  ds.foldl (fun o d =>
      match d.2 with
      | .error _ => o
      | .ok t =>
        let r := o.s.atomicDest c i e.wave amoFadd (atomicOf cas e w d.1) (ordOf w) (scopeOf w) (amoHint w) wide wide (wd / 8)
          (e.pattern wd (vcOf w) d.1) t
        match t with
        | .remote _ _ _ =>
          let put : AckPut :=
            { tag := o.s.nextTag, wd := wd, sgn := intSigned w.ty.toNat, toX := !ret, reg := if ret then w.vd.toNat else 0,
              lane := d.1 }
          { o with s := r.1, acks := o.acks ++ (if ret || decide (ordOf w ≠ 0) then [put] else []) }
        | _ =>
          let sgn := intSigned w.ty.toNat
          { o with
            s := r.1,
            upds := o.upds ++ (if ret then putUpd wd sgn w.vd.toNat d.1 (typed wd sgn r.2) else []) })
    { s := s, fault := failedLanes ds }

/-! ### Performing a word for some of its lanes: at issue, and again when a park is resumed (R164) -/

/-- Resolve the lanes of a global or window word. -/
def memTargets (window atomic : Bool) (cache : CacheId) (k : AccKind) (e : LaneEnv) (w : LaneWord) (n : Nat)
    (lanes : List Nat) (s : State) : State × List (Nat × Except ReqFault Dest) :=
  let wv := e.wave
  resolveLanes s (fun s l =>
    let a := e.address w window atomic l
    if window then
      (s, match s.windowAs k a n with
        | .ok (c, p) => .ok (.spad c p)
        | .error f => .error (f.report k wv.dom a))
    else s.resolve s.curCore s.curSlot wv cache k a n) lanes

/-- What kind of memory word a major is. -/
inductive MemWord
  | load (window : Bool) (path : Path)
  | store (window : Bool)
  | atomic (window cas : Bool)
deriving DecidableEq, Repr

/-- Access kind of a memory word. -/
def MemWord.kind : MemWord → AccKind
  | .load _ _ => .load
  | .store _ => .store
  | .atomic _ _ => .amo

/-- A window form. -/
def MemWord.window : MemWord → Bool
  | .load b _ => b
  | .store b => b
  | .atomic b _ => b

/-- Size of a memory word's access. -/
def MemWord.size (m : MemWord) (w : LaneWord) : Nat :=
  match m with
  | .atomic _ _ => memWidth w / 8
  | _ => memSize w

/-- A form whose immediate bits are modifiers. -/
def MemWord.isAtomic : MemWord → Bool
  | .atomic _ _ => true
  | _ => false

/-- The banks that lanes access are in use in this cycle (R28). -/
def State.useLanes (s : State) (n : Nat) (ds : List (Nat × Except ReqFault Dest)) : State :=
  ds.foldl (fun s d =>
    match d.2 with
    | .ok (.spad k a) => s.modCore k (fun q =>
        { q with laneCycle := s.cycle + 1,
                 laneBanks := (if q.laneCycle = s.cycle + 1 then q.laneBanks else []) ++ banksOf a n })
    | _ => s) s

/-- Perform the accesses of a global or window word in the given lanes. -/
def memPerform (m : MemWord) (e : LaneEnv) (w : LaneWord) (lanes : List Nat) (s : State) : MemOut :=
  let wide := decide (ordOf w ≠ 0) && s.wideScope (scopeOf w)
  let cache := match m with
    | .load _ p => p.cache
    | _ => .lane
  let r := memTargets m.window m.isAtomic cache m.kind e w (m.size w) lanes s
  let r := (r.1.useLanes (m.size w) r.2, r.2)
  match m with
  | .load _ p => loadLanes s.curCore s.curSlot e.wave w p wide (m.size w) r.2 r.1
  | .store _ => storeLanes s.curCore s.curSlot e.wave w wide (storeBytes e w) r.2 r.1
  | .atomic _ cas => atomicLanes cas s.curCore s.curSlot e w wide r.2 r.1

/-- Lanes of a list of addresses that name the wave's own core by window (R180). -/
def ownWindow (s : State) (a : Nat) : Bool := decide (a < 2 ^ 34) && decide (96 * clusterOf s.curCore + bits a 33 27 = s.curCore)

/-- xtval of an own-core window access, as R180 gives it for a scratchpad access. -/
def ownTval (a : Nat) : Word := tileTval (bits a 26 19) (bits a 18 0)

/-- The tiles and offsets of the addresses that name the wave's own core by window: these accesses are local scratchpad
accesses (R180). -/
def ownLanes (window : Bool) (as : List Nat) (s : State) : List (Nat × Nat) :=
  if window then (as.filter (ownWindow s)).map (fun a => (bits a 26 19, bits a 18 0)) else []

/-- The causes of a global or window word that come before domain faults: a rejected fill and a missing tile of an own-core
window access, alignment, then the bounds of an own-core window access (R180, R229, R232, R314). -/
def memOwn (window : Bool) (k : AccKind) (n : Nat) (as : List Nat) (s : State) : Option Issue :=
  let own := ownLanes window as s
  match own.find? (fun q => tFerr (s.myTile q.1) = 1 || !tileHolds (s.myTile q.1)) with
  | some q => tileOwn q.1 n 1 k [q.2] s
  | none =>
    match as.find? (fun a => a % n ≠ 0) with
    | some a => some (.trap k.alignFault (if window && ownWindow s a then ownTval a else BitVec.ofNat 64 a) s)
    | none =>
      (own.find? (fun q => decide (tLen (s.myTile q.1) < q.2 + n))).map (fun q =>
        .trap k.accessFault (tileTval q.1 q.2) s)

/-- The checks that follow the region check: the 49-bit check of a global form, and for the own core's window the bank
check, the wait and the read-only check of a local scratchpad access (R177, R180, R182, R232, R314). -/
def memAfter (window : Bool) (k : AccKind) (n : Nat) (as : List Nat) (s : State) : Option Issue :=
  if window then
    let own := ownLanes window as s
    let foreign (q : Nat × Nat) : Bool :=
      ((s.core s.curCore).bankViolation s.wave.dom (1024 * tFirst (s.myTile q.1) + q.2) n).isSome
    match own.find? foreign with
    | some q => tileReady q.1 n k [q.2] s
    | none => own.findSome? (fun q => tileReady q.1 n k [q.2] s)
  else (as.find? (fun a => outside49 a n)).map (fun a => .park k.pageFault (BitVec.ofNat 64 a) s)

/-- A synchronising word waits for the acknowledgement of the wave's earlier active messages (R219). -/
def releaseHeld (releases : Bool) (scope : Nat) (s : State) : Bool :=
  releases && decide (3 ≤ scope) && s.messagesOut s.curCore s.curSlot

/-- The outcome of an issued memory word; `acq` where it acquires. -/
def memFinish (i : Instr) (len la lat : Nat) (long acq : Bool) (locs : List Loc) (pc : Word) (o : MemOut) : Issue :=
  match o.fault with
  | some (f, m) => lateFault pc f (i, m) ((o.s.issued len).holdResults pc locs o.upds o.acks)
  | none =>
    if long then longDoneWith len la lat locs o.upds o.acks o.s (acq && o.acks ≠ []) else ordinaryDone len o.upds o.s

/-- A global or window word (R229, R230, R240). -/
def memWord (i : Instr) (major : Nat) (m : MemWord) (w : LaneWord) (s : State) : Host.Outcome State Fault Refusal :=
  let n := m.size w
  let addrs (e : LaneEnv) : List Nat := e.lanes.map (e.address w m.window m.isAtomic)
  let long := match m with
    | .store _ => false
    | _ => true
  let releases := match m with
    | .load _ _ => false
    | _ => decide (ordOf w ≠ 0)
  (laneIssueWith major (memForm major w) w touchActive (fun e s => memOwn m.window m.kind n (addrs e) s)
    (fun e ops s =>
      match memAfter m.window m.kind n (addrs e) s with
      | some r => r
      | none =>
        if releaseHeld releases (scopeOf w) s then .hold s
        else
          memFinish i (laneBytes w) w.la.toNat (if m.window then s.lat.window else s.lat.l2) long
            (decide (ordOf w ≠ 0)) (writtenLocs ops)
            s.wave.pc (memPerform m e w e.lanes s)) s).finish

/-- `vld` from global memory (R230). -/
def execVldGlobal (w : LaneWord) (s : State) : Host.Outcome State Fault Refusal :=
  memWord (.vldGlobal w) 0xC0 (.load false .lane) w s

/-- `vst` to global memory (R230). -/
def execVstGlobal (w : LaneWord) (s : State) : Host.Outcome State Fault Refusal :=
  memWord (.vstGlobal w) 0xC1 (.store false) w s

/-- `vld` through a window address (R230). -/
def execVldWindow (w : LaneWord) (s : State) : Host.Outcome State Fault Refusal :=
  memWord (.vldWindow w) 0xC4 (.load true .lane) w s

/-- `vst` through a window address (R230). -/
def execVstWindow (w : LaneWord) (s : State) : Host.Outcome State Fault Refusal :=
  memWord (.vstWindow w) 0xC5 (.store true) w s

/-- `vldc`: a load through the constant path (R234). -/
def execVldc (w : LaneWord) (s : State) : Host.Outcome State Fault Refusal :=
  memWord (.vldc w) 0xC6 (.load false .const) w s

/-- `vamo` on global memory (R240). -/
def execVamoGlobal (w : LaneWord) (s : State) : Host.Outcome State Fault Refusal :=
  memWord (.vamoGlobal w) 0xC9 (.atomic false false) w s

/-- `vamo` through a window address (R240). -/
def execVamoWindow (w : LaneWord) (s : State) : Host.Outcome State Fault Refusal :=
  memWord (.vamoWindow w) 0xCB (.atomic true false) w s

/-- `vcas` on global memory (R240). -/
def execVcasGlobal (w : LaneWord) (s : State) : Host.Outcome State Fault Refusal :=
  memWord (.vcasGlobal w) 0xCC (.atomic false true) w s

/-- `vcas` through a window address (R240). -/
def execVcasWindow (w : LaneWord) (s : State) : Host.Outcome State Fault Refusal :=
  memWord (.vcasWindow w) 0xCE (.atomic true true) w s

/-! ### Scratchpad forms (R180, R229, R230) -/

/-- Scratchpad byte of offset `o` of a tile. -/
def tileByte (v : Word) (o : Nat) : Nat := 1024 * tFirst v + o

/-- The targets of a scratchpad word: the own core's scratchpad. -/
def spadTargets (e : LaneEnv) (w : LaneWord) (atomic : Bool) (s : State) : List (Nat × Except ReqFault Dest) :=
  let v := s.myTile w.va.toNat
  e.lanes.map (fun l => (l, .ok (.spad s.curCore (tileByte v (e.offset w atomic l)))))

/-- A scratchpad word (R229 item 1). -/
def spadWord (major : Nat) (m : MemWord) (w : LaneWord) (s : State) : Host.Outcome State Fault Refusal :=
  let h := w.va.toNat
  let n := m.size w
  let plain := decide (ordOf w = 0) && !m.isAtomic
  let long := match m with
    | .store _ => false
    | _ => true
  let offs (e : LaneEnv) : List Nat := e.lanes.map (e.offset w m.isAtomic)
  (laneIssueWith major (memForm major w) w touchActive (fun e s => tileOwn h n n m.kind (offs e) s)
    (fun e ops s =>
      match tileReady h n m.kind (offs e) s with
      | some r => r
      | none =>
        if releaseHeld (m.kind.writes && decide (ordOf w ≠ 0)) (scopeOf w) s then .hold s
        else
          match raceFault h n m.kind.writes plain (offs e) s with
          | some r => r
          | none =>
            let s := raceRecord h n m.kind.writes plain (offs e) s
            let wide := decide (ordOf w ≠ 0) && s.wideScope (scopeOf w)
            let ds := spadTargets e w m.isAtomic s
            let s := s.useLanes n ds
            let o := match m with
              | .load _ p => loadLanes s.curCore s.curSlot e.wave w p wide n ds s
              | .store _ => storeLanes s.curCore s.curSlot e.wave w wide (storeBytes e w) ds s
              | .atomic _ cas => atomicLanes cas s.curCore s.curSlot e w wide ds s
            if long then longDone (laneBytes w) w.la.toNat s.lat.scratchpad (writtenLocs ops) o.upds o.s
            else ordinaryDone (laneBytes w) o.upds o.s) s).finish

/-- `vld` from a tile of the own scratchpad (R230). -/
def execVldScratchpad (w : LaneWord) (s : State) : Host.Outcome State Fault Refusal :=
  spadWord 0xC2 (.load false .lane) w s

/-- `vst` to a tile of the own scratchpad (R230). -/
def execVstScratchpad (w : LaneWord) (s : State) : Host.Outcome State Fault Refusal :=
  spadWord 0xC3 (.store false) w s

/-- `vamo` on a scratchpad tile (R240). -/
def execVamoScratchpad (w : LaneWord) (s : State) : Host.Outcome State Fault Refusal :=
  spadWord 0xCA (.atomic false false) w s

/-- `vcas` on a scratchpad tile (R240). -/
def execVcasScratchpad (w : LaneWord) (s : State) : Host.Outcome State Fault Refusal :=
  spadWord 0xCD (.atomic false true) w s

/-! ### Prefetch (R235) -/

/-- `vpf`: the line of each active lane's address is brought in; an address that fails is dropped. -/
def execVpf (w : LaneWord) (s : State) : Host.Outcome State Fault Refusal :=
  (laneIssue 0xC8 (memForm 0xC8 w) w touchActive (fun e _ s =>
    let s := e.lanes.foldl (fun s l =>
      let a := e.address w false false l
      if outside49 a 1 || ((s.core s.curCore).stale .lane e.wave.dom e.wave.pasid (a / 64)).isSome then s
      else
        match s.resolve s.curCore s.curSlot e.wave .lane .load a 1 with
        | (s', .ok (.mem va t)) =>
          if t.mt ≠ 0 then s'
          else if w.func.getLsbD 0 then s'.touchL2 t.pa e.wave.dom false
          else (s'.cachedRead s'.curCore .lane e.wave.dom e.wave.pasid va t.pa 1).1
        | _ => s) s
    ordinaryDone (laneBytes w) [] s) s).finish

/-! ### Locks (R241) -/

/-- One 8-byte access of the wave to the address in x[A]. -/
def lockTarget (k : AccKind) (w : LaneWord) (s : State) : State × Except ReqFault Dest :=
  let wv := s.wave
  s.resolve s.curCore s.curSlot wv .lane k (wv.getX w.va.toNat).toNat 8

/-- The causes of a lock word's own operand (R241). -/
def lockOwn (w : LaneWord) (e : LaneEnv) (s : State) : Option Issue :=
  if e.lanes = [] then none else memOwn false .amo 8 [(e.wave.getX w.va.toNat).toNat] s

/-- `amo.lock` at its location: the lock word, LOCKS and the result. At another cluster's scratchpad the message's answer is
waited for, since LOCKS depends on it (R181, R219, R241). -/
def lockPerform (w : LaneWord) (s : State) : MemOut :=
  let wv := s.wave
  let r := lockTarget .amo w s
  match r.2 with
  | .error f => { s := r.1, fault := some (f, 1) }
  | .ok d =>
    let v := (wv.getX w.vb.toNat).toNat
    let took (s : State) (f : Nat) : MemOut :=
      { s := if f = 0 ∧ v ≠ 0 then s.modWave (fun q => { q with locks := if q.locks < 15 then q.locks + 1 else 15 }) else s,
        upds := [.x w.vd.toNat (BitVec.ofNat 64 f)] }
    match d with
    | .remote k a va =>
      let m := r.1.messageNow k
        { kind := .cas, size := 8, ord := 1, scope := 3, dom := wv.dom, addr := a, op := 0, ty := 15, operand := v,
          operand2 := 0, sender := s.curCore, slot := s.curSlot, vaddr := va, tag := s.nextTag }
      match m.2 with
      | .ok f => took (m.1.acquireAt s.curCore wv.dom true) f
      | .error f => { s := m.1, fault := some (refusedReport va f, 1) }
    | _ =>
      let a := r.1.atomicDest s.curCore s.curSlot wv amoFadd (.cas 0) 1 3 0 true false 8 v d
      took a.1 a.2

/-- `amo.unlk` at its location. -/
def unlockPerform (w : LaneWord) (s : State) : MemOut :=
  let wv := s.wave
  let r := lockTarget .amo w s
  match r.2 with
  | .error f => { s := r.1, fault := some (f, 1) }
  | .ok d =>
    { s := (r.1.writeDest s.curCore s.curSlot wv .lane 1 3 true (leBytes 8 0) d).modWave
        (fun q => { q with locks := q.locks - 1 }) }

/-- `amo.lock`: takes the lock word when it is free (R241). -/
def execAmoLock (w : LaneWord) (s : State) : Host.Outcome State Fault Refusal :=
  (laneIssueWith 0xCF (memForm 0xCF w) w touchActive (lockOwn w) (fun e ops s =>
    if e.lanes = [] then longDone (laneBytes w) w.la.toNat 0 [] [] s
    else
      match memAfter false .amo 8 [(e.wave.getX w.va.toNat).toNat] s with
      | some r => r
      | none =>
        memFinish (.amoLock w) (laneBytes w) w.la.toNat s.lat.l2 true true (writtenLocs ops) s.wave.pc (lockPerform w s)) s).finish

/-- `amo.unlk`: writes 0 to the lock word as a release (R241). -/
def execAmoUnlk (w : LaneWord) (s : State) : Host.Outcome State Fault Refusal :=
  (laneIssueWith 0xD0 (memForm 0xD0 w) w touchActive (lockOwn w) (fun e _ s =>
    if e.lanes = [] then ordinaryDone (laneBytes w) [] s
    else
      match memAfter false .amo 8 [(e.wave.getX w.va.toNat).toNat] s with
      | some r => r
      | none =>
        if releaseHeld true 3 s then .hold s
        else memFinish (.amoUnlk w) (laneBytes w) 0 0 false false [] s.wave.pc (unlockPerform w s)) s).finish

/-! ### Hart access to scratchpad by window (R232) -/

/-- Address of `xld` and `xst`. -/
def windowX (w : LaneWord) (wv : Wave) : Nat := ((wv.getX w.va.toNat).toNat + signExt 32 64 w.imm.toNat) % 2 ^ 64

/-- Perform `xld`. -/
def xldPerform (w : LaneWord) (s : State) : MemOut :=
  let wv := s.wave
  let n := memSize w
  let a := windowX w wv
  match s.windowAs .load a n with
  | .error f => { s := s, fault := some (f.report .load wv.dom a, 1) }
  | .ok (c, p) =>
    let wide := decide (ordOf w ≠ 0) && s.wideScope (scopeOf w)
    let r := s.readDest s.curCore wv .lane wide n (.spad c p)
    { s := r.1,
      upds := [.x w.vd.toNat (BitVec.ofInt 64 (typed (memWidth w) (intSigned w.ty.toNat) r.2))] }

/-- Perform `xst`. -/
def xstPerform (w : LaneWord) (s : State) : MemOut :=
  let wv := s.wave
  let n := memSize w
  let a := windowX w wv
  match s.window a n with
  | .error f => { s := s, fault := some (f.report .store wv.dom a, 1) }
  | .ok (c, p) =>
    let wide := decide (ordOf w ≠ 0) && s.wideScope (scopeOf w)
    { s := s.writeDest s.curCore s.curSlot wv .lane (ordOf w) (scopeOf w) wide (leBytes n (wv.getX w.vd.toNat).toNat) (.spad c p) }

/-- `xld` and `xst` (R232). -/
def windowWord (i : Instr) (major : Nat) (k : AccKind) (w : LaneWord) (perform : State → MemOut) (s : State) :
    Host.Outcome State Fault Refusal :=
  let n := memSize w
  (laneIssueWith major (memForm major w) w touchActive
    (fun e s => if e.lanes = [] then none else memOwn true k n [windowX w e.wave] s)
    (fun e ops s =>
      if e.lanes = [] then ordinaryDone (laneBytes w) [] s
      else
        match memAfter true k n [windowX w e.wave] s with
        | some r => r
        | none =>
          if releaseHeld (k = .store && decide (ordOf w ≠ 0)) (scopeOf w) s then .hold s
          else memFinish i (laneBytes w) w.la.toNat s.lat.window (k = .load) false (writtenLocs ops) s.wave.pc (perform s)) s).finish

/-- `xld` (R232). -/
def execXld (w : LaneWord) (s : State) : Host.Outcome State Fault Refusal :=
  windowWord (.xld w) 0xD1 .load w (xldPerform w) s

/-- `xst` (R232). -/
def execXst (w : LaneWord) (s : State) : Host.Outcome State Fault Refusal :=
  windowWord (.xst w) 0xD2 .store w (xstPerform w) s

/-! ### Accumulator elements (R183, R229, R233) -/

/-- The holder of an accumulator tile of the core that acts. -/
def State.accHolder (s : State) (k : Nat) : Option Holder := Table.find (s.core s.curCore).accHold k

/-- The holder of an item is a wave of the acting wave's team. -/
def Holder.ofTeam (h : Holder) (w : Wave) : Bool := h.team = w.cteam && h.dom = w.dom

/-- The holder of an item is the acting wave itself. -/
def Holder.ofWave (h : Holder) (w : Wave) : Bool := h.ofTeam w && h.twave = w.twave

/-- Cause 29 for an accumulator tile held under another domain (R183). -/
def accDomain (s : State) (write : Bool) (k : Nat) (tval : Word) : Option Issue :=
  match s.accHolder k with
  | some h => if h.dom ≠ s.wave.dom then some (domFault s write k 5 h.dom tval) else none
  | none => none

/-- An accumulator element word (R229 item 5, R233). -/
def accWord (major : Nat) (store : Bool) (w : LaneWord) (s : State) : Host.Outcome State Fault Refusal :=
  let k := w.va.toNat
  let n := memSize w
  let kind : AccKind := if store then .store else .load
  let tval : Nat → Word := tileTval k
  let offs (e : LaneEnv) : List Nat := e.lanes.map (e.offset w false)
  (laneIssueWith major (memForm major w) w touchActive
    (fun e s => ((offs e).find? (fun o => o % n ≠ 0)).map (fun o => .trap kind.alignFault (tval o) s))
    (fun e ops s =>
      if e.lanes = [] then longDone (laneBytes w) w.la.toNat 0 [] [] s
      else
        match accDomain s store k (BitVec.ofNat 64 (k * 2 ^ 32)) with
        | some r => r
        | none =>
          let held := match s.accHolder k with
            | some h => h.ofTeam e.wave
            | none => false
          if !held then .trap kind.accessFault (tval ((offs e).headD 0)) s
          else
            match (offs e).find? (fun o => decide (8192 < o + n)) with
            | some o => .trap kind.accessFault (tval o) s
            | none =>
              let word (o j : Nat) : Nat := 2048 * k + o / 4 + j
              if store then
                let s' := s.modCur (fun c => e.lanes.foldl (fun c l =>
                  (List.range (2 ^ vecOf w)).foldl (fun (c : Core) j =>
                    { c with acc := Table.put c.acc (word (e.offset w false l) j) (BitVec.ofNat 32 (e.reg (w.vd.toNat + j) l)) }) c) c)
                longDone (laneBytes w) w.la.toNat s.lat.accElement (writtenLocs ops) [] s'
              else
                let c := s.core s.curCore
                longDone (laneBytes w) w.la.toNat s.lat.accElement (writtenLocs ops)
                  (e.lanes.flatMap (fun l => (List.range (2 ^ vecOf w)).map (fun j =>
                    .v (w.vd.toNat + j) l (Table.get c.acc (word (e.offset w false l) j) 0)))) s [.acc k]) s).finish

/-- `vld` of accumulator elements (R233). -/
def execVldAccumulator (w : LaneWord) (s : State) : Host.Outcome State Fault Refusal := accWord 0xD3 false w s

/-- `vst` of accumulator elements (R233). -/
def execVstAccumulator (w : LaneWord) (s : State) : Host.Outcome State Fault Refusal := accWord 0xD4 true w s

end Sys2Proof.Machine
end

