-- ==== Sys2Proof/Machine/ScalarInt.lean ====
section
/-! DEFINITION. The integer results of the RISC-V words: RV64I, M, Zba and Zbb (R90). -/

namespace Sys2Proof.Machine

/-- Sign-extended low 32 bits. -/
def sext32 (v : Word) : Word := (v.setWidth 32).signExtend 64

/-- Zero-extended low 32 bits. -/
def zext32 (v : Word) : Word := (v.setWidth 32).setWidth 64

/-- Rotate left by `k` modulo the width. -/
def rotl {n : Nat} (v : BitVec n) (k : Nat) : BitVec n := (v <<< (k % n)) ||| (v >>> (n - k % n))

/-- Rotate right by `k` modulo the width. -/
def rotr {n : Nat} (v : BitVec n) (k : Nat) : BitVec n := (v >>> (k % n)) ||| (v <<< (n - k % n))

/-- Signed division of the M extension: by zero all ones, and the overflow wraps. -/
def divS {n : Nat} (a b : BitVec n) : BitVec n := if b = 0 then BitVec.allOnes n else a.sdiv b

/-- Unsigned division of the M extension. -/
def divU {n : Nat} (a b : BitVec n) : BitVec n := if b = 0 then BitVec.allOnes n else a.udiv b

/-- Signed remainder: by zero the dividend. -/
def remS {n : Nat} (a b : BitVec n) : BitVec n := if b = 0 then a else a.srem b

/-- Unsigned remainder. -/
def remU {n : Nat} (a b : BitVec n) : BitVec n := if b = 0 then a else a.umod b

/-- 1 or 0. -/
def flagWord (b : Bool) : Word := if b then 1 else 0

/-- The result of a two-register operation. -/
def intResult (op : IntOp) (a b : Word) : Word :=
  let k := b.toNat % 64
  match op with
  | .add => a + b
  | .sub => a - b
  | .sll => a <<< k
  | .slt => flagWord (decide (a.toInt < b.toInt))
  | .sltu => flagWord (decide (a.toNat < b.toNat))
  | .xor => a ^^^ b
  | .srl => a >>> k
  | .sra => a.sshiftRight k
  | .or => a ||| b
  | .and => a &&& b
  | .mul => a * b
  | .mulh => BitVec.ofInt 64 (a.toInt * b.toInt / 2 ^ 64)
  | .mulhsu => BitVec.ofInt 64 (a.toInt * (b.toNat : Int) / 2 ^ 64)
  | .mulhu => BitVec.ofNat 64 (a.toNat * b.toNat / 2 ^ 64)
  | .div => divS a b
  | .divu => divU a b
  | .rem => remS a b
  | .remu => remU a b
  | .sh1add => b + (a <<< 1)
  | .sh2add => b + (a <<< 2)
  | .sh3add => b + (a <<< 3)
  | .andn => a &&& ~~~b
  | .orn => a ||| ~~~b
  | .xnor => ~~~(a ^^^ b)
  | .max => if a.toInt < b.toInt then b else a
  | .maxu => if a.toNat < b.toNat then b else a
  | .min => if a.toInt < b.toInt then a else b
  | .minu => if a.toNat < b.toNat then a else b
  | .rol => rotl a k
  | .ror => rotr a k

/-- The result of a two-register operation on words. -/
def intResult32 (op : IntOp32) (x y : Word) : Word :=
  let a : Word32 := x.setWidth 32
  let b : Word32 := y.setWidth 32
  let k := y.toNat % 32
  match op with
  | .addw => (a + b).signExtend 64
  | .subw => (a - b).signExtend 64
  | .sllw => (a <<< k).signExtend 64
  | .srlw => (a >>> k).signExtend 64
  | .sraw => (a.sshiftRight k).signExtend 64
  | .mulw => (a * b).signExtend 64
  | .divw => (divS a b).signExtend 64
  | .divuw => (divU a b).signExtend 64
  | .remw => (remS a b).signExtend 64
  | .remuw => (remU a b).signExtend 64
  | .addUw => y + zext32 x
  | .sh1addUw => y + (zext32 x <<< 1)
  | .sh2addUw => y + (zext32 x <<< 2)
  | .sh3addUw => y + (zext32 x <<< 3)
  | .rolw => (rotl a k).signExtend 64
  | .rorw => (rotr a k).signExtend 64

/-- The result of a register-immediate operation. -/
def immResult (op : ImmOp) (a i : Word) : Word :=
  match op with
  | .addi => a + i
  | .slti => flagWord (decide (a.toInt < i.toInt))
  | .sltiu => flagWord (decide (a.toNat < i.toNat))
  | .xori => a ^^^ i
  | .ori => a ||| i
  | .andi => a &&& i

/-- The result of a shift by a 6-bit amount. -/
def shiftResult (op : ShiftOp) (a : Word) (k : Nat) : Word :=
  match op with
  | .slli => a <<< k
  | .srli => a >>> k
  | .srai => a.sshiftRight k
  | .rori => rotr a k
  | .slliUw => zext32 a <<< k

/-- The result of a shift of a word by a 5-bit amount. -/
def shiftResult32 (op : ShiftOp32) (x : Word) (k : Nat) : Word :=
  let a : Word32 := x.setWidth 32
  match op with
  | .slliw => (a <<< k).signExtend 64
  | .srliw => (a >>> k).signExtend 64
  | .sraiw => (a.sshiftRight k).signExtend 64
  | .roriw => (rotr a k).signExtend 64

/-- Leading zero bits of the low `n` bits. -/
def leadingZeros (v n : Nat) : Nat := ((List.range n).takeWhile (fun i => !bit v (n - 1 - i))).length

/-- Trailing zero bits of the low `n` bits. -/
def trailingZeros (v n : Nat) : Nat := ((List.range n).takeWhile (fun i => !bit v i)).length

/-- Set bits among the low `n`. -/
def setCount (v n : Nat) : Nat := ((List.range n).filter (fun i => bit v i)).length

/-- The bytes of a value, lowest first, mapped. -/
def mapBytes (f : List Byte → List Byte) (v : Word) : Word := BitVec.ofNat 64 (leValue (f (leBytes 8 v.toNat)))

/-- The result of a one-register operation of Zbb. -/
def unaryResult (op : UnaryOp) (a : Word) : Word :=
  match op with
  | .clz => BitVec.ofNat 64 (leadingZeros a.toNat 64)
  | .ctz => BitVec.ofNat 64 (trailingZeros a.toNat 64)
  | .cpop => BitVec.ofNat 64 (setCount a.toNat 64)
  | .sextB => (a.setWidth 8).signExtend 64
  | .sextH => (a.setWidth 16).signExtend 64
  | .orcB => mapBytes (fun bs => bs.map (fun b => if b = 0 then 0 else 255)) a
  | .rev8 => mapBytes List.reverse a
  | .clzw => BitVec.ofNat 64 (leadingZeros a.toNat 32)
  | .ctzw => BitVec.ofNat 64 (trailingZeros a.toNat 32)
  | .cpopw => BitVec.ofNat 64 (setCount a.toNat 32)
  | .zextH => (a.setWidth 16).setWidth 64

/-- A conditional branch is taken. -/
def branchTaken (op : BranchOp) (a b : Word) : Bool :=
  match op with
  | .beq => a = b
  | .bne => a ≠ b
  | .blt => a.toInt < b.toInt
  | .bge => b.toInt ≤ a.toInt
  | .bltu => a.toNat < b.toNat
  | .bgeu => b.toNat ≤ a.toNat

/-- Bytes of a load, and whether it extends its sign. -/
def loadShape : LoadOp → Nat × Bool
  | .lb => (1, true)
  | .lh => (2, true)
  | .lw => (4, true)
  | .ld => (8, false)
  | .lbu => (1, false)
  | .lhu => (2, false)
  | .lwu => (4, false)

/-- Bytes of a store. -/
def storeSize : StoreOp → Nat
  | .sb => 1
  | .sh => 2
  | .sw => 4
  | .sd => 8

/-- The register value of loaded bytes. -/
def loadValue (n : Nat) (sgn : Bool) (v : Nat) : Word := BitVec.ofNat 64 (if sgn then signExt (8 * n) 64 v else v)

end Sys2Proof.Machine
end

