-- ==== Sys2Proof/Machine/ScalarFloat.lean ====
section
/-! DEFINITION. The floating-point results of the RISC-V words of F and D, with their accrued flags (R90). -/

namespace Sys2Proof.Machine

/-- The format of an F or D operation. -/
def fpFmt : FpFmt → Fmt
  | .s => .f32
  | .d => .f64

/-- The bits of an operand in an f register. -/
def fpBits (f : FpFmt) (v : Word) : Nat :=
  match f with
  | .s => unbox v
  | .d => v.toNat

/-- A result as an f register holds it. -/
def fpBox (f : FpFmt) (v : Nat) : Word :=
  match f with
  | .s => box v
  | .d => BitVec.ofNat 64 v

/-- The value of an operand. -/
def fpVal (f : FpFmt) (v : Word) : Fv := (fpFmt f).decode (fpBits f v)

/-- A value before rounding. -/
def Fv.raw : Fv → Raw
  | .nan q => .nan q
  | .inf n => .inf n false
  | .fin n m e => .num n m e false

/-- A result and its flags. -/
def fpRound (f : FpFmt) (rm : Rm) (r : Raw) : Word × BitVec 5 :=
  (fpBox f ((fpFmt f).result rm r), (fpFmt f).flags rm r)

/-- fadd, fsub, fmul, fdiv. -/
def fpArith (op : FpArith) (f : FpFmt) (rm : Rm) (a b : Word) : Word × BitVec 5 :=
  let x := fpVal f a
  let y := fpVal f b
  fpRound f rm (match op with
    | .add => x.add rm y
    | .sub => x.add rm y.neg
    | .mul => x.mul y
    | .div => Fv.div (fpFmt f).prec x y)

/-- The four fused operations. -/
def fpFused (op : FpFused) (f : FpFmt) (rm : Rm) (a b c : Word) : Word × BitVec 5 :=
  let x := fpVal f a
  let y := fpVal f b
  let z := fpVal f c
  fpRound f rm (match op with
    | .madd => x.fma rm y z
    | .msub => x.fma rm y z.neg
    | .nmsub => x.neg.fma rm y z
    | .nmadd => x.neg.fma rm y z.neg)

/-- fsqrt. -/
def fpSqrt (f : FpFmt) (rm : Rm) (a : Word) : Word × BitVec 5 := fpRound f rm (Fv.sqrt (fpFmt f).prec (fpVal f a))

/-- Sign injections. -/
def fpSign (op : FpSign) (f : FpFmt) (a b : Word) : Word :=
  let sb := 2 ^ (fpFmt f).signBit
  let x := fpBits f a
  let sx := decide (sb ≤ x)
  let sy := decide (sb ≤ fpBits f b)
  let s := match op with
    | .sgnj => sy
    | .sgnjn => !sy
    | .sgnjx => sx ^^ sy
  fpBox f (x % sb + b2n s * sb)

/-- fmin and fmax: a NaN gives way to a number; a signalling NaN is invalid. -/
def fpMinMax (isMax : Bool) (f : FpFmt) (a b : Word) : Word × BitVec 5 :=
  let x := fpVal f a
  let y := fpVal f b
  let v := if x.isNan ∧ y.isNan then Fv.nan false
    else if x.isNan then y
    else if y.isNan then x
    else if isMax then x.maxOf y else x.minOf y
  (fpBox f ((fpFmt f).encode v), fflagBits (x.isSnan || y.isSnan) false false false false)

/-- feq, flt, fle. -/
def fpCompare (op : FpCompare) (f : FpFmt) (a b : Word) : Word × BitVec 5 :=
  let x := fpVal f a
  let y := fpVal f b
  let nan := x.isNan || y.isNan
  let nv := match op with
    | .eq => x.isSnan || y.isSnan
    | .lt => nan
    | .le => nan
  let r := !nan && (match op with
    | .eq => x.eq y
    | .lt => x.lt y
    | .le => !y.lt x)
  (flagWord r, fflagBits nv false false false false)

/-- fclass. -/
def fpClass (f : FpFmt) (a : Word) : Word :=
  let t := fpFmt f
  let p := fpBits f a
  let mag := p % 2 ^ t.signBit
  let neg := decide (2 ^ t.signBit ≤ p)
  let k := match t.decode p with
    | .nan q => if q then 8 else 9
    | .inf n => if n then 0 else 7
    | .fin _ _ _ =>
      if mag = 0 then (if neg then 3 else 4)
      else if mag < 2 ^ (t.prec - 1) then (if neg then 2 else 5)
      else if neg then 1 else 6
  BitVec.ofNat 64 (2 ^ k)

/-- Width and signedness of the integer side of a conversion. -/
def fpIntShape : FpInt → Nat × Bool
  | .w => (32, true)
  | .wu => (32, false)
  | .l => (64, true)
  | .lu => (64, false)

/-- fcvt to an integer: out of range is invalid and gives the nearest end, a NaN the upper one. -/
def fpToInt (int : FpInt) (f : FpFmt) (rm : Rm) (a : Word) : Word × BitVec 5 :=
  let sh := fpIntShape int
  let lo : Int := if sh.2 then -(2 ^ (sh.1 - 1)) else 0
  let hi : Int := if sh.2 then 2 ^ (sh.1 - 1) - 1 else 2 ^ sh.1 - 1
  let r := narrowInt { mode := rm, sat := 0, b8inf := false } lo hi (fpVal f a)
  let v := match fpVal f a with
    | .nan _ => hi
    | _ => r.1
  (BitVec.ofNat 64 (signExt sh.1 64 (wrapTo sh.1 v)),
    fflagBits (r.2.getLsbD 3) false false false (r.2.getLsbD 0))

/-- fcvt from an integer. -/
def fpOfInt (int : FpInt) (f : FpFmt) (rm : Rm) (a : Word) : Word × BitVec 5 :=
  let sh := fpIntShape int
  fpRound f rm (Fv.ofInt (typed sh.1 sh.2 a.toNat)).raw
where
  typed (wd : Nat) (sgn : Bool) (v : Nat) : Int := if sgn then toSigned wd v else ((v % 2 ^ wd : Nat) : Int)

/-- fcvt.s.d and fcvt.d.s. -/
def fpConvert (toFmt : FpFmt) (rm : Rm) (a : Word) : Word × BitVec 5 :=
  let src := match toFmt with
    | .s => FpFmt.d
    | .d => FpFmt.s
  fpRound toFmt rm (fpVal src a).raw

end Sys2Proof.Machine
end

