-- ==== Sys2Proof/Machine/Scalar.lean ====
section
/-! DEFINITION. The RISC-V words (R61, R90, R242): legality, the locations they name, and what they do. -/

namespace Sys2Proof.Machine

/-! ### Legality and lookahead -/

/-- A word of F or D. -/
def rvUsesFp : Rv → Bool
  | .fload _ _ _ _ => true
  | .fstore _ _ _ _ => true
  | .fused _ _ _ _ _ _ _ => true
  | .farith _ _ _ _ _ _ => true
  | .fsqrt _ _ _ _ => true
  | .fsgnj _ _ _ _ _ => true
  | .fminmax _ _ _ _ _ => true
  | .fcompare _ _ _ _ _ => true
  | .fclass _ _ _ => true
  | .fmvToX _ _ _ => true
  | .fmvToF _ _ _ => true
  | .fcvtToInt _ _ _ _ _ => true
  | .fcvtToFp _ _ _ _ _ => true
  | .fcvtFmt _ _ _ _ => true
  | _ => false

/-- The rounding-mode field of a word that has one. -/
def rvRmField : Rv → Option (BitVec 3)
  | .fused _ _ rm _ _ _ _ => some rm
  | .farith _ _ rm _ _ _ => some rm
  | .fsqrt _ rm _ _ => some rm
  | .fcvtToInt _ _ rm _ _ => some rm
  | .fcvtToFp _ _ rm _ _ => some rm
  | .fcvtFmt _ rm _ _ => some rm
  | _ => none

/-- The rounding mode of a word in the wave's state. -/
def rvRounding (i : Rv) (w : Wave) : Rm := ((rvRmField i).bind (rmOf w.csrs.fcsr)).getD .rne

/-- A CSR word writes: always for the write forms, else where its source field is not zero. -/
def csrWrites (op : CsrOp) (src : BitVec 5) : Bool := op = .rw || src ≠ 0

/-- FS is on for F and D words, and their rounding mode, static or that of `fcsr`, is legal. -/
def rvFpReady (i : Rv) (w : Wave) : Bool :=
  (!rvUsesFp i || w.fpOn) &&
  (match rvRmField i with
    | some rm => (rmOf w.csrs.fcsr rm).isSome
    | none => true)

/-- The wave may run the word: its floating-point state is ready, a CSR access is legal, and `SFENCE.VMA` stands in S-mode
without TVM, or in M-mode. -/
def rvLegal (i : Rv) (w : Wave) : Bool :=
  rvFpReady i w &&
  (match i with
    | .csr op _ rs1 n => w.csrLegal n.toNat (csrWrites op rs1)
    | .csrImm op _ u n => w.csrLegal n.toNat (csrWrites op u)
    | .sfenceVma _ _ => w.mode = .m || (w.mode = .s && !w.csrs.mstatus.getLsbD 20)
    | _ => true)

/-- The location a CSR number names, where another word may write it late: the active mask, or `nround` with its flags. -/
def csrLocs (n : Nat) : List Loc :=
  if n = 0x802 ∨ n = 0x803 then [.amask] else if n = 0x800 then [.nround] else []

/-- The locations a word reads or writes (R21). -/
def rvLocs : Rv → List Loc
  | .lui rd _ => [.x rd.toNat]
  | .auipc rd _ => [.x rd.toNat]
  | .jal rd _ => [.x rd.toNat]
  | .jalr rd a _ => [.x rd.toNat, .x a.toNat]
  | .branch _ a b _ => [.x a.toNat, .x b.toNat]
  | .load _ rd a _ => [.x rd.toNat, .x a.toNat]
  | .store _ a b _ => [.x a.toNat, .x b.toNat]
  | .opImm _ rd a _ => [.x rd.toNat, .x a.toNat]
  | .addiw rd a _ => [.x rd.toNat, .x a.toNat]
  | .shiftImm _ rd a _ => [.x rd.toNat, .x a.toNat]
  | .shiftImm32 _ rd a _ => [.x rd.toNat, .x a.toNat]
  | .unary _ rd a => [.x rd.toNat, .x a.toNat]
  | .op _ rd a b => [.x rd.toNat, .x a.toNat, .x b.toNat]
  | .op32 _ rd a b => [.x rd.toNat, .x a.toNat, .x b.toNat]
  | .fence _ _ _ => []
  | .ebreak => []
  | .sfenceVma _ _ => []
  | .csr _ rd a n => [.x rd.toNat, .x a.toNat] ++ csrLocs n.toNat
  | .csrImm _ rd _ n => [.x rd.toNat] ++ csrLocs n.toNat
  | .lr _ _ _ rd a => [.x rd.toNat, .x a.toNat]
  | .sc _ _ _ rd a b => [.x rd.toNat, .x a.toNat, .x b.toNat]
  | .amo _ _ _ _ rd a b => [.x rd.toNat, .x a.toNat, .x b.toNat]
  | .fload _ rd a _ => [.f rd.toNat, .x a.toNat]
  | .fstore _ a b _ => [.x a.toNat, .f b.toNat]
  | .fused _ _ _ rd a b c => [.f rd.toNat, .f a.toNat, .f b.toNat, .f c.toNat]
  | .farith _ _ _ rd a b => [.f rd.toNat, .f a.toNat, .f b.toNat]
  | .fsqrt _ _ rd a => [.f rd.toNat, .f a.toNat]
  | .fsgnj _ _ rd a b => [.f rd.toNat, .f a.toNat, .f b.toNat]
  | .fminmax _ _ rd a b => [.f rd.toNat, .f a.toNat, .f b.toNat]
  | .fcompare _ _ rd a b => [.x rd.toNat, .f a.toNat, .f b.toNat]
  | .fclass _ rd a => [.x rd.toNat, .f a.toNat]
  | .fmvToX _ rd a => [.x rd.toNat, .f a.toNat]
  | .fmvToF _ rd a => [.f rd.toNat, .x a.toNat]
  | .fcvtToInt _ _ _ rd a => [.x rd.toNat, .f a.toNat]
  | .fcvtToFp _ _ _ rd a => [.f rd.toNat, .x a.toNat]
  | .fcvtFmt _ _ rd a => [.f rd.toNat, .f a.toNat]

/-! ### What a word comes to -/

/-- What performing a word comes to: a precise trap or park at the word, a request that failed after issue, a wait, a
change that is complete at once, or one whose results come later. -/
inductive RvOut
  | trap (cause : Nat) (tval : Word)
  | park (cause : Nat) (tval : Word)
  | late (f : ReqFault) (s : State)
  | hold
  | now (s : State) (upds : List Upd) (pc : Option Word) (post : Wave → Wave)
  | later (s : State) (upds : List Upd) (acks : List AckPut) (locs : List Loc) (lat : Nat)

/-- A word that writes registers only. -/
def rvRegs (s : State) (upds : List Upd) : RvOut := .now s upds none id

/-- A sign-extended 12-bit immediate. -/
def immWord (i : BitVec 12) : Word := i.signExtend 64

/-- The causes of a hart access at issue: misalignment, then the 49-bit check (R90, R177). -/
def hartCheck (k : AccKind) (cause a n : Nat) : Option RvOut :=
  if a % n ≠ 0 then some (.trap cause (BitVec.ofNat 64 a))
  else if outside49 a n then some (.park k.pageFault (BitVec.ofNat 64 a))
  else none

/-- A jump: its target must be a multiple of 4 (R73). -/
def rvJump (s : State) (upds : List Upd) (target : Word) : RvOut :=
  if fld target 1 0 ≠ 0 then .trap 0 target else .now s upds (some target) id

/-- A hart load of `n` bytes; `put` makes its results, and a remote one leaves an active message (R242, R219). -/
def hartLoad (s : State) (w : Wave) (a n : Nat) (locs : List Loc) (wideAcq : Bool) (ack : AckPut)
    (put : Nat → List Upd) : RvOut :=
  match hartCheck .load 4 a n with
  | some o => o
  | none =>
    match s.resolve s.curCore s.curSlot w .hart .load a n with
    | (s, .error f) => .late f s
    | (s, .ok (.remote k b va)) =>
      .later (s.remoteLoad s.curCore s.curSlot w (b2n wideAcq) 4 n k b va) [] [{ ack with tag := s.nextTag }] locs s.lat.l2
    | (s, .ok d) =>
      let r := s.readDest s.curCore w .hart wideAcq n d
      .later r.1 (put r.2) [] locs s.lat.l2

/-- A hart store of `n` bytes (R242). -/
def hartStore (s : State) (w : Wave) (a n v : Nat) : RvOut :=
  match hartCheck .store 6 a n with
  | some o => o
  | none =>
    match s.resolve s.curCore s.curSlot w .hart .store a n with
    | (s, .error f) => .late f s
    | (s, .ok d) => .now (s.writeDest s.curCore s.curSlot w .hart 0 0 false (leBytes n v) d) [] none id

/-- A release at `.sys` waits for the acknowledgements of the wave's earlier active messages (R219). -/
def rvReleaseHeld (s : State) (rl : Bool) : Bool := rl && s.messagesOut s.curCore s.curSlot

/-- The operation of an AMO as R239 codes it. -/
def amoShape : AmoOp → Nat × Bool
  | .add => (0, true)
  | .min => (1, true)
  | .max => (2, true)
  | .and => (3, true)
  | .or => (4, true)
  | .xor => (5, true)
  | .swap => (6, true)
  | .minu => (1, false)
  | .maxu => (2, false)

/-- Type code of an atomic of `n` bytes (R66). -/
def amoType (n : Nat) (sgn : Bool) : Nat := (if n = 8 then 3 else 2) + (if sgn then 0 else 4)

/-- The address an LR reservation is kept for: the physical address of what it read. -/
def Dest.reserves : Dest → Option Nat
  | .mem _ t => some (t.pa / 64)
  | .spad k a => some (spadPa k a / 64)
  | .reg o => some ((0xF000000000000 + o) / 64)
  | .remote k a _ => some (spadPa k a / 64)

/-- AMO (R90, R242). -/
def hartAmo (s : State) (w : Wave) (op : AmoOp) (n : Nat) (aq rl : Bool) (rd a src : Nat) : RvOut :=
  match hartCheck .amo 6 a n with
  | some o => o
  | none =>
    if rvReleaseHeld s rl then .hold
    else
      match s.resolve s.curCore s.curSlot w .hart .amo a n with
      | (s, .error f) => .late f s
      | (s, .ok d) =>
        let sh := amoShape op
        let r := s.atomicDest s.curCore s.curSlot w amoFadd (.rmw sh.1 (amoType n sh.2) sh.2 (8 * n))
          (b2n (aq || rl)) 4 0 aq rl n (src % 2 ^ (8 * n)) d
        match d with
        | .remote _ _ _ =>
          let put : AckPut := { tag := s.nextTag, wd := 8 * n, sgn := true, toX := true, reg := rd, lane := 0 }
          .later r.1 [] [put] [.x rd] s.lat.l2
        | _ => .later r.1 [.x rd (loadValue n true r.2)] [] [.x rd] s.lat.l2

/-- LR (R90): the load, and the wave's one reservation. -/
def hartLr (s : State) (w : Wave) (n : Nat) (aq rl : Bool) (rd a : Nat) : RvOut :=
  match hartCheck .load 4 a n with
  | some o => o
  | none =>
    if rvReleaseHeld s rl then .hold
    else
      match s.resolve s.curCore s.curSlot w .hart .load a n with
      | (s, .error f) => .late f s
      | (s, .ok d) =>
        let s := if rl then s.releaseAt s.curCore true else s
        let s := s.modWave (fun q => { q with reservation := d.reserves })
        match d with
        | .remote k b va =>
          match s.remoteValue s.curCore s.curSlot w n k b va with
          | (s, .ok v) => .later (s.acquireAt s.curCore w.dom aq) [.x rd (loadValue n true v)] [] [.x rd] s.lat.l2
          | (s, .error f) => .late f s
        | _ =>
          let r := s.readDest s.curCore w .hart aq n d
          .later r.1 [.x rd (loadValue n true r.2)] [] [.x rd] s.lat.l2

/-- SC (R90): succeeds while the wave's reservation stands on the block; it ends the reservation either way. At another
cluster's scratchpad the message's answer is waited for (R181, R219, R242). -/
def hartSc (s : State) (w : Wave) (n : Nat) (aq rl : Bool) (rd a src : Nat) : RvOut :=
  match hartCheck .amo 6 a n with
  | some o => o
  | none =>
    if rvReleaseHeld s rl then .hold
    else
      match s.resolve s.curCore s.curSlot w .hart .amo a n with
      | (s, .error f) => .late f s
      | (s, .ok d) =>
        let s := match d with
          | .remote k _ _ => s.serveQueue k
          | _ => s
        let ok := d.reserves.isSome && s.wave.reservation = d.reserves
        let s := s.modWave (fun q => { q with reservation := none })
        let acquired (s : State) : State :=
          if ok && aq then
            (match d with
              | .mem _ t => s.acquireLine s.curCore w.dom t.pa
              | _ => s.acquireAt s.curCore w.dom true)
          else s
        let done (s : State) : RvOut := .later s [.x rd (if ok then 0 else 1)] [] [.x rd] s.lat.l2
        match d with
        | .remote k b va =>
          if !ok then done s
          else
            let r := (s.releaseAt s.curCore rl).messageNow k
              { kind := .store, size := n, ord := b2n (aq || rl), scope := 4, dom := w.dom, addr := b, op := 0, ty := 0,
                operand := src % 2 ^ (8 * n), operand2 := 0, sender := s.curCore, slot := s.curSlot, vaddr := va,
                tag := s.nextTag }
            (match r.2 with
              | .ok _ => done (acquired r.1)
              | .error f => .late (refusedReport va f) r.1)
        | _ =>
          let s := acquired s
          done (if ok then s.writeDest s.curCore s.curSlot w .hart (b2n (aq || rl)) 4 rl (leBytes n src) d else s)

/-- A CSR word: the old value to rd, the new value written. -/
def rvCsr (s : State) (w : Wave) (op : CsrOp) (rd : BitVec 5) (writes : Bool) (src : Word) (n : Nat) : RvOut :=
  let old := s.csrRead w n
  let new := match op with
    | .rw => src
    | .rs => old ||| src
    | .rc => old &&& ~~~src
  .now s [.x rd.toNat old] none (fun q => if writes then q.csrWrite n new else q)

/-- What a RISC-V word does with the operands of wave `r` (R90, R242). -/
def rvPerform (i : Rv) (r : Wave) (s : State) : RvOut :=
  let x (n : BitVec 5) : Word := r.getX n.toNat
  let f (n : BitVec 5) : Word := r.getF n.toNat
  let toX (d : BitVec 5) (v : Word) : RvOut := rvRegs s [.x d.toNat v]
  let fpX (d : BitVec 5) (v : Word × BitVec 5) : RvOut := rvRegs s [.x d.toNat v.1, .fflags v.2]
  let fpF (d : BitVec 5) (v : Word × BitVec 5) : RvOut := rvRegs s [.f d.toNat v.1, .fflags v.2]
  let rm := rvRounding i r
  let addr (a : BitVec 5) (imm : BitVec 12) : Nat := (x a + immWord imm).toNat
  match i with
  | .lui rd imm => toX rd ((imm ++ (0 : BitVec 12)).signExtend 64)
  | .auipc rd imm => toX rd (r.pc + (imm ++ (0 : BitVec 12)).signExtend 64)
  | .jal rd off => rvJump s [.x rd.toNat (r.pc + 4)] (r.pc + ((off ++ (0 : BitVec 1)).signExtend 64))
  | .jalr rd a imm => rvJump s [.x rd.toNat (r.pc + 4)] ((x a + immWord imm) &&& ~~~1#64)
  | .branch op a b off =>
    if branchTaken op (x a) (x b) then rvJump s [] (r.pc + ((off ++ (0 : BitVec 1)).signExtend 64)) else rvRegs s []
  | .load op rd a imm =>
    let sh := loadShape op
    hartLoad s r (addr a imm) sh.1 [.x rd.toNat] false
      { tag := 0, wd := 8 * sh.1, sgn := sh.2, toX := true, reg := rd.toNat, lane := 0 }
      (fun v => [.x rd.toNat (loadValue sh.1 sh.2 v)])
  | .store op a b imm => hartStore s r (addr a imm) (storeSize op) (x b).toNat
  | .opImm op rd a imm => toX rd (immResult op (x a) (immWord imm))
  | .addiw rd a imm => toX rd (sext32 (x a + immWord imm))
  | .shiftImm op rd a k => toX rd (shiftResult op (x a) k.toNat)
  | .shiftImm32 op rd a k => toX rd (shiftResult32 op (x a) k.toNat)
  | .unary op rd a => toX rd (unaryResult op (x a))
  | .op op rd a b => toX rd (intResult op (x a) (x b))
  | .op32 op rd a b => toX rd (intResult32 op (x a) (x b))
  | .fence _ _ _ => if s.messagesOut s.curCore s.curSlot then .hold else rvRegs (s.wideFence s.curCore r.dom) []
  | .ebreak => .trap 3 r.pc
  | .sfenceVma _ _ => rvRegs s []
  | .csr op rd a n => rvCsr s r op rd (csrWrites op a) (x a) n.toNat
  | .csrImm op rd u n => rvCsr s r op rd (csrWrites op u) (u.setWidth 64) n.toNat
  | .lr dw aq rl rd a => hartLr s r (if dw then 8 else 4) aq rl rd.toNat (x a).toNat
  | .sc dw aq rl rd a b => hartSc s r (if dw then 8 else 4) aq rl rd.toNat (x a).toNat (x b).toNat
  | .amo op dw aq rl rd a b => hartAmo s r op (if dw then 8 else 4) aq rl rd.toNat (x a).toNat (x b).toNat
  | .fload fm rd a imm =>
    let n := match fm with
      | .s => 4
      | .d => 8
    hartLoad s r (addr a imm) n [.f rd.toNat] false
      { tag := 0, wd := 8 * n, sgn := false, toX := false, toF := true, reg := rd.toNat, lane := 0 }
      (fun v => [.f rd.toNat (fpBox fm v)])
  | .fstore fm a b imm =>
    hartStore s r (addr a imm) (match fm with
      | .s => 4
      | .d => 8) (f b).toNat
  | .fused op fm _ rd a b c => fpF rd (fpFused op fm rm (f a) (f b) (f c))
  | .farith op fm _ rd a b => fpF rd (fpArith op fm rm (f a) (f b))
  | .fsqrt fm _ rd a => fpF rd (fpSqrt fm rm (f a))
  | .fsgnj op fm rd a b => rvRegs s [.f rd.toNat (fpSign op fm (f a) (f b))]
  | .fminmax mx fm rd a b => fpF rd (fpMinMax mx fm (f a) (f b))
  | .fcompare op fm rd a b => fpX rd (fpCompare op fm (f a) (f b))
  | .fclass fm rd a => toX rd (fpClass fm (f a))
  | .fmvToX fm rd a =>
    toX rd (match fm with
      | .s => sext32 (f a)
      | .d => f a)
  | .fmvToF fm rd a =>
    rvRegs s [.f rd.toNat (match fm with
      | .s => box (x a).toNat
      | .d => x a)]
  | .fcvtToInt int fm _ rd a => fpX rd (fpToInt int fm rm (f a))
  | .fcvtToFp int fm _ rd a => fpF rd (fpOfInt int fm rm (x a))
  | .fcvtFmt to' _ rd a => fpF rd (fpConvert to' rm (f a))

/-- A word that acquires (R242). -/
def rvAcquires : Rv → Bool
  | .lr _ aq _ _ _ => aq
  | .sc _ aq _ _ _ _ => aq
  | .amo _ _ aq _ _ _ _ => aq
  | _ => false

/-- The encoding of a RISC-V word, as an illegal-instruction trap value. -/
def rvBits (i : Rv) : Word := (encodeRv i).setWidth 64

/-- A RISC-V word of the wave that acts. -/
def rvIssue (i : Rv) (s : State) : Issue :=
  if !s.canIssue then .stop .noRunningWave
  else if !(i.wellFormed && rvLegal i s.wave) then illegal s (rvBits i)
  else
    match lookahead s (liveLocs (rvLocs i)) with
    | some r => r
    | none =>
      let pc := s.wave.pc
      match rvPerform i s.wave s with
      | .trap cause tval => .trap cause tval s
      | .park cause tval => .park cause tval s
      | .hold => .hold s
      | .late f s => lateFault pc f (.riscvScalarInstruction i, 1) (s.issued 4)
      | .now s upds target post => .done (((s.issuedTo (target.getD (pc + 4))).applyAll upds).modWave post)
      | .later s upds acks locs lat => longDoneWith 4 0 lat (liveLocs locs) upds acks s (rvAcquires i && acks ≠ [])

/-- Any other RISC-V word (R90). -/
def execRiscvScalarInstruction (i : Rv) (s : State) : Host.Outcome State Fault Refusal := (rvIssue i s).finish

end Sys2Proof.Machine
end

