-- ==== Sys2Proof/Machine/WaveWords.lean ====
section
/-! DEFINITION. Words that act on the wave itself: `end`, `yield`, `ecall`, the returns, `wfi`, `fence.i`, illegal
words (R60, R74, R90, R156 to R169), fences and the monitor wait (R214, R215, R243 to R246), and the retired forms on
the compatibility unit (R34, R76, R296). -/

namespace Sys2Proof.Machine

/-- A base word that needs no profile: no wave runs there, an illegal word, a lookahead wait, or its effect. -/
def baseWord (enc : BitVec 32) (locs : List Loc) (legal : Wave → Bool) (body : State → Issue) (s : State) :
    Host.Outcome State Fault Refusal :=
  if !s.canIssue then .fault .noRunningWave
  else if !legal s.wave then (illegal s (enc.setWidth 64)).finish
  else
    match lookahead s (liveLocs locs) with
    | some i => i.finish
    | none => (body s).finish

/-- `ecall` raises the environment call of the current mode (R169). -/
def execEcall (s : State) : Host.Outcome State Fault Refusal :=
  baseWord 0x00000073 [] (fun _ => true) (fun s => .trap (8 + s.wave.mode.code) 0 s) s

/-- `mret` (R157). -/
def execMret (s : State) : Host.Outcome State Fault Refusal :=
  baseWord 0x30200073 [.amask] (fun w => w.mode = .m) (fun s => .done ((s.issued 4).modWave Wave.mretEffect)) s

/-- `sret` (R157). -/
def execSret (s : State) : Host.Outcome State Fault Refusal :=
  baseWord 0x10200073 [.amask] (fun w => w.mode = .m || (w.mode = .s && !w.csrs.mstatus.getLsbD 22))
    (fun s => .done ((s.issued 4).modWave Wave.sretEffect)) s

/-- `wfi` executes as a no-operation (R90). -/
def execWfi (s : State) : Host.Outcome State Fault Refusal :=
  baseWord 0x10500073 [] (fun _ => true) (fun s => .done (s.issued 4)) s

/-- `fence.i`: the wave's own stores reach the home, and the instruction cache drops its lines of the domain (R215). -/
def execFenceI (rd rs1 : BitVec 5) (imm : BitVec 12) (s : State) : Host.Outcome State Fault Refusal :=
  baseWord (iType imm rs1.toNat 1 rd.toNat 0x0F) [] (fun _ => true) (fun s =>
    let d := s.wave.dom
    .done ((s.pathFence s.curCore d 4).issued 4)) s

/-! ### `end` and `yield` (R166 to R168) -/

/-- The 8-byte header of a context save area (R171). -/
def csaHeader (w : Wave) (precisePark lateResolved retired counting : Bool) : Nat :=
  1 + w.widthCode * 2 ^ 8 + w.budget / 32 * 2 ^ 16 + w.mode.code * 2 ^ 24 + b2n precisePark * 2 ^ 26 +
    b2n lateResolved * 2 ^ 27 + b2n retired * 2 ^ 28 + b2n counting * 2 ^ 29 + w.csaDom * 2 ^ 32

/-- A slot retires its wave: lock mark, reservation and pending interrupts go, and the slot waits for what the wave has
issued; a pending pre-emption request is recorded as retired (R165 row 2, R167, R174). -/
def State.retire (s : State) (c i : Nat) : State :=
  let k := s.slotAt c i
  let s := if k.prq then s.agentWriteAs k.wave.csaDom k.wave.csa (leBytes 8 (csaHeader k.wave false false true false)) else s
  (s.modSlotAt c i (fun k =>
    { k with
      state := .retiring, prq := false, retd := k.retd || k.prq,
      wave := { k.wave with
        locks := 0, reservation := none, wait := none, busy := none, park := none, deferred := [],
        csrs := { k.wave.csrs with mip := 0 } } })).schedule 0 .waveRetireComplete { core := c, slot := i }

/-- `end` (R167). -/
def execWaveEnd (s : State) : Host.Outcome State Fault Refusal :=
  deviceIssue .waveEnd 0 [] (fun s =>
    if s.wave.gdepth ≠ 0 then .trap 57 0 s else .done ((s.issued 4).retire s.curCore s.curSlot)) s

/-- `yield` (R168). -/
def execYield (s : State) : Host.Outcome State Fault Refusal :=
  deviceIssue .yield 0 [] (fun s => .done ((s.issued 4).beginWait .yield)) s

/-! ### Fences (R243, R244) -/

/-- `fence` at a scope. -/
def execFenceScope (sc : BitVec 3) (s : State) : Host.Outcome State Fault Refusal :=
  deviceIssue (.fenceScope sc) 0 [] (fun s =>
    if releaseHeld true sc.toNat s then .hold s
    else .done ((if s.wideScope sc.toNat then s.wideFence s.curCore s.wave.dom else s).issued 4)) s

/-- `pfence`: the named paths in the order of the mask bits (R214). -/
def execPfence (p : BitVec 5) (s : State) : Host.Outcome State Fault Refusal :=
  deviceIssue (.pfence p) 0 [] (fun s =>
    let d := s.wave.dom
    .done (((List.range 5).foldl (fun s k => if p.getLsbD k then s.pathFence s.curCore d k else s) s).issued 4)) s

/-! ### `waita` (R245) -/

/-- The location of `waita`, resolved: where it reads, and the physical address it watches. -/
def waitaDest (s : State) (win : Bool) (a n : Nat) : State × Except ReqFault (Dest × Nat) :=
  let wv := s.wave
  if win then
    (s, match s.windowAs .load a n with
      | .ok (c, p) => .ok (.spad c p, spadPa c p)
      | .error f => .error (f.report .load wv.dom a))
  else
    let r := s.resolve s.curCore s.curSlot wv .hart .load a n
    (r.1, r.2.map (fun d => match d with
      | .mem va t => (Dest.mem va t, t.pa)
      | .spad c p => (Dest.spad c p, spadPa c p)
      | .remote c p va => (Dest.remote c p va, spadPa c p)
      | .reg o => (Dest.reg o, 0xF000000000000 + o)))

/-- The value that `waita` reads, as an acquire at its scope: at another cluster's scratchpad by an active message (R181,
R219, R245). -/
def waitaRead (s : State) (wide : Bool) (n : Nat) (d : Dest) : State × Except ReqFault Nat :=
  let wv := s.wave
  match d with
  | .remote c p va =>
    let r := s.remoteValue s.curCore s.curSlot wv n c p va
    (r.1.acquireAt s.curCore wv.dom wide, r.2)
  | _ =>
    let r := s.readDest s.curCore wv .hart wide n d
    (r.1, .ok r.2)

/-- `waita` (R245): a fault of its read at a station, a bank or a cache tag parks the wave late, and the read is made
again when the word is looked at again (R163, R246). -/
def execWaita (sc : BitVec 3) (b a d : BitVec 5) (s : State) : Host.Outcome State Fault Refusal :=
  deviceIssue (.waita sc b a d) 0 (xLocs [a, b, d]) (fun s =>
    let wv := s.wave
    let ctl := wv.getX d.toNat
    let win := ctl.getLsbD 33
    let n := if ctl.getLsbD 32 then 4 else 8
    let limit := fld ctl 31 0
    let addr := (wv.getX a.toNat).toNat
    let e := (wv.getX b.toNat).toNat % 2 ^ (8 * n)
    if addr % n ≠ 0 then .trap 4 (BitVec.ofNat 64 addr) s
    else if !win && outside49 addr n then .park 13 (BitVec.ofNat 64 addr) s
    else if s.messagesOut s.curCore s.curSlot then .hold s
    else
      match memOwn win .load n [addr] s, memAfter win .load n [addr] s with
      | some r, _ => r
      | none, some r => r
      | none, none =>
        match waitaDest s win addr n with
        | (s, .error f) => lateAtWord f s
        | (s, .ok (t, pa)) =>
          match waitaRead s (s.wideScope sc.toNat) n t with
          | (s, .error f) => lateAtWord f s
          | (s, .ok v) =>
            let turn := wv.csrs.turn.toNat
            let start := match wv.wait with
              | some { kind := .waita _ _ _ _, start := t } => t
              | _ => turn
            if v ≠ e ∨ (limit ≠ 0 ∧ start + limit ≤ turn) then
              .done ((s.issued 4).modWave (fun w => w.setX d.toNat (BitVec.ofNat 64 v)))
            else
              let again := turn + 64
              let again := if limit ≠ 0 ∧ start + limit < again then start + limit else again
              .wait (.waita pa addr (BitVec.ofNat 64 e) again) s) s

/-! ### Retired forms (R34, R76, R296) -/

/-- What the compatibility unit makes of a word: its result, or none where it refuses (R76). -/
def compatResult (w : BitVec 32) (rs1 rs2 rd : Word) : Option Word :=
  let n := w.toNat
  let half (v : Word) (i : Nat) : Nat := fld v (16 * i + 15) (16 * i)
  if bits n 14 12 ≠ 0 then none
  else
    match bits n 31 25 with
    | 0 => some (BitVec.ofInt 64 (toSigned 16 (half rs1 1) * toSigned 16 (half rs2 1)))
    | 1 => some (rs2 + BitVec.ofNat 64 (half rs1 0 + half rs1 1 + half rs1 2 + half rs1 3))
    | 2 =>
      let lo := toSigned 32 (fld rs2 31 0)
      let hi := toSigned 32 (fld rs2 63 32)
      some (flagWord (decide (lo ≤ rs1.toInt ∧ rs1.toInt ≤ hi)))
    | 3 =>
      let k := fld rs2 5 0 + 1
      let lo : Int := -(2 ^ (k - 1))
      let hi : Int := 2 ^ (k - 1) - 1
      some (BitVec.ofInt 64 (if rs1.toInt < lo then lo else if hi < rs1.toInt then hi else rs1.toInt))
    | 4 =>
      if bits n 24 20 ≠ 0 then none
      else some (BitVec.ofNat 64 (half rs1 3 + half rs1 2 * 2 ^ 16 + half rs1 1 * 2 ^ 32 + half rs1 0 * 2 ^ 48))
    | 5 =>
      let k := fld rs2 2 0
      some (setFld rd (8 * k + 7) (8 * k) (fld rs1 7 0))
    | _ => none

/-- The wave's request leaves the die's queue. -/
def Die.dropCompat (d : Die) (c i : Nat) : Die := { d with compat := d.compat.filter (fun r => ¬ (r.core = c ∧ r.slot = i)) }

/-- A word of major opcode 0b1010111: it goes to the die's unit, the wave waits, and the result or cause 54 comes back. -/
def compatWord (w : BitVec 32) (s : State) : Host.Outcome State Fault Refusal :=
  let rs1 := bits w.toNat 19 15
  let rs2 := bits w.toNat 24 20
  let rd := bits w.toNat 11 7
  baseWord w [.x rs1, .x rs2, .x rd] (fun _ => true) (fun s =>
    let wv := s.wave
    let send (s : State) : Issue :=
      let die := dieOf s.curCore
      let s := s.modDie die (fun d => d.dropCompat s.curCore s.curSlot)
      let s := s.count s.curCore 10 1
      if 64 ≤ (s.die die).compat.length then .hold s
      else
        let req : CompatReq :=
          { core := s.curCore, slot := s.curSlot, word := w, rs1 := wv.getX rs1, rs2 := wv.getX rs2, rd := wv.getX rd }
        .hold (((s.modDie die (fun d => { d with compat := d.compat ++ [req] })).modWave
          (fun q => { q with busy := some (.compat w none) })).schedule 16 .compatRequestService { a := die })
    match wv.busy with
    | some (.compat v none) => if v = w then .hold (s.count s.curCore 10 1) else send s
    | some (.compat v (some r)) => if v = w then scalarX s (BitVec.ofNat 5 rd) r else send s
    | some (.refused v) => if v = w then .trap 54 (w.setWidth 64) s else send s
    | _ => send s) s

/-- A retired form, by its encoding. -/
def retiredWord (i : Instr) (s : State) : Host.Outcome State Fault Refusal := compatWord ((encodeScalar i).getD 0) s

/-- `lmulhh` (R76). -/
def execLmulhh (b a d : BitVec 5) (s : State) : Host.Outcome State Fault Refusal := retiredWord (.lmulhh b a d) s

/-- `lsumh` (R76). -/
def execLsumh (b a d : BitVec 5) (s : State) : Host.Outcome State Fault Refusal := retiredWord (.lsumh b a d) s

/-- `linrng` (R76). -/
def execLinrng (b a d : BitVec 5) (s : State) : Host.Outcome State Fault Refusal := retiredWord (.linrng b a d) s

/-- `lsatw` (R76). -/
def execLsatw (b a d : BitVec 5) (s : State) : Host.Outcome State Fault Refusal := retiredWord (.lsatw b a d) s

/-- `lrevh` (R76). -/
def execLrevh (a d : BitVec 5) (s : State) : Host.Outcome State Fault Refusal := retiredWord (.lrevh a d) s

/-- `linsb` (R76). -/
def execLinsb (b a d : BitVec 5) (s : State) : Host.Outcome State Fault Refusal := retiredWord (.linsb b a d) s

/-- The compatibility unit serves the oldest request of die `args.a` (R76, R296). -/
def execCompatRequestService (s : State) : Host.Outcome State Fault Refusal :=
  let die := s.args.a
  match (s.die die).compat with
  | [] => .next s
  | r :: rest =>
    let s := s.modDie die (fun d => { d with compat := rest })
    let answer := if s.cfg.compat then compatResult r.word r.rs1 r.rs2 r.rd else none
    .next (s.modWaveAt r.core r.slot (fun q =>
      if q.busy = some (.compat r.word none) then
        { q with busy := some (match answer with
            | some v => .compat r.word (some v)
            | none => .refused r.word) }
      else q))

/-- A word that no instruction has, its bits in `args.a` (63:0 of a lane word, or a 32-bit word): illegal instruction,
or for major opcode 0b1010111 the compatibility unit, which refuses it (R60, R74, R76). -/
def execIllegalInstruction (s : State) : Host.Outcome State Fault Refusal :=
  let w := s.args.a
  if bits w 6 0 = 0x57 then compatWord (BitVec.ofNat 32 w) s
  else if !s.canIssue then .fault .noRunningWave
  else (illegal s (BitVec.ofNat 64 w)).finish

end Sys2Proof.Machine
end

