-- ==== Sys2Proof/Machine/Barriers.lean ====
section
/-! DEFINITION. Team barriers, `elect`, cluster iteration counters and budget units (R75, R356 to R362, R373 to R376). -/

namespace Sys2Proof.Machine

/-! ### The barrier file (R356, R359) -/

/-- Barrier `n` of team `j` of cluster `k`. -/
def State.bar (s : State) (k j n : Nat) : Barrier := Table.get (s.cluster k).bars (16 * j + n) {}

/-- Change a barrier. -/
def State.modBar (s : State) (k j n : Nat) (f : Barrier → Barrier) : State :=
  s.modCluster k (fun q => { q with bars := Table.put q.bars (16 * j + n) (f (Table.get q.bars (16 * j + n) {})) })

/-- The slots of team `j` of cluster `k`, by core and slot. -/
def State.teamSlots (s : State) (k j : Nat) : List (Nat × Nat) :=
  s.cores.flatMap (fun e =>
    if clusterOf e.1 = k then
      (e.2.slots.filter (fun q => q.2.state ≠ .free && q.2.wave.cteam = j)).map (fun q => (e.1, q.1))
    else [])

/-- The wave waits on barrier `n`, in `bar.wait` or in `elect`. -/
def Wave.waitsOn (w : Wave) (n : Nat) : Bool :=
  match w.wait with
  | some { kind := .barrier m _, start := _ } => m = n
  | some { kind := .elect m _ _, start := _ } => m = n
  | _ => false

/-- The word S of a wave that waits in `elect` on barrier `n`. -/
def Wave.electWord (w : Wave) (n : Nat) : Option (BitVec 32) :=
  match w.wait with
  | some { kind := .elect m _ v, start := _ } => if m = n then some v else none
  | _ => none

/-- The waiters of a barrier. -/
def State.barWaiters (s : State) (k j n : Nat) : List (Nat × Nat) :=
  (s.teamSlots k j).filter (fun q => (s.slotAt q.1 q.2).wave.waitsOn n)

/-- The effect of the acquire at `.team` that ends a barrier wait of core `c` (R207). -/
def State.teamAcquire (s : State) (k j c dom : Nat) : State := s.acquireAt c dom (decide (1 < (s.team k j).tcores))

/-- A waiter's word is complete: the wave goes on after `len` bytes. -/
def State.releaseWaiter (s : State) (k j len : Nat) (q : Nat × Nat) : State :=
  let w := (s.slotAt q.1 q.2).wave
  ((s.issuedAt q.1 q.2 (w.pc + BitVec.ofNat 64 len)).modSlotAt q.1 q.2 (fun b => { b with ownFirst := true })).teamAcquire
    k j q.1 w.dom

/-- The elect waves of a completed phase receive the value of S of the wave of lowest team wave index, in the register
that this S names (R75). -/
def State.electAll (s : State) (k j n : Nat) : State :=
  let es := (s.barWaiters k j n).filter (fun q => ((s.slotAt q.1 q.2).wave.electWord n).isSome)
  let twave (q : Nat × Nat) : Nat := (s.slotAt q.1 q.2).wave.twave
  match leastOf (es.map twave) with
  | none => s
  | some m =>
    match es.find? (fun q => twave q = m) with
    | none => s
    | some e =>
      let w := (s.slotAt e.1 e.2).wave
      let result := ((w.electWord n).bind (fun v => decodeRv v.toNat)).map (fun i => rvPerform i { w with pc := w.pc + 4 } s)
      match result with
      | some (.now _ (.x rd v :: _) _ _) =>
        es.foldl (fun s q => (s.releaseWaiter k j 8 q).applyAt q.1 q.2 (.x rd v)) s
      | _ => s

/-- One arrival at a barrier that is not revoked; the arrival that completes the phase releases the waiters. -/
def State.arrive (s : State) (k j n : Nat) : State :=
  let b := s.bar k j n
  let full := if b.exp % 65536 = 0 then 65536 else b.exp % 65536
  if b.cnt + 1 = full then
    let s := s.electAll k j n
    let s := (s.barWaiters k j n).foldl (fun s q => s.releaseWaiter k j 4 q) s
    let s := s.modBar k j n (fun b => { b with cnt := 0, ph := (b.ph + 1) % 65536, wait := 0 })
    if n = 0 then s.advancePhase k j else s
  else s.modBar k j n (fun b => { b with cnt := b.cnt + 1 })

/-- Add to a counter register of a cluster (R379). -/
def State.countCluster (s : State) (k off : Nat) : State :=
  s.modCluster k (fun q => { q with regs := Table.put q.regs off (Table.get q.regs off 0 + 1) })

/-- An engine's arrival for an entry that names barrier `n`: discarded and counted where the barrier is revoked; then the
entry no longer stands in REF (R360, R361). -/
def State.engineArrive (s : State) (k j n : Nat) : State :=
  let s := if (s.bar k j n).rev then s.countCluster k 0x31000 else s.arrive k j n
  s.modBar k j n (fun b => { b with ref := b.ref - 1 })

/-- A wave leaves a wait that something other than its own completion ends; a barrier counts one waiter less (R359). -/
def State.leaveWait (s : State) (c i : Nat) : State :=
  let w := (s.slotAt c i).wave
  let s := match w.wait with
    | some { kind := .barrier n _, start := _ } =>
      s.modBar (clusterOf c) w.cteam n (fun b => { b with wait := b.wait - 1 })
    | some { kind := .elect n _ _, start := _ } =>
      s.modBar (clusterOf c) w.cteam n (fun b => { b with wait := b.wait - 1 })
    | _ => s
  s.modWaveAt c i (fun w => { w with wait := none })

/-! ### The barrier words (R358, R361, R362) -/

/-- The barrier `n` of the acting wave's team. -/
def State.myBar (s : State) (n : Nat) : Barrier := s.bar (clusterOf s.curCore) s.wave.cteam n

/-- Change it. -/
def State.modMyBar (s : State) (n : Nat) (f : Barrier → Barrier) : State :=
  s.modBar (clusterOf s.curCore) s.wave.cteam n f

/-- A barrier word of a wave outside its team's domain (R362); `write` where it changes the barrier's count or state
(R101, DEDUCED, log 69). -/
def barDomain (write : Bool) (n : Nat) (s : State) : Option Issue :=
  if s.wave.dom ≠ s.myTeam.dom then
    some (domFault s write (48 + n) 5 s.myTeam.dom (BitVec.ofNat 64 ((48 + n) * 2 ^ 32)))
  else none

/-- Cause 49 on a revoked barrier. -/
def barRevoked (n : Nat) (s : State) : Option Issue :=
  if (s.myBar n).rev then some (.trap 49 (BitVec.ofNat 64 n) s) else none

/-- The release at `.team` of an arrival (R207). -/
def State.teamRelease (s : State) : State := s.releaseAt s.curCore s.teamSpans

/-- `bar.init`. -/
def execBarInit (n a : BitVec 5) (s : State) : Host.Outcome State Fault Refusal :=
  deviceIssue (.barInit n a) 0 (xLocs [a]) (fun s =>
    let b := s.myBar n.toNat
    if b.wait ≠ 0 ∨ b.ref ≠ 0 then .trap 48 (n.setWidth 64) s
    else
      afterCheck (barDomain true n.toNat s) (fun _ =>
        .done ((s.modMyBar n.toNat (fun b => { b with exp := fld (s.wave.getX a.toNat) 15 0, cnt := 0, rev := false })).issued 4))) s

/-- `bar.arrive`. -/
def execBarArrive (n d : BitVec 5) (s : State) : Host.Outcome State Fault Refusal :=
  deviceIssue (.barArrive n d) 0 (xLocs [d]) (fun s =>
    afterCheck (barDomain true n.toNat s) (fun _ =>
      afterCheck (barRevoked n.toNat s) (fun _ =>
        let p := (s.myBar n.toNat).ph
        scalarX (s.teamRelease.arrive (clusterOf s.curCore) s.wave.cteam n.toNat) d (BitVec.ofNat 64 p)))) s

/-- `bar.wait`. -/
def execBarWait (n a : BitVec 5) (s : State) : Host.Outcome State Fault Refusal :=
  deviceIssue (.barWait n a) 0 (xLocs [a]) (fun s =>
    afterCheck (barDomain false n.toNat s) (fun _ =>
      afterCheck (barRevoked n.toNat s) (fun _ =>
        let w := s.wave
        let b := s.myBar n.toNat
        let p := fld (w.getX a.toNat) 15 0
        if b.ph = p then
          let s := if w.waitsOn n.toNat then s else s.modMyBar n.toNat (fun b => { b with wait := b.wait + 1 })
          .wait (.barrier n.toNat (BitVec.ofNat 32 p)) s
        else .done ((s.teamAcquire (clusterOf s.curCore) w.cteam s.curCore w.dom).issued 4)))) s

/-- A waiter of a revoked barrier leaves its wait and takes cause 49 at its next own turn, on the waiting word (R361). -/
def State.revokeWaiter (s : State) (n : Nat) (q : Nat × Nat) : State :=
  s.modSlotAt q.1 q.2 (fun k =>
    { k with state := .running, ownFirst := true, wave := { k.wave with wait := none, raised := some (49, BitVec.ofNat 64 n) } })

/-- `bar.inv`. -/
def execBarInv (n : BitVec 5) (s : State) : Host.Outcome State Fault Refusal :=
  scalarWord s 0 ((encodeScalar (.barInv n)).getD 0) [] ((Instr.barInv n).scalarLegal && s.wave.mode ≠ .u) (fun s =>
    afterCheck (barDomain true n.toNat s) (fun _ =>
      let s := (s.barWaiters (clusterOf s.curCore) s.wave.cteam n.toNat).foldl (fun s q => s.revokeWaiter n.toNat q) s
      .done ((s.modMyBar n.toNat (fun b => { b with rev := true, cnt := 0, wait := 0 })).issued 4)))

/-! ### `elect` (R75) -/

/-- A word that may follow the prefix: OP, OP-IMM, OP-32, OP-IMM-32, LUI or AUIPC with rd ≠ x0. -/
def electable : Rv → Bool
  | .lui rd _ => rd ≠ 0
  | .auipc rd _ => rd ≠ 0
  | .opImm _ rd _ _ => rd ≠ 0
  | .addiw rd _ _ => rd ≠ 0
  | .shiftImm _ rd _ _ => rd ≠ 0
  | .shiftImm32 _ rd _ _ => rd ≠ 0
  | .unary _ rd _ => rd ≠ 0
  | .op _ rd _ _ => rd ≠ 0
  | .op32 _ rd _ _ => rd ≠ 0
  | _ => false

/-- xtval of a word that may not follow: 64 bits of a lane word, the 32-bit word otherwise. -/
def electLow (v : BitVec 128) : Word := if v.toNat % 128 = 0x7F then v.setWidth 64 else (v.setWidth 32).setWidth 64

/-- The arrival and wait of `elect`, whose word S has been read. -/
def electArrive (n : Nat) (v : BitVec 32) (s : State) : Issue :=
  afterCheck (barDomain true n s) (fun _ =>
    afterCheck (barRevoked n s) (fun _ =>
      let p := BitVec.ofNat 32 (s.myBar n).ph
      let k := clusterOf s.curCore
      let j := s.wave.cteam
      let waiting := (s.teamRelease.modMyBar n (fun b => { b with wait := b.wait + 1 })).beginWait (.elect n p v)
      let t := waiting.arrive k j n
      if t.slot.state = .waiting then .wait (.elect n p v) t else .done t))

/-- `elect`: the prefix and the word after it. -/
def execElect (n : BitVec 5) (s : State) : Host.Outcome State Fault Refusal :=
  let w := s.wave
  let next := (w.pc + 4).toNat
  if !s.canIssue then .fault .noRunningWave
  else if !(w.profileOn 0 && (Instr.elect n).scalarLegal) then
    (illegal s (((encodeScalar (.elect n)).getD 0).setWidth 64)).finish
  else
    match w.wait with
    | some { kind := .elect m p v, start := _ } => (Issue.wait (.elect m p v) s).finish
    | _ =>
      match s.codeAt next with
      | none => (fetchWait next s).finish
      | some v =>
        match (if v.toNat % 128 = 0x7F then none else decodeRv (v.toNat % 2 ^ 32)) with
        | none => (illegal s (electLow v)).finish
        | some i =>
          if !electable i then (illegal s (electLow v)).finish
          else
            match lookahead s (liveLocs (rvLocs i)) with
            | some r => r.finish
            | none => (electArrive n.toNat (v.setWidth 32) s).finish

/-! ### Iteration counters (R373, R374) -/

/-- The range `chunk` hands out: its length under NEXT, END, MINCH and PART. -/
def chunkLength (next stop minch part : Nat) : Nat :=
  let r := stop - next
  let part := if part = 0 then 1 else part
  let minch := if minch = 0 then 1 else minch
  let share := (r + part - 1) / part
  let want := if minch < share then share else minch
  let len := if want < r then want else r
  if len < 2 ^ 24 - 1 then len else 2 ^ 24 - 1

/-- `chunk`. -/
def execChunk (a d : BitVec 5) (s : State) : Host.Outcome State Fault Refusal :=
  scalarWord s 0 ((encodeScalar (.chunk a d)).getD 0) (xLocs [a, d])
    ((Instr.chunk a d).scalarLegal && (s.wave.mode = .m || (s.core s.curCore).fwall.getLsbD 0)) (fun s =>
      let k := clusterOf s.curCore
      let base := 0x30000 + 32 * fld (s.wave.getX a.toNat) 2 0
      let reg (o : Nat) : Word := Table.get (s.cluster k).regs (base + o) 0
      let next := fld (reg 0) 39 0
      let len := chunkLength next (fld (reg 8) 39 0) (fld (reg 16) 47 24) (fld (reg 16) 15 0)
      let s := s.modCluster k (fun q => { q with regs := Table.put q.regs base (BitVec.ofNat 64 ((next + len) % 2 ^ 40)) })
      scalarX (s.countCluster k 0x31008) d (BitVec.ofNat 64 (next + len * 2 ^ 40)))

/-! ### Budget units (R375, R376) -/

/-- Units a domain holds. -/
def State.units (s : State) (dom : Nat) : Nat := fld (s.reg (0x14000 + 16 * dom)) 31 0

/-- Set them. -/
def State.setUnits (s : State) (dom v : Nat) : State :=
  s.setReg (0x14000 + 16 * dom) (BitVec.ofNat 64 (v % 2 ^ 32))

/-- A charge, saturating at 0. -/
def State.charge (s : State) (dom n : Nat) : State := s.setUnits dom (s.units dom - n)

/-- A write of `DBADD`: ADD is added, saturating at CAP. -/
def State.budgetAdd (s : State) (dom : Nat) (v : Word) : State :=
  let sum := s.units dom + fld v 31 0
  (s.setReg (0x14000 + 16 * dom + 8) v).setUnits dom (if fld v 63 32 < sum then fld v 63 32 else sum)

/-- `DBADD` of domain `args.a` is written with `args.c`. -/
def execBudgetAdd (s : State) : Host.Outcome State Fault Refusal :=
  .next (if s.args.a < 256 then s.budgetAdd s.args.a (BitVec.ofNat 64 s.args.c) else s)

/-- One unit is charged for 1,024 occupied own turns of a domain on a core. -/
def State.chargeCore (s : State) (c dom : Nat) : State :=
  let k := (s.core c).residueKey dom
  let r := Table.get (s.core c).residue k 0
  if r < 1024 then s
  else (s.modCore c (fun q => { q with residue := Table.put q.residue k (r - 1024) })).charge dom 1

/-- The residue of domain `args.a` on core `args.core` reaches 1,024. -/
def execCoreBudgetCharge (s : State) : Host.Outcome State Fault Refusal := .next (s.chargeCore s.args.core s.args.a)

end Sys2Proof.Machine
end

