-- ==== Sys2Proof/Machine/LaneConvert.lean ====
section
/-! DEFINITION. Conversion instructions, majors 0x90 to 0x9B (R133 to R138). -/

namespace Sys2Proof.Machine

/-- The floating or binary8 format of a type code, with its P and the infinity setting (R66, R134). -/
def cvtFmt (ty p : Nat) (inf : Bool) : Fmt :=
  if ty = 12 then .b8 true p inf else if ty = 13 then .b8 false p inf else laneFmt ty

/-- P of a binary8 destination: func bits 52:50 (R66). -/
def dstP (w : LaneWord) : Nat := bits w.func.toNat 2 0

/-- Least and greatest value of an integer type code. -/
def intMin (ty : Nat) : Int := if intSigned ty then -(2 ^ (intWidth ty - 1) : Int) else 0
def intMax (ty : Nat) : Int := if intSigned ty then 2 ^ (intWidth ty - 1) - 1 else 2 ^ intWidth ty - 1

/-- Every value of the integer type is a value of the format (R134). The largest magnitude has as many significant
bits as the range needs, and the format's exponent range reaches it. -/
def intFitsFmt (ty : Nat) (f : Fmt) : Bool :=
  let need := if intSigned ty then intWidth ty - 1 else intWidth ty
  let mx := f.magnitude f.maxCode
  let top : Int := if intSigned ty then 2 ^ need else 2 ^ need - 1
  let signOk := match f with
    | .b8 false _ _ => !intSigned ty
    | _ => true
  signOk && decide (need ≤ f.prec) && !magGt top.toNat 0 mx.1 mx.2 && decide (f.emin - (f.prec - 1 : Nat) ≤ 0)

/-- Every code of the binary8 format decodes to a value the other format holds unchanged (R134). -/
def b8FitsFmt (sgn : Bool) (p : Nat) (inf : Bool) (f : Fmt) : Bool :=
  (List.range 256).all (fun c =>
    match (Fmt.b8 sgn p inf).decode c with
    | .nan _ => true
    | .inf _ => f.hasInf
    | .fin neg m e =>
      let mx := f.magnitude f.maxCode
      let r := roundPrec f.prec (some f.emin) .rtz neg m e false
      let signOk := match f with
        | .b8 false _ _ => !neg || m = 0
        | _ => true
      !r.2.2 && !magGt m e mx.1 mx.2 && signOk)

/-- The pair of formats is exact (R134). -/
def fmtFitsFmt (s d : Fmt) : Bool :=
  match s, d with
  | .ieee x f, .ieee x' f' => decide (x ≤ x' ∧ f ≤ f')
  | .b8 sgn p inf, d => b8FitsFmt sgn p inf d
  | .ieee _ _, .b8 _ _ _ => false

/-- An exact conversion: the value unchanged, a NaN to the destination's NaN (R134). Binary8 has no negative zero. -/
def exactCode (d : Fmt) (x : Fv) : Nat := d.encode x

/-- The conversion of a floating value: its code and flags (R134). -/
def convertFp (n : Narrow) (exact : Bool) (d : Fmt) (x : Fv) : Nat × BitVec 4 :=
  if exact then (exactCode d x, 0)
  else
    let r := narrowFp n d x
    (d.encode r.1, r.2)

/-- Flags of a word as results: nothing where no flag is set (R43). -/
def flagUpd (b : BitVec 4) : List Upd := if b = 0 then [] else [.nflags b]

/-- Write a code of `wd` bits at element `sel` of register `n`, keeping the other bits (R133). -/
def putElement (e : LaneEnv) (wd n l sel code : Nat) : List Upd :=
  if wd = 64 then [.v n l (BitVec.ofNat 32 code), .v (n + 1) l (BitVec.ofNat 32 (code / 2 ^ 32))]
  else if wd = 32 then [.v n l (BitVec.ofNat 32 code)]
  else [.v n l (BitVec.ofNat 32 (setBits (e.reg n l) (wd * sel + wd - 1) (wd * sel) code))]

/-- The floating or binary8 source of a 96t conversion in lane `l` (R133, R135). -/
def cvtSource (e : LaneEnv) (w : LaneWord) (l : Nat) (inf : Bool) : Fv :=
  let s := cvtSrcTy w
  let wd := typeWidth s
  let v := if wd = 64 then e.pattern 64 w.va.toNat l
    else (e.reg w.va.toNat l / 2 ^ (wd * (if wd = 32 then 0 else cvtSsel w))) % 2 ^ wd
  (cvtFmt s (cvtSp w) inf).decode v

/-- The outcome of a conversion word: long-latency when a side is FP64 (R123). -/
def convertWord (major : Nat) (f64 : Bool) (w : LaneWord) (f : LaneEnv → Narrow → Nat → List Upd) (s : State) :
    Host.Outcome State Fault Refusal :=
  (laneIssue major (cvtForm major false w) w touchActive (fun e ops s =>
    let n := narrowOf e.wave.csrs.nround
    let upds := e.lanes.flatMap (f e n)
    if f64 then longDone (laneBytes w) w.la.toNat s.lat.fp64 (writtenLocs ops) upds s
    else ordinaryDone (laneBytes w) upds s) s).finish

/-- `vcvtf` (R135). -/
def execVcvtf (w : LaneWord) (s : State) : Host.Outcome State Fault Refusal :=
  convertWord 0x90 (w.ty = 11 || cvtSrcTy w = 11) w (fun e n l =>
    let d := cvtFmt w.ty.toNat (dstP w) n.b8inf
    let exact := fmtFitsFmt (cvtFmt (cvtSrcTy w) (cvtSp w) n.b8inf) d
    let r := convertFp n exact d (cvtSource e w l n.b8inf)
    putElement e (typeWidth w.ty.toNat) w.vd.toNat l (cvtDsel w) r.1 ++ flagUpd r.2) s

/-- `vcvtfi`: always narrowing (R135). -/
def execVcvtfi (w : LaneWord) (s : State) : Host.Outcome State Fault Refusal :=
  convertWord 0x91 (cvtSrcTy w = 11) w (fun e n l =>
    let ty := w.ty.toNat
    let r := narrowInt n (intMin ty) (intMax ty) (cvtSource e w l n.b8inf)
    putUpd (intWidth ty) (intSigned ty) w.vd.toNat l r.1 ++ flagUpd r.2) s

/-- The integer source of a 96t conversion in lane `l`. -/
def cvtIntSource (e : LaneEnv) (w : LaneWord) (l : Nat) : Int :=
  let s := cvtSrcTy w
  typed (intWidth s) (intSigned s) (e.pattern (intWidth s) w.va.toNat l)

/-- `vcvtif` (R135). -/
def execVcvtif (w : LaneWord) (s : State) : Host.Outcome State Fault Refusal :=
  convertWord 0x92 (w.ty = 11) w (fun e n l =>
    let d := cvtFmt w.ty.toNat (dstP w) n.b8inf
    let r := convertFp n (intFitsFmt (cvtSrcTy w) d) d (Fv.ofInt (cvtIntSource e w l))
    putElement e (typeWidth w.ty.toNat) w.vd.toNat l (cvtDsel w) r.1 ++ flagUpd r.2) s

/-- `vcvtii`: x if the destination holds the source's range, else RoundNarrow (R135). -/
def execVcvtii (w : LaneWord) (s : State) : Host.Outcome State Fault Refusal :=
  convertWord 0x93 false w (fun e n l =>
    let ty := w.ty.toNat
    let r := narrowInt n (intMin ty) (intMax ty) (Fv.ofInt (cvtIntSource e w l))
    putUpd (intWidth ty) (intSigned ty) w.vd.toNat l r.1 ++ flagUpd r.2) s

/-- The value of a 4-bit code of kind 0 I4, 1 N4, 2 L4 (R48). -/
def nibbleValue (kind c : Nat) : Fv :=
  if kind = 0 then Fv.ofInt (toSigned 4 c)
  else if kind = 1 then Fv.ofInt (c % 16)
  else if c % 8 = 0 then .fin false 0 0
  else .fin (bit c 3) 1 ((c % 8 : Nat) - 4)

/-- Element `i` of the group of registers from `n` on, elements `g` bits wide (R136). -/
def groupElement (e : LaneEnv) (g n l i : Nat) : Nat :=
  (e.reg (n + i / (32 / g)) l / 2 ^ (g * (i % (32 / g)))) % 2 ^ g

/-- The registers of a group holding eight codes of `g` bits (R136). -/
def putGroup (g n l : Nat) (codes : List Nat) : List Upd :=
  (List.range (g / 4)).map (fun r =>
    .v (n + r) l (BitVec.ofNat 32 (((List.range (32 / g)).map (fun j =>
      (codes.getD (r * (32 / g) + j) 0 % 2 ^ g) * 2 ^ (g * j))).foldl (· + ·) 0)))

/-- `vunpk4` (R136). -/
def execVunpk4 (w : LaneWord) (s : State) : Host.Outcome State Fault Refusal :=
  convertWord 0x94 false w (fun e n l =>
    let d := w.ty.toNat
    let g := typeWidth d
    let code (i : Nat) : Nat :=
      let x := nibbleValue (cvtSp w) ((e.reg w.va.toNat l / 16 ^ i) % 16)
      if d < 8 then
        match x with
        | .fin neg m ex => wrapTo g (roundToInt .rtz neg m ex)
        | _ => 0
      else (convertFp n true (laneFmt d) x).1
    putGroup g w.vd.toNat l ((List.range 8).map code)) s

/-- RoundL4 of R137: the code and the flags. -/
def roundL4 (n : Narrow) (x : Fv) : Nat × BitVec 4 :=
  match x with
  | .nan _ => (0, nflag false false false true)
  | .inf neg => (if neg then 0xF else 7, nflag false false false (n.sat = 0))
  | .fin neg m e =>
    let sign := b2n neg * 8
    if m = 0 then (0, 0)
    else if magGt m e 8 0 then (sign + 7, nflag true false true false)
    else
      -- lo: the largest exponent code whose magnitude is at most m × 2^e, 0 for zero
      let lo : Nat := ((List.range 8).filter (fun c : Nat => c = 0 || !magGt 1 ((c : Int) - 4) m e)).foldl max 0
      let exact := lo ≠ 0 && !magGt m e 1 ((lo : Int) - 4)
      if exact then (sign + lo, 0)
      else
        let hi := lo + 1
        -- twice the midpoint of lo and hi in units of 2^-5
        let mid : Nat := if lo = 0 then 2 else 3 * 2 ^ lo
        let above := magGt m e mid (-5)
        let below := magGt mid (-5) m e
        let c := match n.mode with
          | .rtz => lo
          | .rdn => if neg then hi else lo
          | .rup => if neg then lo else hi
          | .rna => if below then lo else hi
          | .rne => if above then hi else if below then lo else if lo % 2 = 0 then lo else hi
        (if c = 0 then 0 else sign + c, nflag true (lo = 0) false false)

/-- `vpk4` (R136, R137). -/
def execVpk4 (w : LaneWord) (s : State) : Host.Outcome State Fault Refusal :=
  convertWord 0x95 false w (fun e n l =>
    let st := cvtSrcTy w
    let g := typeWidth st
    let kind := bits w.func.toNat 1 0
    let one (i : Nat) : Nat × BitVec 4 :=
      let v := groupElement e g w.va.toNat l i
      let x := if st < 8 then Fv.ofInt (typed g (intSigned st) v) else (laneFmt st).decode v
      if kind = 2 then roundL4 n x
      else
        let r := if kind = 0 then narrowInt n (-8) 7 x else narrowInt n 0 15 x
        (wrapTo 4 r.1, r.2)
    let rs := (List.range 8).map one
    [.v w.vd.toNat l (BitVec.ofNat 32 (((List.range 8).map (fun i => (rs.getD i (0, 0)).1 * 16 ^ i)).foldl (· + ·) 0))]
      ++ flagUpd (rs.foldl (fun b r => b ||| r.2) 0)) s

/-- `vpk2`: two FP32 registers narrowed to the halves of vd (R135). -/
def execVpk2 (w : LaneWord) (s : State) : Host.Outcome State Fault Refusal :=
  convertWord 0x96 false w (fun e n l =>
    let f := laneFmt w.ty.toNat
    let r0 := convertFp n false f (Fmt.f32.decode (e.reg w.va.toNat l))
    let r1 := convertFp n false f (Fmt.f32.decode (e.reg w.vb.toNat l))
    [.v w.vd.toNat l (BitVec.ofNat 32 (r0.1 + 2 ^ 16 * r1.1))] ++ flagUpd (r0.2 ||| r1.2)) s

/-- `vunp2`: the two halves widened to FP32 (R135). -/
def execVunp2 (w : LaneWord) (s : State) : Host.Outcome State Fault Refusal :=
  convertWord 0x97 false w (fun e _ l =>
    let f := laneFmt w.ty.toNat
    (List.range 2).map (fun j => .v (w.vd.toNat + j) l (BitVec.ofNat 32
      (Fmt.f32.encode (f.decode ((e.reg w.va.toNat l / 2 ^ (16 * j)) % 2 ^ 16)))))) s

/-- `vpk8`: four FP32 registers narrowed to the bytes of vd (R135). -/
def execVpk8 (w : LaneWord) (s : State) : Host.Outcome State Fault Refusal :=
  convertWord 0x98 false w (fun e n l =>
    let f := cvtFmt w.ty.toNat (dstP w) n.b8inf
    let rs := (List.range 4).map (fun j => convertFp n false f (Fmt.f32.decode (e.reg (w.va.toNat + j) l)))
    [.v w.vd.toNat l (BitVec.ofNat 32 (((List.range 4).map (fun j => (rs.getD j (0, 0)).1 * 256 ^ j)).foldl (· + ·) 0))]
      ++ flagUpd (rs.foldl (fun b r => b ||| r.2) 0)) s

/-- `vunp8`: the four bytes widened to FP32 (R135). -/
def execVunp8 (w : LaneWord) (s : State) : Host.Outcome State Fault Refusal :=
  convertWord 0x99 false w (fun e n l =>
    let f := cvtFmt w.ty.toNat (dstP w) n.b8inf
    (List.range 4).map (fun j => .v (w.vd.toNat + j) l (BitVec.ofNat 32
      (Fmt.f32.encode (f.decode ((e.reg w.va.toNat l / 256 ^ j) % 256)))))) s

/-- The shift s of the fixed-point conversions: func bits 57:53 (R135). -/
def fixedShift (w : LaneWord) : Nat := bits w.func.toNat 7 3

/-- A value scaled by 2^k exactly. -/
def Fv.scale (x : Fv) (k : Int) : Fv :=
  match x with
  | .fin n m e => .fin n m (e + k)
  | v => v

/-- `vcvtxf`: fixed-point `.i32` to floating (R135). The pair of formats is exact when every value of `.i32` × 2^−s is
a value of the destination, which only FP64 satisfies (R134). -/
def execVcvtxf (w : LaneWord) (s : State) : Host.Outcome State Fault Refusal :=
  convertWord 0x9A (w.ty = 11) w (fun e n l =>
    let f := laneFmt w.ty.toNat
    let x := (Fv.ofInt (toSigned 32 (e.reg w.va.toNat l))).scale (-(fixedShift w : Int))
    let r := convertFp n (w.ty = 11) f x
    (if w.ty = 11 then putElement e 64 w.vd.toNat l 0 r.1 else [.v w.vd.toNat l (BitVec.ofNat 32 r.1)])
      ++ flagUpd r.2) s

/-- `vcvtfx`: floating to fixed-point `.i32` (R135). -/
def execVcvtfx (w : LaneWord) (s : State) : Host.Outcome State Fault Refusal :=
  convertWord 0x9B (w.ty = 11) w (fun e n l =>
    let f := laneFmt w.ty.toNat
    let x := (f.decode (fBits e w.ty.toNat w.va.toNat l 0)).scale (fixedShift w)
    let r := narrowInt n (-(2 ^ 31)) (2 ^ 31 - 1) x
    [.v w.vd.toNat l (BitVec.ofInt 32 r.1)] ++ flagUpd r.2) s

end Sys2Proof.Machine
end

