-- ==== Sys2Proof/Machine/Matrix.lean ====
section
/-! DEFINITION. The operand buffer, accumulator tiles, the matrix words and the sequencer (R52 to R57, R183,
R248 to R265). -/

namespace Sys2Proof.Machine

/-! ### Reservation records (R251 to R253) -/

def Reserv.kext (r : Reserv) : Nat := fld r.w0 63 48
def Reserv.gran (r : Reserv) : Nat := fld r.w0 46 40
def Reserv.sparse (r : Reserv) : Nat := fld r.w0 39 38
def Reserv.cas (r : Reserv) : Bool := r.w0.getLsbD 37
def Reserv.inf (r : Reserv) : Bool := r.w0.getLsbD 36
def Reserv.blk (r : Reserv) : Nat := if r.w0.getLsbD 35 then 128 else 64
def Reserv.scl (r : Reserv) : Nat := fld r.w0 34 33
def Reserv.role (r : Reserv) : Nat := fld r.w0 32 32
def Reserv.p (r : Reserv) : Nat := fld r.w0 6 4
def Reserv.fmt (r : Reserv) : Nat := fld r.w0 3 0
def Reserv.moff (r : Reserv) : Nat := fld r.w1 47 32
def Reserv.soff (r : Reserv) : Nat := fld r.w1 31 16
def Reserv.doff (r : Reserv) : Nat := fld r.w1 15 0
def Reserv.base (r : Reserv) : Nat := fld r.w2 5 0
def Reserv.cur (r : Reserv) : Nat := fld r.w2 7 7
def Reserv.cvalid (r : Reserv) : Bool := r.w2.getLsbD 8
def Reserv.ivalid (r : Reserv) : Bool := r.w2.getLsbD 9
def Reserv.dom (r : Reserv) : Nat := fld r.w2 23 16
def Reserv.twave (r : Reserv) : Nat := fld r.w2 31 24

/-- Element size in bytes (R252). -/
def elementSize (fmt : Nat) : Nat :=
  match fmt with
  | 10 => 4
  | 12 => 1
  | 13 => 1
  | _ => 2

/-- Rows of A or columns of B. -/
def Reserv.lines (r : Reserv) : Nat := if r.role = 0 then 32 else 64

/-- Elements kept of every 128 (R251). -/
def Reserv.kept (r : Reserv) : Nat :=
  match r.sparse with
  | 1 => 64
  | 2 => 32
  | 3 => 16
  | _ => 128

/-- Granules of the reservation, or of one of its halves. -/
def Reserv.half (r : Reserv) : Nat := if r.cas then r.gran / 2 else r.gran

/-- A record is valid (R253). -/
def Reserv.valid (r : Reserv) : Bool :=
  let es := elementSize r.fmt
  let small := [8, 9, 12, 13].contains r.fmt
  let b8 := r.fmt = 12 || r.fmt = 13
  let room := 1024 * r.half
  let data := if r.sparse = 0 then r.lines * r.kext * es else 32 * (r.kext / 128 * r.kept) * es
  let scales := 2 * r.lines * (r.kext / r.blk)
  let metas := 16 * 32 * (r.kext / 128)
  fld r.w0 47 47 = 0 && fld r.w0 31 7 = 0 && fld r.w1 63 48 = 0 &&
    [1, 5, 8, 9, 10, 12, 13].contains r.fmt && (if b8 then decide (1 ≤ r.p) else r.p = 0) &&
    (r.scl = 0 || (r.scl ≠ 3 && small)) && (r.sparse = 0 || (r.role = 0 && small)) &&
    (!r.cas || (r.role = 1 && r.gran % 2 = 0)) &&
    decide (r.kext ≠ 0 ∧ r.kext % r.blk = 0 ∧ (r.sparse = 0 ∨ r.kext % 128 = 0)) &&
    decide (1 ≤ r.gran ∧ r.gran ≤ 64) && decide (r.doff % 16 = 0 ∧ r.soff % 2 = 0 ∧ r.moff % 16 = 0) &&
    decide (r.doff + data ≤ room) && (r.scl = 0 || decide (r.soff + scales ≤ room)) &&
    (r.sparse = 0 || decide (r.moff + metas ≤ room))

/-- The record of o(n), where it is held. -/
def Core.resvOf (c : Core) (n : Nat) : Option Reserv := Table.find c.resv n

/-- A reservation is held by a wave of the acting wave's team, or by the wave itself. -/
def Reserv.ofTeam (r : Reserv) (w : Wave) : Bool := r.team = w.cteam && r.dom = w.dom
def Reserv.ofWave (r : Reserv) (w : Wave) : Bool := r.ofTeam w && r.twave = w.twave

/-- The granule is reserved. -/
def Core.granTaken (c : Core) (g : Nat) : Bool :=
  c.resv.any (fun e => decide (e.2.base ≤ g ∧ g < e.2.base + e.2.gran))

/-- The lowest run of unreserved granules. -/
def Core.findGrans (c : Core) (n : Nat) : Option Nat :=
  (List.range 64).find? (fun b => decide (b + n ≤ 64) && (List.range n).all (fun k => !c.granTaken (b + k)))

/-- Keep the bytes of the operand buffer outside a range. -/
def Core.clearObuf (c : Core) (a n : Nat) : Core := { c with obuf := Table.keep c.obuf (fun k => ¬ (a ≤ k ∧ k < a + n)) }

/-- An incomplete word of a wave of the core reads or writes the location, or the sequencer's word uses it. -/
def Core.inUse (c : Core) (l : Loc) : Bool :=
  c.slots.any (fun e => e.2.wave.pending.any (fun o => o.locs.contains l || o.reads.contains l)) ||
    (match c.seq with
      | some q => l = .resv q.word.va.toNat || l = .resv q.word.vb.toNat
      | none => false)

/-- The domain fault of a reservation (R183). -/
def resvDomFault (s : State) (write : Bool) (n : Nat) (r : Reserv) : Issue :=
  domFault s write (32 + n) 5 r.dom (BitVec.ofNat 64 ((32 + n) * 2 ^ 32))

/-- `ob.rsv` (R254). -/
def execObRsv (n : BitVec 3) (b a d : BitVec 5) (s : State) : Host.Outcome State Fault Refusal :=
  deviceIssue (.obRsv n b a d) 1 (xLocs [a, b, d] ++ [.resv n.toNat, .half n.toNat]) (fun s =>
    let w := s.wave
    let c := s.core s.curCore
    let r : Reserv := { w0 := w.getX a.toNat, w1 := w.getX b.toNat }
    match c.resvOf n.toNat with
    | some q => if q.dom ≠ w.dom then resvDomFault s true n.toNat q else scalarX s d (if q.ofWave w then 4 else 1)
    | none =>
      if !r.valid then scalarX s d 3
      else
        match c.findGrans r.gran with
        | none => scalarX s d 2
        | some g =>
          let w2 := BitVec.ofNat 64 (w.twave * 2 ^ 24 + w.dom * 2 ^ 16 + 64 + g)
          let s := s.modCur (fun c =>
            { c.clearObuf (1024 * g) (1024 * r.gran) with
              resv := Table.put c.resv n.toNat { r with w2 := w2, team := w.cteam, fresh := r.cas } })
          scalarX s d 0) s

/-- `ob.rel` (R254). -/
def execObRel (n : BitVec 3) (d : BitVec 5) (s : State) : Host.Outcome State Fault Refusal :=
  deviceIssue (.obRel n d) 1 (xLocs [d] ++ [.resv n.toNat, .half n.toNat]) (fun s =>
    let w := s.wave
    let c := s.core s.curCore
    match c.resvOf n.toNat with
    | none => scalarX s d 1
    | some q =>
      if q.dom ≠ w.dom then resvDomFault s true n.toNat q
      else if !q.ofWave w then scalarX s d 1
      else if c.inUse (.resv n.toNat) then .hold (s.count s.curCore 9 1)
      else scalarX (s.modCur (fun c => { c with resv := Table.erase c.resv n.toNat })) d 0) s

/-! ### The common checks of majors 0xE0 to 0xE6 (R255) -/

/-- Cause 51: the active mask does not hold every lane of the width. -/
def partialMask (e : LaneEnv) (s : State) : Option Issue :=
  if e.wave.amask &&& e.wave.wm = e.wave.wm then none else some (.trap 51 (e.wave.amask.setWidth 64) s)

/-- A matrix word: decode checks, cause 51, then its body. -/
def matrixWord (major : Nat) (w : LaneWord) (body : LaneEnv → List Operand → State → Issue) (s : State) :
    Host.Outcome State Fault Refusal :=
  (laneIssueWith major (laneForm major false w) w touchActive partialMask body s).finish

/-- xtval of a check on an accumulator tile. -/
def accTval (k : Nat) : Word := BitVec.ofNat 64 (k * 2 ^ 32)

/-- Cause 29 for the first accumulator tile that another domain holds. -/
def accForeign (write : Bool) (ks : List Nat) (s : State) : Option Issue :=
  ks.findSome? (fun k => accDomain s write k (accTval k))

/-- The first accumulator tile not held as needed: by the wave for a write, by its team for a read. -/
def accUnheld (write : Bool) (ks : List Nat) (s : State) : Option Issue :=
  (ks.find? (fun k => !(match s.accHolder k with
    | some h => if write then h.ofWave s.wave else h.ofTeam s.wave
    | none => false))).map (fun k => .trap (if write then 7 else 5) (accTval k) s)

/-- What a check on the accumulator tiles `ks` finds: a tile of another domain, then one not held. -/
def accCheck (write : Bool) (ks : List Nat) (s : State) : Option Issue :=
  (accForeign write ks s).or (accUnheld write ks s)

/-- Cause 29 for the first reservation that another domain holds. -/
def resvForeign (write : Bool) (ns : List Nat) (s : State) : Option Issue :=
  ns.findSome? (fun n => match (s.core s.curCore).resvOf n with
    | some r => if r.dom ≠ s.wave.dom then some (resvDomFault s write n r) else none
    | none => none)

/-- The first reservation that the wave's team does not hold. -/
def resvUnheld (write : Bool) (ns : List Nat) (s : State) : Option Issue :=
  (ns.find? (fun n => !(match (s.core s.curCore).resvOf n with
    | some r => r.ofTeam s.wave
    | none => false))).map (fun n => .trap (if write then 7 else 5) (BitVec.ofNat 64 ((32 + n) * 2 ^ 32)) s)

/-- What a check on the reservations `ns` finds. -/
def resvCheck (write : Bool) (ns : List Nat) (s : State) : Option Issue :=
  (resvForeign write ns s).or (resvUnheld write ns s)

/-! ### `mld` (R256) -/

/-- First byte in the operand buffer of the half a word uses. -/
def Reserv.halfByte (r : Reserv) (h : Nat) : Nat := 1024 * (r.base + (if r.cas then h * (r.gran / 2) else 0))

/-- `mld`: whole granules from a scratchpad tile into a reservation. -/
def execMld (w : LaneWord) (s : State) : Host.Outcome State Fault Refusal :=
  matrixWord 0xE0 w (fun _ _ s =>
    let i := w.imm.toNat
    let tg := bits i 8 0
    let rg := bits i 21 16
    let ng := bits i 30 24
    let n := w.vd.toNat
    let h := w.va.toNat
    afterCheck (resvCheck true [n] s) (fun _ =>
      let c := s.core s.curCore
      let r := (c.resvOf n).getD {}
      let reading := match c.seq with
        | some q => q.word.va.toNat = n || q.word.vb.toNat = n
        | none => false
      afterCheck (tileOwn h (1024 * ng) 1 .load [1024 * tg] s) (fun _ =>
        if r.half < rg + ng then .trap 7 (BitVec.ofNat 64 ((32 + n) * 2 ^ 32 + 1024 * rg)) s
        else
          afterCheck (tileReady h (1024 * ng) .load [1024 * tg] s) (fun _ =>
            if reading then .hold (s.count s.curCore 9 1)
            else
              let src := 1024 * (tFirst (s.myTile h) + tg)
              let dst := r.halfByte r.cur + 1024 * rg
              let s := s.modCur (fun c => { c with obuf := Bytes.writeList c.obuf dst (Bytes.readList c.spad src (1024 * ng)) })
              longDone (laneBytes w) w.la.toNat s.lat.scratchpad [.resv n] (if r.cas then [.cvalid n] else []) s)))) s

/-! ### The arithmetic of a K-block (R52 to R57, R252, R258) -/

/-- An exact sum in progress: a NaN, an infinity, or z × 2^e. -/
inductive Exact | nan | inf (neg : Bool) | num (z : Int) (e : Int)
deriving DecidableEq, Repr

/-- Add a product to an exact sum. -/
def Exact.add (a : Exact) (p : Raw) : Exact :=
  match a, p with
  | .nan, _ => .nan
  | _, .nan _ => .nan
  | .inf n, .inf m _ => if n = m then .inf n else .nan
  | .inf n, .num _ _ _ _ => .inf n
  | .num _ _, .inf m _ => .inf m
  | .num z e, .num neg m e' _ =>
    let k := if e ≤ e' then e else e'
    .num (z * 2 ^ (e - k).toNat + sgnOf neg m * 2 ^ (e' - k).toNat) k

/-- An exact sum as a value; an exact zero is +0 (R56). -/
def Exact.value : Exact → Fv
  | .nan => .nan false
  | .inf n => .inf n
  | .num z e => .fin (decide (z < 0)) z.natAbs e

/-- Code of element `k` of line `r` of a reservation (R252); a dropped position of a sparse A holds +0. -/
def Core.element (c : Core) (r : Reserv) (line k : Nat) : Nat :=
  let es := elementSize r.fmt
  let b := r.halfByte r.cur
  if r.sparse = 0 then
    Bytes.readLE c.obuf (b + r.doff + es * (r.lines * r.blk * (k / r.blk) + r.blk * line + k % r.blk)) es
  else
    let g := k / 128
    let map := Bytes.readLE c.obuf (b + r.moff + 16 * (32 * g + line)) 16
    let j := setCount map (k % 128)
    if bit map (k % 128) && decide (j < r.kept) then
      Bytes.readLE c.obuf (b + r.doff + es * (32 * r.kept * g + r.kept * line + j)) es
    else 0

/-- The format of a reservation's elements. -/
def Reserv.format (r : Reserv) : Fmt := cvtFmt r.fmt r.p r.inf

/-- The scale of K-block `b` of line `r` (R252): 1 where there is none. -/
def Core.scale (c : Core) (r : Reserv) (line b : Nat) : Fv :=
  if r.scl = 0 then .fin false 1 0
  else (if r.scl = 1 then Fmt.f16 else Fmt.bf16).decode (Bytes.readLE c.obuf (r.halfByte r.cur + r.soff + 2 * (r.lines * b + line)) 2)

/-- The updates of K-block `b` to element (m, n), in ascending k (R52 to R55). -/
def Core.blockElement (c : Core) (ra rb : Reserv) (b m n : Nat) (acc : Nat) : Nat :=
  let k0 := b * ra.blk
  let code (r : Reserv) (line k : Nat) : Nat := c.element r line k
  if ra.fmt = 1 ∨ ra.fmt = 5 then
    (List.range ra.blk).foldl (fun a k =>
      wrapTo 64 ((a : Int) + typed 16 (ra.fmt = 1) (code ra m (k0 + k)) * typed 16 (rb.fmt = 1) (code rb n (k0 + k)))) acc
  else
    let va (k : Nat) : Fv := ra.format.decode (code ra m k)
    let vb (k : Nat) : Fv := rb.format.decode (code rb n k)
    if ra.fmt = 10 then
      (List.range ra.blk).foldl (fun a k => Fmt.f32.result .rne ((va (k0 + k)).fma .rne (vb (k0 + k)) (Fmt.f32.decode a))) acc
    else
      let group := if ra.fmt = 12 ∨ ra.fmt = 13 then 16 else 8
      let sigma : Raw := (c.scale ra m b).mul (c.scale rb n b)
      let sv : Fv := match sigma with
        | .nan _ => .nan false
        | .inf neg _ => .inf neg
        | .num neg z e _ => .fin neg z e
      (List.range (ra.blk / group)).foldl (fun a g =>
        let sum := (List.range group).foldl (fun (x : Exact) j =>
          let k := k0 + group * g + j
          x.add ((va k).mul (vb k))) (.num 0 0)
        Fmt.f32.result .rne (sum.value.fma .rne sv (Fmt.f32.decode a))) acc

/-- Replace the 2,048 words of an accumulator tile. -/
def Core.setAcc (c : Core) (k : Nat) (vals : List Word32) : Core :=
  { c with
    acc := c.acc.takeWhile (fun e => e.1 < 2048 * k) ++
      ((List.range vals.length).zip vals).map (fun e => (2048 * k + e.1, e.2)) ++
      c.acc.dropWhile (fun e => e.1 < 2048 * k + 2048) }

/-- The words of an accumulator tile. -/
def Core.accWords (c : Core) (k : Nat) : List Word32 := (List.range 2048).map (fun j => Table.get c.acc (2048 * k + j) 0)

/-- One K-block step of a multiply word on the accumulator store. Where the holder of a reservation that it reads has been handed
over, and its record has left the core, the step reads a record of zeros: the manual does not say what a team mate's running
word then reads (DESIGN CHOICE, log 84). -/
def Core.kblock (c : Core) (w : LaneWord) (b : Nat) : Core :=
  let ra := (c.resvOf w.va.toNat).getD {}
  let rb := (c.resvOf w.vb.toNat).getD {}
  let d := w.vd.toNat
  let low := c.accWords d
  if ra.fmt = 1 ∨ ra.fmt = 5 then
    let vals := ((List.range 2048).zip (low.zip (c.accWords (d + 1)))).map (fun e =>
      c.blockElement ra rb b (e.1 / 64) (e.1 % 64) (e.2.1.toNat + 2 ^ 32 * e.2.2.toNat))
    (c.setAcc d (vals.map (BitVec.ofNat 32))).setAcc (d + 1) (vals.map (fun v => BitVec.ofNat 32 (v / 2 ^ 32)))
  else
    c.setAcc d (((List.range 2048).zip low).map (fun e =>
      BitVec.ofNat 32 (c.blockElement ra rb b (e.1 / 64) (e.1 % 64) e.2.toNat)))

/-! ### `mma`, `mmac` and the sequencer (R257 to R262) -/

/-- A turn at which no result is complete: the sequencer says when its word is. -/
def notYet : Nat := 2 ^ 80

/-- Cycles of one K-block step on this device, not architectural (R259). -/
def stepCycles (ra : Reserv) : Nat :=
  let dense := match elementSize ra.fmt with
    | 1 => 32
    | 4 => 256
    | _ => if ra.fmt = 1 ∨ ra.fmt = 5 then 128 else 64
  dense * (ra.blk / 64) * ra.kept / 128

/-- A multiply word: its operands' records, the wait for a cascade half, and the sequencer (R258, R259, R261). Where several of
its items fail the same check of R255, the fault names c(D), then o(A), then o(B), and of a range of tiles the lowest; and
`mmac` uses o(B) read-only there, though it clears CVALID (DESIGN CHOICE, log 84). -/
def multiply (major : Nat) (cascade : Bool) (w : LaneWord) (s : State) : Host.Outcome State Fault Refusal :=
  matrixWord major w (fun e ops s =>
    let a := w.va.toNat
    let b := w.vb.toNat
    let ta := w.ty.toNat
    let int16 := ta = 1 || ta = 5
    let accs := if int16 then [w.vd.toNat, w.vd.toNat + 1] else [w.vd.toNat]
    let xq := e.wave.getX (vcOf w)
    let last := xq.getLsbD 7
    let bad := Issue.trap 2 (laneLow major false false w) s
    afterCheck ((accForeign true accs s).or (resvForeign false [a, b] s)) (fun _ =>
      afterCheck ((accUnheld true accs s).or (resvUnheld false [a, b] s)) (fun _ =>
        let c := s.core s.curCore
        let ra := (c.resvOf a).getD {}
        let rb := (c.resvOf b).getD {}
        let pOf (t f : Nat) : Nat := if t = 12 ∨ t = 13 then f else 0
        if cascade && !rb.cas then bad
        else if cascade && !last && decide (s.myTeam.tcores ≤ fld xq 6 0) then .trap 7 xq s
        else if ra.role ≠ 0 ∨ rb.role ≠ 1 ∨ ra.fmt ≠ ta ∨ ra.p ≠ pOf ta (bits w.func.toNat 2 0) ∨
            rb.fmt ≠ mmaTb w ∨ rb.p ≠ pOf (mmaTb w) (mmaTbP w) ∨ ra.kext ≠ rb.kext ∨ ra.blk ≠ rb.blk then bad
        else if rb.cas && !rb.cvalid then .wait (.cascade b) s
        else if c.seq.isSome then .hold (s.count s.curCore 9 1)
        else
          let m := e.wave.csrs.mseq
          let b0 := if m.getLsbD 16 then fld m 15 0 else 0
          let nb := ra.kext / ra.blk
          let run : SeqRun :=
            { slot := s.curSlot, pc := e.wave.pc, cascade := cascade, word := w, next := b0, last := last,
              step := fld xq 6 0, nb := nb, sending := false }
          let s := (s.modCur (fun c => { c with seq := some run })).modCsrs (fun q => { q with mseq := q.mseq &&& 0xFFFF })
          let delay := if b0 < nb then stepCycles ra else 0
          (longDone (laneBytes w) w.la.toNat notYet (writtenLocs ops) [] s).andThen
            (fun s => .done (s.schedule delay .sequencerKblockComplete { core := s.curCore }))))) s

/-- `mma` (R258). -/
def execMma (w : LaneWord) (s : State) : Host.Outcome State Fault Refusal := multiply 0xE1 false w s

/-- `mmac` (R261). -/
def execMmac (w : LaneWord) (s : State) : Host.Outcome State Fault Refusal := multiply 0xE2 true w s

/-- The sequencer's word is complete: its results are, and the sequencer is idle. -/
def State.sequencerDone (s : State) (c : Nat) (q : SeqRun) : State :=
  (s.modCore c (fun k => { k with seq := none })).modWaveAt c q.slot (fun w =>
    { w with pending := w.pending.map (fun o => if o.pc = q.pc ∧ notYet ≤ o.due then { o with due := 0 } else o) })

/-- The last K-block is done: the word completes, or its hand-off begins (R261). -/
def State.afterBlocks (s : State) (c : Nat) (q : SeqRun) : State :=
  if q.cascade && !q.last then
    (s.modCore c (fun k => { k with seq := some { q with sending := true } })).schedule 16 .cascadeArrival { core := c }
  else s.sequencerDone c q

/-- One K-block step, if one is left, and what follows it. -/
def State.kblockStep (s : State) (c : Nat) : State :=
  match (s.core c).seq with
  | none => s
  | some q =>
    if q.sending then s
    else if q.nb ≤ q.next then s.afterBlocks c q
    else
      let q' := { q with next := q.next + 1 }
      let s := s.modCore c (fun k => { k.kblock q.word q.next with seq := some q' })
      if q'.nb ≤ q'.next then s.afterBlocks c q'
      else s.schedule (stepCycles (((s.core c).resvOf q.word.va.toNat).getD {})) .sequencerKblockComplete { core := c }

/-- The sequencer completes one K-block step on core `args.core` (R258). -/
def execSequencerKblockComplete (s : State) : Host.Outcome State Fault Refusal := .next (s.kblockStep s.args.core)

/-- An event is acted on while a tile-level word is the last word of its wave: the K-block in progress finishes, `mseq`
holds the resume point and the wave stands at the word again; a word with no K-block left completes, unless its
hand-off is withdrawn (R170, R260, R261). The word is the last one while the wave stands right behind it: a handler or a
trap on the next word has left it behind. -/
def State.interruptSequencer (s : State) (c i : Nat) : State :=
  match (s.core c).seq with
  | none => s
  | some q =>
    let w := (s.slotAt c i).wave
    let isLast := w.pc = q.pc + BitVec.ofNat 64 (laneBytes q.word) &&
      w.pending.any (fun o => o.pc = q.pc && decide (notYet ≤ o.due) && o.since = 0)
    if q.slot ≠ i ∨ !isLast then s
    else
      let all := q.sending || decide (q.nb ≤ q.next)
      let done := if all then q.nb else q.next + 1
      let s := if all then s else s.modCore c (fun k => k.kblock q.word q.next)
      if q.nb ≤ done ∧ (!q.cascade || q.last) then s.sequencerDone c q
      else
        (s.modCore c (fun k => { k with seq := none })).modWaveAt c i (fun w =>
          { w with
            pc := q.pc, csrs := { w.csrs with mseq := BitVec.ofNat 64 (65536 + done) },
            pending := w.pending.filter (fun o => ¬ (o.pc = q.pc ∧ notYet ≤ o.due)) })

/-- A cascade reservation whose current half is empty and whose incoming half is not swaps (R261). -/
def State.swapHalf (s : State) (c n : Nat) : State :=
  match (s.core c).resvOf n with
  | some r =>
    let loading := (s.core c).slots.any (fun e => e.2.wave.pending.any (fun o => o.upds.contains (.cvalid n)))
    if r.cas && !r.cvalid && r.ivalid && !loading then
      s.modCore c (fun k =>
        { k with resv := Table.put k.resv n { r with w2 := ((r.w2 ^^^ 0x80) ||| 0x100) &&& ~~~0x200#64 } })
    else s
  | none => s

/-- A cascade reservation swaps: reservation `args.a` of core `args.core` (R261). -/
def execCascadeSwap (s : State) : Host.Outcome State Fault Refusal := .next (s.swapHalf s.args.core s.args.a)

/-- The sender's current half becomes empty and its word completes. -/
def State.handedOff (s : State) (c : Nat) (q : SeqRun) : State :=
  let n := q.word.vb.toNat
  let s := s.modCore c (fun k =>
    match k.resvOf n with
    | some r => { k with resv := Table.put k.resv n { r with w2 := r.w2 &&& ~~~0x100#64 } }
    | none => k)
  (s.sequencerDone c q).schedule 0 .cascadeSwap { core := c, a := n }

/-- The sequencer's hand-off is what a park holds. -/
def Park.handsOff (p : Park) : Bool := p.held.any (fun h => match h.1 with
  | .mmac _ => true
  | _ => false)

/-- The hand-off of the sequencer's word on core `c` meets its destination: delivered, still waiting, or a late park of
the sender (R261, R262). A park of the sender for another reason does not hold it up. The destination has completed an `mld`
since its `ob.rsv` (the example of R262; DEDUCED, log 83). A sender whose slot is already retiring parks late as well, and a
Resume makes its slot run: R32 has no such row (DESIGN CHOICE, log 83). -/
def State.handOff (s : State) (c : Nat) : State :=
  match (s.core c).seq with
  | none => s
  | some q =>
    let k := s.slotAt c q.slot
    if !q.sending || k.wave.park.any Park.handsOff then s
    else
      let w := k.wave
      let team := s.team (clusterOf c) w.cteam
      let dst := 96 * clusterOf c + Table.get team.cmap q.step 0
      let n := q.word.vb.toNat
      let again := s.schedule 16 .cascadeArrival { core := c }
      match (s.core c).resvOf n, (s.core dst).resvOf n with
      | some rs, some rd =>
        if rd.team ≠ w.cteam ∨ rd.w0 ≠ rs.w0 ∨ rd.w1 ≠ rs.w1 ∨ rd.ivalid ∨ rd.fresh then again
        else if rd.dom ≠ w.dom ∧ w.park.isSome then again
        else if rd.dom ≠ w.dom then
          (s.modWaveAt c q.slot (fun w =>
            { w with csrs := { w.csrs with mdomfault := domFaultWord true (32 + n) 5 rd.dom w.dom } })).parkAt c q.slot
            { late := true, cause := 29, recordCause := 29, tval := BitVec.ofNat 64 ((32 + n) * 2 ^ 32), pc := q.pc,
              held := [(.mmac q.word, 1)] }
        else
          let bytes := Bytes.readList (s.core c).obuf (rs.halfByte rs.cur) (1024 * rs.half)
          let s := s.modCore dst (fun k =>
            { k with
              obuf := Bytes.writeList k.obuf (rd.halfByte (1 - rd.cur)) bytes,
              resv := Table.put k.resv n { rd with w2 := rd.w2 ||| 0x200 } })
          (s.handedOff c q).schedule 0 .cascadeSwap { core := dst, a := n }
      | _, _ => again

/-- A cascade hand-off of core `args.core` is delivered (R261). -/
def execCascadeArrival (s : State) : Host.Outcome State Fault Refusal := .next (s.handOff s.args.core)

/-! ### Accumulator tiles (R263 to R265) -/

/-- Change the wave's accumulator mask (R171). -/
def Wave.maskAcc (w : Wave) (ks : List Nat) (on : Bool) : Wave :=
  { w with accMask := ks.foldl (fun m k => if on then m ||| (1#32 <<< k) else m &&& ~~~(1#32 <<< k)) w.accMask }

/-- Every element of the tiles becomes 0. -/
def Core.zeroAcc (c : Core) (ks : List Nat) : Core := { c with acc := Table.keep c.acc (fun j => !ks.contains (j / 2048)) }

/-- The tiles of an `acc.take`, `acc.rel` or `acc.clr`. -/
def accRange (w : LaneWord) : List Nat := (List.range (w.va.toNat + 1)).map (· + w.vd.toNat)

/-- The check of a range: another domain's tile, then a tile held by another wave. -/
def accRangeCheck (ks : List Nat) (s : State) : Option Issue :=
  let tval (k : Nat) : Word := BitVec.ofNat 64 (k * 2 ^ 32)
  match ks.findSome? (fun k => accDomain s true k (tval k)) with
  | some r => some r
  | none => (ks.find? (fun k => match s.accHolder k with
      | some h => !h.ofWave s.wave
      | none => false)).map (fun k => .trap 7 (tval k) s)

/-- `acc.take` (R263). -/
def execAccTake (w : LaneWord) (s : State) : Host.Outcome State Fault Refusal :=
  matrixWord 0xE4 w (fun e _ s =>
    let ks := accRange w
    afterCheck (accRangeCheck ks s) (fun _ =>
      let new := ks.filter (fun k => (s.accHolder k).isNone)
      let h : Holder := { team := e.wave.cteam, twave := e.wave.twave, dom := e.wave.dom }
      let s := s.modCur (fun c => { c.zeroAcc new with accHold := new.foldl (fun t k => Table.put t k h) c.accHold })
      ordinaryDone (laneBytes w) [] (s.modWave (fun q => q.maskAcc ks true)))) s

/-- `acc.rel` (R263). -/
def execAccRel (w : LaneWord) (s : State) : Host.Outcome State Fault Refusal :=
  matrixWord 0xE4 w (fun _ _ s =>
    let ks := accRange w
    afterCheck (accRangeCheck ks s) (fun _ =>
      if ks.any (fun k => (s.core s.curCore).inUse (.acc k)) then .hold (s.count s.curCore 9 1)
      else
        let s := s.modCur (fun c => { c with accHold := Table.keep c.accHold (fun k => !ks.contains k) })
        ordinaryDone (laneBytes w) [] (s.modWave (fun q => q.maskAcc ks false)))) s

/-- `acc.clr` (R263). -/
def execAccClr (w : LaneWord) (s : State) : Host.Outcome State Fault Refusal :=
  matrixWord 0xE4 w (fun _ _ s =>
    let ks := accRange w
    afterCheck (accCheck true ks s) (fun _ => ordinaryDone (laneBytes w) [] (s.modCur (fun c => c.zeroAcc ks)))) s

/-- The scratchpad side of a transfer: the tile's checks, then the body (R180, R222, R264). -/
def tileSide (h n : Nat) (k : AccKind) (o : Nat) (s : State) (body : State → Issue) : Issue :=
  afterCheck (tileOwn h n 1 k [o] s) (fun _ =>
    afterCheck (tileReady h n k [o] s) (fun _ =>
      afterCheck (raceFault h n k.writes true [o] s) (fun _ => body (raceRecord h n k.writes true [o] s))))

/-- `acc.st` (R264). -/
def execAccSt (w : LaneWord) (s : State) : Host.Outcome State Fault Refusal :=
  matrixWord 0xE3 w (fun _ _ s =>
    let d := w.vd.toNat
    let h := w.va.toNat
    afterCheck (accCheck false [d] s) (fun _ =>
      tileSide h 8192 .store w.imm.toNat s (fun s =>
        let bytes := ((s.core s.curCore).accWords d).flatMap (fun v => leBytes 4 v.toNat)
        let s := s.storeSpad s.curCore s.curSlot s.curCore (tileByte (s.myTile h) w.imm.toNat) bytes
        longDone (laneBytes w) w.la.toNat s.lat.accMove [.tile h] [] s [.acc d]))) s

/-- `acc.ld` (R264). -/
def execAccLd (w : LaneWord) (s : State) : Host.Outcome State Fault Refusal :=
  matrixWord 0xE5 w (fun _ _ s =>
    let d := w.vd.toNat
    let h := w.va.toNat
    afterCheck (accCheck true [d] s) (fun _ =>
      tileSide h 8192 .load w.imm.toNat s (fun s =>
        let a := tileByte (s.myTile h) w.imm.toNat
        let c := s.core s.curCore
        let vals := (List.range 2048).map (fun j => BitVec.ofNat 32 (Bytes.readLE c.spad (a + 4 * j) 4))
        longDone (laneBytes w) w.la.toNat s.lat.accMove [.acc d] [] (s.modCur (fun c => c.setAcc d vals))))) s

/-- The exact value of an accumulator element under the source of `acc.cvt` (R265). -/
def accSource (src : Nat) (low high : Word32) : Fv :=
  match src with
  | 0 => Fmt.f32.decode low.toNat
  | 1 => Fv.ofInt low.toInt
  | 2 => Fv.ofInt (toSigned 64 (low.toNat + 2 ^ 32 * high.toNat))
  | _ => .fin (decide (low.toInt < 0)) low.toInt.natAbs (-6)

/-- One element converted: its code and flags (R134, R265). -/
def accConvert (n : Narrow) (src ty p : Nat) (x : Fv) : Nat × BitVec 4 :=
  if ty < 8 then
    let r := narrowInt n (intMin ty) (intMax ty) x
    (wrapTo (intWidth ty) r.1, r.2)
  else
    let d := cvtFmt ty p n.b8inf
    let exact := match src with
      | 0 => fmtFitsFmt .f32 d
      | 1 => intFitsFmt 2 d
      | 2 => intFitsFmt 3 d
      | _ => false
    convertFp n exact d x

/-- `acc.cvt` (R265). -/
def execAccCvt (w : LaneWord) (s : State) : Host.Outcome State Fault Refusal :=
  matrixWord 0xE6 w (fun e _ s =>
    let d := w.vd.toNat
    let h := w.va.toNat
    let ty := w.ty.toNat
    let src := accCvtSrc w
    let size := typeWidth ty / 8
    afterCheck (accCheck false (if src = 2 then [d, d + 1] else [d]) s) (fun _ =>
      tileSide h (2048 * size) .store w.imm.toNat s (fun s =>
        let c := s.core s.curCore
        let n := narrowOf e.wave.csrs.nround
        let rs := ((c.accWords d).zip (if src = 2 then c.accWords (d + 1) else c.accWords d)).map
          (fun v => accConvert n src ty (dstP w) (accSource src v.1 v.2))
        let bytes := rs.flatMap (fun r => leBytes size r.1)
        let flags := rs.foldl (fun (a : BitVec 4) r => a ||| r.2) 0
        let s := s.storeSpad s.curCore s.curSlot s.curCore (tileByte (s.myTile h) w.imm.toNat) bytes
        longDone (laneBytes w) w.la.toNat s.lat.accMove [.tile h, .nround] (flagUpd flags) s
          (if src = 2 then [.acc d, .acc (d + 1)] else [.acc d])))) s

end Sys2Proof.Machine
end

