-- ==== Sys2Proof/Machine/Counting.lean ====
section
/-! DEFINITION. The counting array: its reservation, its words, and its spill images (R48 to R51, R363 to R372). -/

namespace Sys2Proof.Machine

/-! ### The record (R364) -/

def Core.cntPair (c : Core) : Nat := fld c.cntRec.w0 2 0
def Core.cntOvt (c : Core) : Bool := c.cntRec.w0.getLsbD 3
def Core.cntWide (c : Core) : Bool := c.cntRec.w2.getLsbD 7
def Core.cntHeld (c : Core) : Bool := c.cntRec.w2.getLsbD 6
def Core.cntDom (c : Core) : Nat := fld c.cntRec.w2 23 16

/-- The array is held by a wave of the acting wave's team, or by the wave itself. -/
def Core.cntOfTeam (c : Core) (w : Wave) : Bool := c.cntHeld && c.cntRec.team = w.cteam && c.cntDom = w.dom
def Core.cntOfWave (c : Core) (w : Wave) : Bool := c.cntOfTeam w && fld c.cntRec.w2 31 24 = w.twave

/-- xtval of a check on the array. -/
def cntTval : Word := BitVec.ofNat 64 (40 * 2 ^ 32)

/-- The array is held under another domain (POINT 5, INDEX 40). -/
def cntDomain (s : State) (write : Bool) : Option Issue :=
  let c := s.core s.curCore
  if c.cntHeld && c.cntDom ≠ s.wave.dom then some (domFault s write 40 5 c.cntDom cntTval) else none

/-- A counting word of the core is incomplete. -/
def Core.cntBusy (c : Core) : Bool := c.inUse (.bank 2)

/-- The locations every counting word occupies beside those it writes. -/
def cntLocs (bs : List Nat) : List Loc := .bank 2 :: bs.map .bank

/-! ### Pairs and counters (R48, R49, R51) -/

/-- Value of a 4-bit code in units: of 1 for I4 and N4, of 2^-3 for L4. -/
def nibbleUnits (kind c : Nat) : Int :=
  if kind = 0 then toSigned 4 c
  else if kind = 1 then ((c % 16 : Nat) : Int)
  else if c % 8 = 0 then 0
  else if bit c 3 then -(2 ^ (c % 8 - 1) : Int) else 2 ^ (c % 8 - 1)

/-- Kinds of A and B under a PAIR code. -/
def pairKinds (pair : Nat) : Nat × Nat :=
  match pair with
  | 0 => (0, 0)
  | 1 => (0, 1)
  | 2 => (1, 0)
  | 3 => (1, 1)
  | _ => (2, 2)

/-- Index of the counter that a pair of codes selects. -/
def cntIndex (pair a b : Nat) : Nat :=
  let k := pairKinds pair
  let y := nibbleUnits k.1 a * nibbleUnits k.2 b
  match pair with
  | 0 => (y + 56).toNat
  | 1 => (y + 120).toNat
  | 2 => (y + 120).toNat
  | 3 => y.toNat
  | _ =>
    let sigma := a % 8 + b % 8
    if y = 0 then 0 else if 0 < y then sigma - 1 else sigma + 12

/-- What one count at an index adds to S: the product, or for L4 units of 2^-6. -/
def cntValue (pair i : Nat) : Int :=
  match pair with
  | 0 => (i : Int) - 56
  | 1 => (i : Int) - 120
  | 2 => (i : Int) - 120
  | 3 => i
  | _ => if i = 0 then 0 else if i ≤ 13 then 2 ^ (i - 1) else -(2 ^ (i - 14) : Int)

/-- Some pair of codes selects the counter. -/
def cntReachable (pair i : Nat) : Bool :=
  (List.range 16).any (fun a => (List.range 16).any (fun b => cntIndex pair a b = i))

/-- KMAX (R50). -/
def kMax : Nat := 16383

/-- Counter `i` of the view named by bank `b`: of the wide bank, or of k0 or k1. -/
def Core.counter (c : Core) (b cell i : Nat) : Nat := Table.get c.bank (256 * cell + 128 * b + i) 0

/-- Counters in a view. -/
def Core.viewSize (c : Core) : Nat := if c.cntWide then 256 else 128

/-- Replace every counter; a counter of 0 is not listed. -/
def Core.setBank (c : Core) (f : Nat → Nat → Nat) : Core :=
  { c with bank := (List.range 512).flatMap (fun cell => (List.range 256).filterMap (fun j =>
      if f cell j = 0 then none else some (256 * cell + j, f cell j))) }

/-- Replace the counters of view `b` and keep the others. -/
def Core.setView (c : Core) (b : Nat) (f : Nat → Nat → Nat) : Core :=
  c.setBank (fun cell j =>
    if 128 * b ≤ j ∧ j < 128 * b + c.viewSize then f cell (j - 128 * b) else Table.get c.bank (256 * cell + j) 0)

/-- Replace the overflow flags; a clear flag is not listed. -/
def Core.setFlags (c : Core) (f : Nat → Bool) : Core :=
  { c with cellFlag := (List.range 512).filterMap (fun cell => if f cell then some (cell, true) else none) }

/-- Overflow flag of a cell. -/
def Core.flagOf (c : Core) (cell : Nat) : Bool := Table.get c.cellFlag cell false

/-! ### Reservation (R365) -/

/-- `cnt.rsv`. -/
def execCntRsv (a d : BitVec 5) (s : State) : Host.Outcome State Fault Refusal :=
  deviceIssue (.cntRsv a d) 2 (xLocs [a, d] ++ cntLocs [0, 1]) (fun s =>
    let w := s.wave
    let c := s.core s.curCore
    let v := w.getX a.toNat
    afterCheck (cntDomain s true) (fun _ =>
      if c.cntHeld then scalarX s d (if c.cntOfWave w then 4 else 1)
      else if fld v 63 4 ≠ 0 ∨ 4 < fld v 2 0 then scalarX s d 3
      else
        let wide := decide (1 ≤ fld v 2 0 ∧ fld v 2 0 ≤ 3)
        let w2 := BitVec.ofNat 64 (w.twave * 2 ^ 24 + w.dom * 2 ^ 16 + b2n wide * 2 ^ 7 + 64)
        let s := s.modCur (fun c => { c with bank := [], cellFlag := [], cntRec := { w0 := v, w1 := 0, w2 := w2, team := w.cteam } })
        scalarX s d 0)) s

/-- `cnt.rsv.rel`. -/
def execCntRsvRel (d : BitVec 5) (s : State) : Host.Outcome State Fault Refusal :=
  deviceIssue (.cntRsvRel d) 2 (xLocs [d]) (fun s =>
    let c := s.core s.curCore
    afterCheck (cntDomain s true) (fun _ =>
      if !c.cntOfWave s.wave then scalarX s d 1
      else if c.cntBusy then .hold (s.count s.curCore 9 1)
      else scalarX (s.modCur (fun c => { c with cntRec := {} })) d 0)) s

/-- The holding check of the counting words. -/
def cntCheck (team write : Bool) (s : State) : Option Issue :=
  match cntDomain s write with
  | some r => some r
  | none =>
    let c := s.core s.curCore
    if (if team then c.cntOfTeam s.wave else c.cntOfWave s.wave) then none
    else some (.trap (if team then 5 else 7) cntTval s)

/-- `cnt.clr`: the named banks, or the wide bank, and every overflow flag. -/
def execCntClr (k : BitVec 3) (s : State) : Host.Outcome State Fault Refusal :=
  deviceIssue (.cntClr k) 2 (.bank 3 :: cntLocs [0, 1]) (fun s =>
    afterCheck (cntCheck false true s) (fun _ =>
      scalarDone (s.modCur (fun c =>
        (c.setBank (fun cell j =>
          if c.cntWide || k.getLsbD (j / 128) then 0 else Table.get c.bank (256 * cell + j) 0)).setFlags (fun _ => false))) id)) s

/-! ### The counting words (R366 to R371) -/

/-- A counting word: decode checks, the full mask, the holding check, its record check, then its body. -/
def cntWord (major : Nat) (team : Bool) (w : LaneWord) (fits : Core → Bool) (body : State → Issue) (s : State) :
    Host.Outcome State Fault Refusal :=
  matrixWord major w (fun _ _ s =>
    afterCheck (cntCheck team (!team) s) (fun _ =>
      if !fits (s.core s.curCore) then .trap 2 (laneLow major false false w) s else body s)) s

/-- The word starts only when no other counting word of the core is incomplete. -/
def cntStart (s : State) (k : Unit → Issue) : Issue :=
  if (s.core s.curCore).cntBusy then .hold (s.count s.curCore 9 1) else k ()

/-- The cells that saturated raise cause 31 at completion, where it is enabled (R367, R368). -/
def cntTrap (c : Core) (sat : Nat → Bool) : List Upd :=
  if c.cntOvt then
    match (List.range 512).find? sat with
    | some cell => [.defer 31 (BitVec.ofNat 64 cell)]
    | none => []
  else []

/-- PAIR that the types of a `cnt.acc` name; 5 for a mixed pair with L4. -/
def accPair (w : LaneWord) : Nat :=
  match bits w.func.toNat 1 0, bits w.func.toNat 3 2 with
  | 0, 0 => 0
  | 0, 1 => 1
  | 1, 0 => 2
  | 1, 1 => 3
  | 2, 2 => 4
  | _, _ => 5

/-- Nibble `j` of a byte address. -/
def nibbleAt (c : Core) (a j : Nat) : Nat := (Bytes.read c.spad a).toNat / 16 ^ j % 16

/-- The pairs of each counter of a cell among K codes (R367). -/
def cntTally (c : Core) (pair aBase bBase k m n : Nat) : List Nat :=
  (List.range k).map (fun j =>
    cntIndex pair (nibbleAt c (aBase + 8 * j + m / 2) (m % 2)) (nibbleAt c (bBase + 16 * j + n / 2) (n % 2)))

/-- `cnt.acc`. -/
def execCntAcc (w : LaneWord) (s : State) : Host.Outcome State Fault Refusal :=
  let b := w.vd.toNat
  let ta := w.va.toNat
  let tb := w.vb.toNat
  let i := w.imm.toNat
  let k := 16 * (bits i 11 0 + 1)
  let oa := 1024 * bits i 20 12
  let ob := 1024 * bits i 29 21
  cntWord 0xE8 false w (fun c => accPair w = c.cntPair && !(c.cntWide && b ≠ 0)) (fun s =>
    afterCheck (tileOwn ta (8 * k) 1 .load [oa] s) (fun _ =>
      afterCheck (tileOwn tb (16 * k) 1 .load [ob] s) (fun _ =>
        afterCheck (tileReady ta (8 * k) .load [oa] s) (fun _ =>
          afterCheck (tileReady tb (16 * k) .load [ob] s) (fun _ =>
            cntStart s (fun _ =>
              let c := s.core s.curCore
              let aBase := 1024 * tFirst (s.myTile ta) + oa
              let bBase := 1024 * tFirst (s.myTile tb) + ob
              let tally : List (List Nat) :=
                (List.range 512).map (fun cell => cntTally c c.cntPair aBase bBase k (cell / 32) (cell % 32))
              let sum (cell j : Nat) : Nat := c.counter b cell j + (tally.getD cell []).count j
              let sat (cell : Nat) : Bool := (List.range c.viewSize).any (fun j => decide (kMax < sum cell j) && decide (0 < (tally.getD cell []).count j))
              let c' := (c.setView b (fun cell j => if kMax < sum cell j then kMax else sum cell j)).setFlags
                (fun cell => c.flagOf cell || sat cell)
              longDone (laneBytes w) w.la.toNat ((k + 255) / 256 + 2) (cntLocs [b]) (cntTrap c sat) (s.modCur (fun _ => c')))))))) s

/-- `cnt.mrg`. -/
def execCntMrg (w : LaneWord) (s : State) : Host.Outcome State Fault Refusal :=
  cntWord 0xE9 false w (fun c => !c.cntWide) (fun s =>
    cntStart s (fun _ =>
      let c := s.core s.curCore
      let sum (cell j : Nat) : Nat := c.counter 0 cell j + c.counter 1 cell j
      let sat (cell : Nat) : Bool := (List.range 128).any (fun j => decide (kMax < sum cell j))
      let c' := (c.setBank (fun cell j => if 128 ≤ j then 0 else if kMax < sum cell j then kMax else sum cell j)).setFlags
        (fun cell => c.flagOf cell || sat cell)
      longDone (laneBytes w) w.la.toNat s.lat.countShort (cntLocs [0, 1]) (cntTrap c sat) (s.modCur (fun _ => c')))) s

/-- S of a cell: the drained sum of a view (R51). -/
def Core.drained (c : Core) (b cell : Nat) : Int :=
  (List.range c.viewSize).foldl (fun a j => a + (c.counter b cell j : Int) * cntValue c.cntPair j) 0

/-- A raw result that is exact, as a value. -/
def Raw.exact : Raw → Fv
  | .nan _ => .nan false
  | .inf neg _ => .inf neg
  | .num neg m e _ => .fin neg m e

/-- The element a drain writes. -/
def drainElement (c : Core) (w : LaneWord) (b cell old : Nat) (rho gamma : Fv) : Nat :=
  let sum := c.drained b cell
  let add := w.func.getLsbD 0
  if w.ty = 2 then wrapTo 32 (if add then (old : Int) + sum else sum)
  else
    let x : Fv := .fin (decide (sum < 0)) sum.natAbs (if c.cntPair = 4 then -6 else 0)
    let xr := Raw.exact (x.mul rho)
    Fmt.f32.result .rne (if add then xr.fma .rne gamma (Fmt.f32.decode old) else xr.mul gamma)

/-- `cnt.drn`. -/
def execCntDrn (w : LaneWord) (s : State) : Host.Outcome State Fault Refusal :=
  let d := w.vd.toNat
  let b := w.va.toNat
  let h := w.vb.toNat
  let o := w.imm.toNat
  let sc := w.func.getLsbD 1
  let qr := b2n (w.func.getLsbD 2)
  let qc := b2n (w.func.getLsbD 3)
  matrixWord 0xEA w (fun _ _ s =>
    afterCheck (cntDomain s true) (fun _ =>
      afterCheck (accDomain s true d (BitVec.ofNat 64 (d * 2 ^ 32))) (fun _ =>
        afterCheck (cntCheck false true s) (fun _ =>
          afterCheck (accCheck true [d] s) (fun _ =>
            if (s.core s.curCore).cntWide && b ≠ 0 then .trap 2 (laneLow 0xEA false false w) s
            else
              let os := if sc then [o] else []
              afterCheck (tileOwn h 96 1 .load os s) (fun _ =>
                if sc && o % 2 ≠ 0 then .trap 5 (tileTval h o) s
                else
                  afterCheck (tileReady h 96 .load os s) (fun _ =>
                    cntStart s (fun _ =>
                      let c := s.core s.curCore
                      let a := tileByte (s.myTile h) o
                      let scale (k : Nat) : Fv :=
                        if sc then Fmt.f16.decode (Bytes.readLE c.spad (a + k) 2) else .fin false 1 0
                      let old := c.accWords d
                      let vals := (List.range 2048).map (fun e =>
                        let m := e / 64
                        let n := e % 64
                        let v := old.getD e 0
                        if m / 16 = qr ∧ n / 32 = qc then
                          BitVec.ofNat 32 (drainElement c w b (32 * (m % 16) + n % 32) v.toNat (scale (2 * (m % 16)))
                            (scale (32 + 2 * (n % 32))))
                        else v)
                      let c' := ((c.setAcc d vals).setView b (fun _ _ => 0)).setFlags (fun _ => false)
                      longDone (laneBytes w) w.la.toNat s.lat.countShort (cntLocs [b] ++ [.acc d]) [] (s.modCur (fun _ => c')))))))))) s

/-! ### Images (R371, R372) -/

/-- Bytes of one cell's block of a view. -/
def Core.blockBytes (c : Core) : Nat := 14 * c.viewSize / 8

/-- The block of a cell: counters of 14 bits, the overflow flag in the last. -/
def Core.cellBlock (c : Core) (b cell : Nat) : List Byte :=
  let n := c.viewSize
  leBytes c.blockBytes ((List.range (n - 1)).foldl (fun a j => a + c.counter b cell j * 2 ^ (14 * j)) 0 +
    b2n (c.flagOf cell) * 2 ^ (14 * (n - 1)))

/-- The image of a view. -/
def Core.image (c : Core) (b : Nat) : List Byte := (List.range 512).flatMap (c.cellBlock b)

/-- The image of every bank: k0 then k1, or the wide bank. -/
def Core.fullImage (c : Core) : List Byte := if c.cntWide then c.image 0 else c.image 0 ++ c.image 1

/-- Load the image of a view from bytes: reachable counters, and flags ORed. -/
def Core.loadImage (c : Core) (b : Nat) (bytes : List Byte) : Core :=
  let n := c.viewSize
  let block (cell : Nat) : Nat := leValue ((bytes.drop (c.blockBytes * cell)).take c.blockBytes)
  (c.setView b (fun cell j =>
    if cntReachable c.cntPair j then bits (block cell) (14 * j + 13) (14 * j) else 0)).setFlags
      (fun cell => c.flagOf cell || bit (block cell) (14 * (n - 1)))

/-- `cnt.spl`. -/
def execCntSpl (w : LaneWord) (s : State) : Host.Outcome State Fault Refusal :=
  let b := w.vd.toNat
  let h := w.va.toNat
  let o := 1024 * w.imm.toNat
  cntWord 0xEB true w (fun c => !(c.cntWide && b ≠ 0)) (fun s =>
    let c := s.core s.curCore
    tileSide h (512 * c.blockBytes) .store o s (fun s =>
      cntStart s (fun _ =>
        let s := s.storeSpad s.curCore s.curSlot s.curCore (tileByte (s.myTile h) o) (c.image b)
        longDone (laneBytes w) w.la.toNat (if c.cntWide then s.lat.countWide else s.lat.countImage) [.tile h, .bank 3] [] s [.bank 2]))) s

/-- `cnt.fil`. -/
def execCntFil (w : LaneWord) (s : State) : Host.Outcome State Fault Refusal :=
  let b := w.vd.toNat
  let h := w.va.toNat
  let o := 1024 * w.imm.toNat
  cntWord 0xEC false w (fun c => !(c.cntWide && b ≠ 0)) (fun s =>
    let size := 512 * (s.core s.curCore).blockBytes
    tileSide h size .load o s (fun s =>
      cntStart s (fun _ =>
        let c := s.core s.curCore
        let c' := c.loadImage b (Bytes.readList c.spad (tileByte (s.myTile h) o) size)
        longDone (laneBytes w) w.la.toNat (if c.cntWide then s.lat.countWide else s.lat.countImage) (cntLocs [b]) []
          (s.modCur (fun _ => c'))))) s

end Sys2Proof.Machine
end

