-- ==== Sys2Proof/Machine/Turn.lean ====
section
/-! DEFINITION. A slot's own turn before its word: the turn count and slot timer, results that become complete, deferred
causes and interrupts, the start of a handover, and the fetch (R18 to R25, R73, R97, R138, R159 to R165, R172, R173). -/

namespace Sys2Proof.Machine

/-! ### The turn count, the timer and completion -/

/-- The results of a slot's long-latency words that are complete by its turn count are written (R20, R138). -/
def State.completeDue (s : State) (c i : Nat) : State :=
  let w := (s.slotAt c i).wave
  let ready (o : PendingOp) : Bool := decide (o.due ≤ w.csrs.turn.toNat) && o.acks = []
  let done := w.pending.filter ready
  (s.applyAllAt c i (done.flatMap (fun o => o.upds))).modWaveAt c i
    (fun w => { w with pending := w.pending.filter (fun o => !ready o) })

/-- The advance of an own turn: `turn`, the slot timer, and the domain's occupied turns (R18, R97, R376). -/
def State.tick (s : State) (c i : Nat) : State :=
  let s := s.modWaveAt c i (fun w => { w with csrs := { w.csrs with turn := w.csrs.turn + 1 }.timer })
  let w := (s.slotAt c i).wave
  let n := if w.widthCode = 3 then 2 else 1
  let k := (s.core c).residueKey w.dom
  let s := s.modCore c (fun q => { q with residue := Table.put q.residue k (Table.get q.residue k 0 + n) })
  if Table.get (s.core c).residue k 0 < 1024 then s
  else s.schedule 0 .coreBudgetCharge { core := c, a := w.dom }

/-! ### Interrupts and deferred causes (R159, R161, R162) -/

/-- A wait that an interrupt, a deferred cause or a pre-emption ends: all but that of `elect`, of a `ch.recv` that has
consumed an element, and of a `seg.att` whose row has been applied (R162). Those of `seg.evict` and `seg.det`, which R162
names neither way, end: their slot runs (R32), so that row 4 of R165 comes before row 5 (DEDUCED, log 38). -/
def WaitKind.endable : WaitKind → Bool
  | .elect _ _ _ => false
  | .recv vals => vals = []
  | .segAtt _ => false
  | _ => true

/-- The wave may take an interrupt or a deferred cause at its turn. -/
def Wave.interruptible (w : Wave) : Bool :=
  match w.wait with
  | some q => q.kind.endable
  | none => true

/-- The pending and enabled interrupt to be taken, if any: one that traps to M-mode first, SSI before STI. -/
def Wave.interrupt (w : Wave) : Option Nat :=
  let c := w.csrs
  let on (n : Nat) : Bool := bit (c.mip &&& c.mie).toNat n
  let toM (n : Nat) : Bool := on n && (w.mode = .m || !bit c.mideleg.toNat n)
  let mOk := w.mode ≠ .m || c.mstatus.getLsbD 3
  let toS (n : Nat) : Bool := on n && w.mode ≠ .m && bit c.mideleg.toNat n
  let sOk := w.mode = .u || (w.mode = .s && c.mstatus.getLsbD 1)
  let mTaken (n : Nat) : Bool := toM n && mOk && !bit c.mideleg.toNat n
  match [1, 5].find? mTaken with
  | some n => some n
  | none => [1, 5].find? (fun n => toS n && sOk)

/-- The trap of an interrupt on the wave's next word. -/
def State.takeInterrupt (s : State) (c i : Nat) : State :=
  let w := (s.slotAt c i).wave
  match w.interrupt with
  | some n =>
    if w.interruptible then
      let s := (s.leaveWait c i).interruptSequencer c i
      s.trapAt c i true n 0 (s.slotAt c i).wave.pc
    else s
  | none => s

/-- A precise cause that something outside the wave raised on its next word is taken there (R361, R417). -/
def State.takeRaised (s : State) (c i cause : Nat) (tval : Word) : State :=
  let s := (s.leaveWait c i).interruptSequencer c i
  (s.modWaveAt c i (fun w => { w with raised := none })).trapAt c i false cause tval (s.slotAt c i).wave.pc

/-- The first deferred cause of a slot is taken on its next word. -/
def State.takeDeferred (s : State) (c i : Nat) : State :=
  let w := (s.slotAt c i).wave
  match w.deferred with
  | (cause, tval) :: rest =>
    if w.interruptible then
      let s := (s.leaveWait c i).interruptSequencer c i
      let s := if cause = 31 then s.modCore c (fun q => { q with cntRec := { q.cntRec with w1 := 0 } }) else s
      (s.modWaveAt c i (fun w => { w with deferred := rest })).trapAt c i false cause tval (s.slotAt c i).wave.pc
    else s
  | [] => s

/-! ### The start of a handover (R172, R173) -/

/-- A ring runs or holds an entry that the wave posted. -/
def Ring.heldBy (r : Ring) (csa : Nat) : Bool :=
  (match r.running with
    | some q => q.poster.csa = csa
    | none => false) || r.posters.any (fun p => p.csa = csa)

/-- The wave may be handed over now: it holds no lock, or its grace has passed (R172). -/
def Wave.graceOver (w : Wave) (s : State) : Bool :=
  w.locks = 0 || (match w.graceFrom with
    | some t => decide (t + s.cfg.reclaim * 1900 ≤ s.cycle)
    | none => false)

/-- The wave is parked late. -/
def Wave.lateParked (w : Wave) : Bool :=
  match w.park with
  | some p => p.late
  | none => false

/-- An engine is asked to stop what it runs or holds of a wave (R173 step 8). -/
def State.askRing (s : State) (c i csa id : Nat) : State :=
  ({ s with rings := s.rings.map (fun (r : Ring) =>
      if r.id = id then { r with asked := csa :: r.asked.filter (· ≠ csa) } else r) }).schedule 10
    .engineStopAck { core := c, slot := i, a := id }

/-- A slot starts handing over: it issues nothing, its windows close, its engines are asked to stop (R23, R173). -/
def State.beginHandover (s : State) (c i : Nat) : State :=
  let w := (s.slotAt c i).wave
  let s := if w.lateParked then s else (s.leaveWait c i).interruptSequencer c i
  let s := s.modDie (dieOf c) (fun d => d.dropCompat c i)
  let s := s.modSlotAt c i (fun k =>
    { k with
      state := .handingOver,
      wave := { k.wave.closeWindows with
        reservation := none, wait := none, graceFrom := none, lateResolved := false,
        busy := match k.wave.busy with
          | some (.registerMiss a b d) => some (.registerMiss a b d)
          | _ => none } })
  let s := (s.rings.filter (fun (r : Ring) => r.heldBy w.csa)).foldl (fun s r => s.askRing c i w.csa r.id) s
  s.schedule 64 .handoverComplete { core := c, slot := i }

/-- The grace of a lock holder starts to count at the first own turn at which a request is pending (R172). -/
def State.startGrace (s : State) (c i : Nat) : State :=
  let k := s.slotAt c i
  if k.prq ∧ k.wave.locks ≠ 0 ∧ k.wave.graceFrom = none ∧ k.state ≠ .handingOver ∧ k.state ≠ .retiring then
    s.modWaveAt c i (fun w => { w with graceFrom := some s.cycle })
  else s

end Sys2Proof.Machine
end

