-- ==== Sys2Proof/Machine/EngineBase.lean ====
section
/-! DEFINITION. Command rings and their entries, what an engine command names, how entries are published, and an engine's
accesses to global memory (R173, R191, R216, R277 to R284, R396). -/

namespace Sys2Proof.Machine

/-! ### Numbers in lists of bytes -/

/-- The little-endian number in bytes `o` to `o + n − 1`. -/
def numAt (bs : List Byte) (o n : Nat) : Nat := leValue ((bs.drop o).take n)

/-! ### Rings (R277, R282) -/

/-- First scratchpad byte of a tile table entry. -/
def Core.tileBase (c : Core) (e : Nat) : Nat := 1024 * tFirst (c.tile e).1

/-- Header fields of a ring tile. -/
def Core.ringWidx (c : Core) (e : Nat) : Nat := Bytes.readLE c.spad (c.tileBase e) 4
def Core.ringRidx (c : Core) (e : Nat) : Nat := Bytes.readLE c.spad (c.tileBase e + 4) 4
def Core.ringKind (c : Core) (e : Nat) : Nat := Bytes.readLE c.spad (c.tileBase e + 8) 1
def Core.ringN (c : Core) (e : Nat) : Nat := Bytes.readLE c.spad (c.tileBase e + 12) 4

/-- MW: the modulus of WIDX and RIDX. -/
def ringMod (n : Nat) : Nat := n * (2 ^ 32 / n)

/-- Scratchpad byte of entry `i` of a ring. -/
def Core.entryAddr (c : Core) (e i : Nat) : Nat := c.tileBase e + 32 + 32 * (i % c.ringN e)

/-- The 32 bytes of entry `i`. -/
def Core.entryImage (c : Core) (e i : Nat) : List Byte := Bytes.readList c.spad (c.entryAddr e i) 32

/-- Class of a ring KIND. -/
def ringClass (kind : Nat) : Option EngClass :=
  if kind = 0x43 then some .copy else if kind = 0x44 then some .dcz else if kind = 0x4C then some .coll else none

/-- A header is that of a usable ring of its tile. -/
def Core.ringOk (c : Core) (e : Nat) : Bool := decide (1 ≤ c.ringN e ∧ 32 * (c.ringN e + 1) ≤ tLen (c.tile e).1)

/-- Ring `id`. -/
def State.ring (s : State) (id : Nat) : Option Ring := s.rings.find? (fun (r : Ring) => r.id = id)

/-- The ring bound for a tile of a core. -/
def State.ringAt (s : State) (core e : Nat) : Option Ring := s.rings.find? (fun (r : Ring) => r.core = core && r.tile = e)

/-- Change a ring. -/
def State.modRing (s : State) (id : Nat) (f : Ring → Ring) : State :=
  { s with rings := s.rings.map (fun (r : Ring) => if r.id = id then f r else r) }

/-- Where an engine stands: a die, or hub 0 or 1 for collectives. -/
def Ring.home (r : Ring) : Nat := if r.cls = .coll then dieOf r.core / 4 else dieOf r.core

/-- Engines of a class at one place (R11, R395). -/
def engineCount : EngClass → Nat
  | .copy => 8
  | .dcz => 2
  | .coll => 4

/-- The same engine serves both rings. -/
def Ring.sharesEngine (r q : Ring) : Bool := r.cls = q.cls && r.home = q.home && r.engine = q.engine

/-- The engine of a class with the fewest bound rings, lowest number first (R282). -/
def State.chooseEngine (s : State) (cls : EngClass) (home : Nat) : Nat :=
  let load (k : Nat) : Nat := (s.rings.filter (fun (r : Ring) => r.cls = cls && r.home = home && r.engine = k)).length
  let ks := List.range (engineCount cls)
  match leastOf (ks.map load) with
  | some m => (ks.find? (fun k => load k = m)).getD 0
  | none => 0

/-! ### Entries (R279, R284) -/

/-- A copy entry. -/
structure CopyEntry where
  src : Nat
  dst : Nat
  layout : Nat
  dir : Nat
  barv : Bool
  bar : Nat
  mc : Bool
  mcbase : Nat
  mcmask : Nat
  zeros : Bool
deriving DecidableEq, Repr

/-- The fields of a copy image; `zeros` says that every bit it marks zero is. -/
def CopyEntry.ofImage (bs : List Byte) : CopyEntry :=
  let ctl := numAt bs 24 7
  let dir := bits ctl 1 0
  let src := numAt bs 0 8
  let dst := numAt bs 8 8
  let layout := numAt bs 16 8
  let plain (v : Nat) : Bool := v / 2 ^ 27 = 0
  { src := src, dst := dst, layout := layout, dir := dir, barv := bit ctl 3, bar := bits ctl 7 4, mc := bit ctl 8,
    mcbase := bits ctl 15 9, mcmask := bits ctl 47 16,
    zeros := bits ctl 55 48 = 0 && bits ctl 2 2 = 0 && decide (layout < 2 ^ 49) && layout % 64 = 0 &&
      (dir ≠ 1 || plain src) && (dir ≠ 0 || plain dst) }

/-- Handle and offset of a tile designator. -/
def desHandle (d : Nat) : Nat := bits d 7 0
def desOffset (d : Nat) : Nat := bits d 26 8

/-- A decompression entry. -/
structure DczEntry where
  src : Nat
  slen : Nat
  olim : Nat
  dst : Nat
  fmt : Nat
  dict : Nat
  dv : Bool
  pdf : Bool
  pdw : Nat
  bar : Nat
  barv : Bool
  legal : Bool
deriving DecidableEq, Repr

/-- The fields of a decompression image; `legal` says that it meets every limit checked at post. -/
def DczEntry.ofImage (bs : List Byte) : DczEntry :=
  let src := numAt bs 0 8
  let slen := numAt bs 8 4
  let olim := numAt bs 12 4
  let c := numAt bs 16 8
  let pdw := bits c 31 18
  let pdf := bit c 17
  let dv := bit c 16
  let dict := bits c 15 12
  let fmt := bits c 11 8
  { src := src, slen := slen, olim := olim, dst := bits c 7 0, fmt := fmt, dict := dict, dv := dv, pdf := pdf, pdw := pdw,
    bar := bits c 35 32, barv := bit c 36,
    legal := decide (src < 2 ^ 49 ∧ 1 ≤ slen ∧ 1 ≤ olim ∧ fmt < 4 ∧ c / 2 ^ 37 = 0) &&
      (if pdf then decide (1 ≤ pdw) else pdw = 0) && (dv || dict = 0) && (!dv || fmt = 3) && numAt bs 24 7 = 0 }

/-- BARV and BAR of an entry of a class (R279, R284, R396). -/
def entryBarrier (cls : EngClass) (bs : List Byte) : Option Nat :=
  match cls with
  | .copy => let e := CopyEntry.ofImage bs; if e.barv then some e.bar else none
  | .dcz => let e := DczEntry.ofImage bs; if e.barv then some e.bar else none
  | .coll => let v := numAt bs 25 1; if bit v 4 then some (bits v 3 0) else none

/-! ### Entries and groups (R395, R396) -/

/-- A collective entry. -/
structure CollEntry where
  src : Nat
  dst : Nat
  count : Nat
  group : Nat
  op : Nat
  ty : Nat
  red : Nat
  root : Nat
  zeros : Bool
deriving DecidableEq, Repr

/-- The fields of an image. -/
def CollEntry.ofImage (bs : List Byte) : CollEntry :=
  let t := numAt bs 23 1
  { src := numAt bs 0 8, dst := numAt bs 8 8, count := numAt bs 16 4, group := numAt bs 20 2, op := numAt bs 22 1,
    ty := t % 16, red := t / 16, root := numAt bs 24 1, zeros := numAt bs 26 5 = 0 && decide (numAt bs 25 1 < 32) }

/-- Element bytes. -/
def CollEntry.esize (e : CollEntry) : Nat := if e.ty = 8 ∨ e.ty = 9 then 2 else if e.ty % 4 = 3 then 8 else 4

/-- Elements of SRC and of DST for `p` ranks. -/
def CollEntry.srcCount (e : CollEntry) (p : Nat) : Nat := if e.op = 2 then p * e.count else e.count
def CollEntry.dstCount (e : CollEntry) (p : Nat) : Nat := if e.op = 1 then p * e.count else e.count

/-- The limits of R396 that depend on no group. -/
def CollEntry.legal (e : CollEntry) : Bool :=
  e.zeros && decide (e.src < 2 ^ 49 ∧ e.dst < 2 ^ 49 ∧ 1 ≤ e.count ∧ e.op < 4 ∧ e.red < 3) &&
    [2, 3, 6, 7, 8, 9, 10, 11].contains e.ty

/-- The limits of R396 for a group of `p` ranks. -/
def CollEntry.fits (e : CollEntry) (p : Nat) : Bool :=
  (e.op ≠ 0 || decide (e.root < p)) && decide (e.srcCount p * e.esize ≤ 2 ^ 32 ∧ e.dstCount p * e.esize ≤ 2 ^ 32)

/-- A group: ranks, own rank, domain, and the peer index of each rank. -/
structure Group where
  ranks : Nat
  mine : Nat
  dom : Nat
  peers : List Nat
deriving DecidableEq, Repr

/-- The other ranks of a group. -/
def Group.others (g : Group) : List Nat := (List.range g.ranks).filter (· ≠ g.mine)

/-- A set of ranks as the mask of UNDEL (R281, R398). -/
def rankMask (rs : List Nat) : Nat := rs.foldl (fun a r => a + 2 ^ r) 0

/-- Group `g`, where its entry is valid. -/
def State.group (s : State) (g : Nat) : Option Group :=
  let bs := leBytes 64 (s.readPhys ((s.reg 0x18300).toNat + 64 * g) 64)
  let p := numAt bs 2 1
  if numAt bs 0 1 = 1 ∧ 1 ≤ p ∧ p ≤ 32 ∧ numAt bs 3 1 < p ∧ numAt bs 4 4 = 0 ∧ numAt bs 40 24 = 0 then
    some { ranks := p, mine := numAt bs 3 1, dom := numAt bs 1 1, peers := (List.range p).map (fun r => numAt bs (8 + r) 1) }
  else none

/-- Entry of the peer table of a rank's device; an index of 64 or more names no peer (DESIGN CHOICE, log 32). -/
def State.rankPeer (s : State) (g : Group) (r : Nat) : Word :=
  let p := g.peers.getD r 64
  if p < 64 then s.peerEntry p else 0

/-- Send something to every other rank of a group, by the PBR ID of its peer (R393, R395). -/
def State.tellRanks (s : State) (g : Group) (f : Nat → Out) : State :=
  g.others.foldl (fun s r => s.emit (f (fld (s.rankPeer g r) 11 0))) s

/-! ### The consistent cut and engines (R399, R400) -/

/-- The cut in progress covers a domain (R399, R400). -/
def State.inCut (s : State) (dom : Nat) : Bool :=
  fld (s.reg 0x19008) 1 0 ≠ 0 && bit (s.reg (0x19010 + 8 * (dom / 64))).toNat (dom % 64)

/-- A collective of a job domain that has started on all ranks runs to its completion while the device is cutting (R400). -/
def State.runsThroughCut (s : State) (r : Ring) (q : EngRun) : Bool :=
  r.cls = .coll && q.begun && fld (s.reg 0x19008) 1 0 = 1 && s.inCut q.poster.dom

/-! ### What a command names (R283, R309, R318) -/

/-- The entry that a handle of a team names on core `c` for a wave with gate key `key` (R309, R346). -/
def State.teamEntry (s : State) (c team key h : Nat) : Option Nat :=
  let t := s.team (clusterOf c) team
  let e := t.tbase + h
  let v := ((s.core c).tile e).1
  if h < t.tcnt ∧ tKind v ≠ 0 ∧ tTeam v = team then
    match Table.find (s.core c).gateTiles e with
    | some g => if g.1 = key then some e else none
    | none => some e
  else none

/-- Core of a team core index of a team of the cluster of core `c`. -/
def State.teamCore (s : State) (c team j : Nat) : Nat :=
  96 * clusterOf c + Table.get (s.team (clusterOf c) team).cmap j 0

/-- An entry with the members of its ring, where it is a header. -/
def Core.withMembers (c : Core) (e : Nat) : List Nat :=
  let v := (c.tile e).1
  if tKind v = 2 then (List.range (tMembers v + 1)).map (· + e) else [e]

/-- Targets of a multicast mask: mask bit, and team core index. -/
def CopyEntry.maskBits (q : CopyEntry) : List (Nat × Nat) :=
  ((List.range 32).filter (fun j => bit q.mcmask j)).map (fun j => (j, q.mcbase + j))

/-- The tile table entries, with their cores, that an image of a ring's class names. -/
def State.imageTiles (s : State) (r : Ring) (bs : List Byte) (p : Poster) : List (Nat × Nat) :=
  let at' (core h : Nat) : List (Nat × Nat) :=
    match s.teamEntry core p.team (p.csa / 4096) h with
    | some e => ((s.core core).withMembers e).map (fun e => (core, e))
    | none => []
  match r.cls with
  | .copy =>
    let q := CopyEntry.ofImage bs
    if q.dir = 1 then at' r.core (desHandle q.src)
    else if q.dir = 0 then
      (if q.mc then q.maskBits.flatMap (fun m => at' (s.teamCore r.core p.team m.2) (desHandle q.dst))
       else at' r.core (desHandle q.dst))
    else []
  | .dcz => at' r.core (DczEntry.ofImage bs).dst
  | .coll => []

/-- The images of a ring's running and published commands, with their posters. -/
def State.ringImages (s : State) (r : Ring) : List (List Byte × Poster) :=
  let c := s.core r.core
  (match r.running with
    | some q => [(q.image, q.poster)]
    | none => []) ++
    ((List.range r.posters.length).zip r.posters).map (fun e => (c.entryImage r.tile (c.ringRidx r.tile + e.1), e.2))

/-- An engine command still names an entry: as a source, a destination, or the ring that holds it. -/
def State.engineNames (s : State) (core e : Nat) : Bool :=
  s.rings.any (fun (r : Ring) =>
    let live := s.ringImages r
    (live ≠ [] && r.core = core && r.tile = e) || live.any (fun q => (s.imageTiles r q.1 q.2).contains (core, e)))

/-! ### Publishing (R278, R282, R360) -/

/-- The wave of a slot as a poster. -/
def State.posterOf (s : State) (c i : Nat) : Poster :=
  let w := (s.slotAt c i).wave
  { core := c, slot := i, csa := w.csa, team := w.cteam, dom := w.dom, pasid := w.pasid }

/-- REF of the barriers that newly published entries name rises (R360). -/
def State.referBarriers (s : State) (cls : EngClass) (core team : Nat) (images : List (List Byte)) : State :=
  images.foldl (fun s bs =>
    match entryBarrier cls bs with
    | some n => s.modBar (clusterOf core) team n (fun b => { b with ref := b.ref + 1 })
    | none => s) s

/-- Each newly published collective entry belongs to the next instance of its group (R397). -/
def State.countInstances (s : State) (images : List (List Byte)) : State × List Nat :=
  images.foldl (fun (q : State × List Nat) bs =>
    let g := numAt bs 20 2
    let k := Table.get q.1.groupCount g 0
    ({ q.1 with groupCount := Table.put q.1.groupCount g (k + 1) }, q.2 ++ [k])) (s, [])

/-- `n` more entries of the ring in tile `e` of core `core` are published for a poster: the poster's stores reach the
home, the ring is bound to an engine, and the engine is to start them. The engine of a poster that is being handed over is
asked to stop (R173). -/
def State.publish (s : State) (core e : Nat) (cls : EngClass) (p : Poster) (n : Nat) : State :=
  if n = 0 then s
  else
    let s := s.cleanLines p.core .lane (fun _ => true)
    let r := (s.ringAt core e).getD
      { id := s.nextRing, cls := cls, engine := s.chooseEngine cls (if cls = .coll then dieOf core / 4 else dieOf core),
        core := core, tile := e }
    let c := s.core core
    let first := c.ringRidx e + r.posters.length
    let images := (List.range n).map (fun k => c.entryImage e (first + k))
    let s := s.referBarriers cls core p.team images
    let q := if cls = .coll then s.countInstances images else (s, List.replicate n 0)
    let s := q.1
    let r' := { r with posters := r.posters ++ q.2.map (fun k => { p with seq := s.nextRing, inst := k }) }
    let s := { s with
      nextRing := s.nextRing + 1,
      rings := if s.rings.any (fun (q : Ring) => q.id = r.id) then s.rings.map (fun (q : Ring) => if q.id = r.id then r' else q)
        else s.rings ++ [r'] }
    let s := s.schedule 16 .engineCommandStart { a := r.id }
    let k := s.slotAt p.core p.slot
    if k.state = .handingOver ∧ k.wave.csa = p.csa then s.askRing p.core p.slot p.csa r.id else s

/-- Entries of a ring that a store to WIDX newly covers: none beyond N (R277). -/
def State.newlyPosted (s : State) (core e : Nat) : Nat :=
  let c := s.core core
  let held := match s.ringAt core e with
    | some r => r.posters.length
    | none => 0
  let n := c.ringN e
  let m := ringMod n
  if m = 0 then 0
  else
    let k := (c.ringWidx e % m + 2 * m - (c.ringRidx e + held) % m) % m
    if k ≤ n then k else n

/-- A wave's store has reached WIDX of the ring in tile `args.a` of core `args.b`; the wave of slot `args.slot` of core
`args.core` is the poster of what it publishes (R278). -/
def execWidxStorePublish (s : State) : Host.Outcome State Fault Refusal :=
  let core := s.args.b
  let e := s.args.a
  let c := s.core core
  .next (match ringClass (c.ringKind e) with
    | some cls =>
      if tileHolds (c.tile e).1 && c.ringOk e then
        s.publish core e cls (s.posterOf s.args.core s.args.slot) (s.newlyPosted core e)
      else s
    | none => s)

/-! ### An engine's accesses to global memory (R191, R194, R216) -/

/-- Whose access an engine makes, and from where: a die, a domain and a PASID. -/
structure EngAgent where
  die : Nat
  dom : Nat
  pasid : Nat
  mode : Mode := .u
deriving DecidableEq, Repr

/-- Why an engine's access failed: cause, the cause its fault record carries, address and detail. -/
structure EngFault where
  cause : Nat
  record : Nat
  addr : Nat
  detail : Word := 0
deriving DecidableEq, Repr

/-- The pieces of `n` bytes at `va` that lie in one page each, at most as many as the first argument. -/
def piecesFrom : Nat → Nat → Nat → List (Nat × Nat)
  | 0, _, _ => []
  | k + 1, va, n =>
    if n = 0 then []
    else
      let room := 2 ^ 19 - va % 2 ^ 19
      if n ≤ room then [(va, n)] else (va, room) :: piecesFrom k ((va + room) % 2 ^ 64) (n - room)

/-- The pieces of `n` bytes at `va` that lie in one page each. -/
def pagePieces (va n : Nat) : List (Nat × Nat) := piecesFrom (n / 2 ^ 19 + 2) va n

/-- One translated piece of an engine's access: the physical address, or the scratchpad it names, where the access comes
after what stands in that core's inbound queue (R181, R219; DEDUCED, log 76). -/
def State.engineTarget (s : State) (g : EngAgent) (k : AccKind) (va n : Nat) : State × Except EngFault Dest :=
  let r : StationReq :=
    { pasid := g.pasid, dom := g.dom, va := va, kind := k, mode := g.mode, sum := false, origin := .engine 0 }
  let fail (f : TFault) : EngFault := let q := f.report r; { cause := q.cause, record := q.recordCause, addr := va, detail := q.dom.getD 0 }
  if 2 ^ 49 < va + n then (s, .error (fail (.page 1)))
  else
    match s.translate (stationOf g.die va) r with
    | (s, .error f) => (s, .error (fail f))
    | (s, .ok t) =>
      if s.paKind (t.pa + (n - 1)) = .nothing then (s, .error (fail .access))
      else match s.paKind t.pa with
      | .register => (s, .error (fail .access))
      | .peer => (s.tookFree, if Config.peerAborts s.freeCount then .error (fail .access) else .ok (.mem va t))
      | .aperture =>
        let core := (t.pa - 0xE000000000000) / 0x80000
        let a := (t.pa - 0xE000000000000) % 0x80000
        if (s.core core).fwall.getLsbD 0 ∨ 524288 < a + n then (s, .error (fail .access))
        else
          match (s.core core).bankViolation g.dom a n with
          | some b =>
            let od := ((s.core core).bankDom b).getD 0
            (s, .error { cause := 29, record := 29, addr := va, detail := domFaultWord k.writes b 1 od g.dom })
          | none =>
            if k = .load && s.poisonedIn t.pa n then (s, .error (fail .access)) else (s.serveQueue core, .ok (.spad core a))
      | _ =>
        if k = .load && s.poisonedIn t.pa n then (s, .error (fail .access)) else (s, .ok (.mem va t))

/-- The bytes of one piece. -/
def State.enginePiece (s : State) (g : EngAgent) (n : Nat) (d : Dest) : State × List Byte :=
  match d with
  | .mem _ t => ((s.touchRange t.pa n g.dom false).usedFree t.pa n, leBytes n (s.readPhys t.pa n))
  | .spad c a => (s, Bytes.readList (s.core c).spad a n)
  | _ => (s, List.replicate n 0)

/-- An engine reads `n` bytes at a virtual address. -/
def State.engineRead (s : State) (g : EngAgent) (va n : Nat) : State × Except EngFault (List Byte) :=
  (pagePieces va n).foldl (fun q p =>
    match q.2 with
    | .error _ => q
    | .ok bs =>
      match q.1.engineTarget g .load p.1 p.2 with
      | (s, .error f) => (s, .error f)
      | (s, .ok d) => let r := s.enginePiece g p.2 d; (r.1, .ok (bs ++ r.2))) (s, .ok [])

/-- An engine writes bytes at a virtual address. -/
def State.engineWrite (s : State) (g : EngAgent) (va : Nat) (bs : List Byte) : State × Option EngFault :=
  let r := (pagePieces va bs.length).foldl (fun (q : State × List Byte × Option EngFault) p =>
    match q.2.2 with
    | some _ => q
    | none =>
      match q.1.engineTarget g .store p.1 p.2 with
      | (s, .error f) => (s, q.2.1, some f)
      | (s, .ok d) =>
        let now := q.2.1.take p.2
        let s := match d with
          | .mem _ t => s.agentWriteAs g.dom t.pa now
          | .spad c a => s.spadWrite c a now none
          | _ => s
        (s, q.2.1.drop p.2, none)) (s, bs, none)
  (r.1, r.2.2)

/-- Bytes of a tile of a core that an engine of a domain reaches, or the bank that refuses it (R182). -/
def State.engineBank (s : State) (write : Bool) (dom core a n des : Nat) : Option EngFault :=
  ((s.core core).bankViolation dom a n).map (fun b =>
    { cause := 29, record := 29, addr := des, detail := domFaultWord write b 1 (((s.core core).bankDom b).getD 0) dom })

/-- The header of a ring and entry `i` of it, as its engine reads and writes them for a domain (R176, R182). -/
def State.ringBanks (s : State) (r : Ring) (dom i : Nat) : Option EngFault :=
  let c := s.core r.core
  match s.engineBank true dom r.core (c.tileBase r.tile) 32 0 with
  | some f => some f
  | none => s.engineBank true dom r.core (c.entryAddr r.tile i) 32 0

/-! ### Posting (R278) -/

/-- The image in x[A] to x[A+3], bits 63:56 of the last cleared. -/
def postImage (w : Wave) (a : Nat) : List Byte :=
  leBytes 8 (w.getX a).toNat ++ leBytes 8 (w.getX (a + 1)).toNat ++ leBytes 8 (w.getX (a + 2)).toNat ++
    leBytes 7 (w.getX (a + 3)).toNat ++ [0]

/-- The image of a copy breaks a limit checked at post (R279). -/
def copyRefused (s : State) (bs : List Byte) : Bool :=
  let q := CopyEntry.ofImage bs
  let header := match s.myEntry (desHandle q.dst) with
    | some e => tKind ((s.core s.curCore).tile e).1 = 2
    | none => false
  q.dir = 3 || !q.zeros || (q.mc && q.dir ≠ 0) || (!q.mc && (q.mcmask ≠ 0 || q.mcbase ≠ 0)) ||
    (q.dir = 0 && header && desOffset q.dst ≠ 0)

/-- A post word of a ring class. -/
def postWord (i : Instr) (kind : Nat) (cls : EngClass) (refused : State → List Byte → Bool) (b a d : BitVec 5) (s : State) :
    Host.Outcome State Fault Refusal :=
  let regs := (List.range 4).map (fun k => Loc.x (a.toNat + k))
  deviceIssue i 0 (xLocs [b, d] ++ regs) (fun s =>
      let w := s.wave
      let x := (w.getX b.toNat).toNat
      let h := x % 256
      if x / 256 ≠ 0 then .trap 7 (BitVec.ofNat 64 (h * 2 ^ 32)) s
      else
        afterCheck (tileOwn h 32 1 .store [0] s) (fun _ =>
          afterCheck (tileReady h 32 .store [0] s) (fun _ =>
            match s.myEntry h with
            | none => .trap 7 (BitVec.ofNat 64 (h * 2 ^ 32)) s
            | some e =>
              let c := s.core s.curCore
              let img := postImage w a.toNat
              if c.ringKind e ≠ kind ∨ !c.ringOk e then scalarX s d 2
              else if refused s img then scalarX s d 3
              else
                let i := c.ringWidx e
                let at' := c.entryAddr e i
                if Bytes.readLE c.spad (at' + 31) 1 ≠ 0 then scalarX s d 1
                else
                  let own := some (s.curCore, s.curSlot)
                  let s := s.spadWrite s.curCore at' (img.take 31 ++ [1]) own
                  let s := s.spadWrite s.curCore (c.tileBase e) (leBytes 4 ((i + 1) % ringMod (c.ringN e))) own
                  let p := s.posterOf s.curCore s.curSlot
                  scalarX (s.publish s.curCore e cls p (s.newlyPosted s.curCore e)) d 0))) s

/-- `cpy.post` (R278, R279). -/
def execCpyPost (b a d : BitVec 5) (s : State) : Host.Outcome State Fault Refusal :=
  postWord (.cpyPost b a d) 0x43 .copy copyRefused b a d s

/-- `dcz.post` (R278, R284). -/
def execDczPost (b a d : BitVec 5) (s : State) : Host.Outcome State Fault Refusal :=
  postWord (.dczPost b a d) 0x44 .dcz (fun _ bs => !(DczEntry.ofImage bs).legal) b a d s

end Sys2Proof.Machine
end

