-- ==== Sys2Proof/Machine/TileWords.lean ====
section
/-! DEFINITION. The tile instructions (R316 to R321). -/

namespace Sys2Proof.Machine

/-! ### Rings of tiles, vacating (R311, R315, R318) -/

/-- The entry becomes vacant and its granules free. -/
def Core.vacate (c : Core) (e : Nat) : Core :=
  let v := (c.tile e).1
  let c := if tKind v = 2 then c else c.freeGranules (tFirst v) (tGran v)
  { c.setTile e (0, 0) with gateTiles := Table.erase c.gateTiles e, gateFree := c.gateFree.filter (· ≠ e) }

/-- The member of a ring at its read slot. -/
def Core.readSlot (c : Core) (e : Nat) : Nat := e + 1 + tRp (c.tile e).1

/-- The member of a ring at its write slot. -/
def Core.writeSlot (c : Core) (e : Nat) : Nat := e + 1 + tWp (c.tile e).1

/-- RP of a header advances. -/
def Core.advanceRp (c : Core) (e : Nat) : Core :=
  c.modTile e (fun w => setFld w 57 54 ((tRp w + 1) % tMembers w))

/-- WP of a header advances. -/
def Core.advanceWp (c : Core) (e : Nat) : Core :=
  c.modTile e (fun w => setFld w 61 58 ((tWp w + 1) % tMembers w))

/-- The header of a ring that a member belongs to. -/
def Core.headerOf (c : Core) (e : Nat) : Option Nat :=
  ((List.range 17).map (e - ·)).find? (fun h =>
    let v := (c.tile h).1
    tKind v = 2 && tTeam v = tTeam (c.tile e).1 && decide (h < e ∧ e ≤ h + tMembers v))

/-- Change the current core's entry. -/
def State.modTile (s : State) (f : Core → Core) : State := s.modCur f

/-! ### Operand checks (R316) -/

/-- The handle of a tile word, `none` where bits 63:8 name no tile. -/
def handleOf (v : Word) : Option Nat := if fld v 63 8 = 0 then some (fld v 7 0) else none

/-- The entry a tile word names, or what stops it: no tile, or a tile of another domain; `write` where the word changes the tile
(DEDUCED, log 69). -/
def tileNamed (write : Bool) (v : Word) (s : State) (k : Nat → Issue) : Issue :=
  let h := fld v 7 0
  match (handleOf v).bind s.myEntry with
  | none => .trap 5 (BitVec.ofNat 64 (h * 2 ^ 32)) s
  | some e =>
    let w := ((s.core s.curCore).tile e).1
    if tDom w ≠ s.wave.dom then
      domFault s write (tFirst w / 16) 1 (tDom w) (BitVec.ofNat 64 (h * 2 ^ 32))
    else k e

/-- A tile word that names its handle in x[A]. -/
def tileWord (write : Bool) (i : Instr) (a d : BitVec 5) (body : Nat → Nat → State → Issue) (s : State) :
    Host.Outcome State Fault Refusal :=
  let v := s.wave.getX a.toNat
  deviceIssue i 0 (xLocs [a, d] ++ [.tile (fld v 7 0)]) (fun s => tileNamed write v s (fun e => body (fld v 7 0) e s)) s

/-- The phase of the acting wave's team advances (R224). -/
def State.advanceMyPhase (s : State) : State := s.advancePhase (clusterOf s.curCore) s.wave.cteam

/-! ### The words -/

/-- Granules of the checked tiles of a core, in KiB; a ring header holds none (R311, R313). -/
def Core.checkedKib (c : Core) : Nat := c.tiles.foldl (fun a e => if tChk e.2.1 && tKind e.2.1 ≠ 2 then a + tGran e.2.1 else a) 0

/-- A negative status. -/
def negWord (n : Nat) : Word := -(BitVec.ofNat 64 n)

/-- Word 0 of a new plain tile. -/
def plainTile (first gran team dom state : Nat) (chk : Bool) : Word :=
  BitVec.ofNat 64 (first + (gran - 1) * 2 ^ 9 + state * 2 ^ 18 + 2 ^ 20 + b2n chk * 2 ^ 23 + team * 2 ^ 26 + dom * 2 ^ 32)

/-- `tile.alloc` (R317). -/
def execTileAlloc (checked zero : Bool) (a d : BitVec 5) (s : State) : Host.Outcome State Fault Refusal :=
  deviceIssue (.tileAlloc checked zero a d) 0 (xLocs [a, d]) (fun s =>
    let w := s.wave
    let c := s.core s.curCore
    let g := (w.getX a.toNat).toNat
    let t := s.myTeam
    if g = 0 ∨ 512 < g then scalarX s d (negWord 3)
    else if checked && decide (64 < c.checkedKib + g) then scalarX s d (negWord 4)
    else
      match (List.range t.tcnt).find? (fun h => tKind (c.tile (t.tbase + h)).1 = 0) with
      | none => scalarX s d (negWord 1)
      | some h =>
        match c.findRun w.dom g with
        | none => scalarX s d (negWord 2)
        | some f =>
          let e := t.tbase + h
          let s := s.modCur (fun c =>
            (c.takeGranules f g).setTile e (plainTile f g w.cteam w.dom (if zero then tsReady else tsEmpty) checked, 0))
          let s := s.modCur (fun c => c.clearRace (c.tile e).1)
          let s := if zero then
              s.spadWrite s.curCore (1024 * f) (List.replicate (1024 * g) 0) (some (s.curCore, s.curSlot))
            else s
          scalarX s d (BitVec.ofNat 64 h)) s

/-- `tile.free` (R318). -/
def execTileFree (a d : BitVec 5) (s : State) : Host.Outcome State Fault Refusal :=
  tileWord true (.tileFree a d) a d (fun _ e s =>
    let c := s.core s.curCore
    let v := (c.tile e).1
    let es := c.withMembers e
    let moving (k : Nat) : Bool := tState (c.tile k).1 = tsFilling || tState (c.tile k).1 = tsDraining
    if tKind v = 3 || tSegv v then scalarX s d 2
    else if es.any moving || es.any (fun k => s.engineNames s.curCore k) then scalarX s d 1
    else scalarX (s.modCur (fun c => es.foldl Core.vacate c)) d 0) s

/-- The refill of one empty tile of a segment starts (R315, R319). -/
def State.startRefill (s : State) (core e : Nat) : State :=
  (s.modCore core (fun c => (c.setTileState e tsFilling).modTile e (fun w => setFld w 25 24 0))).schedule 64
    .segmentRefillComplete { core := clusterOf core, a := tSeg ((s.core core).tile e).1, b := e + 1, c := core }

/-- `tile.await` (R319). -/
def execTileAwait (a d : BitVec 5) (s : State) : Host.Outcome State Fault Refusal :=
  tileWord false (.tileAwait a d) a d (fun h e s =>
    let c := s.core s.curCore
    let slot := if tKind (c.tile e).1 = 2 then c.readSlot e else e
    let v := (c.tile slot).1
    if tFerr v = 1 then .trap 56 (c.tile slot).2 s
    else if tState v = tsReady then
      let w := s.wave
      let s := s.teamAcquire (clusterOf s.curCore) w.cteam s.curCore w.dom
      scalarX s.advanceMyPhase d (BitVec.ofNat 64 (h + (slot - e) + (if tFerr v = 2 then 256 else 0)))
    else tileWait h (if tState v = tsEmpty && tSegv v then s.startRefill s.curCore slot else s)) s

/-- `tile.rel` and `tile.rel.wb` (R320). -/
def execTileRel (writeBack : Bool) (a d : BitVec 5) (s : State) : Host.Outcome State Fault Refusal :=
  tileWord true (.tileRel writeBack a d) a d (fun _ e s =>
    let c := s.core s.curCore
    let header := tKind (c.tile e).1 = 2
    let k := if header then c.readSlot e else e
    let v := (c.tile k).1
    let advance (c : Core) : Core := if header then c.advanceRp e else c
    let done (s : State) : Issue := scalarX s.teamRelease.advanceMyPhase d 0
    if tKind (c.tile e).1 = 3 then scalarX s d 3
    else if tState v = tsEmpty then
      (if tFerr v = 0 then scalarX s d 1
       else done (s.modCur (fun c => advance (c.modTile k (fun w => setFld w 25 24 0)))))
    else if tState v ≠ tsReady then scalarX s d 2
    else if !tSegv v && !writeBack then done (s.modCur (fun c => advance (c.setTileState k tsEmpty)))
    else if tSegv v && !tRo v && writeBack then
      done ((s.modCur (fun c => c.setTileState k tsDraining)).schedule 64 .tileWritebackComplete { core := s.curCore, a := k })
    else scalarX s d 3) s

/-- `tile.state` (R321). -/
def execTileState (a d : BitVec 5) (s : State) : Host.Outcome State Fault Refusal :=
  deviceIssue (.tileState a d) 0 (xLocs [a, d]) (fun s =>
    match (handleOf (s.wave.getX a.toNat)).bind s.myEntry with
    | some e => scalarX s d ((s.core s.curCore).tile e).1
    | none => scalarX s d 0) s

end Sys2Proof.Machine
end

