-- ==== Sys2Proof/Machine/Segments.lean ====
section
/-! DEFINITION. Named segments: the segment table, attach and detach, eviction and refill (R218, R315, R322 to R330). -/

namespace Sys2Proof.Machine

/-! ### The table (R322, R323) -/

/-- Segment table entry `i` of cluster `k`. -/
def State.seg (s : State) (k i : Nat) : Segment := Table.get (s.cluster k).segs i {}

/-- Change an entry. -/
def State.modSeg (s : State) (k i : Nat) (f : Segment → Segment) : State :=
  s.modCluster k (fun q => { q with segs := Table.put q.segs i (f (Table.get q.segs i {})) })

/-- Free an entry. -/
def State.freeSeg (s : State) (k i : Nat) : State := s.modCluster k (fun q => { q with segs := Table.erase q.segs i })

/-- SST codes. -/
def ssSettled : Nat := 0
def ssEvicting : Nat := 1
def ssRefilling : Nat := 2

/-- The entry of a name in a domain. -/
def State.segLookup (s : State) (k dom : Nat) (name : Word) : Option Nat :=
  if name = 0 then none
  else ((s.cluster k).segs.find? (fun e => decide (2 ≤ e.2.kind) && e.2.dom = dom && e.2.name = name)).map (fun e => e.1)

/-- The lowest free entry of the 1,024. -/
def State.segVacant (s : State) (k : Nat) : Option Nat :=
  (List.range 1024).find? (fun i => (s.seg k i).kind = 0)

/-- The team is attached. -/
def Segment.attachedBy (g : Segment) (team : Nat) : Bool := g.teams.any (fun t => t.1 = team)

/-- First handle of a team's attachment. -/
def Segment.handleFor (g : Segment) (team : Nat) : Nat := ((g.teams.find? (fun t => t.1 = team)).map (fun t => t.2)).getD 0

/-- Device core of residency. -/
def Segment.home (g : Segment) (k : Nat) : Nat := 96 * k + g.core

/-- Granule indices of the segment in backing order: scratchpad granule and backing address. -/
def Segment.backing (g : Segment) : List (Nat × Nat) :=
  let gs := g.tiles.flatMap (fun t => (List.range t.2).map (· + t.1))
  ((List.range gs.length).zip gs).map (fun e => (e.2, (g.back.toNat + 1024 * e.1) % 2 ^ 64))

/-- The agent that refills and writes back a segment resident on core `c` (R324). -/
def Segment.agent (g : Segment) (c : Nat) : EngAgent := { die := dieOf c, dom := g.dom, pasid := g.pasid }

/-- A segment fault record (R411). -/
def segRecord (g : Segment) (i : Nat) (writeBack : Bool) (f : EngFault) : List Byte :=
  leBytes 8 g.name.toNat ++ leBytes 8 f.addr ++ leBytes 2 i ++ leBytes 1 (b2n writeBack) ++ leBytes 1 0xFE ++
    leBytes 1 g.dom ++ leBytes 1 f.record ++ leBytes 2 0 ++ leBytes 8 f.detail.toNat

/-- A record goes to the cluster's fault ring. -/
def State.sendFault (s : State) (k : Nat) (bs : List Byte) : State :=
  (s.modCluster k (fun q => { q with faultWait := q.faultWait ++ [bs] })).schedule 0 .faultRingAppend { core := k }

/-! ### Moving granules (R312, R315, R324) -/

/-- Set the dirty bit of a granule. -/
def Core.setDirty (c : Core) (g : Nat) (b : Bool) : Core :=
  { c with granules := Table.put c.granules g { Table.get c.granules g {} with dirty := b } }

/-- Dirty granules are written to their backing addresses, up to the first fault; a bank of another domain is one (R182). -/
def State.writeBackGranules (s : State) (a : EngAgent) (core : Nat) (gs : List (Nat × Nat)) : State × Option EngFault :=
  gs.foldl (fun (q : State × Option EngFault) g =>
    match q.2 with
    | some _ => q
    | none =>
      let c := q.1.core core
      if !(Table.get c.granules g.1 {}).dirty then q
      else
        match q.1.engineBank false a.dom core (1024 * g.1) 1024 g.2 with
        | some f => (q.1, some f)
        | none =>
        match q.1.engineWrite a g.2 (Bytes.readList c.spad (1024 * g.1) 1024) with
        | (s, some f) => (s, some f)
        | (s, none) => (s.modCore core (fun c => c.setDirty g.1 false), none)) (s, none)

/-- Granules are filled from their backing addresses, up to the first fault. -/
def State.refillGranules (s : State) (a : EngAgent) (core : Nat) (gs : List (Nat × Nat)) : State × Option EngFault :=
  gs.foldl (fun (q : State × Option EngFault) g =>
    match q.2 with
    | some _ => q
    | none =>
      match q.1.engineBank true a.dom core (1024 * g.1) 1024 g.2 with
      | some f => (q.1, some f)
      | none =>
      match q.1.engineRead a g.2 1024 with
      | (s, .error f) => (s, some f)
      | (s, .ok bs) => ((s.spadWrite core (1024 * g.1) bs none).modCore core (fun c => c.setDirty g.1 false), none)) (s, none)

/-- The part of a segment's backing that a tile of it covers. -/
def Segment.tileBacking (g : Segment) (first gran : Nat) : List (Nat × Nat) :=
  g.backing.filter (fun b => decide (first ≤ b.1 ∧ b.1 < first + gran))

/-- Take granules of a domain for tiles of the given sizes, all or none (R312). -/
def Core.takeRuns (c : Core) (dom : Nat) (sizes : List Nat) : Option (Core × List (Nat × Nat)) :=
  sizes.foldl (fun r n =>
    match r with
    | none => none
    | some (c, ts) =>
      match c.findRun dom n with
      | none => none
      | some f => some (c.takeGranules f n, ts ++ [(f, n)])) (some (c, []))

/-- Word 0 of the entry of a segment's tile. -/
def segTile (first gran team dom seg state : Nat) (ro : Bool) : Word :=
  plainTile first gran team dom state false ||| BitVec.ofNat 64 (b2n ro * 2 ^ 22 + seg * 2 ^ 40 + 2 ^ 62)

/-- The tiles of segment `i` take the handles of a team from `h` on, in a state. -/
def Core.installTiles (c : Core) (g : Segment) (i tbase team h state : Nat) (ro : Bool) : Core :=
  ((List.range g.tiles.length).zip g.tiles).foldl (fun (c : Core) t =>
    let e := tbase + h + t.1
    (c.setTile e (segTile t.2.1 t.2.2 team g.dom i state ro, 0)).clearRace (segTile t.2.1 t.2.2 team g.dom i state ro)) c

/-- The handles from `h` on are vacant and in the window. -/
def handlesFree (c : Core) (t : Team) (h n : Nat) : Bool :=
  (List.range n).all (fun j => decide (h + j < t.tcnt) && tKind (c.tile (t.tbase + h + j)).1 = 0)

/-! ### Eviction and refill (R324) -/

/-- An eviction starts. -/
def State.startEviction (s : State) (k i : Nat) (p : Option PendAttach) : State :=
  (s.modSeg k i (fun g => { g with sst := ssEvicting, pend := p, failed := false })).schedule 256
    .segmentEvictionComplete { core := k, a := i }

/-- A segment without residence takes granules and handles for a pending attach and starts to refill; `none` where
it finds none. -/
def State.beginRefill (s : State) (k i : Nat) (p : PendAttach) : Option State :=
  let g := s.seg k i
  let t := s.team k p.team
  let c := s.core p.core
  if !handlesFree c t p.handle g.tiles.length then none
  else
    (c.takeRuns g.dom (g.tiles.map (fun t => t.2))).map (fun r =>
      let g := { g with tiles := r.2, sst := ssRefilling, pend := some p, failed := false }
      ((s.modCore p.core (fun _ => r.1.installTiles g i t.tbase p.team p.handle tsFilling p.ro)).modSeg k i
        (fun _ => g)).schedule 256 .segmentRefillComplete { core := k, a := i })

/-- Granules of a segment return to their core's pool. -/
def State.freeSegGranules (s : State) (k : Nat) (g : Segment) : State :=
  s.modCore (g.home k) (fun c => g.tiles.foldl (fun (c : Core) t => c.freeGranules t.1 t.2) c)

/-- The write-back of an evicting segment completes or faults. -/
def State.evictionDone (s : State) (k i : Nat) : State :=
  let g := s.seg k i
  if g.sst ≠ ssEvicting then s
  else
    match s.writeBackGranules (g.agent (g.home k)) (g.home k) g.backing with
    | (s, some f) =>
      (s.modSeg k i (fun g => { g with sst := ssSettled, pend := none, failed := true })).sendFault k (segRecord g i true f)
    | (s, none) =>
      let s := (s.freeSegGranules k g).modSeg k i (fun g => { g with sst := ssSettled, res := false, pend := none })
      match g.pend with
      | none => s
      | some p => (s.beginRefill k i p).getD s

/-- The write-back of a segment evicting at entry `args.a` of cluster `args.core` completes (R324). -/
def execSegmentEvictionComplete (s : State) : Host.Outcome State Fault Refusal := .next (s.evictionDone s.args.core s.args.a)

/-- The core on which a segment stands or is about to. -/
def Segment.standsOn (g : Segment) (k : Nat) : Option Nat :=
  if g.sst = ssRefilling then g.pend.map (fun p => p.core) else if g.res then some (g.home k) else none

/-- A named-transient segment stands on a core that is out of service: firmware evicts it once it can (R418). -/
def State.onSparedCore (s : State) (k : Nat) (g : Segment) : Bool :=
  match g.standsOn k with
  | some c => g.kind = 2 && g.back ≠ 0 && (s.core c).fwall.getLsbD 1
  | none => false

/-- Firmware starts the eviction of a detached, resident, transient segment with a backing region: entry `args.a` of
cluster `args.core` (R324, R330). One on a spared core that is attached or not settled is tried again (R418; DESIGN CHOICE,
log 55). -/
def execFirmwareSegmentEviction (s : State) : Host.Outcome State Fault Refusal :=
  let g := s.seg s.args.core s.args.a
  .next (if g.kind = 2 ∧ g.att = 0 ∧ g.res ∧ g.sst = ssSettled ∧ g.back ≠ 0 then
    s.startEviction s.args.core s.args.a none
    else if s.onSparedCore s.args.core g then s.schedule 64 .firmwareSegmentEviction s.args else s)

/-- One tile of a segment is filled; a fault leaves it ready with FERR 2 and reaches the fault ring. -/
def State.refillTile (s : State) (k i core e : Nat) : State × Bool :=
  let g := s.seg k i
  let v := ((s.core core).tile e).1
  let r := s.refillGranules (g.agent core) core (g.tileBacking (tFirst v) (tGran v))
  let s := r.1.refreshAll.modCore core (fun c =>
    (c.setTileState e tsReady).modTile e (fun w => setFld w 25 24 (if r.2.isSome then 2 else 0)))
  match r.2 with
  | some f => (s.sendFault k (segRecord g i false f), true)
  | none => (s, false)

/-- The refill of a whole segment completes: every tile is ready and the pending attach has its result. -/
def State.refillDone (s : State) (k i : Nat) : State :=
  let g := s.seg k i
  match g.sst, g.pend with
  | 2, some p =>
    let base := (s.team k p.team).tbase + p.handle
    let r := (List.range g.tiles.length).foldl (fun (q : State × Bool) j =>
      let t := q.1.refillTile k i p.core (base + j)
      (t.1, q.2 || t.2)) (s, false)
    r.1.modSeg k i (fun g =>
      { g with
        sst := ssSettled, res := true, core := p.core % 96, att := if p.ro then 2 else 1,
        rocnt := if p.ro then 1 else 0, rwteam := if p.ro then g.rwteam else p.team,
        teams := [(p.team, p.handle)], pend := none, failed := r.2 })
  | _, _ => s

/-- The write-back of the draining tile in entry `e` of a core completes, or faults and leaves it ready (R315). -/
def State.writeBackDone (s : State) (core e : Nat) : State :=
  let v := ((s.core core).tile e).1
  if tState v ≠ tsDraining then s
  else
    let k := clusterOf core
    let i := tSeg v
    let g := s.seg k i
    match s.writeBackGranules (g.agent core) core (g.tileBacking (tFirst v) (tGran v)) with
    | (s, some f) => (s.modCore core (fun c => c.setTileState e tsReady)).sendFault k (segRecord g i true f)
    | (s, none) => s.modCore core (fun c => c.setTileState e tsEmpty)

/-! ### `seg.att` (R327) -/

/-- The result of an attach whose row has been applied. -/
def attachResult (k i : Nat) (d : BitVec 5) (status : Word) (s : State) : Issue :=
  let g := s.seg k i
  scalarX (s.acquireAt s.curCore s.wave.dom true) d (status ||| BitVec.ofNat 64 (g.gen.toNat * 2 ^ 32))

/-- A status the manual does not give: a free value in bits 7:0. -/
def freeStatus (s : State) : Word := Config.freeWord s.freeCount &&& 0xFF

/-- The end of an applied attach: still under way, attached with every tile ready, or given up. -/
def attachWait (k i : Nat) (d : BitVec 5) (s : State) : Issue :=
  let g := s.seg k i
  let w := s.wave
  let mine := match g.pend with
    | some p => p.team = w.cteam && p.core = s.curCore && p.slot = s.curSlot
    | none => false
  if mine then .wait (.segAtt i) s
  else if g.attachedBy w.cteam then
    let base := (s.team k w.cteam).tbase + g.handleFor w.cteam
    let c := s.core s.curCore
    let states := (List.range g.tiles.length).map (fun j => tState (c.tile (base + j)).1)
    if states.all (· = tsReady) then attachResult k i d (if g.failed then 6 else 0) s else .wait (.segAtt i) s
  else if g.failed then attachResult k i d (freeStatus s) s.tookFree
  else attachResult k i d 2 s

/-- The row of R324 for an attach that need not wait. -/
def attachRow (k i h : Nat) (ro : Bool) (d : BitVec 5) (s : State) : Issue :=
  let g := s.seg k i
  let w := s.wave
  let here := s.curCore % 96
  let p : PendAttach := { team := w.cteam, core := s.curCore, slot := s.curSlot, handle := h, ro := ro }
  if g.res ∧ g.core = here then
    let t := s.team k w.cteam
    let s := s.modCur (fun c => c.installTiles g i t.tbase w.cteam h tsReady ro)
    let s := s.modSeg k i (fun g =>
      { g with
        att := if ro then 2 else 1, rocnt := if ro then g.rocnt + 1 else 0,
        rwteam := if ro then g.rwteam else w.cteam, teams := g.teams ++ [(w.cteam, h)], failed := false })
    attachResult k i d 0 s
  else if g.res then .wait (.segAtt i) (s.startEviction k i (some p))
  else
    match s.beginRefill k i p with
    | some s => .wait (.segAtt i) s
    | none => attachResult k i d 2 s

/-- `seg.att`. -/
def execSegAtt (m : BitVec 2) (b a d : BitVec 5) (s : State) : Host.Outcome State Fault Refusal :=
  deviceIssue (.segAtt m b a d) 0 (xLocs [b, a, d]) (fun s =>
    let w := s.wave
    let k := clusterOf s.curCore
    let name := w.getX a.toNat
    let v := w.getX b.toNat
    let h := fld v 7 0
    let ro := m.getLsbD 0
    match w.wait with
    | some { kind := .segAtt i, start := _ } => attachWait k i d s
    | _ =>
      if name = 0 ∨ fld v 63 8 ≠ 0 then scalarX s d 3
      else
        match s.segLookup k w.dom name with
        | none => scalarX s d 1
        | some i =>
          let g := s.seg k i
          let pendMine := match g.pend with
            | some p => p.team = w.cteam
            | none => false
          if g.attachedBy w.cteam || pendMine then scalarX s d 4
          else if !handlesFree (s.core s.curCore) (s.team k w.cteam) h g.tiles.length then scalarX s d 3
          else
            let settledHere := g.res && g.sst = ssSettled && g.core = s.curCore % 96
            if m.getLsbD 1 && !settledHere then .trap 28 name s
            else if g.sst ≠ ssSettled ∨ g.att = 1 ∨ (g.att = 2 ∧ !(ro && settledHere)) then tileWait h s
            else attachRow k i h ro d s) s

/-! ### `seg.det`, `seg.name`, `seg.pin`, `seg.evict` (R328 to R330) -/

/-- The detach row of R324 for a team on core `core`: its entries become vacant and the granules stay. -/
def State.detach (s : State) (k i core team : Nat) : State :=
  let g := s.seg k i
  let base := (s.team k team).tbase + g.handleFor team
  let s := s.modCore core (fun c => (List.range g.tiles.length).foldl (fun (c : Core) j => c.setTile (base + j) (0, 0)) c)
  s.modSeg k i (fun g =>
    if g.att = 2 then
      { g with rocnt := g.rocnt - 1, att := if g.rocnt ≤ 1 then 0 else 2, teams := g.teams.filter (fun t => t.1 ≠ team) }
    else { g with gen := g.gen + 1, att := 0, teams := [] })

/-- `seg.det` and `seg.det.rel`. -/
def detachWord (i : Instr) (rel : Bool) (a d : BitVec 5) (s : State) : Host.Outcome State Fault Refusal :=
  deviceIssue i 0 (xLocs [a, d]) (fun s =>
    let w := s.wave
    let k := clusterOf s.curCore
    match s.segLookup k w.dom (w.getX a.toNat) with
    | none => scalarX s d 1
    | some i =>
      let g := s.seg k i
      if !(g.attachedBy w.cteam && g.core = s.curCore % 96) then scalarX s d 1
      else
        let base := (s.team k w.cteam).tbase + g.handleFor w.cteam
        let c := s.core s.curCore
        let busy (j : Nat) : Bool :=
          let st := tState (c.tile (base + j)).1
          st = tsFilling || st = tsDraining || s.engineNames s.curCore (base + j)
        if (List.range g.tiles.length).any busy then .wait (.segDet i) s
        else if rel && s.messagesOut s.curCore s.curSlot then .hold s
        else
          let s := if rel then s.releaseAt s.curCore true else s.teamRelease
          scalarX (s.detach k i s.curCore w.cteam) d 0) s

/-- `seg.det` (R328). -/
def execSegDet (a d : BitVec 5) (s : State) : Host.Outcome State Fault Refusal := detachWord (.segDet a d) false a d s

/-- `seg.det.rel` (R328). -/
def execSegDetRel (a d : BitVec 5) (s : State) : Host.Outcome State Fault Refusal := detachWord (.segDetRel a d) true a d s

/-- `seg.name` (R329). -/
def execSegName (b a d : BitVec 5) (s : State) : Host.Outcome State Fault Refusal :=
  deviceIssue (.segName b a d) 0 (xLocs [b, a, d]) (fun s =>
    let w := s.wave
    let k := clusterOf s.curCore
    let c := s.core s.curCore
    let name := w.getX a.toNat
    let back := w.getX b.toNat
    let v := w.getX d.toNat
    let h := fld v 7 0
    let n := fld v 10 8 + 1
    let es := (List.range n).map (fun j => s.myEntry (h + j))
    let good (e : Option Nat) : Bool :=
      match e with
      | some e => let q := (c.tile e).1; tKind q = 1 && tState q = tsReady && !tSegv q && !tChk q
      | none => false
    if name = 0 ∨ fld v 63 11 ≠ 0 ∨ back.toNat % 1024 ≠ 0 ∨ 2 ^ 49 ≤ back.toNat ∨ !es.all good then scalarX s d 3
    else if (s.segLookup k w.dom name).isSome then scalarX s d 1
    else
      match s.segVacant k with
      | none => scalarX s d 2
      | some i =>
        let es := es.filterMap id
        let tiles := es.map (fun e => (tFirst (c.tile e).1, tGran (c.tile e).1))
        let g : Segment :=
          { name := name, dom := w.dom, kind := 2, att := 1, res := true, back := back, pasid := w.pasid,
            core := s.curCore % 96, rwteam := w.cteam, tiles := tiles, teams := [(w.cteam, h)] }
        let s := s.modCur (fun c =>
          let c := es.foldl (fun (c : Core) e => c.modTile e (fun q => setFld (setFld q 62 62 1) 49 40 i)) c
          (g.backing.map (fun b => b.1)).foldl (fun (c : Core) m => c.setDirty m true) c)
        scalarX (s.modSeg k i (fun _ => g)) d 0) s

/-- `seg.pin` (R330). -/
def execSegPin (a d : BitVec 5) (s : State) : Host.Outcome State Fault Refusal :=
  deviceIssue (.segPin a d) 0 (xLocs [a, d]) (fun s =>
    let w := s.wave
    let k := clusterOf s.curCore
    match s.segLookup k w.dom (w.getX a.toNat) with
    | none => scalarX s d 1
    | some i =>
      let g := s.seg k i
      if !g.attachedBy w.cteam then scalarX s d 1
      else if g.kind = 3 then scalarX s d 0
      else if fld (s.reg (0x20010 + 32 * w.dom)) 23 0 < s.pinnedUsed w.dom + g.granules then scalarX s d 2
      else scalarX (s.modSeg k i (fun g => { g with kind := 3 })) d 0) s

/-- `seg.unpin` (R330). -/
def execSegUnpin (a d : BitVec 5) (s : State) : Host.Outcome State Fault Refusal :=
  deviceIssue (.segUnpin a d) 0 (xLocs [a, d]) (fun s =>
    let w := s.wave
    let k := clusterOf s.curCore
    match s.segLookup k w.dom (w.getX a.toNat) with
    | none => scalarX s d 1
    | some i =>
      if !(s.seg k i).attachedBy w.cteam then scalarX s d 1
      else scalarX (s.modSeg k i (fun g => { g with kind := 2 })) d 0) s

/-- The tests that `seg.evict` and `seg.evict.drop` share: no such segment, attached or about to be, pinned. -/
def evictTests (a d : BitVec 5) (s : State) (k : Nat → Issue) : Issue :=
  let w := s.wave
  match s.segLookup (clusterOf s.curCore) w.dom (w.getX a.toNat) with
  | none => scalarX s d 1
  | some i =>
    let g := s.seg (clusterOf s.curCore) i
    if g.att ≠ 0 ∨ g.sst = ssRefilling ∨ g.pend.isSome then scalarX s d 4
    else if g.kind = 3 then scalarX s d 5
    else k i

/-- `seg.evict` (R330). -/
def execSegEvict (a d : BitVec 5) (s : State) : Host.Outcome State Fault Refusal :=
  deviceIssue (.segEvict a d) 0 (xLocs [a, d]) (fun s =>
    let k := clusterOf s.curCore
    match s.wave.wait with
    | some { kind := .segEvict i, start := _ } =>
      let g := s.seg k i
      if g.sst = ssEvicting then .wait (.segEvict i) s
      else if g.failed && g.att = 0 then scalarX s.tookFree d (freeStatus s)
      else scalarX s d 0
    | _ =>
      evictTests a d s (fun i =>
        let g := s.seg k i
        if g.back = 0 then scalarX s d 3
        else if g.sst = ssEvicting then .wait (.segEvict i) s
        else if !g.res then scalarX s d 0
        else .wait (.segEvict i) (s.startEviction k i none))) s

/-- `seg.evict.drop` (R330). -/
def execSegEvictDrop (a d : BitVec 5) (s : State) : Host.Outcome State Fault Refusal :=
  deviceIssue (.segEvictDrop a d) 0 (xLocs [a, d]) (fun s =>
    let k := clusterOf s.curCore
    evictTests a d s (fun i =>
      let g := s.seg k i
      if g.sst = ssEvicting then .wait (.segEvict i) s
      else
        let s := if g.res then s.freeSegGranules k g else s
        scalarX (s.freeSeg k i) d 0)) s

end Sys2Proof.Machine
end

