-- ==== Sys2Proof/Machine/Retire.lean ====
section
/-! DEFINITION. The retirement of a team (R249, R283, R308, R330, R365), and the tile events that it may wait for. -/

namespace Sys2Proof.Machine

/-- Every wave of the team has retired and the entry is still live. -/
def Team.over (t : Team) : Bool := t.live && t.waves ≠ 0 && t.done = t.waves

/-- The device cores of a team. -/
def Team.coreList (t : Team) (k : Nat) : List Nat :=
  (List.range t.tcores).map (fun j => 96 * k + Table.get t.cmap j 0)

/-- The window entries of a team on a core that are filling or draining. -/
def Team.moving (t : Team) (c : Core) : Bool :=
  (List.range t.tcnt).any (fun h =>
    let v := (c.tile (t.tbase + h)).1
    tKind v ≠ 0 && (tState v = tsFilling || tState v = tsDraining))

/-- The ring serves team `j` of cluster `k`. -/
def Ring.ofTeam (r : Ring) (k j : Nat) : Bool :=
  clusterOf r.core = k &&
    ((match r.running with
      | some q => q.poster.team = j
      | none => false) || r.posters.any (fun p => p.team = j))

/-- The unstarted entries of a team are discarded (R283). -/
def State.discardEntries (s : State) (k j : Nat) : State :=
  let drop (r : Ring) : Ring :=
    if clusterOf r.core = k then { r with posters := r.posters.filter (fun p => p.team ≠ j) } else r
  { s with rings := (s.rings.map drop).filter (fun (r : Ring) => r.running.isSome || r.posters ≠ []) }

/-- A tile of a retiring team becomes vacant; the granules of a segment's tile stay with the segment. -/
def Core.retireTile (c : Core) (e : Nat) : Core :=
  if tSegv (c.tile e).1 then c.setTile e (0, 0) else c.vacate e

/-- What a team held on a core is free again; the counts themselves stand until the next `cnt.rsv` (R355, R365). -/
def Core.releaseTeam (c : Core) (j : Nat) : Core :=
  { c with
    accHold := c.accHold.filter (fun e => e.2.team ≠ j),
    resv := c.resv.filter (fun e => e.2.team ≠ j),
    cntRec := if c.cntHeld && c.cntRec.team = j then {} else c.cntRec }

/-- Attachments of a team are detached. -/
def State.detachAll (s : State) (k j : Nat) : State :=
  ((s.cluster k).segs.filter (fun e => e.2.attachedBy j)).foldl (fun s e => s.detach k e.1 (e.2.home k) j) s

/-- The anonymous segment entry of a team (R322). -/
def State.anonymous (s : State) (k j : Nat) : Option Nat :=
  ((s.cluster k).segs.find? (fun e => e.2.kind = 1 && e.2.rwteam = j)).map (fun e => e.1)

/-- The steps of R308 for team `j` of cluster `k`. -/
def State.retireTeam (s : State) (k j : Nat) : State :=
  let t := s.team k j
  let s := s.detachAll k j
  let s := (t.coreList k).foldl (fun s c =>
    s.modCore c (fun q =>
      ((List.range t.tcnt).foldl (fun (q : Core) h =>
        let v := (q.tile (t.tbase + h)).1
        if tKind v ≠ 0 ∧ tTeam v = j then q.retireTile (t.tbase + h) else q) q).releaseTeam j)) s
  let s := match s.anonymous k j with
    | some i => s.freeSeg k i
    | none => s
  s.modTeam k j (fun t => { t with word := setFld t.word 0 0 0 })

/-- A team all of whose waves have retired retires once no engine command of it runs and no tile of it moves. -/
def State.tryRetire (s : State) (k j : Nat) : State :=
  let t := s.team k j
  if !t.over then s
  else
    let s := s.discardEntries k j
    if s.rings.any (fun (r : Ring) => r.ofTeam k j) ∨ (t.coreList k).any (fun c => t.moving (s.core c)) then s
    else s.retireTeam k j

/-- The refill of entry `args.a` of cluster `args.core` completes, or where `args.b` is not 0 that of the one tile in
entry `args.b` − 1 of core `args.c` (R315, R324). -/
def execSegmentRefillComplete (s : State) : Host.Outcome State Fault Refusal :=
  let k := s.args.core
  let i := s.args.a
  if s.args.b = 0 then .next (s.refillDone k i)
  else
    let e := s.args.b - 1
    let v := ((s.core s.args.c).tile e).1
    .next (if tState v = tsFilling && tSegv v && tSeg v = i then
      (s.refillTile k i s.args.c e).1.tryRetire k (tTeam v) else s)

/-- The write-back of the tile in entry `args.a` of core `args.core` completes (R315). -/
def execTileWritebackComplete (s : State) : Host.Outcome State Fault Refusal :=
  let v := ((s.core s.args.core).tile s.args.a).1
  .next ((s.writeBackDone s.args.core s.args.a).tryRetire (clusterOf s.args.core) (tTeam v))

end Sys2Proof.Machine
end

