-- ==== Sys2Proof/Machine/Codec.lean ====
section
/-! DEFINITION. Checksums and the decoders of Deflate, zlib and LZ4 blocks, with the plane-delta filter (R285, R286,
R331). A decoder answers the bytes it output before it ended and an error code of R285, 0 for none. -/

namespace Sys2Proof.Machine

/-! ### Checksums (R285, R331) -/

/-- One bit of a reflected CRC-32C. -/
def crcBit (c : BitVec 32) : BitVec 32 := if c.getLsbD 0 then (c >>> 1) ^^^ 0x82F63B78#32 else c >>> 1

/-- One byte of a reflected CRC-32C. -/
def crcByte (c : BitVec 32) (b : Byte) : BitVec 32 :=
  (List.range 8).foldl (fun c _ => crcBit c) (c ^^^ b.setWidth 32)

/-- CRC-32C of R331. -/
def crc32c (bs : List Byte) : BitVec 32 := (bs.foldl crcByte 0xFFFFFFFF#32) ^^^ 0xFFFFFFFF#32

/-- Adler-32 of RFC 1950. -/
def adler32 (bs : List Byte) : Nat :=
  let r := bs.foldl (fun (q : Nat × Nat) b => let a := (q.1 + b.toNat) % 65521; (a, (q.2 + a) % 65521)) (1, 0)
  r.2 * 65536 + r.1

/-! ### Bits of a stream -/

/-- Bits of bytes, least significant first. -/
def bitsOf (bs : List Byte) : List Bool := bs.flatMap (fun b => (List.range 8).map (fun k => b.getLsbD k))

/-- The next `n` bits as a number, first bit least significant. -/
def takeBits : Nat → List Bool → Option (Nat × List Bool)
  | 0, bs => some (0, bs)
  | _ + 1, [] => none
  | n + 1, b :: bs => (takeBits n bs).map (fun r => (b2n b + 2 * r.1, r.2))

/-- What a decoder has left to read, what it has output (newest byte first), and its error code. -/
structure Coded where
  bits : List Bool
  out : List Byte
  err : Nat := 0
deriving DecidableEq, Repr

/-- Stop with an error. -/
def Coded.fail (c : Coded) (e : Nat) : Coded := { c with err := e }

/-- Copy `n` bytes from distance `d` back; the output is newest first. -/
def copyBack (out : List Byte) (d : Nat) : Nat → List Byte
  | 0 => out
  | n + 1 => copyBack (out.getD (d - 1) 0 :: out) d n

/-! ### Deflate (RFC 1951) -/

/-- A canonical prefix code: symbols of each length from 1 on, and the symbols in code order. -/
structure Huff where
  counts : List Nat
  syms : List Nat
deriving DecidableEq, Repr

/-- The code of a list of lengths, at most 15. -/
def Huff.ofLengths (ls : List Nat) : Huff :=
  let ks := (List.range 15).map (· + 1)
  { counts := ks.map (fun k => (ls.filter (· = k)).length),
    syms := ks.flatMap (fun k => (List.range ls.length).filter (fun i => ls.getD i 0 = k)) }

/-- No length holds more codes than there is room for. -/
def Huff.fits (h : Huff) : Bool :=
  (h.counts.foldl (fun (q : Bool × Nat) n => (q.1 && decide (n ≤ 2 * q.2), 2 * q.2 - n)) (true, 1)).1

/-- Follow a code length by length. -/
def huffWalk (syms : List Nat) : List Nat → Nat → Nat → Nat → List Bool → Except Nat (Nat × List Bool)
  | [], _, _, _, _ => .error 16
  | _ :: _, _, _, _, [] => .error 21
  | n :: rest, code, first, index, b :: bs =>
    let code := code + b2n b
    if code < first + n then .ok (syms.getD (index + (code - first)) 0, bs)
    else huffWalk syms rest (2 * code) (2 * (first + n)) (index + n) bs

/-- The next symbol. -/
def Huff.next (h : Huff) (bs : List Bool) : Except Nat (Nat × List Bool) := huffWalk h.syms h.counts 0 0 0 bs

/-- Base and extra bits of a length symbol, by its place after 257. -/
def lengthCode (k : Nat) : Nat × Nat :=
  if k < 8 then (3 + k, 0) else if k = 28 then (258, 0) else (3 + (4 + k % 4) * 2 ^ (k / 4 - 1), k / 4 - 1)

/-- Base and extra bits of a distance symbol. -/
def distCode (k : Nat) : Nat × Nat := if k < 4 then (1 + k, 0) else (1 + (2 + k % 2) * 2 ^ (k / 2 - 1), k / 2 - 1)

/-- A length or distance: its base and the extra bits that follow. -/
def baseExtra (c : Nat × Nat) (bs : List Bool) : Except Nat (Nat × List Bool) :=
  match takeBits c.2 bs with
  | some r => .ok (c.1 + r.1, r.2)
  | none => .error 21

/-- The match that a length symbol opens: length, distance and the bits after it. -/
def deflateMatch (dist : Huff) (k : Nat) (bs : List Bool) : Except Nat (Nat × Nat × List Bool) := do
  let l ← baseExtra (lengthCode k) bs
  let s ← dist.next l.2
  if 30 ≤ s.1 then .error 16
  else
    let d ← baseExtra (distCode s.1) s.2
    pure (l.1, d.1, d.2)

/-- The symbols of one block. -/
def inflateCodes (lit dist : Huff) : Nat → Coded → Coded
  | 0, c => c.fail 16
  | n + 1, c =>
    match lit.next c.bits with
    | .error e => c.fail e
    | .ok (s, bs) =>
      if s < 256 then inflateCodes lit dist n { c with bits := bs, out := BitVec.ofNat 8 s :: c.out }
      else if s = 256 then { c with bits := bs }
      else if 286 ≤ s then c.fail 16
      else
        match deflateMatch dist (s - 257) bs with
        | .error e => c.fail e
        | .ok (len, d, bs) =>
          if c.out.length < d then c.fail 16
          else inflateCodes lit dist n { c with bits := bs, out := copyBack c.out d len }

/-- The fixed codes. -/
def fixedLit : Huff :=
  Huff.ofLengths (List.replicate 144 8 ++ List.replicate 112 9 ++ List.replicate 24 7 ++ List.replicate 8 8)
def fixedDist : Huff := Huff.ofLengths (List.replicate 30 5)

/-- The code lengths of a dynamic block, newest first, until `want` are there. -/
def readLengths (h : Huff) (want : Nat) : Nat → List Nat → List Bool → Except Nat (List Nat × List Bool)
  | 0, _, _ => .error 16
  | n + 1, ls, bs =>
    if want ≤ ls.length then (if ls.length = want then .ok (ls.reverse, bs) else .error 16)
    else
      match h.next bs with
      | .error e => .error e
      | .ok (s, bs) =>
        if s < 16 then readLengths h want n (s :: ls) bs
        else if s = 16 ∧ ls = [] then .error 16
        else
          let rep : Nat × Nat × Nat := if s = 16 then (ls.headD 0, 3, 2) else if s = 17 then (0, 3, 3) else (0, 11, 7)
          match takeBits rep.2.2 bs with
          | none => .error 21
          | some (k, bs) => readLengths h want n (List.replicate (rep.2.1 + k) rep.1 ++ ls) bs

/-- Order of the code length code lengths. -/
def clOrder : List Nat := [16, 17, 18, 0, 8, 7, 9, 6, 10, 5, 11, 4, 12, 3, 13, 2, 14, 1, 15]

/-- `n` three-bit numbers. -/
def threes : Nat → List Bool → Option (List Nat × List Bool)
  | 0, bs => some ([], bs)
  | n + 1, bs => do
    let (v, bs) ← takeBits 3 bs
    let (vs, bs) ← threes n bs
    pure (v :: vs, bs)

/-- The codes of a dynamic block. -/
def dynamicCodes (bs : List Bool) : Except Nat (Huff × Huff × List Bool) :=
  match (do let a ← takeBits 5 bs; let b ← takeBits 5 a.2; let c ← takeBits 4 b.2
            let d ← threes (c.1 + 4) c.2; pure (a.1 + 257, b.1 + 1, d)) with
  | none => .error 21
  | some (hlit, hdist, cl, bs) =>
    let h := Huff.ofLengths ((List.range 19).map (fun k =>
      match (List.range cl.length).find? (fun j => clOrder.getD j 19 = k) with
      | some j => cl.getD j 0
      | none => 0))
    if !h.fits then .error 16
    else
      match readLengths h (hlit + hdist) 330 [] bs with
      | .error e => .error e
      | .ok (ls, bs) =>
        let l := Huff.ofLengths (ls.take hlit)
        let d := Huff.ofLengths (ls.drop hlit)
        if l.fits && d.fits then .ok (l, d, bs) else .error 16

/-- A stored block: the bytes there are, up to its length. -/
def storedBytes : Nat → Coded → Coded
  | 0, c => c
  | n + 1, c =>
    match takeBits 8 c.bits with
    | none => c.fail 21
    | some (v, bs) => storedBytes n { c with bits := bs, out := BitVec.ofNat 8 v :: c.out }

/-- The bits up to the next byte boundary are dropped: the bits left are a whole number of bytes. -/
def alignBits (bs : List Bool) : List Bool := bs.drop (bs.length % 8)

/-- The blocks of a Deflate stream up to its final block. -/
def inflateBlocks : Nat → Coded → Coded
  | 0, c => c.fail 16
  | n + 1, c =>
    match takeBits 3 c.bits with
    | none => c.fail 21
    | some (h, bs) =>
      let fuel := bs.length + 1
      let r : Coded := match h / 2 with
        | 0 =>
          match (do let a ← takeBits 16 (alignBits bs); let b ← takeBits 16 a.2; pure (a.1, b.1, b.2)) with
          | none => c.fail 21
          | some (len, nlen, bs) => if len + nlen ≠ 65535 then c.fail 16 else storedBytes len { c with bits := bs }
        | 1 => inflateCodes fixedLit fixedDist fuel { c with bits := bs }
        | 2 =>
          match dynamicCodes bs with
          | .error e => c.fail e
          | .ok (l, d, bs) => inflateCodes l d fuel { c with bits := bs }
        | _ => c.fail 16
      if r.err ≠ 0 ∨ h % 2 = 1 then r else inflateBlocks n r

/-- A Deflate stream; bits left in its last byte are no input left over. -/
def inflate (bs : List Byte) : Coded :=
  let c := inflateBlocks (8 * bs.length + 1) { bits := bitsOf bs, out := [] }
  { c with bits := alignBits c.bits }

/-- FMT 0. -/
def decodeDeflate (bs : List Byte) : List Byte × Nat :=
  let c := inflate bs
  (c.out.reverse, if c.err = 0 ∧ c.bits ≠ [] then 16 else c.err)

/-- FMT 1. -/
def decodeZlib (bs : List Byte) : List Byte × Nat :=
  match bs with
  | cmf :: flg :: rest =>
    if cmf.toNat % 16 ≠ 8 ∨ 7 < cmf.toNat / 16 ∨ (256 * cmf.toNat + flg.toNat) % 31 ≠ 0 then ([], 16)
    else if flg.getLsbD 5 then ([], 19)
    else
      let c := inflate rest
      let out := c.out.reverse
      let left := c.bits.length / 8
      let tail := rest.drop (rest.length - left)
      if c.err ≠ 0 then (out, c.err)
      else if left < 4 then (out, 21)
      else if leValue (tail.take 4).reverse ≠ adler32 out then (out, 17)
      else (out, if 4 < left then 16 else 0)
  | _ => ([], 21)

/-! ### LZ4 blocks -/

/-- The rest of a length whose nibble is 15. -/
def lz4Length : List Byte → Nat → Option (Nat × List Byte)
  | [], _ => none
  | b :: bs, n => if b = 255 then lz4Length bs (n + 255) else some (n + b.toNat, bs)

/-- A length from its nibble. -/
def lz4Field (k : Nat) (bs : List Byte) : Option (Nat × List Byte) := if k = 15 then lz4Length bs 15 else some (k, bs)

/-- The sequences of a block; the output is newest first. -/
def lz4Blocks : Nat → List Byte → List Byte → List Byte × Nat
  | 0, _, out => (out, 16)
  | _ + 1, [], out => (out, 21)
  | n + 1, token :: bs, out =>
    match lz4Field (token.toNat / 16) bs with
    | none => (out, 21)
    | some (lits, bs) =>
      let out := (bs.take lits).reverse ++ out
      if bs.length < lits then (out, 21)
      else
        match bs.drop lits with
        | [] => (out, 0)
        | [_] => (out, 21)
        | lo :: hi :: bs =>
          let d := lo.toNat + 256 * hi.toNat
          if d = 0 ∨ out.length < d then (out, 16)
          else
            match lz4Field (token.toNat % 16) bs with
            | none => (out, 21)
            | some (len, bs) => lz4Blocks n bs (copyBack out d (len + 4))

/-- FMT 2. -/
def decodeLz4 (bs : List Byte) : List Byte × Nat :=
  let r := lz4Blocks (bs.length + 1) bs []
  (r.1.reverse, r.2)

/-! ### The plane-delta filter (R286) -/

/-- The samples of a row of `pdw`, `k` of it done, after the sample `prev`. -/
def planeDelta (pdw : Nat) : Nat → Nat → List Byte → List Byte
  | k, prev, lo :: hi :: bs =>
    let d := lo.toNat + 256 * hi.toNat
    let v := if k % pdw = 0 then d else (prev + d) % 65536
    leBytes 2 v ++ planeDelta pdw (k + 1) v bs
  | _, _, _ => []

end Sys2Proof.Machine
end

