-- ==== Sys2Proof/Machine/Zstd.lean ====
section
/-! DEFINITION. The Zstandard decoder (RFC 8878) with the limits of R285, and the dictionary format of R341. -/

namespace Sys2Proof.Machine

/-- Failing with a code of R285. -/
abbrev Zs (α : Type) := Except Nat α

/-- An optional value, or an error. -/
def orFail {α : Type} (e : Nat) (o : Option α) : Zs α :=
  match o with
  | some v => .ok v
  | none => .error e

/-- Fail unless a condition holds. -/
def need (e : Nat) (b : Bool) : Zs Unit := if b then .ok () else .error e

/-- The first `n` bytes as a number, and the rest. -/
def takeNum (n : Nat) (bs : List Byte) : Zs (Nat × List Byte) :=
  if bs.length < n then .error 21 else .ok (leValue (bs.take n), bs.drop n)

/-- The first `n` bytes, and the rest. -/
def takeList (n : Nat) (bs : List Byte) : Zs (List Byte × List Byte) :=
  if bs.length < n then .error 21 else .ok (bs.take n, bs.drop n)

/-! ### Backward bit streams -/

/-- Drop the padding up to and including the first set bit. -/
def dropMark : List Bool → Option (List Bool)
  | [] => none
  | true :: bs => some bs
  | false :: bs => dropMark bs

/-- The bits of a backward stream in reading order. -/
def backBits (bs : List Byte) : Zs (List Bool) :=
  match bs.getLast? with
  | none => .error 16
  | some b => if b = 0 then .error 16 else orFail 16 (dropMark (bitsOf bs).reverse)

/-- The next `n` bits, first bit most significant, zeros past the end; the bits left and how many were missing. -/
def backTake : Nat → Nat → List Bool → Nat → Nat × List Bool × Nat
  | 0, v, bs, m => (v, bs, m)
  | n + 1, v, [], m => backTake n (2 * v) [] (m + 1)
  | n + 1, v, b :: bs, m => backTake n (2 * v + b2n b) bs m

/-- The next `n` bits, which must be there. -/
def backRead (n : Nat) (bs : List Bool) : Zs (Nat × List Bool) :=
  let r := backTake n 0 bs 0
  if r.2.2 = 0 then .ok (r.1, r.2.1) else .error 16

/-! ### FSE tables -/

/-- A decoding table: accuracy log, and symbol, bits and base of each state. -/
structure Fse where
  log : Nat
  cells : List (Nat × Nat × Nat)
deriving DecidableEq, Repr

/-- The next place of a spread that holds no symbol of low probability. -/
def spreadNext (step size high : Nat) : Nat → Nat → Nat
  | 0, p => p
  | n + 1, p =>
    let p := (p + step) % size
    if p < high then p else spreadNext step size high n p

/-- The table of normalised counts; a count of −1 is a probability below one. -/
def Fse.ofCounts (log : Nat) (cs : List Int) : Fse :=
  let size := 2 ^ log
  let ks := (List.range cs.length).zip cs
  let low := (ks.filter (fun k => k.2 = -1)).map (fun k => k.1)
  let high := size - low.length
  let runs := ks.flatMap (fun k => List.replicate k.2.toNat k.1)
  let step := size / 2 + size / 8 + 3
  let placed := (runs.foldl (fun (q : Table Nat × Nat) sym =>
    (Table.put q.1 q.2 sym, spreadNext step size high size q.2)) ([], 0)).1
  let placed := ((List.range low.length).zip low).foldl (fun t e => Table.put t (size - 1 - e.1) e.2) placed
  let r := (List.range size).foldl (fun (q : List (Nat × Nat × Nat) × Table Nat) i =>
    let sym := Table.get placed i 0
    let c := cs.getD sym 0
    let next := Table.get q.2 sym (if c = -1 then 1 else c.toNat)
    let nb := log - Nat.log2 next
    ((sym, nb, next * 2 ^ nb - size) :: q.1, Table.put q.2 sym (next + 1))) ([], [])
  { log := log, cells := r.1.reverse }

/-- A table with one symbol. -/
def Fse.single (sym : Nat) : Fse := { log := 0, cells := [(sym, 0, 0)] }

def Fse.cell (t : Fse) (st : Nat) : Nat × Nat × Nat := t.cells.getD st (0, 0, 0)
def Fse.sym (t : Fse) (st : Nat) : Nat := (t.cell st).1

/-- Zero counts after a zero count: repeat flags of two bits. -/
def zeroRuns : Nat → List Int → List Bool → Option (List Int × List Bool)
  | 0, _, _ => none
  | n + 1, cs, bs =>
    match takeBits 2 bs with
    | none => none
    | some (k, bs) =>
      let cs := List.replicate k 0 ++ cs
      if k = 3 then zeroRuns n cs bs else some (cs, bs)

/-- Normalised counts, newest first, while `left` of the table is not given out. -/
def readCounts : Nat → Nat → List Int → List Bool → Option (List Int × List Bool)
  | 0, _, _, _ => none
  | n + 1, left, cs, bs =>
    if left = 0 then some (cs.reverse, bs)
    else
      let w := Nat.log2 (left + 1) + 1
      let half := 2 ^ (w - 1)
      let edge := 2 ^ w - 1 - (left + 1)
      match takeBits (w - 1) bs with
      | none => none
      | some (lowPart, rest) =>
        let r : Option (Nat × List Bool) :=
          if lowPart < edge then some (lowPart, rest)
          else (takeBits 1 rest).map (fun b => (if b.1 = 1 then lowPart + half - edge else lowPart, b.2))
        match r with
        | none => none
        | some (v, bs) =>
          let c : Int := (v : Int) - 1
          let used := c.natAbs
          if left < used then none
          else if c = 0 then
            match zeroRuns (bs.length + 1) (0 :: cs) bs with
            | none => none
            | some (cs, bs) => readCounts n left cs bs
          else readCounts n (left - used) (c :: cs) bs

/-- A table description: its table and the bytes after it. -/
def readFse (maxLog maxSyms : Nat) (bs : List Byte) : Zs (Fse × List Byte) := do
  let (a, bits) ← orFail 21 (takeBits 4 (bitsOf bs))
  let log := a + 5
  need 16 (log ≤ maxLog)
  let (cs, left) ← orFail 16 (readCounts 300 (2 ^ log) [] bits)
  need 16 (cs.length ≤ maxSyms)
  pure (Fse.ofCounts log cs, bs.drop (bs.length - left.length / 8))

/-! ### Huffman-coded literals -/

/-- A prefix code: the longest length, and symbol and length of each value of that many bits. -/
structure Prefix where
  maxBits : Nat
  cells : List (Nat × Nat)
deriving DecidableEq, Repr

/-- The code of a list of weights, without its last. -/
def Prefix.ofWeights (ws : List Nat) : Zs Prefix :=
  let sum := ws.foldl (fun a w => a + (if w = 0 then 0 else 2 ^ (w - 1))) 0
  let maxBits := Nat.log2 sum + 1
  let left := 2 ^ maxBits - sum
  if sum = 0 ∨ 11 < maxBits ∨ 2 ^ Nat.log2 left ≠ left ∨ 255 < ws.length then .error 16
  else
    let ws := ws ++ [Nat.log2 left + 1]
    let cells := ((List.range maxBits).map (· + 1)).flatMap (fun w =>
      ((List.range ws.length).filter (fun i => ws.getD i 0 = w)).flatMap (fun i =>
        List.replicate (2 ^ (w - 1)) (i, maxBits + 1 - w)))
    .ok { maxBits := maxBits, cells := cells }

/-- The two interleaved states of the weights, newest weight first. -/
def fseWeights (t : Fse) : Nat → Nat → Nat → List Bool → List Nat → Zs (List Nat)
  | 0, _, _, _, _ => .error 16
  | n + 1, a, b, bs, ws =>
    let c := t.cell a
    let r := backTake c.2.1 0 bs 0
    let ws := t.sym a :: ws
    if r.2.2 ≠ 0 then .ok ((t.sym b :: ws).reverse) else fseWeights t n b (c.2.2 + r.1) r.2.1 ws

/-- A tree description: its code and the bytes after it. -/
def readTree (bs : List Byte) : Zs (Prefix × List Byte) := do
  let (h, bs) ← takeNum 1 bs
  if h < 128 then
    let (part, rest) ← takeList h bs
    let (t, stream) ← readFse 6 13 part
    let bits ← backBits stream
    let (a, bits) ← backRead t.log bits
    let (b, bits) ← backRead t.log bits
    let ws ← fseWeights t 256 a b bits []
    let p ← Prefix.ofWeights ws
    pure (p, rest)
  else
    let n := h - 127
    let (part, rest) ← takeList ((n + 1) / 2) bs
    let ws := (part.flatMap (fun b => [b.toNat / 16, b.toNat % 16])).take n
    let p ← Prefix.ofWeights ws
    pure (p, rest)

/-- `n` literals of one stream, newest first, which must use up its bits. -/
def huffStream (p : Prefix) : Nat → List Bool → List Byte → Zs (List Byte)
  | 0, bs, out => if bs = [] then .ok out.reverse else .error 16
  | n + 1, bs, out =>
    let look := backTake p.maxBits 0 bs 0
    let c := p.cells.getD look.1 (0, 0)
    if bs.length < c.2 then .error 16 else huffStream p n (bs.drop c.2) (BitVec.ofNat 8 c.1 :: out)

/-- Literals in one stream or four. -/
def huffLiterals (p : Prefix) (four : Bool) (regen : Nat) (bs : List Byte) : Zs (List Byte) := do
  if four then
    let (a, bs) ← takeNum 2 bs
    let (b, bs) ← takeNum 2 bs
    let (c, bs) ← takeNum 2 bs
    let (s1, bs) ← takeList a bs
    let (s2, bs) ← takeList b bs
    let (s3, s4) ← takeList c bs
    let q := (regen + 3) / 4
    need 16 (3 * q ≤ regen)
    let l1 ← huffStream p q (← backBits s1) []
    let l2 ← huffStream p q (← backBits s2) []
    let l3 ← huffStream p q (← backBits s3) []
    let l4 ← huffStream p (regen - 3 * q) (← backBits s4) []
    pure (l1 ++ l2 ++ l3 ++ l4)
  else huffStream p regen (← backBits bs) []

/-! ### The state of a frame -/

/-- What blocks of a frame hand on: the literal code, the three sequence tables, the repeat offsets; and the frame's
history: its dictionary (newest byte first), window, and bytes of the frame before this block. -/
structure ZFrame where
  tree : Option Prefix := none
  ll : Option Fse := none
  off : Option Fse := none
  ml : Option Fse := none
  reps : Nat × Nat × Nat := (1, 4, 8)
  dict : List Byte := []
  window : Nat := 0
deriving DecidableEq, Repr

/-- The literals section: the literals, the code kept, and the bytes after it. -/
def readLiterals (f : ZFrame) (bs : List Byte) : Zs (List Byte × Option Prefix × List Byte) := do
  let (b0, _) ← takeNum 1 bs
  let kind := b0 % 4
  let sf := b0 / 4 % 4
  if kind < 2 then
    let n := if sf % 2 = 0 then 1 else if sf = 1 then 2 else 3
    let (h, bs) ← takeNum n bs
    let size := h / (if n = 1 then 8 else 16)
    need 16 (size ≤ 131072)
    if kind = 0 then
      let (l, bs) ← takeList size bs
      pure (l, f.tree, bs)
    else
      let (v, bs) ← takeList 1 bs
      pure (List.replicate size (v.headD 0), f.tree, bs)
  else
    let n := if sf < 2 then 3 else sf + 2
    let w := if sf < 2 then 10 else if sf = 2 then 14 else 18
    let (h, bs) ← takeNum n bs
    let regen := bits h (w + 3) 4
    let comp := bits h (2 * w + 3) (w + 4)
    need 16 (regen ≤ 131072)
    let (part, rest) ← takeList comp bs
    let (p, stream) ← if kind = 2 then readTree part else do
      let p ← orFail 16 f.tree
      pure (p, part)
    let l ← huffLiterals p (sf ≠ 0) regen stream
    pure (l, some p, rest)

/-! ### Sequences -/

/-- The predefined tables. -/
def llDefault : Fse := Fse.ofCounts 6
  [4, 3, 2, 2, 2, 2, 2, 2, 2, 2, 2, 2, 2, 1, 1, 1, 2, 2, 2, 2, 2, 2, 2, 2, 2, 3, 2, 1, 1, 1, 1, 1, -1, -1, -1, -1]
def mlDefault : Fse := Fse.ofCounts 6
  ([1, 4, 3, 2, 2, 2, 2, 2, 2] ++ List.replicate 37 1 ++ List.replicate 7 (-1))
def offDefault : Fse := Fse.ofCounts 5 ([1, 1, 1, 1, 1, 1, 2, 2, 2] ++ List.replicate 15 1 ++ List.replicate 5 (-1))

/-- Base and extra bits of a literals length code. -/
def llCode (c : Nat) : Nat × Nat :=
  if c < 16 then (c, 0) else if c < 20 then (16 + 2 * (c - 16), 1) else if c < 22 then (24 + 4 * (c - 20), 2)
  else if c = 22 then (32, 3) else if c = 23 then (40, 3) else if c = 24 then (48, 4)
  else (2 ^ (c - 19), c - 19)

/-- Base and extra bits of a match length code. -/
def mlCode (c : Nat) : Nat × Nat :=
  if c < 32 then (c + 3, 0) else if c < 36 then (35 + 2 * (c - 32), 1) else if c < 38 then (43 + 4 * (c - 36), 2)
  else if c < 40 then (51 + 8 * (c - 38), 3) else if c < 42 then (67 + 16 * (c - 40), 4)
  else if c = 42 then (99, 5) else (3 + 2 ^ (c - 36), c - 36)

/-- The table of one kind of symbol under its mode, and the bytes after it. -/
def seqTable (mode : Nat) (dflt : Fse) (old : Option Fse) (maxLog maxSyms : Nat) (bs : List Byte) : Zs (Fse × List Byte) := do
  if mode = 0 then pure (dflt, bs)
  else if mode = 1 then
    let (v, bs) ← takeNum 1 bs
    need 16 (v < maxSyms)
    pure (Fse.single v, bs)
  else if mode = 2 then readFse maxLog maxSyms bs
  else
    let t ← orFail 16 old
    pure (t, bs)

/-- The offset that an offset value names, and the repeat offsets after it. -/
def useOffset (reps : Nat × Nat × Nat) (v ll : Nat) : Nat × (Nat × Nat × Nat) :=
  let (r1, r2, r3) := reps
  if 3 < v then (v - 3, (v - 3, r1, r2))
  else
    match v + (if ll = 0 then 1 else 0) with
    | 1 => (r1, reps)
    | 2 => (r2, (r2, r1, r3))
    | 3 => (r3, (r3, r1, r2))
    | _ => (r1 - 1, (r1 - 1, r1, r2))

/-- Output of a block under way: the frame's output newest first, its length, the literals left, the repeat offsets. -/
structure ZOut where
  out : List Byte
  len : Nat
  lits : List Byte
  reps : Nat × Nat × Nat
deriving DecidableEq, Repr

/-- One match reaches bytes that its window or the dictionary still holds. -/
def ZFrame.reaches (f : ZFrame) (len d : Nat) : Bool :=
  d ≠ 0 && (if d ≤ len then decide (d ≤ f.window) else decide (len ≤ f.window) && decide (d ≤ len + f.dict.length))

/-- The sequences of a block; `out` ends with the dictionary. -/
def zSequences (f : ZFrame) (tl tf tm : Fse) : Nat → Nat → Nat → Nat → List Bool → ZOut → ZOut × Nat
  | 0, _, _, _, bs, o => (o, if bs = [] then 0 else 16)
  | n + 1, sl, so, sm, bs, o =>
    let oc := tf.sym so
    let r := (do
      need 16 (oc < 32)
      let (ob, bs) ← backRead oc bs
      let m := mlCode (tm.sym sm)
      let (mb, bs) ← backRead m.2 bs
      let l := llCode (tl.sym sl)
      let (lb, bs) ← backRead l.2 bs
      let (ua, bs) ← if n = 0 then pure (0, bs) else backRead (tl.cell sl).2.1 bs
      let (ub, bs) ← if n = 0 then pure (0, bs) else backRead (tm.cell sm).2.1 bs
      let (uc, bs) ← if n = 0 then pure (0, bs) else backRead (tf.cell so).2.1 bs
      pure (2 ^ oc + ob, m.1 + mb, l.1 + lb, (tl.cell sl).2.2 + ua, (tm.cell sm).2.2 + ub, (tf.cell so).2.2 + uc, bs) : Zs _)
    match r with
    | .error e => (o, e)
    | .ok (v, ml, ll, sl, sm, so, bs) =>
      let (d, reps) := useOffset o.reps v ll
      let out := (o.lits.take ll).reverse ++ o.out
      let len := o.len + ll
      if o.lits.length < ll then (o, 16)
      else if !f.reaches len d then ({ o with out := out, len := len, lits := o.lits.drop ll }, 16)
      else
        zSequences f tl tf tm n sl so sm bs
          { out := copyBack out d ml, len := len + ml, lits := o.lits.drop ll, reps := reps }

/-- Number of sequences, and the bytes after it. -/
def seqCount (bs : List Byte) : Zs (Nat × List Byte) := do
  let (a, bs) ← takeNum 1 bs
  if a < 128 then pure (a, bs)
  else if a < 255 then
    let (b, bs) ← takeNum 1 bs
    pure ((a - 128) * 256 + b, bs)
  else
    let (b, bs) ← takeNum 2 bs
    pure (b + 0x7F00, bs)

/-- What precedes the sequences of a block: the frame with its new tables, the literals, and the sequences to come
(count, states and bits), if there are any. -/
def blockHead (f : ZFrame) (bs : List Byte) : Zs (ZFrame × List Byte × Option (Nat × Fse × Fse × Fse × Nat × Nat × Nat × List Bool)) := do
  let (lits, tree, bs) ← readLiterals f bs
  let f := { f with tree := tree }
  let (n, bs) ← seqCount bs
  if n = 0 then
    need 16 (bs = [])
    pure (f, lits, none)
  else
    let (m, bs) ← takeNum 1 bs
    need 16 (m % 4 = 0)
    let (tl, bs) ← seqTable (m / 64) llDefault f.ll 9 36 bs
    let (tf, bs) ← seqTable (m / 16 % 4) offDefault f.off 8 32 bs
    let (tm, bs) ← seqTable (m / 4 % 4) mlDefault f.ml 9 53 bs
    let b ← backBits bs
    let (sl, b) ← backRead tl.log b
    let (so, b) ← backRead tf.log b
    let (sm, b) ← backRead tm.log b
    pure ({ f with ll := some tl, off := some tf, ml := some tm }, lits, some (n, tl, tf, tm, sl, so, sm, b))

/-- A compressed block: the frame after it, its output and an error code. Within a whole block, input that runs out is
malformed. -/
def zBlock (f : ZFrame) (o : ZOut) (bs : List Byte) : ZFrame × ZOut × Nat :=
  match blockHead f bs with
  | .error _ => (f, o, 16)
  | .ok (f, lits, none) =>
    (f, { o with out := lits.reverse ++ o.out, len := o.len + lits.length }, 0)
  | .ok (f, lits, some (n, tl, tf, tm, sl, so, sm, b)) =>
    let r := zSequences f tl tf tm n sl so sm b { o with lits := lits }
    let q := r.1
    if r.2 ≠ 0 then (f, q, r.2)
    else (f, { q with out := q.lits.reverse ++ q.out, len := q.len + q.lits.length, lits := [] }, 0)

/-! ### Frames -/

/-- The blocks of a frame: its output, the bytes after it, and an error code. -/
def zBlocks : Nat → ZFrame → ZOut → List Byte → ZOut × List Byte × Nat
  | 0, _, o, bs => (o, bs, 16)
  | n + 1, f, o, bs =>
    match takeNum 3 bs with
    | .error e => (o, bs, e)
    | .ok (h, bs) =>
      let size := h / 8
      let limit := if f.window < 131072 then f.window else 131072
      let kind := h / 2 % 4
      if kind = 3 ∨ limit < size then (o, bs, 16)
      else
        let part := bs.take (if kind = 1 then 1 else size)
        let short := bs.length < (if kind = 1 then 1 else size)
        let rest := bs.drop part.length
        let r : ZFrame × ZOut × Nat :=
          match kind with
          | 0 => (f, { o with out := part.reverse ++ o.out, len := o.len + part.length }, if short then 21 else 0)
          | 1 =>
            if short then (f, o, 21)
            else (f, { o with out := List.replicate size (part.headD 0) ++ o.out, len := o.len + size }, 0)
          | _ => if short then (f, o, 21) else zBlock f o part
        if r.2.2 ≠ 0 then (r.2.1, rest, r.2.2)
        else if o.len + limit < r.2.1.len then (r.2.1, rest, 16)
        else if h % 2 = 1 then (r.2.1, rest, 0)
        else zBlocks n r.1 r.2.1 rest

/-- XXH64 with seed 0. -/
def xxRound (a k : BitVec 64) : BitVec 64 := ((a + k * 0xC2B2AE3D27D4EB4F).rotateLeft 31) * 0x9E3779B185EBCA87

def xxMerge (h a : BitVec 64) : BitVec 64 := (h ^^^ xxRound 0 a) * 0x9E3779B185EBCA87 + 0x85EBCA77C2B2AE63

def xxWord (bs : List Byte) (n : Nat) : BitVec 64 := BitVec.ofNat 64 (leValue (bs.take n))

def xxStripes : Nat → BitVec 64 × BitVec 64 × BitVec 64 × BitVec 64 → List Byte →
    (BitVec 64 × BitVec 64 × BitVec 64 × BitVec 64) × List Byte
  | 0, v, bs => (v, bs)
  | n + 1, (a, b, c, d), bs =>
    xxStripes n (xxRound a (xxWord bs 8), xxRound b (xxWord (bs.drop 8) 8), xxRound c (xxWord (bs.drop 16) 8),
      xxRound d (xxWord (bs.drop 24) 8)) (bs.drop 32)

def xxWords : Nat → BitVec 64 → List Byte → BitVec 64 × List Byte
  | 0, h, bs => (h, bs)
  | n + 1, h, bs =>
    xxWords n (((h ^^^ xxRound 0 (xxWord bs 8)).rotateLeft 27) * 0x9E3779B185EBCA87 + 0x85EBCA77C2B2AE63) (bs.drop 8)

/-- The hash of a list of bytes. -/
def xxh64 (bs : List Byte) : BitVec 64 :=
  let n := bs.length
  let p1 : BitVec 64 := 0x9E3779B185EBCA87
  let p2 : BitVec 64 := 0xC2B2AE3D27D4EB4F
  let s : BitVec 64 × List Byte :=
    if 32 ≤ n then
      let r := xxStripes (n / 32) (p1 + p2, p2, 0, 0 - p1) bs
      let (a, b, c, d) := r.1
      (xxMerge (xxMerge (xxMerge (xxMerge (a.rotateLeft 1 + b.rotateLeft 7 + c.rotateLeft 12 + d.rotateLeft 18) a) b) c) d, r.2)
    else (0x27D4EB2F165667C5, bs)
  let w := xxWords (s.2.length / 8) (s.1 + BitVec.ofNat 64 n) s.2
  let v : BitVec 64 × List Byte :=
    if 4 ≤ w.2.length then
      (((w.1 ^^^ (xxWord w.2 4 * p1)).rotateLeft 23) * p2 + 0x165667B19E3779F9, w.2.drop 4)
    else w
  let h := v.2.foldl (fun h b => ((h ^^^ (b.setWidth 64 * 0x27D4EB2F165667C5)).rotateLeft 11) * p1) v.1
  let h := (h ^^^ (h >>> 33)) * p2
  let h := (h ^^^ (h >>> 29)) * 0x165667B19E3779F9
  h ^^^ (h >>> 32)

/-- A dictionary: its identifier and the state a frame that uses it starts from. -/
structure ZDict where
  id : Nat
  frame : ZFrame
deriving DecidableEq, Repr

/-- A dictionary in the RFC 8878 format (R341); `none` where it is malformed. -/
def readDict (bs : List Byte) : Option ZDict :=
  let r : Zs ZDict := do
    let (magic, bs) ← takeNum 4 bs
    need 19 (magic = 0xEC30A437)
    let (id, bs) ← takeNum 4 bs
    let (tree, bs) ← readTree bs
    let (off, bs) ← readFse 8 32 bs
    let (ml, bs) ← readFse 9 53 bs
    let (ll, bs) ← readFse 9 36 bs
    let (r1, bs) ← takeNum 4 bs
    let (r2, bs) ← takeNum 4 bs
    let (r3, bs) ← takeNum 4 bs
    need 19 ([r1, r2, r3].all (fun r => decide (1 ≤ r ∧ r ≤ bs.length)))
    pure { id := id, frame := { tree := some tree, ll := some ll, off := some off, ml := some ml, reps := (r1, r2, r3),
                                dict := bs.reverse } }
  match r with
  | .ok d => some d
  | .error _ => none

/-- The header of a frame after its magic number: window, content size, dictionary identifier, checksum flag, and the
bytes after it. -/
def frameHead (bs : List Byte) : Zs (Nat × Option Nat × Nat × Bool × List Byte) := do
  let (d, bs) ← takeNum 1 bs
  let single := bit d 5
  need 16 (!bit d 3)
  let (wd, bs) ← if single then pure (0, bs) else takeNum 1 bs
  let base := 2 ^ (10 + wd / 8)
  let (id, bs) ← takeNum ([0, 1, 2, 4].getD (d % 4) 0) bs
  let n := [if single then 1 else 0, 2, 4, 8].getD (d / 64) 0
  let (size, bs) ← takeNum n bs
  let size := if n = 2 then size + 256 else size
  let window := if single then size else base + base / 8 * (wd % 8)
  need 18 (window ≤ 8388608)
  pure (window, if n = 0 then none else some size, id, bit d 2, bs)

/-- One frame of data: its output newest first, the bytes after it, and an error code. -/
def zFrame (dict : Option ZDict) (bs : List Byte) : List Byte × List Byte × Nat :=
  match frameHead bs with
  | .error e => ([], bs, e)
  | .ok (window, size, id, sum, bs) =>
    let stranger : Bool := match dict with
      | some d => decide (d.id ≠ id)
      | none => true
    if id ≠ 0 ∧ stranger then ([], bs, 19)
    else
      let f := { (match dict with
        | some d => d.frame
        | none => {}) with window := window }
      let r := zBlocks (bs.length + 1) f { out := f.dict, len := 0, lits := [], reps := f.reps } bs
      let out := r.1.out.take r.1.len
      let wrong : Bool := match size with
        | some n => decide (n ≠ r.1.len)
        | none => false
      if r.2.2 ≠ 0 then (out, r.2.1, r.2.2)
      else if wrong then (out, r.2.1, 16)
      else if !sum then (out, r.2.1, 0)
      else
        match takeNum 4 r.2.1 with
        | .error e => (out, r.2.1, e)
        | .ok (v, bs) => (out, bs, if v = (xxh64 out.reverse).toNat % 2 ^ 32 then 0 else 17)

/-- Frames up to the end of the input; the output is newest first. -/
def zFrames (dict : Option ZDict) : Nat → List Byte → List Byte → List Byte × Nat
  | 0, _, out => (out, 16)
  | n + 1, bs, out =>
    if bs = [] then (out, 0)
    else
      match takeNum 4 bs with
      | .error e => (out, e)
      | .ok (magic, bs) =>
        if magic / 16 = 0x184D2A5 then
          match takeNum 4 bs with
          | .error e => (out, e)
          | .ok (k, bs) => if bs.length < k then (out, 21) else zFrames dict n (bs.drop k) out
        else if magic ≠ 0xFD2FB528 then (out, 16)
        else
          let r := zFrame dict bs
          if r.2.2 ≠ 0 then (r.1 ++ out, r.2.2) else zFrames dict n r.2.1 (r.1 ++ out)

/-- FMT 3. -/
def decodeZstd (dict : Option ZDict) (bs : List Byte) : List Byte × Nat :=
  let r := zFrames dict (bs.length + 1) bs []
  (r.1.reverse, r.2)

end Sys2Proof.Machine
end

