-- ==== Sys2Proof/Machine/Engines.lean ====
section
/-! DEFINITION. Copy and decompression commands from start to completion, arbitration on shared engines, and the stop of
an engine for a handover (R173, R216, R279 to R288, R314, R315, R331, R332, R341, R350, R376). -/

namespace Sys2Proof.Machine

/-! ### Layout records (R331) -/

/-- A layout record: version, element size, extents and strides. -/
structure Layout where
  version : Nat
  esize : Nat
  extents : List Nat
  strides : List Int
  zeros : Bool
deriving DecidableEq, Repr

/-- The fields of 64 bytes. -/
def Layout.ofBytes (bs : List Byte) : Layout :=
  { version := numAt bs 0 2, esize := numAt bs 2 1,
    extents := (List.range 6).map (fun k => numAt bs (4 + 4 * k) 4),
    strides := (List.range 6).map (fun k => toSigned 32 (numAt bs (28 + 4 * k) 4)),
    zeros := numAt bs 3 1 = 0 && numAt bs 52 8 = 0 }

/-- The seal matches. -/
def sealed (bs : List Byte) : Bool := (crc32c (bs.take 60)).toNat = numAt bs 60 4

/-- Elements of the walk. -/
def Layout.count (l : Layout) : Nat := l.extents.foldl (fun a e => a * e) 1

/-- Bytes of the contiguous side. -/
def Layout.bytes (l : Layout) : Nat := l.esize * l.count

/-- The limits of R331 other than the version. -/
def Layout.legal (l : Layout) : Bool :=
  l.zeros && [1, 2, 4, 8].contains l.esize && l.extents.all (fun e => decide (1 ≤ e ∧ e ≤ 2 ^ 24)) &&
    decide (l.bytes ≤ 2 ^ 32)

/-- Σ ck × sk of element `t`, counter 0 innermost. -/
def walkOffset : List Nat → List Int → Nat → Int
  | e :: es, st :: ss, t => (t % e : Nat) * st + walkOffset es ss (t / e)
  | _, _, _ => 0

/-- Address of element `t` from a base (R280, R332). -/
def Layout.address (l : Layout) (base t : Nat) : Nat :=
  wrapTo 64 ((base : Int) + l.esize * walkOffset l.extents l.strides t)

/-! ### What a command fills (R282, R283, R287, R309) -/

/-- The team of the poster is over: its scratchpad writes are dropped (R283). -/
def State.teamGone (s : State) (r : Ring) (p : Poster) : Bool :=
  let t := s.team (clusterOf r.core) p.team
  t.over || !t.live

/-- Why a target is not delivered: cause and detail; or the entry to fill and its bytes. -/
inductive Fill
  | lost (cause : Nat) (detail : Word)
  | gone
  | into (entry : Nat)
deriving DecidableEq, Repr

/-- The entry that handle `h` at offset `o` fills with `n` bytes on a core. -/
def State.fillTarget (s : State) (p : Poster) (core h o n : Nat) : Fill :=
  match s.teamEntry core p.team (p.csa / 4096) h with
  | none => .lost 7 0
  | some e =>
    let c := s.core core
    let header := tKind (c.tile e).1 = 2
    if header ∧ o ≠ 0 then .lost 7 0
    else
      let e := if header then c.writeSlot e else e
      match s.engineBank true p.dom core (c.tileBase e + o) n 0 with
      | some f => .lost 29 f.detail
      | none => .into e

/-- The targets of a copy into tiles: multicast bit, core, and what happens there. -/
def State.copyTargets (s : State) (r : Ring) (q : CopyEntry) (p : Poster) (n : Nat) : List (Nat × Nat × Fill) :=
  let h := desHandle q.dst
  let o := desOffset q.dst
  if q.mc then
    q.maskBits.map (fun m =>
      let core := s.teamCore r.core p.team m.2
      (m.1, core, if s.teamGone r p then .gone else s.fillTarget p core h o n))
  else [(0, r.core, if s.teamGone r p then .lost 7 0 else s.fillTarget p r.core h o n)]

/-- Entries among targets. -/
def intoList (ts : List (Nat × Nat × Fill)) : List (Nat × Nat × Nat) :=
  ts.filterMap (fun t =>
    match t.2.2 with
    | .into e => some (t.1, t.2.1, e)
    | _ => none)

/-- Every target is empty. -/
def State.allEmpty (s : State) (ts : List (Nat × Nat × Nat)) : Bool :=
  ts.all (fun t => tState ((s.core t.2.1).tile t.2.2).1 = tsEmpty)

/-- Fills start: STATE filling, FERR 0 (R315). -/
def State.startFills (s : State) (ts : List (Nat × Nat × Nat)) : State :=
  ts.foldl (fun s t => s.modCore t.2.1 (fun c => (c.setTileState t.2.2 tsFilling).modTile t.2.2 (fun w => setFld w 25 24 0))) s

/-- A member advances its header's WP. -/
def Core.memberFilled (c : Core) (e : Nat) : Core :=
  if tKind (c.tile e).1 = 3 then
    (match c.headerOf e with
      | some h => c.advanceWp h
      | none => c)
  else c

/-- Fills complete, or fail after starting: ready with FERR 0 or 2 (R315). -/
def State.endFills (s : State) (failed : Bool) (ts : List (Nat × Nat × Nat)) : State :=
  ts.foldl (fun s t => s.modCore t.2.1 (fun c =>
    if tState (c.tile t.2.2).1 = tsFilling then
      ((c.setTileState t.2.2 tsReady).modTile t.2.2 (fun w => setFld w 25 24 (if failed then 2 else 0))).memberFilled t.2.2
    else c)) s

/-- Fills rejected for their seal: empty with FERR 1 and FADDR (R315, R332). -/
def State.rejectFills (s : State) (faddr : Nat) (ts : List (Nat × Nat × Nat)) : State :=
  ts.foldl (fun s t => s.modCore t.2.1 (fun c =>
    (c.setTile t.2.2 (setFld (c.tile t.2.2).1 25 24 1, BitVec.ofNat 64 faddr)).memberFilled t.2.2)) s

/-! ### Arbitration (R173, R288, R350) -/

/-- Change the command that a ring runs. -/
def State.modRun (s : State) (id : Nat) (f : EngRun → EngRun) : State :=
  s.modRing id (fun r => { r with running := r.running.map f })

/-- Code of an engine in the list of engines that reload their microcode (R416). -/
def Ring.engineCode (r : Ring) : Nat × Nat :=
  (r.home, (match r.cls with
    | .copy => 0
    | .dcz => 8
    | .coll => 16) + r.engine)

/-- The commands of a save area are stopped in this ring. -/
def Ring.stops (r : Ring) (csa : Nat) : Bool := r.asked.contains csa || r.stopped.contains csa

/-- The run of a ring that may continue: not finished, and not stopped but by a cut that lets it complete (R173, R400). -/
def State.live (s : State) (r : Ring) : Option EngRun :=
  match r.running with
  | some q => if q.finished || (r.stops q.poster.csa && !s.runsThroughCut r q) then none else some q
  | none => none

/-- The place of a command among those ready: budget left, priority, age; a smaller triple goes first (R288). -/
def State.runRank (s : State) (r : Ring) (q : EngRun) : Nat × Nat × Nat :=
  (b2n (decide (s.units q.poster.dom = 0)), 127 - (s.team (clusterOf r.core) q.poster.team).prio, q.poster.seq)

/-- Lexicographic order of ranks. -/
def rankLt (a b : Nat × Nat × Nat) : Bool :=
  decide (a.1 < b.1) || (a.1 = b.1 && (decide (a.2.1 < b.2.1) || (a.2.1 = b.2.1 && decide (a.2.2 < b.2.2))))

/-- Schedule the next granule boundary of a ring's engine, if none is on its way. -/
def State.scheduleGranule (s : State) (r : Ring) : State :=
  let there := s.agenda.any (fun e => e.2.1 = .engineGranuleBoundary &&
    (match s.ring e.2.2.a with
      | some q => q.sharesEngine r
      | none => false))
  if there then s else s.schedule 64 .engineGranuleBoundary { a := r.id }

/-- The completion event of a class. -/
def completionEvent : EngClass → Instr
  | .copy => .copyCompletion
  | .dcz => .decompressionCompletion
  | .coll => .collectiveCompletion

/-- A command has nothing left but its completion. -/
def State.finishRun (s : State) (r : Ring) : State :=
  (s.modRun r.id (fun q => { q with finished := true })).schedule 16 (completionEvent r.cls) { a := r.id }

/-- A command fails and only its completion is left. -/
def State.failRun (s : State) (r : Ring) (f : Nat × Nat × Nat × Word) : State :=
  (s.modRun r.id (fun q => { q with failure := some f })).finishRun r

/-- What a memory fault reports: ECODE 4. -/
def EngFault.failure (f : EngFault) : Nat × Nat × Nat × Word := (4, f.cause, f.addr, f.detail)

/-- Whose accesses a command makes. -/
def Ring.agent (r : Ring) (p : Poster) : EngAgent := { die := dieOf r.core, dom := p.dom, pasid := p.pasid }

/-- A unit of a command is charged to its domain (R376). -/
def State.chargeRun (s : State) (q : EngRun) (n : Nat) : State := s.charge q.poster.dom n

/-! ### Copies (R280, R283, R332) -/

/-- The failure found before a copy moves a byte, if any, with the record read. -/
def State.copyCheck (s : State) (r : Ring) (p : Poster) (image : List Byte) :
    State × Except (Nat × Nat × Nat × Word) (List Byte) :=
  let q := CopyEntry.ofImage image
  let team := s.team (clusterOf r.core) p.team
  let fail (e cause addr : Nat) : Except (Nat × Nat × Nat × Word) (List Byte) := .error (e, cause, addr, 0)
  if q.dir = 3 ∨ !q.zeros ∨ (q.mc ∧ q.dir ≠ 0) ∨ (!q.mc ∧ (q.mcmask ≠ 0 ∨ q.mcbase ≠ 0)) then (s, fail 2 7 0)
  else if q.mc ∧ q.maskBits.any (fun m => decide (team.tcores ≤ m.2)) then (s, fail 3 7 0)
  else
    match s.engineRead (r.agent p) q.layout 64 with
    | (s, .error f) => (s, .error f.failure)
    | (s, .ok bs) =>
      let l := Layout.ofBytes bs
      let des := if q.dir = 1 then q.src else q.dst
      let room (core : Nat) : Bool :=
        match s.teamEntry core p.team (p.csa / 4096) (desHandle des) with
        | none => true
        | some e =>
          let c := s.core core
          let e := if q.dir = 0 ∧ tKind (c.tile e).1 = 2 then c.writeSlot e else e
          decide (desOffset des + l.bytes ≤ tLen (c.tile e).1)
      let cores := if q.mc then q.maskBits.map (fun m => s.teamCore r.core p.team m.2) else [r.core]
      if !sealed bs then (s, fail 1 56 q.layout)
      else if l.version ≠ 1 ∨ !l.legal then (s, fail 2 7 0)
      else if q.dir ≠ 2 ∧ !cores.all room then (s, fail 2 7 des)
      else (s, .ok bs)

/-- A copy starts: its layout record is read and checked. UNDEL of a multicast that fails so, before it delivers to anyone,
holds 0 (R281, R283 give no row for it; DESIGN CHOICE, log 84). -/
def State.startCopy (s : State) (r : Ring) (p : Poster) (image : List Byte) : State :=
  match s.copyCheck r p image with
  | (s, .error f) =>
    let s := s.modRun r.id (fun q => { q with failure := some f })
    if f.1 = 1 ∧ (CopyEntry.ofImage image).dir = 0 then s else s.finishRun r
  | (s, .ok bs) => s.modRun r.id (fun q => { q with layout := bs })

/-- The seal of the command's record did not match. -/
def EngRun.sealFailed (q : EngRun) : Bool :=
  match q.failure with
  | some f => f.1 = 1
  | none => false

/-- Bytes of the contiguous side. -/
def EngRun.copyBytes (q : EngRun) : Nat := if q.layout = [] then 0 else (Layout.ofBytes q.layout).bytes

/-- The source tile of a copy out of a tile. -/
def State.copySource (s : State) (r : Ring) (q : EngRun) : Option Nat :=
  s.teamEntry r.core q.poster.team (q.poster.csa / 4096) (desHandle (CopyEntry.ofImage q.image).src)

/-- A copy can run its next granule: its destinations are empty or already filling, its source is ready. -/
def State.copyReady (s : State) (r : Ring) (q : EngRun) : Bool :=
  let e := CopyEntry.ofImage q.image
  if e.dir = 0 then q.begun || s.allEmpty (intoList (s.copyTargets r e q.poster q.copyBytes))
  else if e.dir = 1 then
    match s.copySource r q with
    | some t =>
      let v := ((s.core r.core).tile t).1
      tKind v = 2 || tState v = tsReady
    | none => true
  else true

/-- One element of a copy: the state after it, or its fault. -/
def State.copyElement (s : State) (r : Ring) (q : EngRun) (l : Layout) (t : Nat) : State × Option EngFault :=
  let e := CopyEntry.ofImage q.image
  let g := r.agent q.poster
  let n := l.esize
  match e.dir with
  | 0 =>
    match s.engineRead g (l.address e.src t) n with
    | (s, .error f) => (s, some f)
    | (s, .ok bs) =>
      (q.targets.foldl (fun s d =>
        s.spadWrite d.2.1 ((s.core d.2.1).tileBase d.2.2 + desOffset e.dst + n * t) bs none) s, none)
  | 1 =>
    match s.copySource r q with
    | none => (s, some { cause := 5, record := 5, addr := e.src })
    | some k =>
      let a := (s.core r.core).tileBase k + desOffset e.src + n * t
      match s.engineBank false q.poster.dom r.core a n e.src with
      | some f => (s, some f)
      | none => s.engineWrite g (l.address e.dst t) (Bytes.readList (s.core r.core).spad a n)
  | _ =>
    match s.engineRead g (l.address e.src t) n with
    | (s, .error f) => (s, some f)
    | (s, .ok bs) => s.engineWrite g ((e.dst + n * t) % 2 ^ 64) bs

/-- Elements `t` to `t + n − 1`, up to the first fault, with the bytes moved. -/
def State.copyElements (s : State) (r : Ring) (q : EngRun) (l : Layout) : Nat → Nat → State × Nat × Option EngFault
  | _, 0 => (s, 0, none)
  | t, n + 1 =>
    match s.copyElement r q l t with
    | (s, some f) => (s, 0, some f)
    | (s, none) =>
      let rest := s.copyElements r q l (t + 1) n
      (rest.1, rest.2.1 + l.esize, rest.2.2)

/-- What keeps a copy out of a tile from reading it: no tile, a ring header, or a tile too small by now. -/
def State.sourceMissing (s : State) (r : Ring) (q : EngRun) : Bool :=
  match s.copySource r q with
  | some t => tKind ((s.core r.core).tile t).1 = 2
  | none => true

/-- The fills of a copy into tiles begin, and the targets not delivered are noted (R283). -/
def State.beginCopy (s : State) (r : Ring) (q : EngRun) : State :=
  let e := CopyEntry.ofImage q.image
  let ts := s.copyTargets r e q.poster q.copyBytes
  let into := intoList ts
  let undel := ts.foldl (fun a t =>
    match t.2.2 with
    | .into _ => a
    | _ => if e.mc then a + 2 ^ t.1 else a) 0
  let failure := ts.findSome? (fun t =>
    match t.2.2 with
    | .lost cause detail => some (4, cause, e.dst, detail)
    | _ => none)
  (s.startFills into).modRun r.id (fun q => { q with begun := true, targets := into, undel := undel, failure := failure })

/-- A granule of a copy. -/
def State.copyGranule (s : State) (r : Ring) (q : EngRun) : State :=
  let e := CopyEntry.ofImage q.image
  let l := Layout.ofBytes q.layout
  if q.sealFailed then
    let into := intoList (s.copyTargets r e q.poster 0)
    (s.rejectFills e.layout into).finishRun r
  else if e.dir = 1 ∧ s.sourceMissing r q then s.failRun r (4, 5, e.src, 0)
  else
    let s := if e.dir = 0 ∧ !q.begun then s.beginCopy r q else s
    match (s.ring r.id).bind (fun r => r.running) with
    | none => s
    | some q =>
      if e.dir = 0 ∧ q.targets = [] then s.finishRun r
      else if e.dir = 0 ∧ s.teamGone r q.poster then
        (s.modRun r.id (fun q => { q with undel := if e.mc then e.mcmask else 0,
                                          failure := if e.mc then q.failure else some (4, 7, e.dst, 0) })).finishRun r
      else
        let first := q.written / l.esize
        let left := l.count - first
        let n := if left < 4096 / l.esize then left else 4096 / l.esize
        let m := s.copyElements r q l first n
        let s := m.1.modRun r.id (fun q => { q with units := q.units + 1, written := q.written + m.2.1 })
        match m.2.2 with
        | some f => s.failRun r f.failure
        | none => let s := s.chargeRun q 1; if left = n then s.finishRun r else s

/-! ### Decompression (R284 to R287, R341) -/

/-- As many of `n` bytes as can be read before a fault. -/
def State.readSome (s : State) (g : EngAgent) (va n : Nat) : State × List Byte × Option EngFault :=
  (pagePieces va n).foldl (fun (q : State × List Byte × Option EngFault) p =>
    match q.2.2 with
    | some _ => q
    | none =>
      match q.1.engineRead g p.1 p.2 with
      | (s, .error f) => (s, q.2.1, some f)
      | (s, .ok bs) => (s, q.2.1 ++ bs, none)) (s, [], none)

/-- The dictionary that an entry names, or the failure of reading it (R341). -/
def State.readDictionary (s : State) (g : EngAgent) (k : Nat) : State × Except (Nat × Nat × Nat × Word) ZDict :=
  let table := (s.reg (0x20018 + 32 * g.dom)).toNat / 256 * 256 % 2 ^ 52
  if table = 0 then (s, .error (19, 0, 0, 0))
  else
    let at' := table + 16 * k
    if (s.paKind at' ≠ .dram ∧ s.paKind at' ≠ .host) ∨ s.poisoned at' then (s, .error (4, 5, at', 0))
    else
    let e := leBytes 16 (s.readPhys at' 16)
    let n := numAt e 8 4
    if n < 8 ∨ 2 ^ 21 < n then (s, .error (19, 0, 0, 0))
    else
      match s.engineRead g (numAt e 0 8) n with
      | (s, .error f) => (s, .error f.failure)
      | (s, .ok bs) =>
        match readDict bs with
        | none => (s, .error (19, 0, 0, 0))
        | some d => if d.id = numAt e 12 4 then (s, .ok d) else (s, .error (19, 0, 0, 0))

/-- A decompressed stream: its output with the filter applied and cut at its limit, and its error code. The filter drops the lone
last byte of an odd length before the limit is met, so that a length that passes the limit by that byte is code 22 and not 20
(DESIGN CHOICE, log 31). -/
def dczOutput (e : DczEntry) (dict : Option ZDict) (limit : Option Nat) (input : List Byte) : List Byte × Nat :=
  let r := match e.fmt with
    | 0 => decodeDeflate input
    | 1 => decodeZlib input
    | 2 => decodeLz4 input
    | _ => decodeZstd dict input
  let out := if e.pdf then planeDelta e.pdw 0 0 r.1 else r.1
  let most := match limit with
    | some n => if n < e.olim then n else e.olim
    | none => e.olim
  if most < out.length then (out.take most, 20)
  else if r.2 = 0 ∧ e.pdf ∧ r.1.length % 2 = 1 then (out, 22)
  else (out, r.2)

/-- A decompression starts: the engine reads its dictionary and its stream. -/
def State.startDcz (s : State) (r : Ring) (p : Poster) (image : List Byte) : State :=
  let e := DczEntry.ofImage image
  let g := r.agent p
  let failed (s : State) (f : Nat × Nat × Nat × Word) : State := s.modRun r.id (fun q => { q with failure := some f })
  let go (s : State) (dict : Option ZDict) : State :=
    let m := s.readSome g e.src e.slen
    let limit := match s.teamEntry r.core p.team (p.csa / 4096) e.dst with
      | some t =>
        let v := ((s.core r.core).tile t).1
        if tKind v = 2 then none else some (tLen v)
      | none => none
    let out := dczOutput e dict limit m.2.1
    let failure : Option (Nat × Nat × Nat × Word) := match m.2.2 with
      | some f => if out.2 = 0 ∨ out.2 = 21 ∨ out.2 = 22 then some f.failure else some (out.2, 0, 0, 0)
      | none => if out.2 = 0 then none else some (out.2, 0, 0, 0)
    m.1.modRun r.id (fun q => { q with output := out.1, failure := failure })
  if !e.legal then failed s (16, 0, 0, 0)
  else if e.dv then
    match s.readDictionary g e.dict with
    | (s, .error f) => failed s f
    | (s, .ok d) => go s (some d)
  else go s none

/-- The slot that a decompression would fill next. -/
def State.dczTarget (s : State) (r : Ring) (q : EngRun) : Fill :=
  if s.teamGone r q.poster then .lost 7 0
  else
    match s.fillTarget q.poster r.core (DczEntry.ofImage q.image).dst 0 0 with
    | .into e =>
      let c := s.core r.core
      (match s.engineBank true q.poster.dom r.core (c.tileBase e) (tLen (c.tile e).1) 0 with
        | some f => .lost 29 f.detail
        | none => .into e)
    | t => t

/-- A decompression can run: a slot is open, or the next one is empty, or there is none. -/
def State.dczReady (s : State) (r : Ring) (q : EngRun) : Bool :=
  if q.targets ≠ [] then true
  else
    match s.dczTarget r q with
    | .into e => s.allEmpty [(0, r.core, e)]
    | _ => true

/-- The slot in fill, and how much of it is filled. -/
structure DczFill where
  entry : Nat
  room : Nat
deriving DecidableEq, Repr

/-- Write output into the open slot, from slot offset `at'`; a full ring slot completes and the next opens where it is
empty. Ends after `n` bytes, when the next slot is not empty, or when the tile is gone. -/
def State.dczWrite (s : State) (r : Ring) : Nat → Nat → State
  | 0, _ => s
  | fuel + 1, stop =>
    match (s.ring r.id).bind (fun r => r.running) with
    | none => s
    | some q =>
      match q.targets with
      | [] =>
        match s.dczTarget r q with
        | .into e =>
          if s.allEmpty [(0, r.core, e)] then
            ((s.startFills [(0, r.core, e)]).modRun r.id (fun q =>
              { q with begun := true, targets := [(0, r.core, e)], units := 0 })).dczWrite r fuel stop
          else s
        | .lost cause detail => s.failRun r (4, cause, (DczEntry.ofImage q.image).dst, detail)
        | .gone => s
      | t :: _ =>
        let c := s.core r.core
        let len := tLen (c.tile t.2.2).1
        let room := len - q.units
        let want := stop - q.written
        let n := if want < room then want else room
        let s := s.spadWrite r.core (c.tileBase t.2.2 + q.units) ((q.output.drop q.written).take n) none
        let s := s.modRun r.id (fun q => { q with units := q.units + n, written := q.written + n })
        let full := n = room ∧ tKind (c.tile t.2.2).1 = 3
        if full ∧ q.written + n < q.output.length then
          ((s.endFills false [t]).modRun r.id (fun q => { q with targets := [], units := 0 })).dczWrite r fuel stop
        else s

/-- A granule of a decompression: up to the next 16 KiB of output. -/
def State.dczGranule (s : State) (r : Ring) (q : EngRun) : State :=
  if s.teamGone r q.poster then s.failRun r (4, 7, (DczEntry.ofImage q.image).dst, 0)
  else
    let total := q.output.length
    let next := (q.written / 16384 + 1) * 16384
    let stop := if total < next then total else next
    let s := s.dczWrite r 64 stop
    match (s.ring r.id).bind (fun r => r.running) with
    | none => s
    | some n =>
      let granules (k : Nat) : Nat := (k + 16383) / 16384
      let s := s.chargeRun q (4 * (granules n.written - granules q.written))
      if n.finished then s
      else if n.written = total ∧ n.begun then
        let ring : Bool := match n.targets with
          | t :: _ => tKind ((s.core r.core).tile t.2.2).1 = 3
          | [] => false
        let s := match n.targets with
          | t :: _ =>
            if ring ∧ n.failure = none then
              let c := s.core r.core
              s.spadWrite r.core (c.tileBase t.2.2 + n.units) (List.replicate (tLen (c.tile t.2.2).1 - n.units) 0) none
            else s
          | [] => s
        s.finishRun r
      else s

/-! ### Starts and completions (R281, R282) -/

/-- Write the completion record of R281 over the entry, unless its bank refuses the command's domain: then nothing is written
(R182). -/
def State.writeRecord (s : State) (r : Ring) (q : EngRun) : State :=
  if (s.ringBanks r q.poster.dom q.index).isSome then s else
  let f := q.failure.getD (0, 0, 0, 0)
  let bytes := leBytes 8 q.written ++ leBytes 8 f.2.2.1 ++ leBytes 8 f.2.2.2.toNat ++ leBytes 4 q.undel ++
    leBytes 1 f.2.1 ++ leBytes 1 f.1 ++ [0] ++ [if q.failure.isSome then 4 else 3]
  s.spadWrite r.core ((s.core r.core).entryAddr r.tile q.index) bytes none

/-- The next entry of a ring is to be started, or the ring is bound no longer. -/
def State.nextEntry (s : State) (id : Nat) : State :=
  match s.ring id with
  | none => s
  | some r =>
    if r.running.isSome then s
    else if r.posters = [] then { s with rings := s.rings.filter (fun (q : Ring) => q.id ≠ id) }
    else s.schedule 16 .engineCommandStart { a := id }

/-- Window tiles that were to be freed once idle are freed (R347). -/
def State.sweepGates (s : State) : State :=
  s.cores.foldl (fun s e =>
    e.2.gateFree.foldl (fun s k =>
      if tState ((s.core e.1).tile k).1 = tsFilling ∨ s.engineNames e.1 k then s
      else s.modCore e.1 (fun c => c.vacate k)) s) s

/-- The other ranks of a collective hear that this rank has failed (R398). -/
def State.tellFailure (s : State) (q : EngRun) : State :=
  let e := CollEntry.ofImage q.image
  match s.group e.group with
  | some g => if g.dom = q.poster.dom then s.tellRanks g (fun pid => .collectiveFailed pid e.group q.poster.inst g.mine) else s
  | none => s

/-- A command completes: its fills end, its record is written, its barrier receives the arrival, its ring goes on. Its
completion is a release that any core may acquire by a plain load or a tile-naming word, so no core keeps a line of before
it (R207). -/
def State.completeRun (s : State) (r : Ring) (q : EngRun) : State :=
  let failed := match q.failure with
    | some f => if r.cls = .copy then decide (q.written < q.copyBytes) else f.1 ≠ 0
    | none => false
  let s := s.refreshAll.endFills failed q.targets
  let s := s.writeRecord r q
  let s := if r.cls = .coll ∧ q.failure.isSome then s.tellFailure q else s
  let k := clusterOf r.core
  let s := match entryBarrier r.cls q.image with
    | some n => s.engineArrive k q.poster.team n
    | none => s
  let s := (s.modRing r.id (fun r => { r with running := none })).nextEntry r.id
  (s.tryRetire k q.poster.team).sweepGates

/-- The completion of the finished command of ring `args.a`, for rings of one class. -/
def completeClass (cls : EngClass) (s : State) : State :=
  match s.ring s.args.a with
  | some r =>
    (match r.running with
      | some q => if r.cls = cls && q.finished then s.completeRun r q else s
      | none => s)
  | none => s

/-- A copy of ring `args.a` completes (R281). -/
def execCopyCompletion (s : State) : Host.Outcome State Fault Refusal := .next (completeClass .copy s)

/-- A decompression of ring `args.a` completes (R281). -/
def execDecompressionCompletion (s : State) : Host.Outcome State Fault Refusal := .next (completeClass .dcz s)

end Sys2Proof.Machine
end

