-- ==== Sys2Proof/Machine/Collectives.lean ====
section
/-! DEFINITION. Collectives, the start of an engine's commands, its granule boundaries, and its stops for handover (R173,
R282, R288, R350, R395 to R398). -/

namespace Sys2Proof.Machine

/-! ### Folding (R397) -/

/-- Element `j` of a list of bytes. -/
def elementAt (n : Nat) (bs : List Byte) (j : Nat) : Nat := numAt bs (n * j) n

/-- Op of R397 on two patterns of a type. -/
def reduceOp (ty red a b : Nat) : Nat :=
  if 8 ≤ ty then
    let f := laneFmt ty
    match red with
    | 0 => f.result .rne (Fv.add .rne (f.decode a) (f.decode b))
    | 1 => f.encode (pickNumber Fv.minOf (f.decode a) (f.decode b))
    | _ => f.encode (pickNumber Fv.maxOf (f.decode a) (f.decode b))
  else
    let w := intWidth ty
    let x := typed w (intSigned ty) a
    let y := typed w (intSigned ty) b
    match red with
    | 0 => wrapTo w (x + y)
    | 1 => if x ≤ y then a else b
    | _ => if x ≤ y then b else a

/-- Fold(j) over the ranks' data, rank 0 first. -/
def foldElement (e : CollEntry) (data : List (List Byte)) (j : Nat) : Nat :=
  match data.map (fun d => elementAt e.esize d j) with
  | [] => 0
  | y :: ys => ys.foldl (reduceOp e.ty e.red) y

/-- The bytes of DST, from every rank's data in rank order. -/
def collResult (e : CollEntry) (mine : Nat) (data : List (List Byte)) : List Byte :=
  let n := e.count
  match e.op with
  | 0 => (data.getD e.root []).take (n * e.esize)
  | 1 => data.flatMap (fun d => d.take (n * e.esize))
  | 2 => (List.range n).flatMap (fun j => leBytes e.esize (foldElement e data (j + mine * n)))
  | _ => (List.range n).flatMap (fun j => leBytes e.esize (foldElement e data j))

/-! ### An instance -/

/-- A collective entry starts: its fields and its group are checked, the other ranks hear of it, and the instance waits for
them; one of a single rank has then started on all. A rank whose peer is not valid cannot be reached, and no other rank's
data has arrived (R397, R398). -/
def State.startColl (s : State) (r : Ring) (p : Poster) (image : List Byte) : State :=
  let e := CollEntry.ofImage image
  if (s.reg 0x18308).toNat ≤ e.group ∨ !e.legal then s.failRun r (2, 0, 0, 0)
  else
    match s.group e.group with
    | none => s.failRun r (4, 29, 0, domFaultWord false e.group 3 0 p.dom)
    | some g =>
      if g.dom ≠ p.dom then s.failRun r (4, 29, 0, domFaultWord false e.group 3 g.dom p.dom)
      else if !e.fits g.ranks then s.failRun r (2, 0, 0, 0)
      else
        let i : CollInst := { group := e.group, inst := p.inst, ring := r.id }
        let s := { s with insts := s.insts ++ [i] }
        if g.others.any (fun k => !(s.rankPeer g k).getLsbD 63) then
          (s.modRun r.id (fun q => { q with undel := rankMask g.others })).failRun r (7, 5, 0, 0)
        else
          let s := s.tellRanks g (fun pid => .collective pid e.group p.inst g.mine (image ++ leBytes 1 g.ranks) [])
          if g.others = [] then s.schedule 16 .collectiveInstanceStart { a := r.id } else s

/-- The fields that every rank of an instance must give alike; what a rank sends of its entry ends with the P of its group. -/
def collSame (ranks : Nat) (e : CollEntry) (sent : List Byte) : Bool :=
  let q := CollEntry.ofImage sent
  numAt sent 32 1 = ranks && e.op = q.op && e.ty = q.ty && e.red = q.red && e.count = q.count && (e.op ≠ 0 || e.root = q.root)

/-- Every rank of the instance of ring `args.a` has started its entry: `args.peers` are the other ranks' entries, each with its P
behind it, and SRC data; or `args.b` says that a rank failed or cannot be reached, whose data (mask `args.c`) did not arrive
(R397, R398). An instance that a cut holds, or whose poster is saved, starts later (R173, R400, R402). -/
def execCollectiveInstanceStart (s : State) : Host.Outcome State Fault Refusal :=
  .next (match s.ring s.args.a with
    | none => s
    | some r =>
      match r.running with
      | none => s
      | some q =>
        let e := CollEntry.ofImage q.image
        match s.group e.group with
        | none => s
        | some g =>
          let others := g.others
          let peer (k : Nat) : Option (List Byte × List Byte) := (s.args.peers.find? (fun p => p.1 = k)).map (fun p => p.2)
          if r.cls ≠ .coll ∨ q.finished then s
          else if s.args.b ≠ 0 then
            (s.modRun r.id (fun q => { q with undel := s.args.c % 2 ^ 32 })).failRun r (7, 5, 0, 0)
          else if q.begun then s
          else if s.inCut q.poster.dom || r.stops q.poster.csa then s.schedule 64 .collectiveInstanceStart s.args
          else if !others.all (fun k => (peer k).isSome) then s
          else if !others.all (fun k => collSame g.ranks e ((peer k).getD ([], [])).1) then s.failRun r (6, 0, 0, 0)
          else
            let n := e.srcCount g.ranks * e.esize
            let mineNeeded := e.op ≠ 0 ∨ e.root = g.mine
            match (if mineNeeded then s.engineRead (r.agent q.poster) e.src n else (s, .ok [])) with
            | (s, .error f) => s.failRun r f.failure
            | (s, .ok mine) =>
              let data := (List.range g.ranks).map (fun k => if k = g.mine then mine else ((peer k).getD ([], [])).2)
              let s := s.tellRanks g (fun pid => .collective pid e.group q.poster.inst g.mine [] mine)
              (s.modRun r.id (fun q => { q with begun := true, output := collResult e g.mine data })).scheduleGranule r)

/-- A granule of a collective: 64 KiB per peer. -/
def State.collGranule (s : State) (r : Ring) (q : EngRun) : State :=
  let e := CollEntry.ofImage q.image
  let size := if e.op = 1 then 65536 * (((s.group e.group).map (fun g => g.ranks)).getD 1) else 65536
  let part := (q.output.drop q.written).take size
  match s.engineWrite (r.agent q.poster) (e.dst + q.written) part with
  | (s, some f) => s.failRun r f.failure
  | (s, none) =>
    let s := (s.modRun r.id (fun q => { q with written := q.written + part.length, units := q.units + 1 })).chargeRun q 16
    if q.output.length ≤ q.written + part.length then s.finishRun r else s

/-- The collective of ring `args.a` completes (R397). -/
def execCollectiveCompletion (s : State) : Host.Outcome State Fault Refusal :=
  let t := completeClass .coll s
  let still := match t.ring s.args.a with
    | some r => r.running.isSome
    | none => false
  .next (if still then t else { t with insts := t.insts.filter (fun i => i.ring ≠ s.args.a) })

/-! ### Starts (R282) -/

/-- The first entry of a ring starts, for a poster: RIDX advances and the entry's STATE becomes running. A bank of another
domain refuses the engine, which writes nothing there, and the command fails (R182); so does one that a reset has aborted
(R280). -/
def State.startEntry (s : State) (r : Ring) (p : Poster) (rest : List Poster) : State :=
  let c := s.core r.core
  let i := c.ringRidx r.tile
  let run : EngRun := { index := i, image := c.entryImage r.tile i, poster := p }
  let fails (s : State) (f : Nat × Nat × Nat × Word) : State :=
    s.modRing r.id (fun r => { r with posters := rest, running := some { run with failure := some f, finished := true } })
  match s.ringBanks r p.dom i with
  | some f => fails s (if p.aborted then (5, 0, 0, 0) else f.failure)
  | none =>
    let s := s.spadWrite r.core (c.tileBase r.tile + 4) (leBytes 4 ((i + 1) % ringMod (c.ringN r.tile))) none
    let s := s.spadWrite r.core (c.entryAddr r.tile i + 31) [2] none
    if p.aborted then fails s (5, 0, 0, 0)
    else s.modRing r.id (fun r => { r with posters := rest, running := some run })

/-- What a started command does first: its record, dictionary or group is read, or it has failed and only completes. -/
def State.enterRun (s : State) (r : Ring) : State :=
  match (s.ring r.id).bind (fun r => r.running) with
  | none => s
  | some q =>
    if q.finished then s.schedule 16 (completionEvent r.cls) { a := r.id }
    else
      match r.cls with
      | .copy => (s.startCopy r q.poster q.image).scheduleGranule r
      | .dcz => (s.startDcz r q.poster q.image).scheduleGranule r
      | .coll => s.startColl r q.poster q.image

/-- The next entry of ring `args.a` starts; a collective of a job domain not in a cut (R400). -/
def execEngineCommandStart (s : State) : Host.Outcome State Fault Refusal :=
  .next (match s.ring s.args.a with
    | none => s
    | some r =>
      match r.running, r.posters with
      | none, p :: rest =>
        if ((r.stops p.csa || (r.cls = .coll && s.inCut p.dom)) && !p.aborted) ∨ s.reloading.contains r.engineCode then s
        else (s.startEntry r p rest).enterRun r
      | _, _ => s)

/-! ### Granule boundaries (R288) -/

/-- A command that can run its next granule now. -/
def State.runReady (s : State) (r : Ring) (q : EngRun) : Bool :=
  match r.cls with
  | .copy => s.copyReady r q
  | .dcz => s.dczReady r q
  | .coll => q.begun

/-- The first command of an engine under R288. -/
def State.chosenRun (s : State) (rs : List (Ring × EngRun)) : Option (Ring × EngRun) :=
  rs.foldl (fun best e =>
    match best with
    | none => some e
    | some b => if rankLt (s.runRank e.1 e.2) (s.runRank b.1 b.2) then some e else best) none

/-- The cores whose tiles a command waits for: those of its targets that are not empty, or the ring's own. -/
def State.waitCores (s : State) (r : Ring) (q : EngRun) : List Nat :=
  let e := CopyEntry.ofImage q.image
  if r.cls = .copy ∧ e.dir = 0 then
    ((intoList (s.copyTargets r e q.poster q.copyBytes)).filter (fun t => tState ((s.core t.2.1).tile t.2.2).1 ≠ tsEmpty)).map
      (fun t => t.2.1)
  else [r.core]

/-- A command that waits for its tiles: the wait is counted once, on each core whose tiles it waits for (R378). -/
def State.noteWait (s : State) (r : Ring) (q : EngRun) : State :=
  if q.waiting then s
  else (s.waitCores r q).foldl (fun s c => s.count c 14 1) (s.modRun r.id (fun q => { q with waiting := true }))

/-- A granule boundary of the engine that serves ring `args.a`: the first command ready runs one granule. -/
def execEngineGranuleBoundary (s : State) : Host.Outcome State Fault Refusal :=
  .next (match s.ring s.args.a with
    | none => s
    | some r0 =>
      let runs (s : State) : List (Ring × EngRun) :=
        (s.rings.filter (fun (r : Ring) => r.sharesEngine r0)).filterMap (fun (r : Ring) => (s.live r).map (fun q => (r, q)))
      let all := runs s
      let ready := all.filter (fun e => s.runReady e.1 e.2)
      let s := (all.filter (fun e => !s.runReady e.1 e.2 && e.1.cls ≠ .coll)).foldl (fun s e => s.noteWait e.1 e.2) s
      let s := match s.chosenRun ready with
        | none => s
        | some (r, q) =>
          let s := s.modRun r.id (fun q => { q with waiting := false })
          (match r.cls with
            | .copy => s.copyGranule r q
            | .dcz => s.dczGranule r q
            | .coll => s.collGranule r q)
      if (runs s).any (fun e => e.1.cls ≠ .coll || e.2.begun) then s.scheduleGranule r0 else s)

/-! ### Stops and aborts (R173, R417) -/

/-- The engine of ring `args.a` has stopped, at its unit, the commands of the wave handing over in slot `args.slot` of
core `args.core`. -/
def execEngineStopAck (s : State) : Host.Outcome State Fault Refusal :=
  let csa := (s.slotAt s.args.core s.args.slot).wave.csa
  .next (s.modRing s.args.a (fun r =>
    if r.asked.contains csa then
      { r with asked := r.asked.filter (· ≠ csa), stopped := csa :: r.stopped.filter (· ≠ csa) }
    else r))

/-- The commands of a save area continue once its wave is bound again (R173). -/
def State.resumeEngines (s : State) (csa : Nat) : State :=
  (s.rings.filter (fun (r : Ring) => r.stopped.contains csa)).foldl (fun s r =>
    let s := s.modRing r.id (fun r => { r with stopped := r.stopped.filter (· ≠ csa) })
    if r.running.isSome then s.scheduleGranule r else s.nextEntry r.id) s

/-- Commands that a picked poster posted are aborted with ECODE 5: running ones fail, and published ones fail as they start,
in their ring's order (R280). -/
def State.abortRuns (s : State) (pick : Ring → Poster → Bool) : State :=
  s.rings.foldl (fun s r =>
    let s := match r.running with
      | some q =>
        if pick r q.poster && !q.finished then
          (s.modRun r.id (fun q => { q with failure := some (5, 0, 0, 0) })).finishRun r
        else s
      | none => s
    s.modRing r.id (fun r => { r with posters := r.posters.map (fun p => if pick r p then { p with aborted := true } else p) })) s

/-- The aborted commands at the front of a ring complete at once. -/
def State.drainAborted (s : State) (id : Nat) : Nat → State
  | 0 => s
  | n + 1 =>
    match s.ring id with
    | none => s
    | some r =>
      match r.running, r.posters with
      | some q, _ => if q.finished ∧ q.failure = some (5, 0, 0, 0) then (s.completeRun r q).drainAborted id n else s
      | none, p :: rest => if p.aborted then (s.startEntry r p rest).drainAborted id n else s
      | none, [] => s

end Sys2Proof.Machine
end

