-- ==== Sys2Proof/Machine/Gates.lean ====
section
/-! DEFINITION. Call gates, `dom.query`, and the domain partition registers (R335, R336, R342 to R349). -/

namespace Sys2Proof.Machine

/-! ### The gate table and frames (R342 to R344) -/

/-- A gate table entry. -/
structure Gate where
  entry : Nat
  tdom : Nat
  v : Bool
  mode : Nat
  argw : Nat
  tpasid : Nat
  frames : Nat
  stack : Nat
  ssize : Nat
  ctvec : Word
  permit : Nat
  clean : Bool
deriving DecidableEq, Repr

/-- The fields of 128 bytes; `clean` says that they keep the limits of R342. -/
def Gate.ofBytes (bs : List Byte) : Gate :=
  let entry := numAt bs 0 8
  let flags := numAt bs 9 1
  let argw := numAt bs 10 1
  let tp := numAt bs 12 4
  let frames := numAt bs 16 8
  let stack := numAt bs 24 8
  let ssize := numAt bs 32 2
  { entry := entry, tdom := numAt bs 8 1, v := bit flags 0, mode := bits flags 2 1, argw := argw, tpasid := tp % 2 ^ 20,
    frames := frames, stack := stack, ssize := ssize, ctvec := BitVec.ofNat 64 (numAt bs 40 8), permit := numAt bs 64 32,
    clean := entry % 4 = 0 && decide (entry < 2 ^ 49) && flags / 8 = 0 && decide (argw ≤ 16) && numAt bs 11 1 = 0 &&
      decide (tp < 2 ^ 20) && frames % 64 = 0 && stack % 4096 = 0 && decide (1 ≤ ssize) && numAt bs 34 6 = 0 &&
      numAt bs 48 16 = 0 && numAt bs 96 32 = 0 }

/-- Gate `g`, where it is within `GTCOUNT`. -/
def State.gate (s : State) (g : Nat) : Option Gate :=
  if g < (s.reg 0x13008).toNat then
    some (Gate.ofBytes (leBytes 128 (s.readPhys ((s.reg 0x13000).toNat + 128 * g) 128)))
  else none

/-- K of R343. -/
def Wave.gateKey (w : Wave) : Nat := w.csa / 4096 % 2 ^ 24

/-- Frame and stack top of a wave for a gate. -/
def Gate.frame (g : Gate) (w : Wave) : Nat := (g.frames + 64 * w.gateKey) % 2 ^ 64
def Gate.stackTop (g : Gate) (w : Wave) : Nat := (g.stack + 4096 * g.ssize * (w.gateKey + 1)) % 2 ^ 64

/-- The frame rule of R343 on a leaf. -/
def frameLeaf (e : Word) : Bool := e.getLsbD 1 && e.getLsbD 6 && !e.getLsbD 2

/-- Leaf checks of a frame access of a kind, under a context with or without a guest stage. -/
def frameChecks (s1 : Bool) (k : AccKind) : LeafChecks :=
  if s1 then { guest := frameLeaf, host := leafAllows k, table := leafAllows k } else { guest := fun _ => true, host := frameLeaf }

/-- Where a frame lies under a PASID and domain: memory, this device's, a peer's or the host's, or the scratchpad that an
aperture address names; `none` where its translation or the access itself fails (R178, R343). -/
def State.framePa (s : State) (k : AccKind) (pasid dom va : Nat) : State × Option Dest :=
  let bad (s : State) (pa : Nat) : Bool := k = .load && s.poisonedIn pa 64
  let scratch (s : State) (pa : Nat) : Option Dest :=
    let core := (pa - 0xE000000000000) / 0x80000
    let a := (pa - 0xE000000000000) % 0x80000
    if (s.core core).fwall.getLsbD 0 ∨ ((s.core core).bankViolation dom a 64).isSome ∨ bad s pa then none
    else if clusterOf core ≠ clusterOf s.curCore then some (.remote core a va)
    else some (.spad core a)
  let st := stationOf (dieOf s.curCore) va
  match s.context st pasid dom with
  | .error _ => (s, none)
  | .ok c =>
    if 2 ^ 49 < va + 64 then (s, none)
    else
      match s.translateFresh st pasid dom va (frameChecks (c.1.getLsbD 1) k) with
      | (s, .error _) => (s, none)
      | (s, .ok t) =>
        match s.paKind t.pa with
        | .dram | .host | .drive => (s, if bad s t.pa then none else some (.mem va t))
        | .peer => (s.tookFree, if Config.peerAborts s.freeCount then none else some (.mem va t))
        | .aperture => (s, scratch s t.pa)
        | _ => (s, none)

/-- The 64 bytes of a frame; at another cluster's scratchpad after what stands in that core's queue (R181, R219). -/
def State.frameBytes (s : State) : Dest → State × List Byte
  | .mem _ t => (s.usedFree t.pa 64, leBytes 64 (s.readPhys t.pa 64))
  | .spad c a => (s, Bytes.readList (s.core c).spad a 64)
  | .remote c a _ => let s := s.serveQueue c; (s, Bytes.readList (s.core c).spad a 64)
  | .reg _ => (s, List.replicate 64 0)

/-- Write a frame for a domain. -/
def State.putFrame (s : State) (dom : Nat) (image : List Byte) : Dest → State
  | .mem _ t =>
    (((s.toHome s.curCore t.pa).breakBlock t.pa image.length (some (s.curCore, s.curSlot))).touchL2 t.pa dom true).writePhys t.pa image
  | .spad c a => s.spadWrite c a image (some (s.curCore, s.curSlot))
  | .remote c a _ => (s.serveQueue c).spadWrite c a image (some (s.curCore, s.curSlot))
  | .reg _ => s

/-- The callee's first doubleword translates as a store (R346). -/
def State.stackTranslates (s : State) (g : Gate) (w : Wave) : State × Bool :=
  let va := (g.stackTop w + 2 ^ 64 - 8) % 2 ^ 64
  let r : StationReq :=
    { pasid := g.tpasid, dom := g.tdom, va := va, kind := .store, mode := Mode.ofCode g.mode,
      sum := w.csrs.mstatus.getLsbD 18, origin := .wave s.curCore s.curSlot }
  if outside49 va 8 then (s, false)
  else
    match s.translate (stationOf (dieOf s.curCore) va) r with
    | (s, .ok _) => (s, true)
    | (s, .error _) => (s, false)

/-! ### The stash (R345) -/

/-- The 64 bytes of stash chunk `k`: 16 lanes of one register. -/
def stashChunk (c : Core) (w : Wave) (k : Nat) : List Byte :=
  (List.range 16).flatMap (fun j =>
    let i := 16 * k + j
    leBytes 4 (c.lane w (i / w.width) (i % w.width)).toNat)

/-- Chunks in a stash. -/
def Wave.stashChunks (w : Wave) : Nat := w.width * w.budget / 16

/-- Store the stash, chunk by chunk, up to the first failure; whether all succeeded. -/
def State.storeStash (s : State) (va : Nat) : State × Bool :=
  let w := s.wave
  (List.range w.stashChunks).foldl (fun (q : State × Bool) k =>
    if !q.2 then q
    else if outside49 (va + 64 * k) 64 then (q.1, false)
    else
      match q.1.resolve q.1.curCore q.1.curSlot w .lane .store (va + 64 * k) 64 with
      | (s, .ok (.mem a t)) =>
        (s.writeDest s.curCore s.curSlot w .lane 0 0 false (stashChunk (s.core s.curCore) w k) (.mem a t), true)
      | (s, .ok (.spad c a)) =>
        (s.writeDest s.curCore s.curSlot w .lane 0 0 false (stashChunk (s.core s.curCore) w k) (.spad c a), true)
      | (s, .ok (.remote c a va)) =>
        let r := s.remoteWrite s.curCore s.curSlot w (stashChunk (s.core s.curCore) w k) c a va
        (r.1, r.2.isNone)
      | (s, _) => (s, false)) (s, true)

/-- Load the chunks of one lane register block; `none` where one fails. -/
def State.loadBlock (s : State) (va : Nat) (ks : List Nat) : State × Option (List (Nat × Nat)) :=
  let w := s.wave
  ks.foldl (fun (q : State × Option (List (Nat × Nat))) k =>
    match q.2 with
    | none => q
    | some vs =>
      if outside49 (va + 64 * k) 64 then (q.1, none)
      else
        match q.1.resolve q.1.curCore q.1.curSlot w .lane .load (va + 64 * k) 64 with
        | (s, .ok (.mem a t)) => let r := s.readDest s.curCore w .lane false 64 (.mem a t); (r.1, some ((k, r.2) :: vs))
        | (s, .ok (.spad c a)) => let r := s.readDest s.curCore w .lane false 64 (.spad c a); (r.1, some ((k, r.2) :: vs))
        | (s, .ok (.remote c a va)) =>
          (match s.remoteRead s.curCore s.curSlot w 8 c a va with
            | (s, .ok v) => (s, some ((k, v) :: vs))
            | (s, .error _) => (s, none))
        | (s, _) => (s, none)) (s, some [])

/-- Load the lane registers from the stash, block by block; whether all succeeded (R347). -/
def State.loadStash (s : State) (va : Nat) : State × Bool :=
  let w := s.wave
  let per := 2 * w.width
  (List.range (w.budget / 32)).foldl (fun (q : State × Bool) b =>
    match q.1.loadBlock va ((List.range per).map (· + per * b)) with
    | (s, none) => (s, false)
    | (s, some vs) =>
      (s.modCur (fun c => vs.foldl (fun (c : Core) v => (List.range 16).foldl (fun (c : Core) j =>
        let i := 16 * v.1 + j
        c.setLane w (i / w.width) (i % w.width) (BitVec.ofNat 32 (v.2 / 2 ^ (32 * j)))) c) c), q.2)) (s, true)

/-! ### Regions and window tiles -/

/-- Register regions of a wave. -/
def Wave.regionList (w : Wave) : List Nat := (List.range w.regions).map (· + w.regBase)

/-- Zero register regions. -/
def Core.zeroRegions (c : Core) (rs : List Nat) : Core := { c with regs := Table.keep c.regs (fun k => !rs.contains (k / 512)) }

/-- Map register regions to a slot code; code 4 is not listed. -/
def Core.mapRegions (c : Core) (rs : List Nat) (code : Nat) : Core :=
  { c with dpreg := rs.foldl (fun t r => if code = 4 then Table.erase t r else Table.put t r code) c.dpreg }

/-- Zero a wave's regions and map them to a domain's slot. -/
def Core.retag (c : Core) (w : Wave) (dom : Nat) : Core :=
  (c.zeroRegions w.regionList).mapRegions w.regionList ((c.slotOfDom dom).getD 4)

/-- The first `n` granules of a tile. -/
def Core.tileBytes (c : Core) (e n : Nat) : List Byte := Bytes.readList c.spad (c.tileBase e) (1024 * n)

/-- A ready plain tile of a domain with at least `n` granules. -/
def Core.goodWindow (c : Core) (e dom n : Nat) : Bool :=
  let v := (c.tile e).1
  tKind v = 1 && tState v = tsReady && tDom v = dom && decide (n ≤ tGran v)

/-! ### `gate.call` (R346) -/

/-- The frame that `gate.call` writes (R344). -/
def frameImage (w : Wave) (win : Bool) (h wh : Nat) (stash : Word) : List Byte :=
  let c := w.csrs
  leBytes 8 (w.pc + 4).toNat ++ leBytes 8 (w.getX 2).toNat ++ leBytes 8 (w.amask.setWidth 64).toNat ++
    leBytes 8 ((w.amask >>> 64).setWidth 64).toNat ++ leBytes 8 c.stvec.toNat ++
    leBytes 8 (w.dom + w.pasid * 2 ^ 8 + w.mode.code * 2 ^ 28 + fld c.mstkp 5 0 * 2 ^ 30 + b2n win * 2 ^ 36 + h * 2 ^ 37 +
      wh * 2 ^ 45) ++
    leBytes 8 stash.toNat ++ leBytes 8 (fld c.sgate 31 16 + fld c.sgate 7 0 * 2 ^ 16)

/-- The window tile of a call: its handle, 0 for none. -/
def State.makeWindow (s : State) (g : Gate) (win : Bool) (h : Nat) : State × Nat :=
  if g.argw = 0 then (s, 0)
  else
    let w := s.wave
    let c := s.core s.curCore
    let t := s.myTeam
    match (List.range t.tcnt).find? (fun j => tKind (c.tile (t.tbase + j)).1 = 0), c.findRun g.tdom g.argw with
    | some wh, some f =>
      let e := t.tbase + wh
      let data := match (if win then s.myEntry h else none) with
        | some src => c.tileBytes src g.argw
        | none => List.replicate (1024 * g.argw) 0
      let s := s.modCur (fun c =>
        let c := (c.takeGranules f g.argw).setTile e (plainTile f g.argw w.cteam g.tdom tsReady false, 0)
        { c with gateTiles := Table.put c.gateTiles e (w.csa / 4096, w.gdepth + 1) })
      (s.spadWrite s.curCore (1024 * f) data (some (s.curCore, s.curSlot)), wh)
    | _, _ => (s, 0)

/-- The part of `gate.call` that completes, from the frame on. -/
def State.enterGate (s : State) (g : Gate) (gi : Nat) (win : Bool) (h : Nat) (frame : Dest) (stash : Word) : State :=
  let q := s.makeWindow g win h
  let s := q.1
  let w := s.wave
  let s := s.putFrame g.tdom (frameImage w win h q.2 stash) frame
  let s := s.modCur (fun c => c.retag w g.tdom)
  let s := s.issuedTo (BitVec.ofNat 64 g.entry)
  s.modWave (fun w =>
    let old := w.csrs
    let depth := w.gdepth + 1
    let w := { w.closeWindows with
      gates := w.gates ++ [gi], mode := Mode.ofCode g.mode, amask := w.wm,
      csrs := { old with
        did := BitVec.ofNat 64 (g.tpasid * 2 ^ 16 + depth * 2 ^ 8 + g.tdom),
        sgate := BitVec.ofNat 64 (gi * 2 ^ 16 + depth * 2 ^ 8 + w.dom), stvec := g.ctvec } }
    (w.setX 2 (BitVec.ofNat 64 (g.stackTop w))).setX 5 (if g.argw = 0 then BitVec.allOnes 64 else BitVec.ofNat 64 q.2))

/-- The team and core have room for a call's window and a slot for its domain. -/
def State.gateRoom (s : State) (g : Gate) : Bool :=
  let c := s.core s.curCore
  let t := s.myTeam
  (c.slotOfDom g.tdom).isSome &&
    (g.argw = 0 || ((List.range t.tcnt).any (fun j => tKind (c.tile (t.tbase + j)).1 = 0) && (c.findRun g.tdom g.argw).isSome))

/-- `gate.call`. -/
def execGateCall (b a : BitVec 5) (s : State) : Host.Outcome State Fault Refusal :=
  deviceIssue (.gateCall b a) 3 (xLocs [b, a]) (fun s =>
    let w := s.wave
    let v := w.getX a.toNat
    let stash := w.getX b.toNat
    let gi := fld v 15 0
    let h := fld v 23 16
    let win := v.getLsbD 24
    let fail (n : Nat) (s : State) : Issue := .trap 57 (BitVec.ofNat 64 n) s
    if w.pending ≠ [] then .hold s
    else if let some b := w.absentBlocks.head? then registerMiss s (false, b)
    else if fld v 63 25 ≠ 0 then fail 4 s
    else
      match s.gate gi with
      | none => fail 1 s
      | some g =>
        if !g.v || decide (1 < g.mode) || !g.clean then fail 1 s
        else if !bit g.permit w.dom then domFault s false gi 6 g.tdom (BitVec.ofNat 64 gi)
        else if w.gdepth = 4 then fail 2 s
        else if w.gates.contains gi then fail 3 s
        else if win && (g.argw = 0 || !(match s.myEntry h with
          | some e => (s.core s.curCore).goodWindow e w.dom g.argw
          | none => false)) then fail 4 s
        else if stash.toNat % 64 ≠ 0 ∨ 2 ^ 49 ≤ stash.toNat then fail 5 s
        else if !s.gateRoom g then fail 6 s
        else
          match s.framePa .store g.tpasid g.tdom (g.frame w) with
          | (s, none) => fail 7 s
          | (s, some fpa) =>
            match s.stackTranslates g w with
            | (s, false) => fail 7 s
            | (s, true) =>
              match s.storeStash stash.toNat with
              | (s, false) => fail 8 s
              | (s, true) => .done (s.enterGate g gi win h fpa stash)) s

/-! ### `gate.ret` (R347) -/

/-- The window of a returning call: `n` granules copied back where the caller asked for them and its tile still stands, as a
tile that its handle names at the caller's level (R309, R346), then freed, or once it is idle. Where the callee has freed it
already there is nothing to copy or to free (DESIGN CHOICE, log 77). -/
def State.closeWindow (s : State) (f : List Byte) (n : Nat) : State :=
  let w0 := numAt f 40 8
  let wh := bits w0 52 45
  let w := s.wave
  let e := s.myTeam.tbase + wh
  let c := s.core s.curCore
  if wh = 0 ∨ Table.find c.gateTiles e ≠ some (w.csa / 4096, w.gdepth) then s
  else
    let t := s.myTeam.tbase + bits w0 44 37
    let good := bit w0 36 && decide (bits w0 44 37 < s.myTeam.tcnt) && tTeam (c.tile t).1 = w.cteam && c.goodWindow t (bits w0 7 0) n &&
      (match Table.find c.gateTiles t with
        | some q => q = (w.csa / 4096, w.gdepth - 1)
        | none => true)
    let s := if good then
        s.spadWrite s.curCore (c.tileBase t) (c.tileBytes e n) (some (s.curCore, s.curSlot))
      else s
    if tState (c.tile e).1 = tsFilling ∨ s.engineNames s.curCore e then
      s.modCur (fun c => { c with gateTiles := Table.put c.gateTiles e (w.csa / 4096, 0), gateFree := c.gateFree ++ [e] })
    else s.modCur (fun c => c.vacate e)

/-- The wave after its registers have been cleared and its caller's identity, mode and place have come back; no lane
register of the caller is absent (R107). The f registers are written, so FS is dirty where it is on (R90; log 15). -/
def Wave.leaveGate (w : Wave) (f : List Byte) : Wave :=
  let w0 := numAt f 40 8
  let w2 := numAt f 56 8
  let depth := w.gdepth - 1
  let d := bits w0 35 30
  let keepX (n : Nat) : Bool := decide (10 ≤ n ∧ n ≤ 17)
  let xs := (List.range 32).foldl (fun (w : Wave) n => if keepX n then w else w.setX n 0) w
  let c := xs.csrs
  let w := { xs with
    f := Vector.replicate 32 0, p := Vector.replicate 16 0, m := Vector.replicate 8 0,
    stack := (List.range 32).foldl (fun (t : Vector MaskEntry 32) i => if d ≤ i then t.setIfInBounds i {} else t) xs.stack,
    gates := xs.gates.dropLast, mode := Mode.ofCode (bits w0 29 28), absentBlocks := [],
    amask := maskOf (BitVec.ofNat 64 (numAt f 16 8)) (BitVec.ofNat 64 (numAt f 24 8)) &&& xs.wm,
    pc := BitVec.ofNat 64 (numAt f 0 8) }
  { w.setX 2 (BitVec.ofNat 64 (numAt f 8 8)) with
    csrs := { w.csrs with
      fcsr := 0, nround := 0, lastat := 0,
      mstatus := if fld c.mstatus 14 13 = 0 then c.mstatus else setFld c.mstatus 14 13 3,
      mstkp := setFld c.mstkp 5 0 d, stvec := BitVec.ofNat 64 (numAt f 32 8),
      did := BitVec.ofNat 64 (bits w0 27 8 * 2 ^ 16 + depth * 2 ^ 8 + bits w0 7 0),
      sgate := if depth = 0 then 0 else BitVec.ofNat 64 (bits w2 15 0 * 2 ^ 16 + depth * 2 ^ 8 + bits w2 23 16) } }

/-- The part of `gate.ret` that completes. -/
def State.leaveGate (s : State) (f : List Byte) (argw : Nat) : State :=
  let w := s.wave
  let s := s.closeWindow f argw
  let s := s.modCur (fun c => c.retag w (bits (numAt f 40 8) 7 0))
  let s := (s.issued 4).modWave (fun w => w.leaveGate f)
  let r := s.loadStash (numAt f 48 8)
  if r.2 then r.1 else r.1.applyAt r.1.curCore r.1.curSlot (.defer 57 11)

/-- `gate.ret`. -/
def execGateRet (s : State) : Host.Outcome State Fault Refusal :=
  deviceIssue .gateRet 3 [] (fun s =>
    let w := s.wave
    if w.pending ≠ [] then .hold s
    else if let some b := w.absentBlocks.head? then registerMiss s (false, b)
    else if w.gdepth = 0 then .trap 57 9 s
    else
      match s.gate (fld w.csrs.sgate 31 16) with
      | none => .trap 57 10 s
      | some g =>
        match s.framePa .load w.pasid w.dom (g.frame w) with
        | (s, none) => .trap 57 10 s
        | (s, some d) => let r := s.frameBytes d; .done (r.1.leaveGate r.2 g.argw)) s

/-! ### `dom.query` (R348) -/

/-- What `dom.query` answers. -/
def domAnswer (sel arg : Nat) (s : State) : Word :=
  let w := s.wave
  let c := s.core s.curCore
  match sel with
  | 0 => BitVec.ofNat 64 (s.myTeam.dom * 2 ^ 16 + w.gdepth * 2 ^ 8 + w.dom)
  | 1 => s.reg (0x20000 + 32 * w.dom)
  | 2 =>
    match s.gate arg with
    | some g =>
      if g.v && bit g.permit w.dom then BitVec.ofNat 64 (2 ^ 63 + g.mode * 2 ^ 13 + g.argw % 32 * 2 ^ 8 + g.tdom) else 0
    | none => 0
  | 3 => c.dslotWord
  | 4 => BitVec.ofNat 64 ((List.range 32).foldl (fun a b => if c.bankDom b = some w.dom then a + 2 ^ b else a) 0)
  | _ => 0

/-- `dom.query`. -/
def execDomQuery (a d : BitVec 5) (s : State) : Host.Outcome State Fault Refusal :=
  deviceIssue (.domQuery a d) 3 (xLocs [a, d]) (fun s =>
    let v := s.wave.getX a.toNat
    scalarX s d (domAnswer (fld v 7 0) (fld v 31 16) s)) s

/-! ### Writes of the partition registers (R335, R336) -/

/-- Bound waves of a core. -/
def Core.boundWaves (c : Core) : List Wave := (c.slots.filter (fun e => e.2.state ≠ .free)).map (fun e => e.2.wave)

/-- The domains a wave's open calls were made from. -/
def State.callers (s : State) (core : Nat) (w : Wave) : List Nat :=
  if w.gates = [] then []
  else (s.team (clusterOf core) w.cteam).dom :: w.gates.dropLast.map (fun g => ((s.gate g).map (fun q => q.tdom)).getD 0)

/-- Slot `k` may change: nothing maps to it, and no bound wave is in a gate called from its domain. -/
def State.slotFree (s : State) (core k : Nat) : Bool :=
  let c := s.core core
  let inUse (t : Table Nat) : Bool := t.any (fun e => e.2 = k)
  !inUse c.dpbank && !inUse c.dpreg &&
    (match Table.find c.dslot k with
      | some d => !c.boundWaves.any (fun w => (s.callers core w).contains d)
      | none => true)

/-- A write of `DSLOT`. -/
def State.writeDslot (s : State) (core : Nat) (v : Word) : State :=
  (List.range 4).foldl (fun s k =>
    if !s.slotFree core k then s
    else
      s.modCore core (fun c =>
        let on := bit v.toNat (32 + k)
        { c with dslot := Table.put (Table.erase c.dslot (if on then k + 4 else k)) (if on then k else k + 4) (fld v (8 * k + 7) (8 * k)) })) s

/-- A map byte as the register holds it. -/
def mapCode (v : Word) (j : Nat) : Nat :=
  let k := fld v (8 * j + 2) (8 * j)
  if k < 4 then k else 4

/-- A write of a bank map register. -/
def State.writeBanks (s : State) (core i : Nat) (v : Word) : State :=
  (List.range 8).foldl (fun s j =>
    let b := 8 * i + j
    let code := mapCode v j
    let c := s.core core
    if code = Table.get c.dpbank b 4 ∨ c.granules.any (fun e => e.1 / 16 = b && e.2.used) then s
    else
      let moved := c.domainOfCode code ≠ c.bankDom b
      s.modCore core (fun c =>
        { c with
          spad := if moved then Table.keep c.spad (fun k => k / 16384 ≠ b) else c.spad,
          granules := if moved then Table.keep c.granules (fun k => k / 16 ≠ b) else c.granules,
          dpbank := if code = 4 then Table.erase c.dpbank b else Table.put c.dpbank b code })) s

/-- A write of a region map register. -/
def State.writeRegions (s : State) (core i : Nat) (v : Word) : State :=
  (List.range 8).foldl (fun s j =>
    let r := 8 * i + j
    let code := mapCode v j
    let c := s.core core
    if code = Table.get c.dpreg r 4 ∨ c.boundWaves.any (fun w => w.regionList.contains r) then s
    else
      let moved := c.domainOfCode code ≠ c.regionDom r
      s.modCore core (fun c => (if moved then c.zeroRegions [r] else c).mapRegions [r] code)) s

/-- Firmware writes a partition register of core `args.core`, at offset `args.a` of its block, with `args.c` (R336). -/
def execDomainPartitionWrite (s : State) : Host.Outcome State Fault Refusal :=
  let c := s.args.core
  let o := s.args.a
  let v := BitVec.ofNat 64 s.args.c
  .next (if o = 0x300 then s.writeDslot c v
    else if 0x400 ≤ o ∧ o < 0x420 ∧ o % 8 = 0 then s.writeBanks c ((o - 0x400) / 8) v
    else if 0x500 ≤ o ∧ o < 0x580 ∧ o % 8 = 0 then s.writeRegions c ((o - 0x500) / 8) v
    else s)

end Sys2Proof.Machine
end

