-- ==== Sys2Proof/Machine/SaveArea.lean ====
section
/-! DEFINITION. The context save area: its layout, storing a wave into it, and reading one back (R106, R171 to R175). -/

namespace Sys2Proof.Machine

/-- Bytes padded with zeros to a length. -/
def padTo (n : Nat) (bs : List Byte) : List Byte := bs ++ List.replicate (n - bs.length) 0

/-! ### What a wave holds -/

/-- Accumulator tiles the wave holds, as its accumulator mask has them. -/
def Core.heldAccs (c : Core) (w : Wave) : List Nat :=
  (c.accHold.filter (fun e => e.2.team = w.cteam && e.2.twave = w.twave && w.accMask.getLsbD e.1)).map (fun e => e.1)

/-- Operand reservations the wave holds. -/
def Core.heldResv (c : Core) (w : Wave) : List (Nat × Reserv) :=
  c.resv.filter (fun e => e.2.team = w.cteam && e.2.twave = w.twave)

/-- The wave holds the counting array. -/
def Core.heldCounting (c : Core) (w : Wave) : Bool :=
  c.cntHeld && c.cntRec.team = w.cteam && fld c.cntRec.w2 31 24 = w.twave

/-- A set of indices as a mask. -/
def indexMask (ks : List Nat) : Nat := ks.foldl (fun a k => a ||| 2 ^ k) 0

/-- Tiles of a mask below `k`: the position of tile `k` among the saved ones. -/
def maskRank (mask k : Nat) : Nat := ((List.range k).filter (fun j => bit mask j)).length

/-! ### The layout (R171) -/

/-- Gate chain: 16 bits per level. -/
def gateChain (gs : List Nat) : Nat := leValue (gs.flatMap (fun g => leBytes 2 g))

/-- The CSRs in the order of the save area. -/
def savedCsrs (w : Wave) : List Word :=
  let c := w.csrs
  [mstatusRead c.mstatus, c.mie, c.mip, c.medeleg, c.mideleg, c.mtvec, c.mscratch, c.mepc, c.mcause, c.mtval,
    c.mcounteren, c.scounteren, c.stvec, c.sscratch, c.sepc, c.scause, c.stval, c.instret, c.nround, c.lastat,
    c.mstkp, c.mstksel, c.sturncmp, c.samask0, c.samask1, c.sgate, c.stwlim, c.mamask0, c.mamask1, c.mseq,
    c.mdomfault, c.mracefault, c.mlav, c.turn, c.did, w.amask.setWidth 64, (w.amask >>> 64).setWidth 64,
    w.profiles.setWidth 64, c.wid, BitVec.ofNat 64 (gateChain w.gates)]

/-- A reservation record of 32 bytes. -/
def Reserv.bytes (r : Reserv) : List Byte := leBytes 8 r.w0.toNat ++ leBytes 8 r.w1.toNat ++ leBytes 8 r.w2.toNat ++ leBytes 8 0

/-- The fixed 4 KiB of a save area. -/
def savedPage (c : Core) (w : Wave) (header : Nat) : List Byte :=
  let words (n : Nat) (f : Nat → Nat) : List Byte := (List.range n).flatMap (fun i => leBytes 8 (f i))
  let masks (f : Nat → Mask) (n : Nat) : List Byte := (List.range n).flatMap (fun i => leBytes 16 (f i).toNat)
  let recs := (List.range 8).flatMap (fun n => match (c.heldResv w).find? (fun e => e.1 = n) with
    | some e => e.2.bytes
    | none => List.replicate 32 0)
  let front := leBytes 8 header ++ leBytes 8 w.pc.toNat ++ leBytes 8 w.csrs.fcsr.toNat ++
    leBytes 8 (indexMask (c.heldAccs w)) ++ words 32 (fun i => (w.getX i).toNat) ++ words 32 (fun i => (w.getF i).toNat) ++
    (savedCsrs w).flatMap (fun v => leBytes 8 v.toNat)
  let masksPart := masks (fun i => if i = 0 then 0 else w.p.toList.getD i 0) 16 ++
    masks (fun i => if i = 0 then 0 else w.m.toList.getD i 0) 8
  let stack := (List.range 32).flatMap (fun i =>
    let e := w.stack.toList.getD i {}
    leBytes 16 e.mask.toNat ++ leBytes 8 e.word.toNat ++ leBytes 8 0)
  padTo 0x1000 (padTo 0x600 (padTo 0x400 front ++ masksPart) ++ stack ++ recs ++
    (if c.heldCounting w then c.cntRec.bytes else []))

/-- Bytes of a lane register block. -/
def Wave.blockSize (w : Wave) : Nat := 128 * w.width

/-- Offset of a lane register block. -/
def Wave.blockAt (w : Wave) (b : Nat) : Nat := 0x1000 + w.blockSize * b

/-- Offset of the first accumulator tile. -/
def Wave.accAt (w : Wave) : Nat := 0x1000 + 4 * w.width * w.budget

/-- The bytes of a lane register block. -/
def blockImage (c : Core) (w : Wave) (b : Nat) : List Byte :=
  (List.range (32 * w.width)).flatMap (fun i => leBytes 4 (c.lane w (32 * b + i / w.width) (i % w.width)).toNat)

/-- The bytes of an accumulator tile. -/
def accImage (c : Core) (k : Nat) : List Byte := (c.accWords k).flatMap (fun v => leBytes 4 v.toNat)

/-- Write to a save area: physical, under the wave's save-area domain (R171). -/
def State.saveWrite (s : State) (dom pa : Nat) (bs : List Byte) : State :=
  s.agentWriteAs dom pa bs

/-- Read a save area. -/
def State.saveRead (s : State) (pa n : Nat) : List Byte := leBytes n (s.readPhys pa n)

/-- Store every item present in a slot into its save area; absent items stay as they are, accumulator tiles moved to
their place among those saved (R107, R173 step 7). -/
def State.storeWave (s : State) (core i : Nat) : State :=
  let w := (s.slotAt core i).wave
  let c := s.core core
  let precise := match w.park with
    | some p => !p.late
    | none => false
  let old := numAt (s.saveRead (w.csa + 0x18) 8) 0 8
  let accs := c.heldAccs w
  let mask := indexMask accs
  let moved : List (Nat × List Byte) := accs.map (fun k =>
    (maskRank mask k,
      if w.absentAccs.contains k then s.saveRead (w.csa + w.accAt + 8192 * maskRank old k) 8192 else accImage c k))
  let put (s : State) (o : Nat) (bs : List Byte) : State := s.saveWrite w.csaDom (w.csa + o) bs
  let s := put s 0 (savedPage c w (csaHeader w precise w.lateResolved false (c.heldCounting w)))
  let s := (List.range (w.budget / 32)).foldl (fun s b =>
    if w.absentBlocks.contains b then s else put s (w.blockAt b) (blockImage c w b)) s
  let s := moved.foldl (fun s q => put s (w.accAt + 8192 * q.1) q.2) s
  let at0 := w.accAt + 8192 * accs.length
  let r := (c.heldResv w).foldl (fun (q : State × Nat) e =>
    (put q.1 q.2 (Bytes.readList c.obuf (1024 * e.2.base) (1024 * e.2.gran)), q.2 + 1024 * e.2.gran)) (s, at0)
  if c.heldCounting w then put r.1 r.2 c.fullImage else r.1

/-- What a saved wave held on its core is released (R171, R372). -/
def Core.releaseWave (c : Core) (w : Wave) : Core :=
  { c with
    accHold := c.accHold.filter (fun e => ¬ (e.2.team = w.cteam ∧ e.2.twave = w.twave)),
    resv := c.resv.filter (fun e => ¬ (e.2.team = w.cteam ∧ e.2.twave = w.twave)),
    cntRec := if c.heldCounting w then {} else c.cntRec }

/-! ### Reading a wave back (R175) -/

/-- CSR number `k` of the list of a save area. -/
def savedCsr (page : List Byte) (k : Nat) : Word := BitVec.ofNat 64 (numAt page (0x220 + 8 * k) 8)

/-- The CSRs of a save area, each field held to what it may hold; CORE and SLOT of `wid` come from the placement. The sticky
flags of `nround`, which a write only clears, stand as saved (R43). -/
def restoredCsrs (page : List Byte) (core slot : Nat) : Csrs :=
  let v (k : Nat) : Word := savedCsr page k
  let c : Csrs := { mcause := v 8, mtval := v 9, mscratch := v 6, sscratch := v 13, scause := v 15, stval := v 16,
                    instret := v 17, samask0 := v 23, samask1 := v 24, sgate := v 25, mamask0 := v 27, mamask1 := v 28,
                    turn := v 33, did := v 34 &&& 0xFFFFF07FF, mip := v 2 &&& 0x22, lastat := v 19 &&& 1,
                    wid := setFld (v 38 &&& 0xFFFFFF07FFFFFF) 18 4 (core * 16 + slot), nround := nroundWrite 0 (v 18) ||| (v 18 &&& 0xF00),
                    fcsr := BitVec.ofNat 32 (numAt page 0x10 4) &&& 0xFF }
  [(0x300, 0), (0x304, 1), (0x302, 3), (0x303, 4), (0x305, 5), (0x341, 7), (0x306, 10), (0x106, 11), (0x105, 12),
    (0x141, 14), (0x804, 20), (0x805, 21), (0x5C0, 22), (0x5C4, 26), (0x7C2, 29), (0x7C3, 30), (0x7C4, 31),
    (0x7C5, 32)].foldl (fun (c : Csrs) (q : Nat × Nat) => c.write q.1 (v q.2)) c

/-- The gate indices of a save area, level 1 first. -/
def savedGates (page : List Byte) : List Nat :=
  (List.range (fld (savedCsr page 34) 10 8)).map (fun k => numAt page (0x220 + 8 * 39 + 2 * k) 2)

/-- The wave a save area describes, placed in a slot; its lane register blocks and accumulator tiles are absent. -/
def restoredWave (page : List Byte) (core slot : Nat) (place : Wave) : Wave :=
  let csrs := restoredCsrs page core slot
  let budget := 32 * numAt page 2 1
  let mask := numAt page 0x18 4
  let w : Wave :=
    { place with
      pc := BitVec.ofNat 64 (numAt page 8 8), mode := Mode.ofCode (bits (numAt page 3 1) 1 0),
      csrs := csrs, profiles := BitVec.ofNat 4 (numAt page (0x220 + 8 * 37) 1), budget := budget,
      gates := savedGates page,
      absentBlocks := List.range (budget / 32), absentAccs := (List.range 32).filter (fun k => bit mask k),
      accMask := BitVec.ofNat 32 mask, csaDom := numAt page 4 1 }
  let xs (i : Nat) : Word := BitVec.ofNat 64 (numAt page (0x20 + 8 * i) 8)
  let fs (i : Nat) : Word := BitVec.ofNat 64 (numAt page (0x120 + 8 * i) 8)
  let lanes (o i : Nat) : Mask := BitVec.ofNat 128 (numAt page (o + 16 * i) 16) &&& w.wm
  { w with
    x := Vector.ofFn (fun i => if i.val = 0 then 0 else xs i.val), f := Vector.ofFn (fun i => fs i.val),
    p := Vector.ofFn (fun i => if i.val = 0 then 0 else lanes 0x400 i.val),
    m := Vector.ofFn (fun i => if i.val = 0 then 0 else lanes 0x500 i.val),
    amask := maskOf (savedCsr page 35) (savedCsr page 36) &&& w.wm,
    stack := Vector.ofFn (fun i => { mask := lanes (0x600 + 16 * i.val) i.val,
                                     word := BitVec.ofNat 64 (numAt page (0x610 + 32 * i.val) 8) &&& 0xC001FFFFFFFFFFFC }) }

/-- Record `n` of a save area, if the reservation was held. -/
def savedResv (page : List Byte) (n : Nat) : Option Reserv :=
  let at' := 0xA00 + 32 * n
  let r : Reserv := { w0 := BitVec.ofNat 64 (numAt page at' 8), w1 := BitVec.ofNat 64 (numAt page (at' + 8) 8),
                      w2 := BitVec.ofNat 64 (numAt page (at' + 16) 8) }
  if r.w2.getLsbD 6 then some r else none

/-- Rebuild the saved reservations of a wave, in ascending order, from the bytes at `pa`; `none` where an index is held
or no run of granules is free (R175). -/
def State.rebuildResv (s : State) (page : List Byte) (csa pa team : Nat) (c : Core) : Option (Core × Nat) :=
  (List.range 8).foldl (fun (q : Option (Core × Nat)) n =>
    match q, savedResv page n with
    | some (c, pa), some r =>
      let own := decide (r.base + r.gran ≤ 64) && (List.range r.gran).all (fun k => !c.granTaken (r.base + k))
      match (if own then some r.base else c.findGrans r.gran) with
      | some g =>
        if (c.resvOf n).isSome then none
        else
          let r := { r with w2 := setFld r.w2 5 0 g, team := team, fresh := s.freshHalves.contains (csa, n) }
          let c := c.clearObuf (1024 * g) (1024 * r.gran)
          some ({ c with
                  resv := Table.put c.resv n r,
                  obuf := Bytes.writeList c.obuf (1024 * g) (s.saveRead pa (1024 * r.gran)) }, pa + 1024 * r.gran)
      | none => none
    | q, none => q
    | none, _ => none) (some (c, pa))

/-- Load the counting array of a saved wave from its record and the bytes at `pa` (R372). -/
def State.rebuildCounting (s : State) (page : List Byte) (pa team : Nat) (c : Core) : Core :=
  let w (k : Nat) : Word := BitVec.ofNat 64 (numAt page (0xB00 + 8 * k) 8)
  let c := { c with bank := [], cellFlag := [], cntRec := { w0 := w 0, w1 := w 1, w2 := w 2, team := team } }
  let bytes := s.saveRead pa 229376
  if c.cntWide then c.loadImage 0 bytes else (c.loadImage 0 bytes).loadImage 1 (bytes.drop (512 * c.blockBytes))

/-- A deferred count overflow that was saved with the array (R368). -/
def savedOverflow (page : List Byte) : List (Nat × Word) :=
  let w1 := numAt page 0xB08 8
  if bit w1 0 then [(31, BitVec.ofNat 64 (w1 / 2 ^ 16))] else []

/-- Load a lane register block of the wave in a slot from its save area. -/
def State.loadBlockAt (s : State) (core i b : Nat) : State :=
  let w := (s.slotAt core i).wave
  let bs := s.saveRead (w.csa + w.blockAt b) w.blockSize
  s.modCore core (fun c =>
    ((List.range (32 * w.width)).foldl (fun (c : Core) j =>
      c.setLane w (32 * b + j / w.width) (j % w.width) (BitVec.ofNat 32 (numAt bs (4 * j) 4))) c).modSlot i (fun k =>
        { k with wave := { k.wave with absentBlocks := k.wave.absentBlocks.filter (· ≠ b) } }))

/-- Load an accumulator tile of the wave in a slot from its save area. -/
def State.loadAccAt (s : State) (core i k : Nat) : State :=
  let w := (s.slotAt core i).wave
  let mask := numAt (s.saveRead (w.csa + 0x18) 8) 0 8
  let bs := s.saveRead (w.csa + w.accAt + 8192 * maskRank mask k) 8192
  s.modCore core (fun c =>
    (c.setAcc k ((List.range 2048).map (fun j => BitVec.ofNat 32 (numAt bs (4 * j) 4)))).modSlot i (fun q =>
      { q with wave := { q.wave with absentAccs := q.wave.absentAccs.filter (· ≠ k) } }))

end Sys2Proof.Machine
end

