-- ==== Sys2Proof/Machine/Bind.lean ====
section
/-! DEFINITION. The team table and bind records: new waves and saved ones (R16, R32, R175, R301 to R307, R322, R357). -/

namespace Sys2Proof.Machine

/-! ### The team table (R306, R307) -/

/-- A team becomes live: its counts and barriers start afresh, and it has its anonymous segment entry (R322, R357). -/
def State.teamLive (s : State) (k j : Nat) : State :=
  let t := s.team k j
  let s := s.modTeam k j (fun t => { t with word := setFld (setFld t.word 52 44 0) 43 35 0 })
  let s := s.modCluster k (fun q =>
    { q with
      phases := Table.erase q.phases j,
      bars := (List.range 16).foldl (fun b n => Table.put b (16 * j + n) { exp := t.waves }) q.bars })
  match s.anonymous k j, s.segVacant k with
  | none, some i => s.modSeg k i (fun _ => { kind := 1, dom := t.dom, rwteam := j })
  | _, _ => s

/-- Firmware writes 8 bytes of a team table entry. While the team lives only TCORES and CMAP change. -/
def State.writeTeam (s : State) (k j off : Nat) (v : Word) : State :=
  let t := s.team k j
  if off = 0 then
    if t.live then s.modTeam k j (fun t => { t with word := setFld t.word 59 53 (fld v 59 53) })
    else
      let keep := t.word.toNat % 2 ^ 53 / 2 ^ 35 * 2 ^ 35
      let s := s.modTeam k j (fun t =>
        { t with word := BitVec.ofNat 64 (fld v 59 53 * 2 ^ 53 + keep + fld v 34 0) })
      if v.getLsbD 0 then s.teamLive k j else s
  else if 8 ≤ off ∧ off < 103 then
    s.modTeam k j (fun t =>
      { t with cmap := (List.range 8).foldl (fun m b =>
          let c := fld v (8 * b + 7) (8 * b)
          if c = 0 ∨ 95 ≤ off - 8 + b then Table.erase m (off - 8 + b) else Table.put m (off - 8 + b) c) t.cmap })
  else s

/-- Firmware writes the doubleword at offset `args.b` of entry `args.a` of cluster `args.core` with `args.c`; for an
entry that becomes live, `args.d` is the priority of its launch and `args.e` the launch's journal number plus 1. -/
def execTeamTableEntryWrite (s : State) : Host.Outcome State Fault Refusal :=
  let k := s.args.core
  let j := s.args.a
  let live := (s.team k j).live
  let s' := s.writeTeam k j s.args.b (BitVec.ofNat 64 s.args.c)
  .next (if j < 64 then
      if !live && (s'.team k j).live then s'.modTeam k j (fun t => { t with prio := s.args.d, cmd := s.args.e }) else s'
    else s)

/-- Add to BOUND or DONE of a team. -/
def State.addBound (s : State) (k j n : Nat) : State :=
  s.modTeam k j (fun t => { t with word := setFld t.word 43 35 (t.bound + n) })
def State.dropBound (s : State) (k j : Nat) : State :=
  s.modTeam k j (fun t => { t with word := setFld t.word 43 35 (t.bound - 1) })
def State.addDone (s : State) (k j : Nat) : State :=
  s.modTeam k j (fun t => { t with word := setFld t.word 52 44 (t.done + 1) })

/-- Every held wave of a team runs once BOUND and DONE reach WAVES. -/
def State.gangRun (s : State) (k j : Nat) : State :=
  let t := s.team k j
  if t.bound + t.done = t.waves then
    (s.teamSlots k j).foldl (fun s q => s.modSlotAt q.1 q.2 (fun b =>
      if b.state = .held then { b with state := .running, ownFirst := true } else b)) s
  else s

/-! ### Placement (R302, R304) -/

/-- The slot is bound, or is the odd half of a bound wave of width 128. -/
def Core.slotTaken (c : Core) (i : Nat) : Bool :=
  (c.slot i).state ≠ .free || (i % 2 = 1 && (c.slot (i - 1)).state ≠ .free && (c.slot (i - 1)).wave.widthCode = 3)

/-- The lowest free slots for `n` waves of a width code. -/
def placeSlots (taken : Nat → Bool) (wide : Bool) : Nat → Option (List Nat)
  | 0 => some []
  | n + 1 =>
    let fits (i : Nat) : Bool := !taken i && (!wide || (i % 2 = 0 && !taken (i + 1)))
    match (List.range 16).find? fits with
    | none => none
    | some i => (placeSlots (fun j => taken j || j = i || (wide && j = i + 1)) wide n).map (fun t => i :: t)

/-- The regions are within the file, belong to no bound wave, and all carry the domain. -/
def Core.regionsFree (c : Core) (dom base n : Nat) : Bool :=
  decide (base + n ≤ 128) &&
    (List.range n).all (fun k => c.regionDom (base + k) = some dom && !c.boundWaves.any (fun w => w.regionList.contains (base + k)))

/-- Bound waves of a team on a core. -/
def Core.teamBound (c : Core) (j : Nat) : Nat := (c.boundWaves.filter (fun w => w.cteam = j)).length

/-- The bytes of a core's bind record. -/
def Core.record (c : Core) : List Byte := Bytes.readList c.bindArea 0 128

/-- Zero bytes `o` to `o + n - 1` of a record. -/
def zeroAt (r : List Byte) (o n : Nat) : Bool := numAt r o n = 0

/-- The core may receive a wave of the record's team: firewall, team and team core index. -/
def State.bindPlace (s : State) (core : Nat) (r : List Byte) : Bool :=
  let c := s.core core
  let j := numAt r 5 1
  let t := s.team (clusterOf core) j
  let tc := numAt r 6 1
  !c.fwall.getLsbD 0 && !c.fwall.getLsbD 1 && decide (j < 64) && t.live && decide (tc < t.tcores) &&
    Table.get t.cmap tc 0 = core % 96 && decide (numAt r 3 1 < 128) && decide (1 ≤ numAt r 4 1 ∧ numAt r 4 1 ≤ 8) &&
    numAt r 32 8 % 4096 = 0 && zeroAt r 19 5 && zeroAt r 120 8

/-- What dispatch writes to `BCTL` when it has acted. -/
def State.bindDone (s : State) (core status : Nat) (slots : List Nat) : State :=
  s.modCore core (fun c => { c with bctl := BitVec.ofNat 64 (indexMask slots * 2 ^ 32 + status * 256) })

/-! ### New waves (R302) -/

/-- The fields of a new-wave record are in range. -/
def State.newRecordOk (s : State) (core : Nat) (r : List Byte) : Bool :=
  let f := numAt r 2 1
  let n := numAt r 1 1
  s.bindPlace core r && numAt r 0 1 = 1 && decide (1 ≤ n ∧ n ≤ 16) && bits f 7 6 ≠ 2 && (!bit f 5 || bits f 1 0 = 0) &&
    numAt r 7 1 < 32 && decide (numAt r 8 2 + n ≤ 256) && decide (numAt r 12 4 < 2 ^ 20) &&
    decide (numAt r 112 8 < 2 ^ 52)

/-- Wave `i` of a new-wave record, placed in a slot. -/
def newWave (r : List Byte) (core i slot dom : Nat) : Wave :=
  let f := numAt r 2 1
  let width := bits f 1 0
  let half := if width = 3 then 8 else 2 ^ width
  let budget := 32 * numAt r 4 1
  let misc := numAt r 112 8
  let wid := (numAt r 10 2 + numAt r 18 1 * 2 ^ 16) * 2 ^ 32 + (numAt r 8 2 + i) * 2 ^ 19 + core * 2 ^ 8 + slot * 16 +
    bits f 3 2 * 4 + width
  let at' (o : Nat) : Word := BitVec.ofNat 64 (numAt r o 8)
  let c : Csrs :=
    { sturncmp := BitVec.allOnes 64, mlav := BitVec.ofNat 64 (b2n (bit (numAt r 7 1) 4)), wid := BitVec.ofNat 64 wid,
      did := BitVec.ofNat 64 (numAt r 12 4 * 2 ^ 16 + dom) }
  let c := ((((((c.write 0x305 (at' 72)).write 0x105 (at' 80)).write 0x302 (at' 88)).write 0x303 (at' 96)).write 0x300
    (at' 104)).write 0x304 (BitVec.ofNat 64 (bits misc 15 0)))
  let w : Wave :=
    { pc := at' 24, mode := Mode.ofCode (bits f 7 6), csrs := c, profiles := BitVec.ofNat 4 (numAt r 7 1), budget := budget,
      regBase := numAt r 3 1 + i * (half * numAt r 4 1), homeGroup := bit f 4, homeHalf := bit f 5, cteam := numAt r 5 1,
      tcore := numAt r 6 1, csa := numAt r 32 8 + i * numAt r 16 2 * 4096, csaDom := dom,
      accMask := BitVec.ofNat 32 (bits misc 47 16) }
  let w := { w with amask := w.wm }
  (((w.setX 10 (at' 40)).setX 11 (at' 48)).setX 12 (at' 56)).setX 13 (at' 64)

/-- Put waves into slots, their regions zeroed. -/
def State.bindWaves (s : State) (core : Nat) (ws : List (Nat × Wave)) : State :=
  s.modCore core (fun c => ws.foldl (fun (c : Core) q =>
    (c.zeroRegions q.2.regionList).modSlot q.1 (fun k => { state := .held, retd := k.retd, wave := q.2 })) c)

/-- Dispatch acts on a new-wave record: it binds all its waves or none. -/
def State.bindNew (s : State) (core : Nat) : State :=
  let c := s.core core
  let r := c.record
  let k := clusterOf core
  let j := numAt r 5 1
  let n := numAt r 1 1
  let width := bits (numAt r 2 1) 1 0
  if !s.newRecordOk core r then s.bindDone core 3 []
  else
    let dom := (s.team k j).dom
    if (if width = 3 then 8 else 16) < c.teamBound j + n then s.bindDone core 6 []
    else
      match placeSlots c.slotTaken (decide (width = 3)) n with
      | none => s.bindDone core 1 []
      | some slots =>
        if !c.regionsFree dom (numAt r 3 1) (n * (2 ^ width * numAt r 4 1)) then s.bindDone core 2 []
        else
          let ws := slots.mapIdx (fun i slot => (slot, newWave r core i slot dom))
          let s := ws.foldl (fun s q => s.saveWrite dom (q.2.csa + 0x18) (leBytes 8 q.2.accMask.toNat)) s
          ((((s.refreshCore core).bindWaves core ws).addBound k j n).gangRun k j).bindDone core 0 slots

/-- A bind record waits for dispatch on a core, and whether it is a restore record. -/
def Core.bindPending (c : Core) : Option Bool :=
  if c.bctl.getLsbD 0 then some (decide (numAt c.record 0 1 = 2)) else none

/-- Dispatch acts on the new-wave record of core `args.core`; the record is what the area holds when dispatch acts, so one
that has become a restore record is acted on as that. -/
def execNewWaveBind (s : State) : Host.Outcome State Fault Refusal :=
  .next (match (s.core s.args.core).bindPending with
    | some false => s.bindNew s.args.core
    | some true => s.schedule 1 .restoreBind { core := s.args.core }
    | none => s)

/-! ### Leaving the gates of a domain that is reset (R417) -/

/-- The target domain of a gate index. -/
def State.gateTarget (s : State) (g : Nat) : Option Nat := (s.gate g).map (fun q => q.tdom)

/-- The wave of a slot leaves its innermost gate as `gate.ret` does, its window not copied back; a frame that cannot be
read leaves it in the gate, and it takes cause 57 with tval 10 instead (DEDUCED, log 44). -/
def State.expelOnce (s : State) (c i : Nat) : State × Bool :=
  let old := (s.curCore, s.curSlot)
  let t : State := { s with curCore := c, curSlot := i }
  let w := t.wave
  let back (t : State) : State := { t with curCore := old.1, curSlot := old.2 }
  match t.gate (fld w.csrs.sgate 31 16) with
  | none => (back t, false)
  | some g =>
    match t.framePa .load w.pasid w.dom (g.frame w) with
    | (t, none) => (back t, false)
    | (t, some d) =>
      let (t, f) := t.frameBytes d
      let plain := f.take 44 ++ leBytes 1 (numAt f 44 1 &&& 0xEF) ++ f.drop 45
      let t := ((t.leaveWait c i).interruptSequencer c i).closeWindow plain g.argw
      let t := t.modCur (fun q => q.retag w (bits (numAt f 40 8) 7 0))
      let t := t.modSlot (fun k =>
        { k with
          state := if k.state = .waiting ∨ k.state = .parked then .running else k.state,
          wave := { k.wave.leaveGate f with pending := [], wait := none, park := none, busy := none } })
      let r := t.loadStash (numAt f 48 8)
      (back (if r.2 then r.1 else r.1.applyAt c i (.defer 57 11)), true)

/-- Gates of a chain that a wave leaves when it leaves the outermost whose target is the domain. -/
def State.levelsInto (s : State) (dom : Nat) (gates : List Nat) : Nat :=
  (gates.dropWhile (fun g => s.gateTarget g ≠ some dom)).length

/-- The wave of a slot leaves `n` gates, and takes cause 57 with tval 12 (R417). -/
def State.expelLevels (s : State) (c i : Nat) : Nat → State
  | 0 => s.applyAt c i (.defer 57 12)
  | n + 1 =>
    let r := s.expelOnce c i
    if r.2 then r.1.expelLevels c i n
    else r.1.modWaveAt c i (fun w => { w with raised := some (w.raised.getD (57, 10)) })

/-! ### Saved waves (R175, R303) -/

/-- The fields of a restore record are in range. -/
def State.restoreRecordOk (s : State) (core : Nat) (r : List Byte) : Bool :=
  s.bindPlace core r && numAt r 1 1 = 1 && numAt r 2 1 &&& 0xCF = 0 && zeroAt r 7 12 && zeroAt r 24 8 && zeroAt r 40 72 &&
    numAt r 112 8 &&& 0xFFF0FFFFFFFFFFFF = 0

/-- The header of a save area agrees with the record and the team; a home half, which a record gives to waves of width 16
alone, does not agree with a header of another width (R303, R304; DESIGN CHOICE, log 35). -/
def savedMatches (page r : List Byte) (dom : Nat) : Bool :=
  numAt page 0 1 = 1 && decide (numAt page 1 1 ≤ 3) && numAt page 2 1 = numAt r 4 1 && bits (numAt page 3 1) 1 0 ≠ 2 &&
    numAt page 4 1 = dom && (!bit (numAt r 2 1) 5 || numAt page 1 1 = 0)

/-- A restored wave runs at once where another wave of its team is running, waiting or parked. -/
def State.teamMoves (s : State) (k j : Nat) : Bool :=
  (s.teamSlots k j).any (fun q =>
    let st := (s.slotAt q.1 q.2).state
    st = .running || st = .waiting || st = .parked)

/-- Causes that reached a saved wave become deferred causes of the restored one. -/
def State.takeLate (s : State) (csa : Nat) (w : Wave) : State × Wave :=
  let mine := s.lateCauses.filter (fun q => q.1 = csa)
  ({ s with lateCauses := s.lateCauses.filter (fun q => q.1 ≠ csa) },
    mine.foldl (fun (w : Wave) (q : Nat × Nat × Word × Word) =>
      { w with
        deferred := w.deferred ++ [(q.2.1, q.2.2.1)],
        csrs := if q.2.2.2 = 0 then w.csrs else { w.csrs with mdomfault := q.2.2.2 } : Wave }) w)

/-- Dispatch acts on a restore record. The regions must carry the team's domain (R304); those of a wave saved inside a gate
are mapped to its gate's domain, as `gate.call` left them (R16, R346; DEDUCED, log 35). -/
def State.bindSaved (s : State) (core : Nat) : State :=
  let c := s.core core
  let r := c.record
  let k := clusterOf core
  let j := numAt r 5 1
  let csa := numAt r 32 8
  let page := s.saveRead csa 0x1000
  let counting := bit (numAt page 3 1) 5
  if !s.restoreRecordOk core r ∨ (counting ∧ c.cntHeld) then s.bindDone core 3 []
  else if bit (numAt page 3 1) 4 then s.bindDone core 4 []
  else if !savedMatches page r (s.team k j).dom then s.bindDone core 5 []
  else
    let width := numAt page 1 1
    if (if width = 3 then 8 else 16) < c.teamBound j + 1 then s.bindDone core 6 []
    else
      match placeSlots c.slotTaken (decide (width = 3)) 1 with
      | some [i] =>
        let place : Wave :=
          { regBase := numAt r 3 1, homeGroup := bit (numAt r 2 1) 4, homeHalf := bit (numAt r 2 1) 5, cteam := j,
            tcore := numAt r 6 1, csa := csa, locks := bits (numAt r 112 8) 51 48 }
        let w := restoredWave page core i place
        let accs := w.absentAccs
        let at0 := csa + w.accAt + 8192 * accs.length
        let gated := decide (w.dom ≠ w.csaDom)
        if !c.regionsFree (s.team k j).dom w.regBase w.regions ∨ (gated ∧ (c.slotOfDom w.dom).isNone) ∨ accs.any (fun a => (Table.find c.accHold a).isSome) then
          s.bindDone core 2 []
        else
          match s.rebuildResv page csa at0 j c with
          | none => s.bindDone core 2 []
          | some (c, pa) =>
            let hold : Holder := { team := j, twave := w.twave, dom := w.csaDom }
            let c := { c with accHold := accs.foldl (fun t a => Table.put t a hold) c.accHold }
            let c := if counting then s.rebuildCounting page pa j c else c
            let c := if gated then c.retag w w.dom else c
            let w := if counting then { w with deferred := savedOverflow page } else w
            let q := s.takeLate csa w
            let runs := s.teamMoves k j
            let levels := Table.get s.expelled csa 0
            let s := ((q.1.modCore core (fun _ => c)).refreshCore core).bindWaves core [(i, q.2)]
            let s := if runs then s.modSlotAt core i (fun b => { b with state := .running }) else s
            let s : State := { s with
              saved := s.saved.filter (· ≠ csa)
              expelled := Table.erase s.expelled csa
              freshHalves := s.freshHalves.filter (fun q => q.1 ≠ csa) }
            let s := ((s.addBound k j 1).gangRun k j).resumeEngines csa
            (if levels = 0 then s else s.expelLevels core i levels).bindDone core 0 [i]
      | _ => s.bindDone core 1 []

/-- Dispatch acts on the restore record of core `args.core`. -/
def execRestoreBind (s : State) : Host.Outcome State Fault Refusal :=
  .next (match (s.core s.args.core).bindPending with
    | some true => s.bindSaved s.args.core
    | some false => s.schedule 1 .newWaveBind { core := s.args.core }
    | none => s)

end Sys2Proof.Machine
end

