-- ==== Sys2Proof/Machine/Crypto.lean ====
section
/-! DEFINITION. Keccak, SHAKE256 and SHA3-512 (FIPS 202), and verification of an Ed448 signature (RFC 8032), which the
boot chain, recorded launches and SPDM use (R405 to R408, R419). -/

namespace Sys2Proof.Machine

/-! ### Keccak-f[1600]: 25 lanes of 64 bits, lane x + 5 y -/

/-- A 64-bit lane turned left by `n` places. -/
def turnLane (v n : Nat) : Nat := v * 2 ^ (n % 64) % 2 ^ 64 + v / 2 ^ (64 - n % 64)

/-- The shift register whose bits make the round constants: x⁸ + x⁶ + x⁵ + x⁴ + 1. -/
def iotaStep (r : Nat) : Nat := if r < 128 then 2 * r else (2 * r) ^^^ 0x171

/-- A round's constant, bit 2^j − 1 from the register's j-th step, and the register after the round. -/
def iotaConst (r : Nat) : Nat × Nat :=
  (List.range 7).foldl (fun (q : Nat × Nat) j => (q.1 + q.2 % 2 * 2 ^ (2 ^ j - 1), iotaStep q.2)) (0, r)

/-- θ: each lane takes the parities of two columns. -/
def thetaLanes (a : List Nat) : List Nat :=
  let col (x : Nat) : Nat := (List.range 5).foldl (fun p y => p ^^^ a.getD (x % 5 + 5 * y) 0) 0
  a.mapIdx (fun i v => v ^^^ col (i + 4) ^^^ turnLane (col (i + 1)) 1)

/-- ρ and π in one walk from lane 1: the lane at each place of the walk moves to the next place, turned by the next
triangular number. -/
def walkLanes (a : List Nat) : List Nat :=
  ((List.range 24).foldl (fun (q : List Nat × Nat) k =>
    let next := q.2 / 5 + 5 * ((2 * (q.2 % 5) + 3 * (q.2 / 5)) % 5)
    (q.1.set next (turnLane (a.getD q.2 0) ((k + 1) * (k + 2) / 2)), next)) (a, 1)).1

/-- χ: each lane takes the next but one of its row where the next is 0. -/
def chiLanes (a : List Nat) : List Nat :=
  a.mapIdx (fun i v =>
    let row (k : Nat) : Nat := a.getD (i - i % 5 + (i + k) % 5) 0
    v ^^^ row 2 ^^^ (row 1 &&& row 2))

/-- The 24 rounds, with the register that the constants come from. -/
def keccakF (a : List Nat) : List Nat :=
  ((List.range 24).foldl (fun (q : List Nat × Nat) _ =>
    let k := iotaConst q.2
    ((chiLanes (walkLanes (thetaLanes q.1))).modify 0 (· ^^^ k.1), k.2)) (a, 1)).1

/-! ### The sponge -/

/-- The state after the blocks of a padded message, `rate` bytes each; the first argument is their number. -/
def takeBlocks (rate : Nat) : Nat → List Byte → List Nat → List Nat
  | 0, _, a => a
  | n + 1, bs, a =>
    takeBlocks rate n (bs.drop rate)
      (keccakF (a.mapIdx (fun i v => if 8 * i < rate then v ^^^ leValue ((bs.drop (8 * i)).take 8) else v)))

/-- `n` blocks of output. -/
def giveBlocks (rate : Nat) : Nat → List Nat → List Byte
  | 0, _ => []
  | n + 1, a => (a.take (rate / 8)).flatMap (leBytes 8) ++ giveBlocks rate n (keccakF a)

/-- `out` bytes of the sponge of a rate, in bytes, and a domain suffix: the message is padded with the suffix, zeros and a
last bit. -/
def sponge (rate suffix out : Nat) (msg : List Byte) : List Byte :=
  let blocks := msg.length / rate + 1
  let pad := leBytes (blocks * rate - msg.length) (suffix + 2 ^ (8 * (blocks * rate - msg.length) - 1))
  (giveBlocks rate (out / rate + 1) (takeBlocks rate blocks (msg ++ pad) (List.replicate 25 0))).take out

/-- SHAKE256 with `out` bytes of output. -/
def shake256 (out : Nat) (msg : List Byte) : List Byte := sponge 136 0x1F out msg

/-- SHA3-512. -/
def sha3x512 (msg : List Byte) : List Byte := sponge 72 0x06 64 msg

/-! ### Ed448 verification -/

/-- The field prime and the order of the base point. -/
def edP : Nat := 2 ^ 448 - 2 ^ 224 - 1
def edL : Nat := 2 ^ 446 - 13818066809895115352007386748515426880336692474882178609894547503885

/-- d of the curve x² + y² = 1 + d x² y². -/
def edD : Nat := edP - 39081

/-- A power modulo p: the bits of the exponent from the top. -/
def powMod (m b : Nat) : Nat → Nat → Nat
  | 0, _ => 1 % m
  | n + 1, e => let h := powMod m b n (e / 2); if e % 2 = 1 then h * h % m * b % m else h * h % m

/-- The inverse of a field element. -/
def edInv (a : Nat) : Nat := powMod edP a 448 (edP - 2)

/-- A point in projective coordinates. -/
structure EdPoint where
  x : Nat
  y : Nat
  z : Nat
deriving DecidableEq, Repr

/-- Sum of two points. -/
def EdPoint.add (p q : EdPoint) : EdPoint :=
  let m (a b : Nat) : Nat := a * b % edP
  let sub (a b : Nat) : Nat := (a + edP - b % edP) % edP
  let a := m p.z q.z
  let b := m a a
  let c := m p.x q.x
  let d := m p.y q.y
  let e := m edD (m c d)
  let f := sub b e
  let g := (b + e) % edP
  let h := m (p.x + p.y) (q.x + q.y)
  { x := m (m a f) (sub (sub h c) d), y := m (m a g) (sub d c), z := m f g }

/-- The neutral point. -/
def edZero : EdPoint := { x := 0, y := 1, z := 1 }

/-- A multiple of a point: `n` bits of the scalar. -/
def EdPoint.mul (p : EdPoint) : Nat → Nat → EdPoint
  | 0, _ => edZero
  | n + 1, k => let h := p.mul n (k / 2); let d := h.add h; if k % 2 = 1 then d.add p else d

/-- Two points are equal. -/
def EdPoint.same (p q : EdPoint) : Bool := p.x * q.z % edP = q.x * p.z % edP && p.y * q.z % edP = q.y * p.z % edP

/-- The base point. -/
def edBase : EdPoint :=
  { x := 0x4F1970C66BED0DED221D15A622BF36DA9E146570470F1767EA6DE324A3D3A46412AE1AF72AB66511433B80E18B00938E2626A82BC70CC05E
    y := 0x693F46716EB6BC248876203756C9C7624BEA73736CA3984087789C1E05A0C2D73AD3FF1CE67C39C4FDBD132C4ED7C8AD9808795BF230FA14
    z := 1 }

/-- The point that 57 bytes encode. -/
def edDecode (bs : List Byte) : Option EdPoint :=
  let v := leValue (bs.take 57)
  let y := v % 2 ^ 455
  let sign := v / 2 ^ 455 % 2
  if bs.length < 57 ∨ edP ≤ y then none
  else
    let u := (y * y + edP - 1) % edP
    let w := (edD * (y * y % edP) + edP - 1) % edP
    let x := u * u % edP * u % edP * w % edP * powMod edP (powMod edP u 3 5 * powMod edP w 2 3 % edP) 446 ((edP - 3) / 4) % edP
    if w * (x * x % edP) % edP ≠ u then none
    else if x = 0 ∧ sign = 1 then none
    else some { x := if x % 2 = sign then x else edP - x, y := y, z := 1 }

/-- The 114-byte signature of a message with an empty context verifies under a 57-byte public key. -/
def ed448Verify (key msg sig : List Byte) : Bool :=
  let r := sig.take 57
  let k := leValue ((sig.drop 57).take 57)
  let dom : List Byte := [0x53, 0x69, 0x67, 0x45, 0x64, 0x34, 0x34, 0x38, 0, 0]
  match edDecode key, edDecode r with
  | some a, some q =>
    if sig.length ≠ 114 ∨ edL ≤ k then false
    else
      let h := leValue (shake256 114 (dom ++ r ++ key ++ msg)) % edL
      let left := (edBase.mul 446 k).mul 3 4
      let right := (q.add (a.mul 446 h)).mul 3 4
      left.same right
  | _, _ => false

end Sys2Proof.Machine
end

