-- ==== Sys2Proof/Machine/Journal.lean ====
section
/-! DEFINITION. Queue interfaces, the command journal, completion vectors and the two-stage queue translation
(R267 to R274, R351, R352). -/

namespace Sys2Proof.Machine

/-! ### Registers of an interface (R267) -/

/-- Offset of register `k` of interface `q`: 0 `QCFG`, 1 `QBASE`, 2 `QHEAD`, 3 `QSTAT`, 4 `QLATCH`. -/
def queueReg (q k : Nat) : Nat := 0x100000 + 64 * q + 8 * k

/-- Fields of an interface. -/
def State.queueDom (s : State) (q : Nat) : Nat := fld (s.reg (queueReg q 0)) 40 33
def State.queuePasid (s : State) (q : Nat) : Nat := fld (s.reg (queueReg q 0)) 32 13
def State.queuePrioMax (s : State) (q : Nat) : Nat := fld (s.reg (queueReg q 0)) 12 6
def State.queueLog (s : State) (q : Nat) : Nat := fld (s.reg (queueReg q 0)) 5 1
def State.queueBase (s : State) (q : Nat) : Nat := fld (s.reg (queueReg q 1)) 48 6 * 64
def State.queueHead (s : State) (q : Nat) : Nat := fld (s.reg (queueReg q 2)) 31 0
def State.queueState (s : State) (q : Nat) : Nat := fld (s.reg (queueReg q 3)) 1 0
def State.queueTail (s : State) (q : Nat) : Nat := fld (s.reg (queueReg q 4)) 31 0
def State.queuePend (s : State) (q : Nat) : Bool := (s.reg (queueReg q 4)).getLsbD 32

/-- Set the state and error code of an interface. -/
def State.setQueueState (s : State) (q st ecode : Nat) : State := s.setReg (queueReg q 3) (BitVec.ofNat 64 (ecode * 256 + st))

/-- Set the latch of an interface. -/
def State.setLatch (s : State) (q tail : Nat) (pend : Bool) : State :=
  s.setReg (queueReg q 4) (BitVec.ofNat 64 (b2n pend * 2 ^ 32 + tail % 2 ^ 32))

/-- Set HEAD of an interface. -/
def State.setHead (s : State) (q head : Nat) : State := s.setReg (queueReg q 2) (BitVec.ofNat 64 (head % 2 ^ 32))

/-- Interfaces whose registers are listed. -/
def State.listedQueues (s : State) : List Nat :=
  (List.range 2048).filter (fun q => (Table.find s.regs (queueReg q 3)).isSome)

/-- How the front end reads and writes memory for a domain and a PASID: from die 0 (DEDUCED, log 40). -/
def frontAgent (dom pasid : Nat) : EngAgent := { die := 0, dom := dom, pasid := pasid }

/-! ### The journal (R273, R274) -/

/-- Offsets of the journal registers and of the stall counter. -/
def jbase : Nat := 0x11000
def jsize : Nat := 0x11008
def jhead : Nat := 0x11010
def jcons : Nat := 0x11018
def evJstall : Nat := 0x17800

/-- Records the journal holds at most, its next sequence number, and whether it is full. -/
def State.journalSize (s : State) : Nat := 2 ^ fld (s.reg jsize) 4 0
def State.journalNext (s : State) : Nat := (s.reg jhead).toNat
def State.journalFull (s : State) : Bool := decide ((s.reg jhead - s.reg jcons).toNat = s.journalSize)

/-- Add one to a 64-bit counter register. -/
def State.bump (s : State) (off : Nat) : State := s.setReg off (s.reg off + 1)

/-- The 24 bytes of a record after its SEQ. -/
def journalRecord (iface kind ty index status discard accept : Nat) : List Byte :=
  leBytes 2 iface ++ leBytes 1 kind ++ leBytes 1 ty ++ leBytes 4 index ++ leBytes 4 status ++ leBytes 4 discard ++
    leBytes 8 accept

/-- Write a record at the head of the journal and advance `JHEAD`. -/
def State.putRecord (s : State) (r : List Byte) : State :=
  let n := s.journalNext
  let s := s.agentWrite (fld (s.reg jbase) 51 5 * 32 + 32 * (n % s.journalSize)) (leBytes 8 n ++ r)
  s.setReg jhead (BitVec.ofNat 64 (n + 1))

/-- Append a record, or let it wait for room. -/
def State.appendRecord (s : State) (r : List Byte) : State :=
  if s.journalFull || s.journalWait ≠ [] then { s with journalWait := s.journalWait ++ [r] }.bump evJstall
  else s.putRecord r

/-- A record is the COMPLETE record of a command. -/
def completesCommand (r : List Byte) (c : Command) : Bool :=
  numAt r 2 1 = 2 && numAt r 16 8 = c.seq % 2 ^ 64 && numAt r 0 2 = c.iface % 2 ^ 16

/-- Append the waiting records that there is room for; the command of each COMPLETE record goes on with what follows its
record (R272). -/
def State.flushJournal (s : State) : Nat → State
  | 0 => s
  | n + 1 =>
    match s.journalWait with
    | [] => s
    | r :: rest =>
      if s.journalFull then s
      else
        let t : State := { s with journalWait := rest }
        let t := t.putRecord r
        (match t.commands.find? (completesCommand r) with
          | some c => t.schedule 1 .commandCompletion { a := c.seq }
          | none => t).flushJournal n

/-- The next turns of acceptance: interfaces in a take go on, and latches not taken are taken. -/
def State.resumeFront (s : State) : State :=
  let s := s.takes.foldl (fun s t => s.schedule 4 .packetAccept { a := t.1 }) s
  (s.listedQueues.filter (fun q => s.queueState q = 1 && s.queuePend q && (Table.find s.takes q).isNone)).foldl
    (fun s q => s.schedule 4 .latchTake { a := q }) s

/-! ### Errors of an interface (R269) -/

/-- The interface enters the error state; what it was taking is dropped. -/
def State.queueFails (s : State) (q ecode : Nat) : State :=
  let t : State := { s with takes := Table.erase s.takes q }
  t.setQueueState q 2 ecode

/-- The same with a QERROR record. -/
def State.queueError (s : State) (q ecode : Nat) : State :=
  (s.queueFails q ecode).appendRecord (journalRecord q 4 0 (s.queueHead q) ecode 0 0)

/-! ### Interrupt remapping (R352) -/

/-- Offset of the counter of vectors that send nothing. -/
def evVector : Nat := 0x17810

/-- Physical address of an interrupt remapping entry. -/
def State.irtAddr (s : State) (v : Nat) : Nat := fld (s.reg irtbase) 51 13 * 8192 + 16 * v

/-- Bytes of an interrupt remapping entry. -/
def State.irtEntry (s : State) (v : Nat) : List Byte := leBytes 16 (s.readPhys (s.irtAddr v) 16)

/-- `QT2A` of a function. -/
def State.qt2a (s : State) (f : Nat) : Word := s.reg (0x15000 + 16 * f)

/-- The function whose contiguous set holds an interface; function 0 reaches every one (R267, R351). -/
def State.functionOf (s : State) (q : Nat) : Nat :=
  ((List.range 63).map (· + 1)).find? (fun f =>
    let w := s.qt2a f
    decide (fld w 23 13 ≤ q ∧ q < fld w 23 13 + fld w 35 24)) |>.getD 0

/-- Raise a vector for an interface and domain. -/
def State.raiseVector (s : State) (v q dom : Nat) : State :=
  let e := s.irtEntry v
  let flags := numAt e 12 1
  if (s.reg irtcount).toNat ≤ v ∨ !bit flags 0 ∨ numAt e 13 1 ≠ s.functionOf q ∨ numAt e 14 1 ≠ dom then s.bump evVector
  else if bit flags 1 then s.agentWrite (s.irtAddr v + 12) [BitVec.ofNat 8 (flags ||| 4)]
  else s.emit (.msi (numAt e 0 8) (numAt e 8 4))

/-- MASK of entry `args.a` of the interrupt remapping table is cleared: a pending message is sent once. -/
def execIrtMaskClear (s : State) : Host.Outcome State Fault Refusal :=
  let v := s.args.a
  let e := s.irtEntry v
  let flags := numAt e 12 1
  .next (if (s.reg irtcount).toNat ≤ v then s
    else
      let s := s.agentWrite (s.irtAddr v + 12) [BitVec.ofNat 8 (flags &&& 0xF9)]
      if bit flags 0 && bit flags 2 then s.emit (.msi (numAt e 0 8) (numAt e 8 4)) else s)

/-! ### Queue-identifier translation (R351) -/

/-- Counter of accesses that failed the translation. -/
def evQueue : Nat := 0x17808

/-- A stage-1 entry of a function, from the device's copies or from the guest's table. -/
def State.stage1Entry (s : State) (f n : Nat) : State × Option Word :=
  match Table.find s.stage1 (32 * f + n) with
  | some e => (s, some e)
  | none =>
    let a := s.qt2a f
    let pasid := fld a 55 36
    let dom := fld (s.contextWords pasid).1 15 8
    match s.engineRead (frontAgent dom pasid) (fld (s.reg (0x15008 + 16 * f)) 48 8 * 256 + 8 * n) 8 with
    | (s, .error _) => (s, none)
    | (s, .ok bs) =>
      let e := BitVec.ofNat 64 (leValue bs)
      ({ s with stage1 := Table.put s.stage1 (32 * f + n) e }, some e)

/-- Stage 1: the function's own number of the interface that page `a` names. -/
def State.queueStage1 (s : State) (f a : Nat) : State × Option Nat :=
  let n := bits a 15 11
  let q := bits a 10 0
  if n = 0 ∨ !(s.qt2a f).getLsbD 56 then (s, some q)
  else
    match s.stage1Entry f n with
    | (s, some e) => (s, if e.getLsbD 31 ∧ q < fld e 22 12 then some (fld e 10 0 + q) else none)
    | (s, none) => (s, none)

/-- The interface that page or set `a` of a function's aperture names; a failing access is counted. -/
def State.queueOf (s : State) (f a : Nat) : State × Option Nat :=
  match s.queueStage1 f a with
  | (s, none) => (s.bump evQueue, none)
  | (s, some q1) =>
    let w := s.qt2a f
    if q1 < fld w 35 24 ∧ fld w 23 13 + q1 < 2048 then (s, some (fld w 23 13 + q1)) else (s.bump evQueue, none)

/-- The cached stage-1 entries of function `args.a` are dropped and `QT2B.INV` falls. -/
def execStage1Invalidate (s : State) : Host.Outcome State Fault Refusal :=
  let f := s.args.a
  let o := 0x15008 + 16 * f
  .next (if f < 64 then { s.setReg o (setFld (s.reg o) 0 0 0) with stage1 := Table.keep s.stage1 (fun k => decide (k / 32 ≠ f)) } else s)

/-! ### Requests of the host -/

/-- An AtomicOp that the completer supports: 4 or 8 bytes of FetchAdd, Swap or CAS (R389). -/
def Args.atomicSupported (g : Args) : Bool := (g.b = 4 || g.b = 8) && decide (g.c ≤ 2)

/-- A CXL.io request of function 0 through the alias window, with no PASID. -/
def Args.throughAlias (g : Args) : Bool := bits g.d 10 1 = 2

/-! ### Notify writes (R268) -/

/-- The host writes `args.d` bytes, value `args.e`, at offset `args.c` of notify page `args.b` of function `args.a`. -/
def execNotifyWrite (s : State) : Host.Outcome State Fault Refusal :=
  let g := s.args
  .next (match s.queueOf g.a g.b with
    | (s, none) => s
    | (s, some q) =>
      if g.c = 0 ∧ g.d = 4 then
        let s := s.setLatch q g.e true
        if s.queueState q = 1 then s.schedule 4 .latchTake { a := q } else s
      else s)

/-- A read of `size` bytes at an offset of a notify page (R268). -/
def State.notifyRead (s : State) (f page off size : Nat) : State × Nat :=
  match s.queueOf f page with
  | (s, none) => (s, 0)
  | (s, some q) => (s, if off = 0 then s.queueTail q % 2 ^ (8 * size) else 0)

/-- Interface `args.a` is enabled; without an image of every kind the device enables none (R406). -/
def execQueueEnable (s : State) : Host.Outcome State Fault Refusal :=
  let q := s.args.a
  .next (if q < 2048 ∧ s.queueState q = 0 ∧ s.stage = .configured then
      let c := s.reg (queueReg q 0)
      ((((s.setReg (queueReg q 0) (setFld c 0 0 1)).setQueueState q 1 0).setHead q 0).setLatch q 0 false).appendRecord
        (journalRecord q 5 0 0 0 0 0)
    else s)

/-- An interface goes to disabled, with its DISABLE record; launches already accepted run on. -/
def State.disableQueue (s : State) (q : Nat) : State :=
  if s.queueState q = 0 then s
  else
    let c := s.reg (queueReg q 0)
    let t : State := { s with takes := Table.erase s.takes q }
    ((t.setReg (queueReg q 0) (setFld c 0 0 0)).setQueueState q 0 0).appendRecord (journalRecord q 6 0 (s.queueHead q) 0 0 0)

/-- Interface `args.a` is disabled. -/
def execQueueDisable (s : State) : Host.Outcome State Fault Refusal :=
  .next (if s.args.a < 2048 then s.disableQueue s.args.a else s)

/-- A pending latch of a running interface is taken. -/
def execLatchTake (s : State) : Host.Outcome State Fault Refusal :=
  let q := s.args.a
  .next (if s.queueState q = 1 ∧ s.queuePend q ∧ s.intake ∧ (Table.find s.takes q).isNone then
      let tail := s.queueTail q
      let n := (tail + 2 ^ 32 - s.queueHead q) % 2 ^ 32
      let s := s.setLatch q tail false
      if 2 ^ s.queueLog q < n then s.queueError q 1
      else if n = 0 then s
      else { s with takes := Table.put s.takes q tail }.schedule 4 .packetAccept { a := q }
    else s)

end Sys2Proof.Machine
end

