-- ==== Sys2Proof/Machine/Commands.lean ====
section
/-! DEFINITION. The commands of the queue interfaces: acceptance, the start of each command, and completion
(R83 to R85, R220, R221, R269 to R276, R339, R340, R419, R421). -/

namespace Sys2Proof.Machine

/-! ### Packets (R270, R271) -/

/-- TYPE, FLAGS and the fields of a packet. -/
def pktType (p : List Byte) : Nat := numAt p 0 1
def pktFlag (p : List Byte) (k : Nat) : Bool := bit (numAt p 1 1) k
def pktAddr (p : List Byte) : Nat := numAt p 8 8
def pktValue (p : List Byte) : Nat := numAt p 16 8
def pktDone (p : List Byte) : Nat := numAt p 24 8
def pktDoneValue (p : List Byte) : Nat := numAt p 32 8
def pktVector (p : List Byte) : Nat := numAt p 42 2

/-- FLAGS bits a type allows: AFTER in all, IRQ in LAUNCH, SIGNAL and QUIESCE, CORES and RECORD in LAUNCH. -/
def pktFlagsAllowed (ty : Nat) : Nat := if ty = 1 then 0x0F else if ty = 2 ∨ ty = 4 then 0x06 else 0x02

/-- The bytes a type requires to be zero, as offset and size. -/
def pktZeros (ty : Nat) : List (Nat × Nat) :=
  (2, 2) :: (44, 20) ::
    (if ty = 0 then [(4, 40)]
     else if ty = 1 then []
     else if ty = 2 then [(4, 20), (40, 2)]
     else if ty = 3 then [(4, 4), (24, 20)]
     else [(4, 4), (40, 2)])

/-- A field of a packet is outside its range. -/
def pktRange (prioMax : Nat) (p : List Byte) : Bool :=
  let ty := pktType p
  let teams := numAt p 4 4
  let quota := numAt p 40 1
  (ty = 1 && (teams = 0 || decide (2 ^ 24 < teams) || quota = 0 || decide (16 < quota) || decide (127 < numAt p 41 1) ||
      decide (prioMax < numAt p 41 1) || decide (pktDone p % 8 ≠ 0))) ||
    (ty = 2 && decide (pktDone p % 8 ≠ 0)) || (ty = 3 && decide (pktAddr p % 8 ≠ 0)) ||
    (ty = 4 && (pktValue p = 0 || decide (4096 < pktValue p) || decide (pktDone p % 8 ≠ 0)))

/-- ECODE of an invalid packet, 0 for a valid one. -/
def pktError (prioMax : Nat) (p : List Byte) : Nat :=
  let ty := pktType p
  if 4 < ty then 3
  else if numAt p 1 1 &&& pktFlagsAllowed ty ≠ numAt p 1 1 ∨ (pktZeros ty).any (fun z => numAt p z.1 z.2 ≠ 0) then 4
  else if pktRange prioMax p then 5
  else 0

/-! ### The intake list -/

/-- A command. -/
def State.command (s : State) (seq : Nat) : Option Command := s.commands.find? (fun (c : Command) => c.seq = seq)

/-- Commands of an interface, earliest first. -/
def State.commandsOf (s : State) (q : Nat) : List Command := s.commands.filter (fun (c : Command) => c.iface = q)

/-- The device event that starts a command of a type. -/
def startEvent (ty : Nat) : Instr :=
  if ty = 1 then .launchPacket else if ty = 2 then .signalPacket else if ty = 3 then .waitPacket
  else if ty = 4 then .quiescePacket else .nopPacket

/-- A command that may start only once every earlier command of its interface has completed. -/
def Command.ordered (c : Command) : Bool := pktType c.packet = 2 || pktType c.packet = 4 || pktFlag c.packet 1

/-- A command may start: no earlier WAIT of the interface holds it, and what it waits for has completed. -/
def State.mayStart (s : State) (c : Command) : Bool :=
  let earlier := (s.commandsOf c.iface).filter (fun (d : Command) => decide (d.seq < c.seq))
  !c.started && !earlier.any (fun d => pktType d.packet = 3) && (!c.ordered || earlier = [])

/-- The commands of an interface that may start are to start. -/
def State.kick (s : State) (q : Nat) : State :=
  ((s.commandsOf q).filter (fun c => s.mayStart c)).foldl (fun s c => s.schedule 4 (startEvent (pktType c.packet)) { a := c.seq }) s

/-- Mark a command as started. -/
def State.startCommand (s : State) (seq : Nat) : State :=
  { s with commands := s.commands.map (fun (c : Command) => if c.seq = seq then { c with started := true } else c) }

/-- A QUIESCE of the interface is outstanding: no later command is accepted before it has completed (R220). -/
def State.quiescing (s : State) (q : Nat) : Bool := (s.commandsOf q).any (fun c => pktType c.packet = 4)

/-! ### Completion (R207, R272) -/

/-- The completion store; `true` where it is discarded. -/
def State.completionStore (s : State) (c : Command) (status : Nat) : State × Bool :=
  let a := pktDone c.packet
  let v := if status = 0 then pktDoneValue c.packet else setBits (pktDoneValue c.packet) 63 63 1
  if a = 0 ∨ pktType c.packet = 0 ∨ pktType c.packet = 3 then (s, false)
  else
    let g := frontAgent c.dom c.pasid
    match s.engineTarget g .store a 8 with
    | (s, .error _) => (s, true)
    | (s, .ok (.mem _ t)) =>
      if s.poisoned t.pa then (s, true)
      else (s.agentWriteAs c.dom t.pa (leBytes 8 v), false)
    | (s, .ok (.spad k b)) => (s.spadWrite k b (leBytes 8 v) none, false)
    | (s, .ok _) => (s, true)

/-- What follows the COMPLETE record of a command: its vector; then what waited for the command goes on. -/
def State.completed (s : State) (c : Command) : State :=
  let s := if pktFlag c.packet 2 then s.raiseVector (pktVector c.packet) c.iface c.dom else s
  let t : State := { s with commands := s.commands.filter (fun (d : Command) => d.seq ≠ c.seq) }
  let t := t.kick c.iface
  if pktType c.packet = 4 ∧ (Table.find t.takes c.iface).isSome then t.schedule 4 .packetAccept { a := c.iface } else t

/-- A command completes with a status: the accesses of a launch are visible first (R207); completion store, COMPLETE
record, and what follows the record once it is appended. -/
def State.complete (s : State) (seq status : Nat) : State :=
  match s.command seq with
  | none => s
  | some c =>
    if c.ended then s
    else
      let s := if pktType c.packet = 1 then s.refreshAll else s
      let r := s.completionStore c status
      let waits := r.1.journalFull || r.1.journalWait ≠ []
      let s := r.1.appendRecord (journalRecord c.iface 2 (pktType c.packet) c.index status (b2n r.2) c.seq)
      if waits then
        { s with commands := s.commands.map (fun (d : Command) =>
            if d.seq = seq then { d with started := true, ended := true } else d) }
      else s.completed c

/-! ### Recording (R419) -/

/-- The pairs of a recorded launch's argument block. -/
def State.recordPairs (s : State) (g : EngAgent) (a : Nat) : State × Option (List (Nat × Nat)) :=
  match s.engineRead g a 8 with
  | (s, .error _) => (s, none)
  | (s, .ok h) =>
    let n := numAt h 0 4
    if 16 < n ∨ numAt h 4 4 ≠ 0 then (s, none)
    else
      match s.engineRead g (a + 8) (16 * n) with
      | (s, .error _) => (s, none)
      | (s, .ok bs) => (s, some ((List.range n).map (fun k => (numAt bs (16 * k) 8, numAt bs (16 * k + 8) 8))))

/-- Digests of the buffers of a recorded launch. -/
def State.recordDigests (s : State) (g : EngAgent) : List (Nat × Nat) → State × Option (List Byte)
  | [] => (s, some [])
  | (a, n) :: rest =>
    match s.engineRead g a n with
    | (s, .error _) => (s, none)
    | (s, .ok bs) =>
      match s.recordDigests g rest with
      | (s, none) => (s, none)
      | (s, some more) => (s, some (leBytes 8 a ++ leBytes 8 n ++ shake256 32 bs ++ List.replicate 16 0 ++ more))

/-- Digest of the kernel header and code of a code object, read as the runtime reads it; free bytes where they cannot be read. -/
def State.codeDigest (s : State) (g : EngAgent) (a : Nat) : State × List Byte :=
  let g : EngAgent := { g with mode := .m }
  let free (s : State) : State × List Byte :=
    ({ s with freeCount := s.freeCount + 64 }, (List.range 64).map (fun k => Config.freeByte (s.freeCount + k)))
  match s.engineRead g a 128 with
  | (s, .error _) => free s
  | (s, .ok h) =>
    match s.engineRead g (a + numAt h 8 4) (numAt h 12 4) with
    | (s, .error _) => free s
    | (s, .ok code) => (s, shake256 64 (h ++ code))

/-- Write the replay slot of a recorded launch; `false` where its buffers cannot be read. -/
def State.recordLaunch (s : State) (c : Command) : State × Bool :=
  let g := frontAgent c.dom c.pasid
  let d := s.codeDigest g (pktAddr c.packet)
  let (s, ps) := d.1.recordPairs g (pktValue c.packet)
  let (s, ds) := match ps with
    | some l => s.recordDigests g l
    | none => (s, none)
  let n := match ps with
    | some l => l.length
    | none => 0
  let slot := leBytes 8 c.seq ++ leBytes 2 c.iface ++ leBytes 1 n ++ List.replicate 53 0 ++ c.packet ++ d.2 ++ ds.getD []
  (s.agentWrite (s.cfg.recbase + 2048 * (c.seq % 2 ^ s.cfg.rlog)) slot, ds.isSome)

/-! ### Acceptance (R275) -/

/-- Acceptance of an interface waits: intake closed, its domain in a cut, or a quiesce point ahead. -/
def State.acceptClosed (s : State) (q : Nat) : Bool := !s.intake || s.inCut (s.queueDom q) || s.quiescing q

/-- A valid packet is accepted: record, HEAD, replay slot, intake. -/
def State.accept (s : State) (q head : Nat) (p : List Byte) : State :=
  let c : Command := { seq := s.journalNext, iface := q, index := head, packet := p, dom := s.queueDom q, pasid := s.queuePasid q }
  let s := (s.putRecord (journalRecord q 1 (pktType p) head 0 0 0)).setHead q (head + 1)
  let r := if pktFlag p 3 ∧ s.cfg.recbase ≠ 0 then s.recordLaunch c else (s, true)
  let t : State := { r.1 with commands := r.1.commands ++ [{ c with unreadable := !r.2 }] }
  t.kick q

/-- The take of an interface goes on or ends. -/
def State.nextPacket (s : State) (q tail : Nat) : State :=
  if s.queueHead q ≠ tail then s.schedule 4 .packetAccept { a := q }
  else
    let t : State := { s with takes := Table.erase s.takes q }
    if t.queuePend q then t.schedule 4 .latchTake { a := q } else t

/-- The next packet of the take in progress on interface `args.a` is read and accepted or rejected. -/
def execPacketAccept (s : State) : Host.Outcome State Fault Refusal :=
  let q := s.args.a
  .next (match Table.find s.takes q with
    | none => s
    | some tail =>
      if s.queueState q ≠ 1 ∨ s.acceptClosed q then s
      else if s.journalFull ∨ s.journalWait ≠ [] then s.bump evJstall
      else
        let head := s.queueHead q
        match s.engineRead (frontAgent (s.queueDom q) (s.queuePasid q)) (s.queueBase q + 64 * (head % 2 ^ s.queueLog q)) 64 with
        | (s, .error _) => s.queueError q 2
        | (s, .ok p) =>
          let e := pktError (s.queuePrioMax q) p
          if e ≠ 0 then ((s.putRecord (journalRecord q 3 (pktType p) head e 0 0)).setHead q (head + 1)).queueFails q e
          else (s.accept q head p).nextPacket q tail)

/-- The firmware column's intake opens again, at the end of a handover once the standby cores have taken over, where the old
cores become standby (R276, R415); after a fatal error it stays closed until the reset (R383). -/
def execFirmwareIntakeReopen (s : State) : Host.Outcome State Fault Refusal :=
  .next (if s.fatal then s
    else
      match s.column with
      | none => ({ s with intake := true } : State).resumeFront
      | some h =>
        if !h.taken then s
        else
          let roles := h.pairs.foldl (fun l p => l.set p.2 8) s.cfg.colrole
          ({ s with intake := true, column := none, cfg := { s.cfg with colrole := roles } } : State).resumeFront)

/-! ### Code objects and placement (R14, R83 to R85, R338 to R340) -/

/-- The bytes of a kernel header break a limit (R83, R85). R85 does not name a header size other than 128 or a code offset
that is no multiple of 32: both are refused here, as is a set bit 7:4 of the profile set, a version of a profile that is not
declared and a strictness above 1, and a declared role of no waves is accepted. A profile version above the implemented one is
refused (R85) even where the object carries Unano IR, which R86 would have translated (DESIGN CHOICE, log 70). -/
def headerRefused (h : List Byte) : Bool :=
  let w := numAt h 32 2
  let c := numAt h 34 1
  let roles := numAt h 31 1
  let width := numAt h 29 1
  let role (k : Nat) : Nat × Nat := (numAt h (48 + 4 * k) 2, numAt h (50 + 4 * k) 2)
  let used := (List.range roles).map role
  numAt h 0 4 ≠ 0x314B484E || numAt h 4 2 ≠ 1 || numAt h 6 2 ≠ 128 || numAt h 8 4 % 32 ≠ 0 ||
    (List.range 4).any (fun k => decide ((if bit (numAt h 24 1) k then 1 else 0) < numAt h (25 + k) 1)) ||
    decide (15 < numAt h 24 1) || decide (1 < numAt h 30 1) || decide (3 < width) || w = 0 || decide (256 < w) || c = 0 ||
    decide (95 < c) || roles = 0 || decide (4 < roles) ||
    used.any (fun r => r.2 = 0 || decide (256 < r.2) || decide (r.2 % 32 ≠ 0)) ||
    decide ((used.map (fun r => r.1)).foldl (· + ·) 0 ≠ w) ||
    ((List.range 4).drop roles).any (fun k => role k ≠ (0, 0)) || decide ((if width = 3 then 8 else 16) * c < w) ||
    decide (64 < numAt h 38 2) || decide (16383 < numAt h 36 2) || numAt h 35 1 ≠ 0 || numAt h 80 48 ≠ 0

/-- Tile declarations and attach entries break a limit. -/
def listsRefused (decls attach : List Byte) : Bool :=
  let d (k : Nat) : List Byte := (decls.drop (8 * k)).take 8
  let n := decls.length / 8
  (List.range n).any (fun k => numAt (d k) 6 2 ≠ 0) ||
    decide (64 < ((List.range n).map (fun k => if numAt (d k) 4 1 = 0 then 0 else numAt (d k) 2 2)).foldl (· + ·) 0) ||
    (List.range (attach.length / 16)).any (fun k => numAt attach (16 * k + 9) 7 ≠ 0)

/-- The header of a launch's code object, if the object is not refused: header, lists, code and data are read. The
runtime, which is firmware, reads the object as M-mode (R85, R191; DEDUCED, log 70). -/
def State.codeObject (s : State) (c : Command) : State × Option (List Byte) :=
  let g : EngAgent := { frontAgent c.dom c.pasid with mode := .m }
  let a := pktAddr c.packet
  match s.engineRead g a 128 with
  | (s, .error _) => (s, none)
  | (s, .ok h) =>
    if headerRefused h then (s, none)
    else
      match s.engineRead g (a + numAt h 64 4) (8 * numAt h 44 2) with
      | (s, .error _) => (s, none)
      | (s, .ok decls) =>
        match s.engineRead g (a + numAt h 68 4) (16 * numAt h 46 2) with
        | (s, .error _) => (s, none)
        | (s, .ok attach) =>
          match s.engineRead g (a + numAt h 8 4) (numAt h 12 4) with
          | (s, .error _) => (s, none)
          | (s, .ok _) =>
            match s.engineRead g (a + numAt h 16 4) (numAt h 20 4) with
            | (s, .error _) => (s, none)
            | (s, .ok _) => (s, if listsRefused decls attach then none else some h)

/-- Placement position within a cluster of the core at logical row `r` and column `c` (R339). -/
def placementRows : List (List Nat) := [
  [0, 3, 4, 5, 58, 59, 60, 63, 64, 67, 68, 69], [1, 2, 7, 6, 57, 56, 61, 62, 65, 66, 71, 70],
  [14, 13, 8, 9, 54, 55, 50, 49, 78, 77, 72, 73], [15, 12, 11, 10, 53, 52, 51, 48, 79, 76, 75, 74],
  [16, 17, 30, 31, 32, 33, 46, 47, 80, 81, 94, 95], [19, 18, 29, 28, 35, 34, 45, 44, 83, 82, 93, 92],
  [20, 23, 24, 27, 36, 39, 40, 43, 84, 87, 88, 91], [21, 22, 25, 26, 37, 38, 41, 42, 85, 86, 89, 90]]

/-- Placement position of a device core (R339). -/
def placementOf (core : Nat) : Nat := 96 * (core / 96) + ((placementRows.getD (core % 96 / 12) []).getD (core % 12) 0)

/-- BASE and LEN of a domain's placement region (R338). -/
def State.regionOf (s : State) (dom : Nat) : Nat × Nat :=
  let w := s.reg (0x20000 + 32 * dom)
  (fld w 10 0, fld w 26 16)

/-- Program cores in service of a cluster within a domain's region (R340). -/
def State.programCores (s : State) (dom k : Nat) : Nat :=
  let r := s.regionOf dom
  ((List.range 96).filter (fun i =>
    let p := placementOf (96 * k + i)
    let f := (s.core (96 * k + i)).fwall
    decide (r.1 ≤ p ∧ p < r.1 + r.2) && !f.getLsbD 0 && !f.getLsbD 1)).length

/-- Lane register regions that the waves of a team take (R16). -/
def teamRegions (h : List Byte) : Nat :=
  2 ^ numAt h 29 1 * ((List.range (numAt h 31 1)).map (fun k => numAt h (48 + 4 * k) 2 * (numAt h (50 + 4 * k) 2 / 32))).foldl (· + ·) 0

/-- The most teams of a launch that a cluster's program cores can hold at once, by team table, wave slots under the quota
and lane register regions (R14, R16, R450). -/
def State.teamsHeld (s : State) (c : Command) (h : List Byte) (k : Nat) : Nat :=
  let p := s.programCores c.dom k
  let quota := numAt c.packet 40 1
  let slots := if numAt h 29 1 = 3 ∧ 8 < quota then 8 else quota
  let fit (room need : Nat) : Nat := if need = 0 then 64 else room / need
  if p < numAt h 34 1 then 0
  else min 64 (min (fit (p * slots) (numAt h 32 2)) (fit (128 * p) (teamRegions h)))

/-- No cluster of the region has the cores, or the quota the room, for a team of the launch (R14, R450), or the region
cannot hold a co-resident grid whole (R31). -/
def State.unplaceable (s : State) (c : Command) (h : List Byte) : Bool :=
  let n := numAt h 34 1
  (s.regionOf c.dom).2 = 0 || decide (numAt c.packet 40 1 * n < numAt h 32 2) ||
    (List.range 16).all (fun k => decide (s.programCores c.dom k < n)) ||
    (pktFlag c.packet 0 && decide (((List.range 16).map (s.teamsHeld c h)).foldl (· + ·) 0 < numAt c.packet 4 4))

/-! ### The commands -/

/-- The command of journal number `args.a`, if it is of the type and may start. -/
def State.startable (s : State) (ty : Nat) : Option Command :=
  match s.command s.args.a with
  | some c => if pktType c.packet = ty ∧ s.mayStart c then some c else none
  | none => none

/-- LAUNCH `args.a` starts, or completes with the status of its refusal. A launch that starts is the firmware column's
to place: it writes team table entries and bind records. A set bit 31:3 of the domain-services field names a service that no
domain has (DESIGN CHOICE, log 70). -/
def execLaunchPacket (s : State) : Host.Outcome State Fault Refusal :=
  .next (match s.startable 1 with
    | none => s
    | some c =>
      if c.unreadable then s.complete c.seq 7
      else
        match s.codeObject c with
        | (s, none) => s.complete c.seq 2
        | (s, some h) =>
          let need := numAt h 40 4
          if need &&& (fld (s.reg (0x20008 + 32 * c.dom)) 2 0) ≠ need then s.complete c.seq 3
          else if s.unplaceable c h then s.complete c.seq 1
          else s.startCommand c.seq)

/-- A started launch has live teams, or engine commands of its teams run. -/
def State.launchLive (s : State) (seq : Nat) : Bool :=
  s.clusters.any (fun k => k.2.teams.any (fun t =>
    t.2.cmd = seq + 1 && (t.2.live || s.rings.any (fun (r : Ring) => r.ofTeam k.1 t.1))))

/-- Firmware reports launch `args.a` complete with status `args.b`: 0 once every team of it has retired, 1 where its grid
could not be placed, 4 where a reset aborted it, 5 where a wave of it was retired after a fault. A command whose COMPLETE
record had to wait goes on once that record stands (R272). -/
def execCommandCompletion (s : State) : Host.Outcome State Fault Refusal :=
  .next (match s.command s.args.a with
    | none => s
    | some c =>
      if c.ended then (if s.journalWait.any (fun r => completesCommand r c) then s else s.completed c)
      else if pktType c.packet = 1 ∧ c.started ∧ !s.launchLive c.seq ∧ [0, 1, 4, 5].contains s.args.b then s.complete c.seq s.args.b
      else s)

/-- SIGNAL `args.a`: every earlier command of its interface has completed. -/
def execSignalPacket (s : State) : Host.Outcome State Fault Refusal :=
  .next (match s.startable 2 with
    | none => s
    | some c => s.complete c.seq 0)

/-- NOP `args.a`. -/
def execNopPacket (s : State) : Host.Outcome State Fault Refusal :=
  .next (match s.startable 0 with
    | none => s
    | some c => s.complete c.seq 0)

/-- A WAIT's word cannot be read: the interface is in error, and the WAIT and every later command not started complete
with status 4. -/
def State.waitFaults (s : State) (c : Command) : State :=
  let s := if s.queueState c.iface = 1 ∨ s.queueState c.iface = 2 then s.queueError c.iface 6 else s
  let later := (s.commandsOf c.iface).filter (fun (d : Command) => decide (c.seq < d.seq) && !d.started)
  later.foldl (fun s d => s.complete d.seq 4) (s.complete c.seq 4)

/-- One read of the word of a WAIT that has started: it completes, faults, or is read again later. -/
def State.pollWait (s : State) (c : Command) : State :=
  match s.engineTarget (frontAgent c.dom c.pasid) .load (pktAddr c.packet) 8 with
  | (s, .error _) => s.waitFaults c
  | (s, .ok d) =>
    let s := match d with
      | .mem _ t => s.drainLine (s.homeDie t.pa) (t.pa / 64)
      | _ => s
    let r := s.enginePiece (frontAgent c.dom c.pasid) 8 d
    if pktValue c.packet ≤ leValue r.2 then r.1.complete c.seq 0 else r.1.schedule 1024 .waitSatisfied { a := c.seq }

/-- WAIT `args.a` starts: its word is read for the first time. -/
def execWaitPacket (s : State) : Host.Outcome State Fault Refusal :=
  .next (match s.startable 3 with
    | none => s
    | some c => (s.startCommand c.seq).pollWait c)

/-- The word of WAIT `args.a` is read again; the WAIT completes once it holds the value. -/
def execWaitSatisfied (s : State) : Host.Outcome State Fault Refusal :=
  .next (match s.command s.args.a with
    | none => s
    | some c => if pktType c.packet = 3 ∧ c.started then s.pollWait c else s)

/-! ### Quiesce points (R220, R221, R421) -/

/-- Active messages that are not acknowledged. -/
def State.messagesLeft (s : State) : Bool := s.acks ≠ [] || s.cores.any (fun e => e.2.inbound ≠ [] || e.2.network ≠ [])

/-- A hint is valid. -/
def hintValid (h : List Byte) : Bool :=
  numAt h 0 8 % 2 ^ 19 = 0 && decide (numAt h 8 1 ≤ 2) && decide (numAt h 9 1 ≤ 7) && numAt h 10 6 = 0

/-- The pages of a hint list with action and die, if every hint is valid and its page translates. -/
def State.hintPages (s : State) (g : EngAgent) : List (List Byte) → State × Option (List (Nat × Nat × Nat))
  | [] => (s, some [])
  | h :: rest =>
    if !hintValid h then (s, none)
    else
      let va := numAt h 0 8
      let r : StationReq :=
        { pasid := g.pasid, dom := g.dom, va := va, kind := .load, mode := g.mode, sum := false, origin := .engine 0 }
      match if 2 ^ 49 ≤ va then (s, .error (.page 1)) else s.translate (stationOf g.die va) r with
      | (s, .ok t) =>
        match s.hintPages g rest with
        | (s, some l) => (s, some ((t.pa >>> 19, numAt h 8 1, numAt h 9 1) :: l))
        | (s, none) => (s, none)
      | (s, .error _) => (s, none)

/-- Drop the L2 lines of a page at its home, dirty ones written back. -/
def State.dropL2Page (s : State) (page : Nat) : State :=
  s.modDie (s.homeDie (page * 2 ^ 19)) (fun d => { d with l2 := d.l2.filter (fun e => e.1 / 2 ^ 13 ≠ page) })

/-- A host request for a page of device memory that is on its way and that the hub routes (R221). -/
def hostRequestTo (page : Nat) (e : Nat × Instr × Args) : Bool :=
  let g := e.2.2
  (e.2.1 = .hostCxlMemRead || e.2.1 = .hostCxlMemWrite || (e.2.1 = .hostAtomicop && g.bytes = [] && g.atomicSupported) ||
    (e.2.1 = .hostCxlioRequest && g.throughAlias)) && g.a >>> 19 = page

/-- Move the home of a page, with a forwarding entry at the old home: the host requests on their way, which its table entry
routed, are counted and marked in `core` (R221). -/
def State.moveHome (s : State) (page die : Nat) : State :=
  let old := s.homeDie (page * 2 ^ 19)
  if old = die then s
  else
    let s := s.dropL2Page page
    let s : State := { s with
      home := if die = page % 8 then Table.erase s.home page else Table.put s.home page die,
      agenda := s.agenda.map (fun e => if hostRequestTo page e then (e.1, e.2.1, { e.2.2 with core := 1 }) else e) }
    let n := (s.agenda.filter (fun e => hostRequestTo page e)).length
    let s : State := { s with forwards := Table.put s.forwards page (old, n) }
    if n = 0 then s.schedule 64 .forwardWindowClose { a := page } else s

/-- Apply a hint to a page of device memory: its home or its bias (R388). -/
def State.applyHint (s : State) (h : Nat × Nat × Nat) : State :=
  let page := h.1
  if s.paKind (page * 2 ^ 19) ≠ .dram then s
  else if h.2.1 = 0 then s.moveHome page h.2.2
  else if h.2.1 = 1 then
    let mine := s.hostCopies.filter (fun e => e.1 / 2 ^ 13 = page)
    let s := mine.foldl (fun s e => s.writePhys (64 * e.1) e.2) s
    { s with hostBias := s.hostBias.filter (· ≠ page), hostCopies := s.hostCopies.filter (fun e => e.1 / 2 ^ 13 ≠ page) }
  else
    let s := s.cores.foldl (fun s e => s.dropEverywhere e.1 (fun l => decide (l.pline / 2 ^ 13 = page))) s
    { s.dropL2Page page with hostBias := page :: s.hostBias.filter (· ≠ page) }

/-- QUIESCE `args.a`: once no active message is outstanding, every core drains, and the hints are applied. -/
def execQuiescePacket (s : State) : Host.Outcome State Fault Refusal :=
  .next (match s.startable 4 with
    | none => s
    | some c =>
      if s.messagesLeft then s.schedule 64 .quiescePacket { a := c.seq }
      else
        let s := s.drainAll
        let g := frontAgent c.dom c.pasid
        match s.engineRead g (pktAddr c.packet) (16 * pktValue c.packet) with
        | (s, .error _) => s.complete c.seq 6
        | (s, .ok bs) =>
          match s.hintPages g ((List.range (pktValue c.packet)).map (fun k => (bs.drop (16 * k)).take 16)) with
          | (s, none) => s.complete c.seq 6
          | (s, some l) => (l.foldl (fun s h => s.applyHint h) s).complete c.seq 0)

/-- The forward window of page `args.a` ends: no host request routed with the old entry is left (R221). -/
def execForwardWindowClose (s : State) : Host.Outcome State Fault Refusal :=
  .next (match Table.find s.forwards s.args.a with
    | some (_, 0) => { s with forwards := Table.erase s.forwards s.args.a }
    | _ => s)

end Sys2Proof.Machine
end

