-- ==== Sys2Proof/Machine/Channels.lean ====
section
/-! DEFINITION. Channels and storage doorbells (R289 to R295). -/

namespace Sys2Proof.Machine

/-! ### Receive rings (R289) -/

/-- Header fields of a receive ring. -/
def Core.recvWr (c : Core) (e : Nat) : Nat := Bytes.readLE c.spad (c.tileBase e) 4
def Core.recvRd (c : Core) (e : Nat) : Nat := Bytes.readLE c.spad (c.tileBase e + 4) 4
def Core.recvSize (c : Core) (e : Nat) : Nat := Bytes.readLE c.spad (c.tileBase e + 12) 4
def Core.recvCons (c : Core) (e : Nat) : Nat := Bytes.readLE c.spad (c.tileBase e + 16) 4

/-- MR: the modulus of WR and RD. -/
def recvMod (size : Nat) : Nat := size * (2 ^ 32 / size)

/-- The tile is a receive ring of a channel. -/
def Core.recvRing (c : Core) (e chan : Nat) : Bool :=
  let size := c.recvSize e
  tileHolds (c.tile e).1 && (Bytes.read c.spad (c.tileBase e + 8)) = 0x52 &&
    (Bytes.read c.spad (c.tileBase e + 9)).toNat = chan && size % 4 = 0 && decide (8 ≤ size ∧ size + 32 ≤ tLen (c.tile e).1)

/-- Scratchpad byte of position `p`. -/
def Core.recvByte (c : Core) (e p : Nat) : Nat := c.tileBase e + 32 + p % c.recvSize e

/-- Bytes of a record with a payload of `n` bytes. -/
def recordBytes (n : Nat) : Nat := 4 + 4 * ((n + 3) / 4)

/-! ### `ch.send` (R290) -/

/-- Cause 55 with a reason. -/
def chTval (reason chan : Nat) : Word := BitVec.ofNat 64 (reason * 256 + chan)

/-- `ch.send`. Bits 63:27 of x[A], which must be zero, count as part of the offset, so that the word fails the check of R180 on
it (DESIGN CHOICE, log 84). -/
def execChSend (b a d : BitVec 5) (s : State) : Host.Outcome State Fault Refusal :=
  deviceIssue (.chSend b a d) 0 (xLocs [b, a, d] ++ [.tile (fld (s.wave.getX a.toNat) 7 0)]) (fun s =>
    let w := s.wave
    let src := w.getX a.toNat
    let v := w.getX b.toNat
    let chan := fld v 19 16
    let len := fld v 9 0
    let dest := fld v 26 20
    let destCore := 96 * clusterOf s.curCore + dest
    let h := fld src 7 0
    let o := fld src 63 8
    if fld v 63 36 ≠ 0 ∨ fld v 15 10 ≠ 0 ∨ len = 0 ∨ 512 < len then .trap 55 (chTval 1 chan) s
    else if 96 ≤ dest ∨ (s.core destCore).fwall.getLsbD 0 then .trap 55 (chTval 2 chan) s
    else
      afterCheck (tileOwn h len 4 .load [o] s) (fun _ =>
        afterCheck (tileReady h len .load [o] s) (fun _ =>
          let c := s.core s.curCore
          if 8 ≤ c.send.length then .hold (s.count s.curCore 9 1)
          else
            let m : Message :=
              { chan := chan, destCore := destCore, tile := fld v 34 27, endBit := v.getLsbD 35,
                bytes := Bytes.readList c.spad (1024 * tFirst (s.myTile h) + o) len, csa := w.csa, dom := w.dom,
                team := w.cteam, pc := w.pc, due := s.cycle }
            let s := s.releaseAt s.curCore true
            let s := (s.modCur (fun c => { c with send := c.send ++ [m] })).schedule 16 .messageAdmission
              { core := s.curCore, a := chan }
            scalarX s d 0))) s

/-! ### Admission (R291) -/

/-- Where the wave of a save area is bound. -/
def State.boundAt (s : State) (csa : Nat) : Option (Nat × Nat) :=
  s.cores.findSome? (fun e =>
    (e.2.slots.find? (fun q => q.2.state ≠ .free && q.2.wave.csa = csa)).map (fun q => (e.1, q.1)))

/-- The first message of a channel in a send unit. -/
def Core.sendHead (c : Core) (chan : Nat) : Option Message := c.send.find? (fun m => m.chan = chan)

/-- Replace the first message of a channel, or drop it. -/
def replaceHead (chan : Nat) (f : Message → Option Message) : List Message → List Message
  | [] => []
  | m :: ms => if m.chan = chan then (f m).toList ++ ms else m :: replaceHead chan f ms

/-- Change the first message of a channel of a core. -/
def State.modHead (s : State) (core chan : Nat) (f : Message → Option Message) : State :=
  s.modCore core (fun c => { c with send := replaceHead chan f c.send })

/-- The next message of a channel is to be tried. -/
def State.nextMessage (s : State) (core chan : Nat) : State :=
  match (s.core core).sendHead chan with
  | some _ => s.schedule 16 .messageAdmission { core := core, a := chan }
  | none => s

/-- A message refused for good: it is dropped and counted once, and its sender, unless it has ended, has cause 55 to take
(R291, R378). -/
def State.refuseMessage (s : State) (core : Nat) (m : Message) (reason : Nat) : State :=
  let s := (s.modHead core m.chan (fun _ => none)).count core 13 1
  let s := match s.boundAt m.csa with
    | some q => s.applyAt q.1 q.2 (.defer 55 (chTval reason m.chan))
    | none =>
      if s.saved.contains m.csa then { s with lateCauses := s.lateCauses ++ [(m.csa, 55, chTval reason m.chan, 0)] }
      else s
  s.nextMessage core m.chan

/-- A message to be tried again after 64 cycles, doubled with each refusal up to 4,096 (R291). -/
def State.retryMessage (s : State) (core : Nat) (m : Message) : State :=
  let wait := if m.retries < 6 then 64 * 2 ^ m.retries else 4096
  (s.modHead core m.chan (fun m => some { m with retries := m.retries + 1, due := s.cycle + wait })).schedule wait
    .channelSendRetry { core := core, a := m.chan }

/-- Some message is being received into a tile of a core. -/
def State.receiving (s : State) (core e : Nat) : Bool :=
  s.cores.any (fun q => q.2.send.any (fun m => m.destCore = core && (match m.admitted with
    | some a => a.1 = e
    | none => false)))

/-- xtval of a message to a ring in a bank of another domain: the ring's window address. -/
def Message.tval (m : Message) : Word := BitVec.ofNat 64 ((m.destCore % 96) * 2 ^ 27 + m.tile * 2 ^ 19)

/-- A message to a bank of another domain is refused with no write and held: its sender parks late, or joins the late park
it is in. A refusal that cannot reach it yet, because its wait or another park goes on or because it is saved, is kept until
it can (R162, R182, R291). -/
def State.parkSender (s : State) (core : Nat) (m : Message) (detail : Word) : State :=
  let hold (t : State) (r : Option Word) : State := t.modHead core m.chan (fun m => some { m with held := true, refused := r })
  match s.boundAt m.csa with
  | some q =>
    let k := s.slotAt q.1 q.2
    if k.state = .retiring then ((s.modHead core m.chan (fun _ => none)).count core 13 1).nextMessage core m.chan
    else if k.wave.lateParked then hold s none
    else if (k.state = .running ∨ k.state = .waiting) ∧ k.wave.interruptible then
      let s := (s.leaveWait q.1 q.2).modWaveAt q.1 q.2 (fun w => { w with csrs := { w.csrs with mdomfault := detail } })
      hold (s.parkAt q.1 q.2 { late := true, cause := 29, recordCause := 29, tval := m.tval, pc := m.pc, held := [] }) none
    else (hold s (some detail)).schedule 16 .messageAdmission { core := core, a := m.chan }
  | none =>
    if s.saved.contains m.csa then (hold s (some detail)).schedule 1024 .messageAdmission { core := core, a := m.chan }
    else ((s.modHead core m.chan (fun _ => none)).count core 13 1).nextMessage core m.chan

/-- The head flit of the first message of a channel reaches its receiver. -/
def State.admitMessage (s : State) (core chan : Nat) : State :=
  match (s.core core).sendHead chan with
  | none => s
  | some m =>
    match m.refused with
    | some detail => s.parkSender core m detail
    | none =>
    if m.admitted.isSome ∨ m.held ∨ s.cycle < m.due then s
    else
      match s.teamEntry m.destCore m.team (m.csa / 4096) m.tile with
      | none => s.refuseMessage core m 4
      | some e =>
        let c := s.core m.destCore
        if !tileHolds (c.tile e).1 then s.refuseMessage core m 4
        else
          match c.bankViolation m.dom (c.tileBase e) (tLen (c.tile e).1) with
          | some b => s.parkSender core m (domFaultWord true b 1 ((c.bankDom b).getD 0) m.dom)
          | none =>
            if !c.recvRing e chan then s.refuseMessage core m 4
            else
              let size := c.recvSize e
              let n := recordBytes m.bytes.length
              let p := c.recvWr e % size
              let free := size - (c.recvWr e + recvMod size - c.recvRd e) % recvMod size
              let pad := if size - p < n then size - p else 0
              if size < n then s.refuseMessage core m 3
              else if s.receiving m.destCore e ∨ free < pad + n then s.retryMessage core m
              else
                (s.modHead core chan (fun m => some { m with admitted := some (e, pad) })).schedule 16 .messageTailFlit
                  { core := core, a := chan }

/-- The head flit of the first message of channel `args.a` of core `args.core`. -/
def execMessageAdmission (s : State) : Host.Outcome State Fault Refusal := .next (s.admitMessage s.args.core s.args.a)

/-- The send unit of core `args.core` retries the first message of channel `args.a`. -/
def execChannelSendRetry (s : State) : Host.Outcome State Fault Refusal :=
  .next (match (s.core s.args.core).sendHead s.args.a with
    | some m =>
      if m.retries ≠ 0 ∧ m.due ≤ s.cycle ∧ m.admitted = none ∧ !m.held then
        (s.count s.args.core 12 1).admitMessage s.args.core s.args.a
      else s
    | none => s)

/-- The header word of a record. -/
def recordHeader (core : Nat) (m : Message) : List Byte :=
  leBytes 4 (b2n m.endBit * 2 ^ 30 + m.chan * 2 ^ 23 + core % 96 * 2 ^ 16 + m.bytes.length)

/-- The tail flit of the admitted first message of channel `args.a` of core `args.core`: the record is written and WR
advances (R291). -/
def execMessageTailFlit (s : State) : Host.Outcome State Fault Refusal :=
  let core := s.args.core
  .next (match (s.core core).sendHead s.args.a with
    | none => s
    | some m =>
      match m.admitted with
      | none => s
      | some (e, pad) =>
        if m.aborted then s
        else
          let c := s.core m.destCore
          let size := c.recvSize e
          let p := c.recvWr e % size
          let n := recordBytes m.bytes.length
          let s := if pad = 0 then s
            else s.spadWrite m.destCore (c.recvByte e p) (leBytes 4 (2 ^ 31 + (pad - 4))) none
          let zeros := List.replicate (n - 4 - m.bytes.length) 0
          let s := s.spadWrite m.destCore (c.recvByte e (p + pad)) (recordHeader core m ++ m.bytes ++ zeros) none
          let s := s.spadWrite m.destCore (c.tileBase e) (leBytes 4 ((c.recvWr e + pad + n) % recvMod size)) none
          (s.modHead core m.chan (fun _ => none)).nextMessage core m.chan)

/-- The tail flit of the aborted first message of channel `args.a` of core `args.core` reaches its receiver, which
writes nothing and releases the reservation (R291). -/
def execMessageAbort (s : State) : Host.Outcome State Fault Refusal :=
  let core := s.args.core
  .next (match (s.core core).sendHead s.args.a with
    | some m => if m.aborted then (s.modHead core m.chan (fun _ => none)).nextMessage core m.chan else s
    | none => s)

/-- A park of a message's sender is resolved: Resume tries the messages that it holds again, Deliver and Retire drop
them. -/
def State.releaseMessage (s : State) (csa : Nat) (resume : Bool) : State :=
  s.cores.foldl (fun s e =>
    (e.2.send.filter (fun m => m.held && m.refused = none && m.csa = csa)).foldl (fun s m =>
      let f (m : Message) : Option Message := if resume then some { m with held := false, due := s.cycle } else none
      (s.modHead e.1 m.chan f).nextMessage e.1 m.chan) s) s

/-! ### `ch.recv` (R292) -/

/-- The state of the loop of R292: the machine, the elements consumed, `end`, and whether it goes on waiting. -/
structure RecvOut where
  s : State
  vals : List Word32
  last : Bool
  waits : Bool

/-- The loop of R292 on the ring in entry `e` of the current core, for at most `want` elements. -/
def recvLoop (e want : Nat) : Nat → RecvOut → RecvOut
  | 0, o => { o with waits := decide (o.vals.length < want) && !o.last }
  | n + 1, o =>
    if want ≤ o.vals.length ∨ o.last then o
    else
      let c := o.s.core o.s.curCore
      let own := some (o.s.curCore, o.s.curSlot)
      let size := c.recvSize e
      let rd := c.recvRd e
      if rd = c.recvWr e then { o with waits := true }
      else
        let h := Bytes.readLE c.spad (c.recvByte e (rd % size)) 4
        let len := bits h 9 0
        let put (s : State) (at' v : Nat) : State := s.spadWrite s.curCore (c.tileBase e + at') (leBytes 4 v) own
        if bit h 31 then recvLoop e want n { o with s := put o.s 4 ((rd + 4 + len) % recvMod size) }
        else
          let cons := c.recvCons e
          let v := leValue ((List.range 4).map (fun k =>
            if cons + k < len then Bytes.read c.spad (c.recvByte e (rd % size + 4 + cons + k)) else 0))
          let whole := decide (len ≤ cons + 4)
          let s := if whole then put (put o.s 4 ((rd + recordBytes len) % recvMod size)) 16 0 else put o.s 16 (cons + 4)
          recvLoop e want n { s := s, vals := o.vals ++ [BitVec.ofNat 32 v], last := whole && bit h 30, waits := false }

/-- `ch.recv`. -/
def execChRecv (w : LaneWord) (s : State) : Host.Outcome State Fault Refusal :=
  let h := w.vb.toNat
  let vals := match s.wave.wait with
    | some { kind := .recv vals, start := _ } => vals
    | _ => []
  let fresh := vals = []
  (laneIssueWith 0xD5 (recvForm w) w touchActive
    (fun _ s => if fresh then tileOwn h 32 4 .load [0] s else none)
    (fun env ops s =>
      afterCheck (if fresh then tileReady h (tLen (s.myTile h)) .load [0] s else none) (fun _ =>
        let chan := w.va.toNat
        match s.myEntry h with
        | none => .trap 55 (chTval 4 chan) s
        | some e =>
          if fresh ∧ tRo (s.myTile h) then .trap 7 (tileTval h 0) s
          else if fresh ∧ !(s.core s.curCore).recvRing e chan then .trap 55 (chTval 4 chan) s
          else
            let o := recvLoop e env.lanes.length 1024 { s := s, vals := vals, last := false, waits := false }
            if o.waits then .wait (.recv o.vals) o.s
            else
              let upds := (env.lanes.zip o.vals).map (fun q => Upd.v w.vd.toNat q.1 q.2)
              let x := Upd.x (vcOf w) (BitVec.ofNat 64 (b2n o.last * 2 ^ 63 + o.vals.length))
              let s := if o.vals = [] then o.s else o.s.acquireAt o.s.curCore o.s.wave.dom true
              longDone (laneBytes w) w.la.toNat s.lat.scratchpad (writtenLocs ops) (upds ++ [x]) s)) s).finish

/-! ### Storage doorbells (R294, R295) -/

/-- `sq.ring` and `sq.ring.cq`. -/
def doorbellWord (i : Instr) (cq : Bool) (b a d : BitVec 5) (s : State) : Host.Outcome State Fault Refusal :=
  deviceIssue i 0 (xLocs [b, a, d]) (fun s =>
    let w := s.wave
    let q := (w.getX a.toNat).toNat
    let v := (w.getX b.toNat).toNat
    let e := leBytes 32 (s.readPhys ((s.reg 0x12000).toNat + 32 * q) 32)
    if (s.reg 0x12008).toNat ≤ q ∨ !bit (numAt e 21 1) 0 then scalarX s d 1
    else if numAt e 20 1 ≠ w.dom then domFault s true q 3 (numAt e 20 1) (BitVec.ofNat 64 q)
    else if numAt e (if cq then 18 else 16) 2 + 1 ≤ v then scalarX s d 2
    else if s.messagesOut s.curCore s.curSlot then .hold s
    else
      let s := s.wideFence s.curCore w.dom
      scalarX (s.emit (.doorbell (numAt e (if cq then 8 else 0) 8) (v % 2 ^ 32))) d 0) s

/-- `sq.ring` (R295). -/
def execSqRing (b a d : BitVec 5) (s : State) : Host.Outcome State Fault Refusal := doorbellWord (.sqRing b a d) false b a d s

/-- `sq.ring.cq` (R295). -/
def execSqRingCq (b a d : BitVec 5) (s : State) : Host.Outcome State Fault Refusal := doorbellWord (.sqRingCq b a d) true b a d s

end Sys2Proof.Machine
end

