-- ==== Sys2Proof/Machine/Handover.lean ====
section
/-! DEFINITION. Leaving a slot: pre-emption requests, handover and retirement (R32, R165, R172 to R174, R305, R307),
and the events of an own turn that stand alone in the opcode table. -/

namespace Sys2Proof.Machine

/-! ### Requests (R305) -/

/-- A write of 1 to PRQ of a slot: of a bound slot, the even one of a width-128 wave. None is issued during a handover of the
firmware column (R415). -/
def State.requestPreemption (s : State) (c i : Nat) : State :=
  let j := (s.core c).shown i
  if (s.slotAt c j).state = .free ∨ s.column.isSome then s
  else s.modSlotAt c j (fun k => { k with prq := true, retd := false })

/-- A pre-emption request reaches slot `args.slot` of core `args.core`. -/
def execPreemptionRequest (s : State) : Host.Outcome State Fault Refusal :=
  .next (s.requestPreemption s.args.core s.args.slot)

/-- Bound slots of a domain on a core. -/
def Core.domSlots (c : Core) (dom : Nat) : List Nat :=
  (c.slots.filter (fun e => e.2.state ≠ .free && e.2.wave.dom = dom)).map (fun e => e.1)

/-- Slot `i` is free: `PRDOM.GO` falls once every slot it requested is. -/
def State.checkPrdom (s : State) (c i : Nat) : State :=
  s.modCore c (fun q =>
    let left := q.prdomSlots.filter (· ≠ i)
    { q with prdomSlots := left, prdom := if left = [] then setFld q.prdom 8 8 0 else q.prdom })

/-- Pre-emption of every slot of a domain on a core. -/
def State.requestDomain (s : State) (c dom : Nat) : State :=
  let now := (s.core c).domSlots dom
  let s := s.modCore c (fun q =>
    let wait := now ++ q.prdomSlots.filter (fun i => !now.contains i)
    { q with prdomSlots := wait, prdom := BitVec.ofNat 64 (b2n (wait ≠ []) * 256 + dom % 256) })
  now.foldl (fun s i => s.requestPreemption c i) s

/-- Pre-emption of domain `args.a` on core `args.core`. -/
def execDomainPreemptionRequest (s : State) : Host.Outcome State Fault Refusal :=
  .next (s.requestDomain s.args.core s.args.a)

/-- The slot acts on a pending request at its turn: slot `args.slot` of core `args.core` (R165 row 3, R172). -/
def execHandoverBegin (s : State) : Host.Outcome State Fault Refusal :=
  let c := s.args.core
  let i := s.args.slot
  let k := s.slotAt c i
  let live := k.state = .held ∨ k.state = .running ∨ k.state = .waiting ∨ k.state = .parked
  .next (if live ∧ k.prq ∧ k.wave.graceOver s ∧ k.wave.interruptible then s.beginHandover c i else s)

/-- The reclaim grace of a lock holder passes: its request is acted on. -/
def execReclaimGraceExpiry (s : State) : Host.Outcome State Fault Refusal :=
  let c := s.args.core
  let i := s.args.slot
  let k := s.slotAt c i
  let live := k.state = .held ∨ k.state = .running ∨ k.state = .waiting ∨ k.state = .parked
  .next (if live ∧ k.prq ∧ k.wave.graceFrom.isSome ∧ k.wave.graceOver s ∧ k.wave.interruptible then s.beginHandover c i else s)

/-! ### Leaving a slot (R173, R307) -/

/-- The slot becomes free; the wave's team counts one bound wave less. -/
def State.freeSlot (s : State) (c i : Nat) (retd : Bool) : State :=
  let w := (s.slotAt c i).wave
  let s := s.modSlotAt c i (fun _ => { retd := retd })
  (s.dropBound (clusterOf c) w.cteam).checkPrdom c i

/-- The handover of a slot may complete: no late park in force, no result outstanding, no register being loaded, no ring
still to be published, and every engine asked has stopped. -/
def State.handoverReady (s : State) (c i : Nat) : Bool :=
  let k := s.slotAt c i
  let w := k.wave
  k.state = .handingOver && !w.lateParked && w.pending = [] && w.busy = none && !s.messagesOut c i &&
    !s.agenda.any (fun e => e.2.1 = .widxStorePublish && e.2.2.core = c && e.2.2.slot = i) &&
    !s.rings.any (fun (r : Ring) => r.asked.contains w.csa)

/-- The context is stored and the slot becomes free. -/
def State.finishHandover (s : State) (c i : Nat) : State :=
  if !s.handoverReady c i then s
  else
    let w := (s.slotAt c i).wave
    let s := (s.refreshCore c).storeWave c i
    let fresh := (((s.core c).heldResv w).filter (fun e => e.2.fresh)).map (fun e => (w.csa, e.1))
    let late := (w.raised.toList ++ w.deferred.filter (fun d => d.1 ≠ 31)).map (fun d => (w.csa, d.1, d.2, (0 : Word)))
    let s := s.modCore c (fun q => q.releaseWave w)
    ({ s with saved := s.saved ++ [w.csa], lateCauses := s.lateCauses ++ late, freshHalves := s.freshHalves ++ fresh }).freeSlot c i false

/-- The handover of slot `args.slot` of core `args.core` completes. -/
def execHandoverComplete (s : State) : Host.Outcome State Fault Refusal := .next (s.finishHandover s.args.core s.args.slot)

/-- The last outstanding operation of a retiring wave completes: the slot is free, and the team retires with its last
wave. -/
def State.finishRetire (s : State) (c i : Nat) : State :=
  let k := s.slotAt c i
  if k.state = .retiring ∧ k.wave.pending = [] ∧ !s.messagesOut c i then
    let t := clusterOf c
    let j := k.wave.cteam
    let s := k.wave.absentAccs.foldl (fun s n => s.loadAccAt c i n) s
    ((s.freeSlot c i k.retd).addDone t j).tryRetire t j
  else s

/-- The retirement of slot `args.slot` of core `args.core` completes. -/
def execWaveRetireComplete (s : State) : Host.Outcome State Fault Refusal := .next (s.finishRetire s.args.core s.args.slot)

/-! ### Events of an own turn -/

/-- Results of long-latency words of slot `args.slot` of core `args.core` become complete (R20, R138). -/
def execLongLatencyCompletion (s : State) : Host.Outcome State Fault Refusal :=
  .next (s.completeDue s.args.core s.args.slot)

/-- The slot timer: STIP follows `turn` and `sturncmp` (R97). -/
def execSlotTimerExpiry (s : State) : Host.Outcome State Fault Refusal :=
  .next (s.modWaveAt s.args.core s.args.slot (fun w => { w with csrs := w.csrs.timer }))

/-- The tile wait of a wave has lasted for more own turns than `stwlim` allows: cause 52 (R97). -/
def execTileWaitTimeout (s : State) : Host.Outcome State Fault Refusal :=
  let c := s.args.core
  let i := s.args.slot
  let w := (s.slotAt c i).wave
  .next (match w.wait with
    | some { kind := .tile h, start := t } =>
      let limit := fld w.csrs.stwlim 31 0
      if limit ≠ 0 ∧ t + limit + 1 ≤ w.csrs.turn.toNat then s.trapAt c i false 52 (BitVec.ofNat 64 h) w.pc else s
    | _ => s)

/-- A pending and enabled interrupt is taken by slot `args.slot` of core `args.core` (R161, R162). -/
def execInterruptTaken (s : State) : Host.Outcome State Fault Refusal :=
  let k := s.slotAt s.args.core s.args.slot
  .next (if k.state = .running ∨ k.state = .waiting then s.takeInterrupt s.args.core s.args.slot else s)

/-- A deferred cause is taken by slot `args.slot` of core `args.core` (R159). -/
def execDeferredCauseTaken (s : State) : Host.Outcome State Fault Refusal :=
  let k := s.slotAt s.args.core s.args.slot
  .next (if k.state = .running ∨ k.state = .waiting then s.takeDeferred s.args.core s.args.slot else s)

/-- The register-miss micro-trap of slot `args.slot` of core `args.core` has loaded its item, or parks its word where
the save area is of another domain (R107). -/
def State.loadItem (s : State) (c i : Nat) : State :=
  let w := (s.slotAt c i).wave
  match w.busy with
  | some (.registerMiss isAcc n _) =>
    let s := s.modWaveAt c i (fun w => { w with busy := none })
    let o := if isAcc then (s.core c).absentOwner w.cteam n else some i
    match o with
    | none => s
    | some o =>
    let ow := (s.slotAt c o).wave
    let odom := numAt (s.saveRead ow.csa 8) 4 1
    if odom = ow.csaDom then if isAcc then s.loadAccAt c o n else s.loadBlockAt c i n
    else if (s.slotAt c i).state = .handingOver then s
    else
      let detail := domFaultWord false (if isAcc then n else w.region (32 * n) 0) 0 odom ow.csaDom
      (s.modWaveAt c i (fun w => { w with csrs := { w.csrs with mdomfault := detail } })).parkAt c i
        { late := false, cause := 29, recordCause := 29, tval := BitVec.ofNat 64 (if isAcc then n else w.region (32 * n) 0),
          pc := w.pc, held := [] }
  | _ => s

/-- The load of an absent item completes. -/
def execRegisterMissLoadComplete (s : State) : Host.Outcome State Fault Refusal :=
  .next (s.loadItem s.args.core s.args.slot)

end Sys2Proof.Machine
end

