-- ==== Sys2Proof/Machine/Remote.lean ====
section
/-! DEFINITION. Active messages at their destination and back, drains, requests at a translation station, and the
invalidation sequence (R28, R188, R194 to R200, R219, R245, R297). -/

namespace Sys2Proof.Machine

/-! ### The remote service slot (R28, R182, R219, R297) -/

/-- The oldest message of a core needs a bank that a lane access of the same cycle needs: the lane access goes first and
the message retries in the next cycle (R28). A service's cycle is the one that has just ended, so that the lane accesses of
all its turns are known, and come first (DESIGN CHOICE, log 3). -/
def State.bankBusy (s : State) (c : Nat) : Bool :=
  let q := s.core c
  match q.inbound with
  | [] => false
  | m :: _ => q.laneCycle = s.cycle && (banksOf m.addr m.size).any (fun b => q.laneBanks.contains b)

/-- The remote service slot of core `args.core` serves its next message. -/
def execActiveMessageService (s : State) : Host.Outcome State Fault Refusal :=
  let c := s.args.core
  .next (if s.bankBusy c then s.schedule 1 .activeMessageService { core := c } else s.serveMessage c)

/-- The results that a value brings to where an acknowledgement goes. -/
def AckPut.upds (a : AckPut) (v : Nat) : List Upd :=
  if a.toX then [.x a.reg (loadValue (a.wd / 8) a.sgn v)]
  else if a.toF then [.f a.reg (fpBox (if a.wd = 32 then .s else .d) v)]
  else if a.vec = 0 then putUpd a.wd a.sgn a.reg a.lane (typed a.wd a.sgn v)
  else (List.range a.vec).map (fun k => .v (a.reg + k) a.lane (BitVec.ofNat 32 (v / 2 ^ (32 * k))))

/-- The value of the acknowledgement with a tag reaches the word that waits for it. -/
def PendingOp.receive (o : PendingOp) (tag v : Nat) : PendingOp :=
  { o with
    upds := o.upds ++ (o.acks.filter (fun a => a.tag = tag)).flatMap (fun a => a.upds v),
    acks := o.acks.filter (fun a => a.tag ≠ tag) }

/-- A refused message parks its sender late, or joins the late park that is in force (R182, R196). -/
def State.refusedMessage (s : State) (core : Nat) (m : ActiveMsg) (cause : Nat) (detail : Word) : State :=
  let k := s.slotAt m.sender m.slot
  let pc := ((k.wave.pending.find? (fun o => o.acks.any (fun a => a.tag = m.tag))).map (fun o => o.pc)).getD k.wave.pc
  match k.wave.park.filter (fun p => p.late) with
  | some p => s.modWaveAt m.sender m.slot (fun w => { w with park := some { p with msgs := p.msgs ++ [(core, m)] } })
  | none =>
    let s := (s.leaveWait m.sender m.slot).modWaveAt m.sender m.slot (fun w =>
      if cause = 29 then { w with csrs := { w.csrs with mdomfault := detail } } else w)
    s.parkAt m.sender m.slot
      { late := true, cause := cause, recordCause := cause, tval := BitVec.ofNat 64 m.vaddr, pc := pc, held := [], msgs := [(core, m)] }

/-- The acknowledgement with tag `args.a` reaches its sender (R219). A refusal waits while the wave's wait is one that nothing
divides, and while a precise park is in force, since its wave issues nothing (R162, R163; log 38). -/
def execActiveMessageAck (s : State) : Host.Outcome State Fault Refusal :=
  .next (match s.acks.find? (fun a => a.msg.tag = s.args.a) with
    | none => s
    | some a =>
      let m := a.msg
      let k := s.slotAt m.sender m.slot
      let taken : State := { s with acks := s.acks.filter (fun b => b.msg.tag ≠ m.tag) }
      match a.fault with
      | none =>
        (taken.modWaveAt m.sender m.slot (fun w =>
          { w with pending := w.pending.map (fun o => o.receive m.tag a.value) })).acquireAt m.sender m.dom
            (decide (m.ord ≠ 0 ∧ m.kind ≠ .store) &&
              ({ s with curCore := m.sender, curSlot := m.slot } : State).wideScope m.scope)
      | some (cause, detail) =>
        if k.state = .retiring ∨ k.state = .free then
          taken.modWaveAt m.sender m.slot (fun w => { w with pending := w.pending.map (fun o => o.receive m.tag 0) })
        else if k.wave.interruptible ∧ (k.state ≠ .parked ∨ k.wave.lateParked) then taken.refusedMessage a.core m cause detail
        else s.schedule 16 .activeMessageAck { a := m.tag })

/-! ### Drains (R188) -/

/-- Core `args.core`, recorded for line `args.b` of die `args.a`, drains. -/
def execReleaseDirectoryDrain (s : State) : Host.Outcome State Fault Refusal :=
  .next ((s.drainEntry s.args.a s.args.b s.args.core).schedule 16 .drainAck
    { a := s.args.a, b := s.args.b, core := s.args.core })

/-- The acknowledgement of that drain arrives. -/
def execDrainAck (s : State) : Host.Outcome State Fault Refusal := .next (s.drainAcked s.args.a s.args.b s.args.core)

/-- The watched line of the wave in slot `args.slot` of core `args.core` was written, or 64 own turns have passed: the
wave reads the location again at its next own turn (R245). -/
def execWaitaRecheck (s : State) : Host.Outcome State Fault Refusal :=
  let k := s.slotAt s.args.core s.args.slot
  .next (match k.wave.wait with
    | some { kind := .waita _ _ _ _, start := _ } =>
      if k.state = .waiting then s.modSlotAt s.args.core s.args.slot (fun k => { k with state := .running, ownFirst := true }) else s
    | _ => s)

/-! ### Requests at a station (R191, R195, R196) -/

/-- The access kind of a code. -/
def accKindOf (n : Nat) : AccKind := if n = 0 then .fetch else if n = 1 then .load else if n = 2 then .store else .amo

/-- The request that an event's operands describe: station `a`, PASID `b`, domain `c`, address `d`, and in `e` the
access kind (1:0), the privilege (3:2), SUM (4), and whether a wave makes it (5). -/
def Args.request (a : Args) : StationReq :=
  { pasid := a.b, dom := a.c, va := a.d, kind := accKindOf (bits a.e 1 0), mode := Mode.ofCode (bits a.e 3 2),
    sum := bit a.e 4, origin := if bit a.e 5 then .wave a.core a.slot else .prefetch }

/-- Key of a miss. -/
def StationReq.key (r : StationReq) : Nat × Nat := (r.pasid, r.va >>> 19)

/-- A request enters the request buffer of 4,096 entries, where it joins its miss or allocates one of the 512; `none` where
the buffer or the miss table is full (R195). -/
def Station.takeIn (t : Station) (r : StationReq) : Option Station :=
  if 4096 ≤ t.buffer.length then none
  else if t.misses.contains r.key then some { t with buffer := t.buffer ++ [r] }
  else if t.misses.length < 512 then some { t with misses := t.misses ++ [r.key], buffer := t.buffer ++ [r] }
  else none

/-- A request arrives: it waits at the mesh edge where there is no room for it, or where an earlier one waits there. -/
def Station.enqueue (t : Station) (r : StationReq) : Station :=
  match (if t.edge = [] then t.takeIn r else none) with
  | some t => t
  | none => { t with edge := t.edge ++ [r] }

/-- The requests at the mesh edge go on in arrival order as room appears. -/
def Station.refill (t : Station) : Nat → Station
  | 0 => t
  | n + 1 =>
    match t.edge with
    | [] => t
    | r :: more =>
      match Station.takeIn { t with edge := more } r with
      | some t => t.refill n
      | none => t

/-- The station holds what the request needs. -/
def State.stationHolds (s : State) (k : Nat) (r : StationReq) : Bool :=
  match s.context k r.pasid r.dom with
  | .ok _ => (Table.find (s.station k).ctx r.pasid).isSome && (s.leafHit k (requestChecks r) r.pasid r.va).isSome
  | .error _ => false

/-- Station `args.a` receives a request: a hit needs no walk; a miss is allocated or joined. -/
def execStationTranslate (s : State) : Host.Outcome State Fault Refusal :=
  let k := s.args.a
  let r := s.args.request
  .next (if 64 ≤ k ∨ s.stationHolds k r then s
    else
      let t := (s.station k).enqueue r
      let walks := decide ((s.station k).misses.length < t.misses.length)
      let s := s.modStation k (fun _ => t)
      if walks then s.schedule 640 .stationWalkComplete { a := k } else s)

/-- A request whose walk has failed: its wave parks late, where it still runs. -/
def State.requestFails (s : State) (r : StationReq) (f : TFault) : State :=
  match r.origin with
  | .wave c i =>
    let k := s.slotAt c i
    if (k.state = .running ∨ k.state = .waiting) ∧ k.wave.interruptible then
      let q := f.report r
      let s := (s.leaveWait c i).modWaveAt c i (fun w => match q.dom with
        | some d => { w with csrs := { w.csrs with mdomfault := d } }
        | none => w)
      s.parkAt c i { late := true, cause := q.cause, recordCause := q.recordCause, tval := q.tval, pc := k.wave.pc, held := [] }
    else s
  | _ => s

/-- The oldest walk of station `args.a` completes: it serves or fails every request that joined it. Each request that waited
for room and starts a walk of its own does so then. -/
def execStationWalkComplete (s : State) : Host.Outcome State Fault Refusal :=
  let k := s.args.a
  .next (match (s.station k).misses with
    | [] => s
    | m :: rest =>
      let t := s.station k
      let next := Station.refill { t with misses := rest, buffer := t.buffer.filter (fun r => r.key ≠ m) } t.edge.length
      let s := s.modStation k (fun _ => next)
      let s := (next.misses.drop rest.length).foldl (fun s _ => s.schedule 640 .stationWalkComplete { a := k }) s
      (t.buffer.filter (fun r => r.key = m)).foldl (fun s r =>
        match s.translate k r with
        | (s, .ok _) => s
        | (s, .error f) => s.requestFails r f) s)

/-! ### The invalidation sequence (R197 to R199) -/

/-- Offsets of the registers of R197. -/
def trpctb : Nat := 0x10000
def trpctl : Nat := 0x10008
def trinvb : Nat := 0x10010
def trinvt : Nat := 0x10018
def trinvh : Nat := 0x10020
def trstat : Nat := 0x10028

/-- The descriptor at HEAD. -/
def State.invDescriptor (s : State) : List Byte :=
  leBytes 32 (s.readPhys ((s.reg trinvb).toNat + 32 * (s.reg trinvh).toNat) 32)

/-- A descriptor within the limits of R198. -/
def invValid (d : List Byte) : Bool :=
  let num (o n : Nat) : Nat := leValue ((d.drop o).take n)
  let kind := num 0 1
  let tag := num 4 4
  decide (kind ≤ 3) && num 1 3 = 0 &&
    (if kind ≤ 1 then decide (tag < 2 ^ 20) else if kind = 2 then decide (tag < 2 ^ 16) else tag = 0) &&
    (if kind = 0 then num 8 8 % 2 ^ 19 = 0 && decide (num 8 8 < 2 ^ 49 ∧ 1 ≤ num 16 4 ∧ num 16 4 ≤ 2 ^ 30)
      else num 8 8 = 0 && num 16 4 = 0) && num 24 8 % 4 = 0

/-- What a descriptor covers. -/
def invOf (d : List Byte) : Inval :=
  let num (o n : Nat) : Nat := leValue ((d.drop o).take n)
  { kind := num 0 1, tag := num 4 4, first := num 8 8 / 2 ^ 19, pages := num 16 4 }

/-- The value a descriptor's completion address receives. -/
def State.invComplete (s : State) (d : List Byte) (v : Nat) : State :=
  let pa := leValue ((d.drop 24).take 8)
  if pa % 4 = 0 then s.agentWrite pa (leBytes 4 v) else s

/-- HEAD moves to the next descriptor. -/
def State.invAdvance (s : State) : State :=
  s.setReg trinvh (BitVec.ofNat 64 (((s.reg trinvh).toNat + 1) % 32))

/-- The event that processes a descriptor. -/
def invEvent (kind : Nat) : Instr :=
  match kind with
  | 0 => .invPageRange
  | 1 => .invWholePasid
  | 2 => .invHostTag
  | _ => .invEverything

/-- The hub takes up the next descriptor, rejecting those outside the limits. -/
def State.invNext (s : State) : Nat → State
  | 0 => s
  | n + 1 =>
    if s.inv.isSome ∨ s.reg trinvh = s.reg trinvt then s
    else
      let d := s.invDescriptor
      if invValid d then s.schedule 16 (invEvent (invOf d).kind) {}
      else
        let s := s.setReg trstat (s.reg trstat ||| 2)
        (s.invComplete d 0xFFFFFFFF).invAdvance.invNext n

/-- The hub sends the descriptor at HEAD, of the kind given, to every station: each drops what it covers, and its cores
write back and drop what their caches hold under it. -/
def State.invStart (s : State) (kind : Nat) : State :=
  let d := s.invDescriptor
  if s.inv.isSome ∨ s.reg trinvh = s.reg trinvt ∨ !invValid d ∨ (invOf d).kind ≠ kind then s
  else
    let v := invOf d
    let s : State := { s with inv := some ([], d), stations := s.stations.map (fun e => (e.1, e.2.invalidate v)) }
    let s := s.setReg trstat (s.reg trstat ||| 1)
    let s := s.cores.foldl (fun s e => s.dropEverywhere e.1 v.coversLine) s
    (List.range 64).foldl (fun s k => s.schedule 64 .stationInvAck { a := k }) s

/-- A kind-0 descriptor. -/
def execInvPageRange (s : State) : Host.Outcome State Fault Refusal := .next (s.invStart 0)

/-- A kind-1 descriptor. -/
def execInvWholePasid (s : State) : Host.Outcome State Fault Refusal := .next (s.invStart 1)

/-- A kind-2 descriptor. -/
def execInvHostTag (s : State) : Host.Outcome State Fault Refusal := .next (s.invStart 2)

/-- A kind-3 descriptor. -/
def execInvEverything (s : State) : Host.Outcome State Fault Refusal := .next (s.invStart 3)

/-- All stations have acknowledged: the completion value, the new context table registers after kind 3, the next
descriptor. -/
def State.invDone (s : State) (d : List Byte) : State :=
  let s : State := if (invOf d).kind = 3 then
      { s with pctb := (s.reg trpctb).toNat, pcount := (s.reg trpctl).toNat }
    else s
  let s := s.invComplete d (leValue ((d.drop 20).take 4))
  let s : State := { s.setReg trstat (s.reg trstat &&& ~~~1#64) with inv := none }
  s.invAdvance.invNext 32

/-- A core of a die has sent active messages that no core has performed yet. -/
def State.messagesOfDie (s : State) (die : Nat) : Bool :=
  s.cores.any (fun e => (e.2.inbound ++ e.2.network).any (fun m => m.chip = none && dieOf m.sender = die))

/-- Station `args.a` acknowledges: its cores have finished with what the descriptor covers, and what it translated before has
been performed, the active messages of its die too (R199 step 6). -/
def execStationInvAck (s : State) : Host.Outcome State Fault Refusal :=
  .next (match s.inv with
    | none => s
    | some (done, d) =>
      let k := s.args.a
      if 64 ≤ k ∨ done.contains k then s
      else if s.messagesOfDie (k / 8) then s.schedule 64 .stationInvAck { a := k }
      else
        let v := invOf d
        let s := s.modStation k (fun t => t.invalidate v)
        let s := (s.coresOf (k / 8)).foldl (fun s c => s.dropEverywhere c v.coversLine) s
        if done.length = 63 then s.invDone d else { s with inv := some (k :: done, d) })

end Sys2Proof.Machine
end

