-- ==== Sys2Proof/Machine/Sampler.lean ====
section
/-! DEFINITION. `vsmp`, major 0xC7: texture sampling (R236, R237). -/

namespace Sys2Proof.Machine

/-- An image descriptor (R236). -/
structure Image where
  base : Nat
  width : Nat
  height : Nat
  pitch : Nat
  fmt : Nat
  edge : Nat
  filter : Nat
  border : Nat
  zeros : Bool
deriving DecidableEq, Repr

/-- The descriptor in 32 bytes read as a little-endian number. -/
def Image.ofBytes (v : Nat) : Image :=
  let at' (o n : Nat) : Nat := bits v (8 * (o + n) - 1) (8 * o)
  { base := at' 0 8, width := at' 8 4, height := at' 12 4, pitch := at' 16 4, fmt := at' 20 1, edge := at' 21 1,
    filter := at' 22 1, border := at' 24 4, zeros := at' 23 1 = 0 && at' 28 4 = 0 }

/-- Element size in bytes of an image. -/
def Image.element (g : Image) : Nat := typeWidth g.fmt / 8

/-- The descriptor breaks no limit (R236). -/
def Image.valid (g : Image) : Bool :=
  [1, 4, 5, 8, 10].contains g.fmt && decide (g.edge ≤ 3) && decide (g.filter ≤ 1) && g.zeros &&
    decide (1 ≤ g.width ∧ g.width ≤ 2 ^ 20 ∧ 1 ≤ g.height ∧ g.height ≤ 2 ^ 20) &&
    decide (g.base % g.element = 0 ∧ g.pitch % g.element = 0 ∧ g.width * g.element ≤ g.pitch)

/-- The value of a texel's code. -/
def Image.value (g : Image) (code : Nat) : Fv :=
  if g.fmt < 8 then Fv.ofInt (typed (typeWidth g.fmt) (intSigned g.fmt) code) else (laneFmt g.fmt).decode code

/-- One coordinate under an edge mode: the texel's, or none outside the image in border mode. -/
def edgeCoord (edge size : Nat) (i : Int) : Option Nat :=
  match edge with
  | 0 => some (if i < 0 then 0 else if (size : Int) ≤ i then size - 1 else i.toNat)
  | 1 => some (i % size).toNat
  | 2 =>
    let k := (i % (2 * size)).toNat
    some (if k < size then k else 2 * size - 1 - k)
  | _ => if 0 ≤ i ∧ i < size then some i.toNat else none

/-- Address of texel (i, j), or none for the border value. -/
def Image.texel (g : Image) (i j : Int) : Option Nat :=
  match edgeCoord g.edge g.width i, edgeCoord g.edge g.height j with
  | some i, some j => some ((g.base + j * g.pitch + i * g.element) % 2 ^ 64)
  | _, _ => none

/-- A coordinate clamped to ±2^24, in units of 2^−256. -/
def coordOf (v : Fv) : Option Int :=
  let lim : Int := 2 ^ 24 * 2 ^ 256
  match v with
  | .nan _ => none
  | .inf n => some (if n then -lim else lim)
  | .fin n m e =>
    let z := sgnOf n (m * 2 ^ (e + 256).toNat)
    some (if z < -lim then -lim else if lim < z then lim else z)

/-- The texels of a sample with their weights, in units of 2^−16. -/
def Image.taps (g : Image) (u v : Int) : List (Int × Int × Nat) :=
  let one : Int := 2 ^ 256
  if g.filter = 0 then [(u / one, v / one, 65536)]
  else
    let x := u - one / 2
    let y := v - one / 2
    let i := x / one
    let j := y / one
    let a := ((x - i * one) * 256 / one).toNat
    let b := ((y - j * one) * 256 / one).toNat
    [(i, j, (256 - a) * (256 - b)), (i, j + 1, (256 - a) * b), (i + 1, j, a * (256 - b)),
      (i + 1, j + 1, a * b)].filter (fun t => t.2.2 ≠ 0)

/-- A sum so far of weighted texels: a NaN, an infinity, or an exact value in units of 2^−400. -/
inductive TapSum | nan | inf (neg : Bool) | exact (v : Int)
deriving DecidableEq, Repr

/-- Add one weighted texel. -/
def TapSum.add (a : TapSum) (q : Nat) (t : Fv) : TapSum :=
  match a, t with
  | .nan, _ => .nan
  | _, .nan _ => .nan
  | .inf n, .inf m => if n = m then .inf n else .nan
  | .inf n, .fin _ _ _ => .inf n
  | .exact _, .inf m => .inf m
  | .exact v, .fin n m e => .exact (v + sgnOf n (q * m * 2 ^ (e + 384).toNat))

/-- The FP32 code of a sum. -/
def TapSum.code : TapSum → Nat
  | .nan => Fmt.f32.encode (.nan false)
  | .inf n => Fmt.f32.encode (.inf n)
  | .exact v => Fmt.f32.result .rne (.num (decide (v < 0)) v.natAbs (-400) false)

/-- One read through the sampler path. -/
def sampleRead (s : State) (wv : Wave) (va n : Nat) : State × Except ReqFault Nat :=
  if outside49 va n then (s, .error { cause := 13, recordCause := 13, tval := BitVec.ofNat 64 va })
  else
    match s.resolve s.curCore s.curSlot wv .sampler .load va n with
    | (s, .error f) => (s, .error f)
    | (s, .ok d) =>
      match d with
      | .remote k a v => s.remoteValue s.curCore s.curSlot wv n k a v
      | _ =>
        let r := s.readDest s.curCore wv .sampler false n d
        (r.1, .ok r.2)

/-- The value of one tap. -/
def Image.tap (g : Image) (wv : Wave) (s : State) (i j : Int) : State × Except ReqFault Fv :=
  match g.texel i j with
  | none => (s, .ok (Fmt.f32.decode g.border))
  | some a =>
    match sampleRead s wv a g.element with
    | (s, .ok c) => (s, .ok (g.value c))
    | (s, .error f) => (s, .error f)

/-- The sample of one lane (R237). -/
def Image.sample (g : Image) (wv : Wave) (u v : Nat) (s : State) : State × Except ReqFault Nat :=
  let nan := Fmt.f32.encode (.nan false)
  if !g.valid then (s, .ok nan)
  else
    match coordOf (Fmt.f32.decode u), coordOf (Fmt.f32.decode v) with
    | some u, some v =>
      if g.filter = 0 then
        match g.tap wv s (u / 2 ^ 256) (v / 2 ^ 256) with
        | (s, .ok t) => (s, .ok (Fmt.f32.encode t))
        | (s, .error f) => (s, .error f)
      else
        let r := (g.taps u v).foldl (fun (q : State × Except ReqFault TapSum) t =>
          match q.2 with
          | .error f => (q.1, .error f)
          | .ok a =>
            match g.tap wv q.1 t.1 t.2.1 with
            | (s, .ok x) => (s, .ok (a.add t.2.2 x))
            | (s, .error f) => (s, .error f)) (s, .ok (.exact 0))
        (r.1, r.2.map TapSum.code)
    | _, _ => (s, .ok nan)

/-- Addresses of the texels that a lane's sample reads (R237). -/
def Image.reads (g : Image) (u v : Nat) : List Nat :=
  if !g.valid then []
  else
    match coordOf (Fmt.f32.decode u), coordOf (Fmt.f32.decode v) with
    | some u, some v => (g.taps u v).filterMap (fun t => g.texel t.1 t.2.1)
    | _, _ => []

/-- The first texel address of a `vsmp` that the core finds outside the 49 bits, once the descriptor is read (R177). -/
def vsmpOutside (e : LaneEnv) (w : LaneWord) (s : State) : Option Nat :=
  match (sampleRead s e.wave (e.wave.getX w.va.toNat).toNat 32).2 with
  | .error _ => none
  | .ok d =>
    let g := Image.ofBytes d
    (e.lanes.flatMap (fun l => g.reads (e.reg w.vb.toNat l) (e.reg (w.vb.toNat + 1) l))).find? (fun a => outside49 a g.element)

/-- Perform `vsmp` in the given lanes: the descriptor, then each lane in ascending order. -/
def vsmpPerform (e : LaneEnv) (w : LaneWord) (lanes : List Nat) (s : State) : MemOut :=
  let wv := e.wave
  let hold (s : State) (f : ReqFault) : MemOut := { s := s, fault := some (f, maskOfLanes lanes) }
  match sampleRead s wv (wv.getX w.va.toNat).toNat 32 with
  | (s, .error f) => hold s f
  | (s, .ok d) =>
    let g := Image.ofBytes d
    let r := lanes.foldl (fun (q : State × List Upd × Option ReqFault) l =>
      match q.2.2 with
      | some _ => q
      | none =>
        match g.sample wv (e.reg w.vb.toNat l) (e.reg (w.vb.toNat + 1) l) q.1 with
        | (s, .ok c) => (s, q.2.1 ++ [.v w.vd.toNat l (BitVec.ofNat 32 c)], none)
        | (s, .error f) => (s, q.2.1, some f)) (s, [], none)
    match r.2.2 with
    | some f => hold r.1 f
    | none => { s := r.1, upds := r.2.1 }

/-- `vsmp` (R236, R237). -/
def execVsmp (w : LaneWord) (s : State) : Host.Outcome State Fault Refusal :=
  (laneIssueWith 0xC7 (memForm 0xC7 w) w touchActive
    (fun e s => if e.lanes = [] then none else memOwn false .load 32 [(e.wave.getX w.va.toNat).toNat] s)
    (fun e ops s =>
      if e.lanes = [] then longDone (laneBytes w) w.la.toNat 0 [] [] s
      else
        match memAfter false .load 32 [(e.wave.getX w.va.toNat).toNat] s with
        | some r => r
        | none =>
          match vsmpOutside e w s with
          | some a => .park 13 (BitVec.ofNat 64 a) s
          | none =>
          memFinish (.vsmp w) (laneBytes w) w.la.toNat s.lat.l2 true false (writtenLocs ops) s.wave.pc
            (vsmpPerform e w e.lanes s)) s).finish

end Sys2Proof.Machine
end

