-- ==== Sys2Proof/Machine/Parks.lean ====
section
/-! DEFINITION. Resolving a park, and the fault ring (R163, R164, R411, R412). -/

namespace Sys2Proof.Machine

/-! ### The fault ring (R411) -/

/-- Offsets of `FRWR` and `FRRD` in a cluster's block. -/
def frwrOff : Nat := 0x32000
def frrdOff : Nat := 0x32008

/-- Append the oldest waiting record of a cluster, where its ring has room. -/
def State.appendFault (s : State) (k : Nat) : State :=
  let q := s.cluster k
  let wr := fld (Table.get q.regs frwrOff 0) 31 0
  let rd := fld (Table.get q.regs frrdOff 0) 31 0
  match q.faultWait with
  | [] => s
  | r :: rest =>
    if (wr + 2 ^ 32 - rd) % 2 ^ 32 = 256 then s
    else
      let s := s.agentWrite (s.cfg.frbase + 8192 * k + 32 * (wr % 256)) r
      s.modCluster k (fun q =>
        { q with faultWait := rest, regs := Table.put q.regs frwrOff (BitVec.ofNat 64 ((wr + 1) % 2 ^ 32)) })

/-- A record is appended to the fault ring of cluster `args.core`. -/
def execFaultRingAppend (s : State) : Host.Outcome State Fault Refusal := .next (s.appendFault s.args.core)

/-! ### Performing what a park holds (R164) -/

/-- The memory shape of a held lane word. -/
def heldShape : Instr → Option (MemWord × LaneWord)
  | .vldGlobal w => some (.load false .lane, w)
  | .vstGlobal w => some (.store false, w)
  | .vldWindow w => some (.load true .lane, w)
  | .vstWindow w => some (.store true, w)
  | .vldc w => some (.load false .const, w)
  | .vamoGlobal w => some (.atomic false false, w)
  | .vamoWindow w => some (.atomic true false, w)
  | .vcasGlobal w => some (.atomic false true, w)
  | .vcasWindow w => some (.atomic true true, w)
  | _ => none

/-- Perform a held word of the wave that acts, in the lanes still held. -/
def heldPerform (i : Instr) (m : Mask) (s : State) : MemOut :=
  let lanes := (List.range 128).filter (fun l => m.getLsbD l)
  match heldShape i with
  | some (k, w) => memPerform k { laneEnv s w with lanes := lanes } w lanes s
  | none =>
    match i with
    | .vsmp w => vsmpPerform { laneEnv s w with lanes := lanes } w lanes s
    | .amoLock w => lockPerform w s
    | .amoUnlk w => unlockPerform w s
    | .xld w => xldPerform w s
    | .xst w => xstPerform w s
    | .riscvScalarInstruction r =>
      match rvPerform r s.wave s with
      | .late f s => { s := s, fault := some (f, 1) }
      | .now s upds _ _ => { s := s, upds := upds }
      | .later s upds acks _ _ => { s := s, upds := upds, acks := acks }
      | _ => { s := s }
    | _ => { s := s }

/-- Perform the held words of a park in order, on the x registers they issued with; what is still held, and the fault
of the first that fails again. -/
def performHeld (xs : Vector Word 32) (held : List (Instr × Mask)) (s : State) :
    State × List (Instr × Mask) × Option ReqFault :=
  held.foldl (fun (q : State × List (Instr × Mask) × Option ReqFault) h =>
    let now := q.1.wave.x
    let o := heldPerform h.1 h.2 (q.1.modWave (fun w => { w with x := xs }))
    let s := o.s.modWave (fun w => { w with x := now })
    let s := if o.fault.isSome then s.holdResults s.wave.pc [] o.upds o.acks
      else if o.acks = [] then s.applyAll o.upds
      else s.modWave (fun w =>
        { w with pending := w.pending ++
            [{ pc := w.pc, la := 0, since := 0, due := w.csrs.turn.toNat, locs := [], upds := o.upds, acks := o.acks }] })
    match o.fault with
    | none => (s, q.2.1, q.2.2)
    | some (f, m) => (s, q.2.1 ++ [(h.1, m)], match q.2.2 with
      | some g => some g
      | none => some f)) (s, [], none)

/-! ### The three actions -/

/-- The park is over: the slot runs, or goes on handing over. -/
def State.unpark (s : State) (c i : Nat) : State :=
  s.modSlotAt c i (fun k =>
    { k with
      state := if k.state = .parked then .running else k.state,
      ownFirst := true,
      wave := { k.wave with park := none, lateResolved := k.state = .handingOver } })

/-- The park record of a slot waits for room in the fault ring (R411). -/
def State.recordWaits (s : State) (c i : Nat) : Bool :=
  (s.cluster (clusterOf c)).faultWait.any (fun r => numAt r 16 2 = c && numAt r 18 1 = i && numAt r 19 1 ≠ 0xFE)

/-- The park in force in a slot that firmware may resolve: its record stands (R411, R412). -/
def State.parkOf (s : State) (c i : Nat) : Option Park :=
  let k := s.slotAt c i
  match k.wave.park with
  | some p => if (k.state = .parked ∨ (k.state = .handingOver ∧ p.late)) ∧ !s.recordWaits c i then some p else none
  | none => none

/-- A message that its destination refused is walked afresh, and sent or carried out where its address now leads (R196,
R200); the fault where the walk fails. -/
def State.resendMessage (s : State) (m : ActiveMsg) : State × Option ReqFault :=
  let w := (s.slotAt m.sender m.slot).wave
  let wide := decide (m.ord ≠ 0 ∧ 2 ≤ m.scope)
  let kind : AccKind := match m.kind with
    | .load => .load
    | .store => .store
    | _ => .amo
  let answer (r : State × Nat) : State × Option ReqFault :=
    (r.1.modWaveAt m.sender m.slot (fun w => { w with pending := w.pending.map (fun o => o.receive m.tag r.2) }), none)
  let atomic (s : State) (o : AtomicOp) (d : Dest) : State × Option ReqFault :=
    answer (s.atomicDest m.sender m.slot w amoFadd o m.ord m.scope 0 wide wide m.size m.operand d)
  match s.resolve m.sender m.slot w .lane kind m.vaddr m.size with
  | (s, .error f) => (s, some f)
  | (s, .ok (.remote core a _)) => (s.sendMessage core { m with addr := a }, none)
  | (s, .ok d) =>
    match m.kind with
    | .load => answer (s.readDest m.sender w .lane wide m.size d)
    | .store => answer (s.writeDest m.sender m.slot w .lane m.ord m.scope wide (leBytes m.size m.operand) d, 0)
    | .atomic => atomic s (.rmw m.op m.ty (intSigned m.ty) (8 * m.size)) d
    | .cas => atomic s (.cas m.operand2) d

/-- The messages a park holds are sent again; those whose walk fails, and the first fault. -/
def State.resend (s : State) (ms : List (Nat × ActiveMsg)) : State × List (Nat × ActiveMsg) × Option ReqFault :=
  ms.foldl (fun (q : State × List (Nat × ActiveMsg) × Option ReqFault) m =>
    match q.1.resendMessage m.2 with
    | (s, none) => (s, q.2)
    | (s, some f) => (s, q.2.1 ++ [m], match q.2.2 with
      | some g => some g
      | none => some f)) (s, [], none)

/-- The results of a word are held by its late park, or wait for one of the messages. -/
def PendingOp.parkedWith (o : PendingOp) (ms : List (Nat × ActiveMsg)) : Bool :=
  decide (o.due = parkDue) || o.acks.any (fun a => ms.any (fun m => m.2.tag = a.tag))

/-- The held request and messages of a park are abandoned: the whole destination of their word stays unchanged (R230,
R240). -/
def State.abandon (s : State) (c i : Nat) (ms : List (Nat × ActiveMsg)) : State :=
  s.modWaveAt c i (fun w => { w with pending := w.pending.filter (fun o => !o.parkedWith ms) })

/-- The held request has succeeded: the results held with it become complete. -/
def State.unholdResults (s : State) (c i : Nat) : State :=
  s.modWaveAt c i (fun w => { w with pending := w.pending.map (fun o => if o.due = parkDue then { o with due := 0 } else o) })

/-- A parked hand-off is abandoned: its word completes without it (R261). -/
def State.dropHandOff (s : State) (c i : Nat) (p : Park) : State :=
  match (s.core c).seq with
  | some q => if p.handsOff ∧ q.slot = i then s.sequencerDone c q else s
  | none => s

/-- A slot that is handing over stops its sequencer, once its late park is resolved (R170, R173 step 4). -/
def State.stopSequencer (s : State) (c i : Nat) : State :=
  if (s.slotAt c i).state = .handingOver then s.interruptSequencer c i else s

/-- Resume: the faulting word issues again, or the station retries what it holds. -/
def State.resumePark (s : State) (c i : Nat) : State :=
  match s.parkOf c i with
  | none => s
  | some p =>
    let csa := (s.slotAt c i).wave.csa
    if !p.late then s.unpark c i
    else if p.handsOff then
      ((s.unpark c i).handOff c).stopSequencer c i
    else
      let back (t : State) : State := { t with curCore := s.curCore, curSlot := s.curSlot }
      let r := performHeld p.x p.held { s with curCore := c, curSlot := i }
      let again (t : State) (f : ReqFault) (held : List (Instr × Mask)) (msgs : List (Nat × ActiveMsg)) : State :=
        back ((t.noteFault f).parkAt c i
          { late := true, cause := f.cause, recordCause := f.recordCause, tval := f.tval, pc := p.pc, held := held,
            msgs := msgs, x := p.x })
      match r.2.2 with
      | some f => again r.1 f r.2.1 p.msgs
      | none =>
        let q := (r.1.unholdResults c i).resend p.msgs
        match q.2.2 with
        | some f => again q.1 f [] q.2.1
        | none => (back ((q.1.unpark c i).releaseMessage csa true)).stopSequencer c i

/-- Deliver: the wave takes the cause; what a late park held is abandoned. The trap of a late park, which falls on the first
word not yet issued, stops the sequencer as any event does (R170). -/
def State.deliverPark (s : State) (c i : Nat) : State :=
  match s.parkOf c i with
  | none => s
  | some p =>
    let s := (if p.late then (s.dropHandOff c i p).interruptSequencer c i else s)
    let w := (s.slotAt c i).wave
    let hand := (s.slotAt c i).state
    let s := ((s.abandon c i p.msgs).unpark c i).trapAt c i false p.cause p.tval w.pc
    (s.modSlotAt c i (fun k => { k with state := if hand = .handingOver then .handingOver else .running })).releaseMessage w.csa false

/-- Retire: the wave is retired as if by `end`. -/
def State.retirePark (s : State) (c i : Nat) : State :=
  match s.parkOf c i with
  | none => s
  | some p =>
    let w := (s.slotAt c i).wave
    let s := (s.abandon c i p.msgs).dropHandOff c i p
    let hand := (s.slotAt c i).state = .handingOver
    let s := if hand then s.modSlotAt c i (fun k => { k with prq := true }) else s
    let s := ((s.leaveWait c i).retire c i).releaseMessage w.csa false
    let s := { s with rings := s.rings.map (fun (r : Ring) => { r with asked := r.asked.filter (· ≠ w.csa) }) }
    s.resumeEngines w.csa

/-- Firmware resolves the park of slot `args.slot` of core `args.core` with Resume. -/
def execParkResume (s : State) : Host.Outcome State Fault Refusal := .next (s.resumePark s.args.core s.args.slot)

/-- Firmware resolves the park of slot `args.slot` of core `args.core` with Deliver. -/
def execParkDeliver (s : State) : Host.Outcome State Fault Refusal := .next (s.deliverPark s.args.core s.args.slot)

/-- Firmware resolves the park of slot `args.slot` of core `args.core` with Retire. -/
def execParkRetire (s : State) : Host.Outcome State Fault Refusal := .next (s.retirePark s.args.core s.args.slot)

/-- A write of `PKRES` of a core (R412); none is issued during a handover of the firmware column (R415). -/
def State.writePkres (s : State) (c : Nat) (v : Word) : State :=
  let a : Args := { core := c, slot := fld v 3 0 }
  if s.column.isSome then s
  else match fld v 9 8 with
  | 1 => s.schedule 0 .parkResume a
  | 2 => s.schedule 0 .parkDeliver a
  | 3 => s.schedule 0 .parkRetire a
  | _ => s

end Sys2Proof.Machine
end

