-- ==== Sys2Proof/Machine/Registers.lean ====
section
/-! DEFINITION. What a write to the device register block does, register by register (R9, R197, R267, R273, R294, R300,
R304 to R306, R311, R323, R335, R338, R342, R351, R352, R373 to R384, R393 to R399, R404, R410 to R412). -/

namespace Sys2Proof.Machine

/-- A register with the written bits replaced. -/
def mergeReg (old v m : Word) : Word := (old &&& ~~~m) ||| (v &&& m)

/-- A mask of bits `hi` to `lo`. -/
def maskBits (hi lo : Nat) : Word := BitVec.ofNat 64 (2 ^ (hi + 1) - 2 ^ lo)

/-- Bits 1 of a written value, of those written. -/
def wrote (v m : Word) (k : Nat) : Bool := v.getLsbD k && m.getLsbD k

/-- A value limited to a largest one. -/
def capAt (limit v : Nat) : Nat := if limit < v then limit else v

/-! ### A core's block -/

/-- A wave of a team is bound on a core. -/
def Core.hasTeam (c : Core) (j : Nat) : Bool := c.slots.any (fun e => e.2.state ≠ .free && e.2.wave.cteam = j)

/-- A tile table entry is vacant, or its team has no wave bound on the core (R310, R311). -/
def Core.tileWritable (c : Core) (e : Nat) : Bool :=
  let w := (c.tile e).1
  tKind w = 0 || !c.hasTeam (tTeam w)

/-- An entry of a core has granules of its own: it is no header, and no other entry shows the same tile of a segment. -/
def Core.holdsGranules (c : Core) (e : Nat) : Bool :=
  let w := (c.tile e).1
  (tKind w = 1 || tKind w = 3) &&
    !(tSegv w && c.tiles.any (fun t => t.1 ≠ e && tSegv t.2.1 && tSeg t.2.1 = tSeg w && tFirst t.2.1 = tFirst w))

/-- What firmware's word 0 leaves in an entry: a vacant entry is all zeros, and a ring header has no FIRST, LENM1 and
STATE (R311). -/
def entryWord (v : Word) : Word :=
  let v := v &&& maskBits 62 0
  if tKind v = 0 then 0 else if tKind v = 2 then v &&& maskBits 62 20 else v

/-- The team and first handle that a tile table entry of a core shows of a segment, where it shows its first tile. -/
def State.attachedAt (s : State) (core i : Nat) (g : Segment) (e : Nat) : Option (Nat × Nat) :=
  let w := ((s.core core).tile e).1
  if tKind w = 1 ∧ tSegv w ∧ tSeg w = i ∧ g.tiles.head?.any (fun t => t.1 = tFirst w) then
    some (tTeam w, e - (s.team (clusterOf core) (tTeam w)).tbase)
  else none

/-- The teams that an attached segment's core shows it to. -/
def State.linkSeg (s : State) (k i : Nat) : State :=
  s.modSeg k i (fun g =>
    if g.att = 0 then g
    else { g with teams := ((List.range 256).filterMap (s.attachedAt (96 * k + g.core) i g)).foldl (fun l t =>
      if l.any (fun q => q.1 = t.1) then l else l ++ [t]) g.teams })

/-- Firmware writes a doubleword of a tile table entry; granules that the entry holds are in use, and those it held already keep
their dirty bits (R310 to R312). -/
def State.writeTile (s : State) (core e : Nat) (second : Bool) (v : Word) : State :=
  if !(s.core core).tileWritable e then s
  else
    let t := s.modCore core (fun c =>
      let old := c.tile e
      let was := c.granules
      if second then (if tKind old.1 = 0 then c else c.setTile e (old.1, v &&& maskBits 48 0))
      else
        let new := entryWord v
        let c := if c.holdsGranules e then c.freeGranules (tFirst old.1) (tGran old.1) else c
        let c := if tKind new = 1 ∨ tKind new = 3 then
            { c with granules := (List.range (tGran new)).foldl (fun g k =>
                Table.put g (tFirst new + k) { Table.get was (tFirst new + k) {} with used := true }) c.granules }
          else c
        (c.clearRace new).setTile e (new, if tKind new = 0 then 0 else old.2))
    if !second && tSegv v && (t.seg (clusterOf core) (tSeg v)).core = core % 96 then t.linkSeg (clusterOf core) (tSeg v) else t

/-- A write of `BCTL`: GO makes dispatch act on the record; it is ignored while GO reads 1, and none is issued during a handover
of the firmware column (R415). -/
def State.writeBctl (s : State) (core : Nat) (v m : Word) : State :=
  let c := s.core core
  if c.bctl.getLsbD 0 ∨ !wrote v m 0 ∨ s.column.isSome then s
  else
    let s := s.modCore core (fun c => { c with bctl := c.bctl ||| 1 })
    s.schedule 8 (if numAt c.record 0 1 = 2 then .restoreBind else .newWaveBind) { core := core }

/-- A write of `PRDOM`. -/
def State.writePrdom (s : State) (core : Nat) (v m : Word) : State :=
  let old := (s.core core).prdom
  let dom := fld (mergeReg old v m) 7 0
  if wrote v m 8 && s.column.isNone then s.requestDomain core dom else s.modCore core (fun c => { c with prdom := setFld c.prdom 7 0 dom })

/-- A write of the doubleword at offset `o` of a core's block; `mgmt` for the management core. -/
def State.writeCoreReg (s : State) (core o : Nat) (v m : Word) (mgmt : Bool) : State :=
  let c := s.core core
  let new := mergeReg (c.readReg o) v m
  if o < 0x80 then s.modCore core (fun c => { c with bindArea := Bytes.writeLE c.bindArea o 8 new.toNat })
  else if o = 0x80 then s.writeBctl core v m
  else if 0x100 ≤ o ∧ o < 0x180 then (if wrote v m 0 then s.requestPreemption core ((o - 0x100) / 8) else s)
  else if o = 0x200 then s.writePrdom core v m
  else if o = 0x280 then (if mgmt then s.modCore core (fun c => { c with fwall := new &&& 3 }) else s)
  else if o = 0x288 then s.writePkres core (v &&& m)
  else if o = 0x300 then s.writeDslot core new
  else if 0x400 ≤ o ∧ o < 0x420 then s.writeBanks core ((o - 0x400) / 8) new
  else if 0x500 ≤ o ∧ o < 0x580 then s.writeRegions core ((o - 0x500) / 8) new
  else if 0x800 ≤ o ∧ o < 0x880 then s.modCore core (fun c => { c with ev := Table.put c.ev ((o - 0x800) / 8) new.toNat })
  else if 0x1000 ≤ o ∧ o < 0x2000 then s.writeTile core ((o - 0x1000) / 16) (decide (o / 8 % 2 = 1)) new
  else s

/-! ### A cluster's block -/

/-- BACK of a segment changes only while it is detached (R323). -/
def State.writeSegBack (s : State) (k i : Nat) (v : Word) : State :=
  if (s.seg k i).att = 0 then s.modSeg k i (fun g => { g with back := v &&& 0x1FFFFFFFFFC00 }) else s

/-- A segment that firmware may move with the core index of its teams: attached and settled, with no wave of those teams
bound on its core (R310; DEDUCED, log 79). -/
def State.segMoves (s : State) (k i : Nat) : Bool :=
  let g := s.seg k i
  g.att ≠ 0 && g.sst = 0 && !g.teams.any (fun t => (s.core (96 * k + g.core)).hasTeam t.1)

/-- Firmware writes the doubleword at offset `o` of a free entry: it makes the entry of a segment that is restored on another
device, and the doubleword that holds KIND makes it live (R422; DEDUCED, log 79). -/
def State.createSeg (s : State) (k i o : Nat) (v : Word) : State :=
  let tile (n : Nat) (w : Nat) (l : List (Nat × Nat)) : List (Nat × Nat) := if n < l.length then l.set n (bits w 8 0, bits w 18 9) else l
  let s := s.modSeg k i (fun g =>
    if o = 0 then { g with name := v }
    else if o = 8 then
      { g with dom := fld v 7 0, kind := if fld v 15 8 ≤ 3 then fld v 15 8 else 0, att := if fld v 17 16 ≤ 2 then fld v 17 16 else 0,
               res := v.getLsbD 18, sst := 0, rocnt := fld v 31 24, gen := BitVec.ofNat 32 (fld v 63 32) }
    else if o = 16 then { g with back := v &&& 0x1FFFFFFFFFC00 }
    else if o = 24 then
      let n := capAt 8 (fld v 55 48)
      { g with pasid := fld v 19 0, core := if fld v 39 32 < 96 then fld v 39 32 else 0, rwteam := fld v 47 40,
               tiles := (g.tiles ++ List.replicate 8 (0, 0)).take n }
    else { g with tiles := tile ((o - 32) / 4 + 1) (fld v 63 32) (tile ((o - 32) / 4) (fld v 31 0) g.tiles) })
  s.linkSeg k i

/-- Firmware writes the doubleword at offset `o` of a segment table entry: of a free one, BACK, or CORE and the tile list in a
move (R310, R323, R422). -/
def State.writeSeg (s : State) (k i o : Nat) (v : Word) : State :=
  if (s.seg k i).kind = 0 then s.createSeg k i o v
  else if o = 16 then s.writeSegBack k i v
  else if !s.segMoves k i then s
  else if o = 24 then s.modSeg k i (fun g => { g with core := if fld v 39 32 < 96 then fld v 39 32 else g.core })
  else if 32 ≤ o then
    s.modSeg k i (fun g =>
      { g with tiles := ((List.range g.tiles.length).zip g.tiles).map (fun t =>
          if t.1 = (o - 32) / 4 then (fld v 8 0, fld v 18 9)
          else if t.1 = (o - 32) / 4 + 1 then (fld v 40 32, fld v 50 41) else t.2) })
  else s

/-- Bits of a 64-bit cluster register that hold a value. -/
def clusterMask (o : Nat) : Word :=
  if o < 0x30100 then
    if o % 32 = 16 then maskBits 47 24 ||| maskBits 15 0 else if o % 32 = 24 then 0 else maskBits 39 0
  else if o = 0x31000 ∨ o = 0x31008 then BitVec.allOnes 64
  else if o = frrdOff then maskBits 31 0
  else 0

/-- A write of the doubleword at offset `o` of a cluster's block. -/
def State.writeClusterReg (s : State) (k o : Nat) (v m : Word) : State :=
  let new := mergeReg ((s.cluster k).readReg o) v m
  if o < 0x2000 then s.writeTeam k (o / 128) (o % 128) new
  else if 0x10000 ≤ o ∧ o < 0x20000 then s.writeSeg k ((o - 0x10000) / 64) (o % 64) new
  else if clusterMask o = 0 then s
  else
    let s := s.modCluster k (fun q => { q with regs := Table.put q.regs o (new &&& clusterMask o) })
    if o = frrdOff then (s.cluster k).faultWait.foldl (fun s _ => s.schedule 0 .faultRingAppend { core := k }) s else s

/-! ### The rest of the block -/

/-- Every interface is disabled. -/
def State.allDisabled (s : State) : Bool := s.listedQueues.all (fun q => s.queueState q = 0)

/-- Store a register whose COUNT is replaced by a limit where it is larger. -/
def State.setCount (s : State) (o limit : Nat) (v : Word) (hi : Nat) : State :=
  s.setReg o (BitVec.ofNat 64 (capAt limit (fld v hi 0)))

/-- A write of an interface's register (R267, R269). -/
def State.writeQueue (s : State) (o : Nat) (v m : Word) : State :=
  let q := (o - 0x100000) / 64
  let new := mergeReg (s.reg o) v m
  match o % 64 with
  | 0 =>
    let log := fld new 5 1
    let s := if s.queueState q = 0 then
        s.setReg o (setFld (setFld (new &&& maskBits 40 6) 5 1 (if log < 4 then 4 else capAt 16 log)) 0 0 0)
      else s
    if m.getLsbD 0 then
      (if v.getLsbD 0 then (if s.queueState q = 0 ∧ s.stage = .configured then s.schedule 0 .queueEnable { a := q } else s)
       else if s.queueState q ≠ 0 then s.schedule 0 .queueDisable { a := q } else s)
    else s
  | 8 => if s.queueState q = 0 then s.setReg o (new &&& maskBits 48 6) else s
  | _ => s

/-- A write of a per-domain register (R338). -/
def State.writeDomainReg (s : State) (o : Nat) (v m : Word) : State :=
  let new := mergeReg (s.reg o) v m
  match o % 32 with
  | 0 =>
    let b := capAt 1535 (fld new 10 0)
    s.setReg o (BitVec.ofNat 64 (capAt (1536 - b) (fld new 26 16) * 2 ^ 16 + b))
  | 8 => s.setReg o (new &&& maskBits 2 0)
  | 16 => s.setReg o (new &&& maskBits 23 0)
  | 24 => s.setReg o (new &&& maskBits 51 8)
  | _ => s

/-- A write of a cut register (R399). -/
def State.writeCut (s : State) (o : Nat) (v m : Word) : State :=
  let old := s.reg o
  let new := mergeReg old v m
  let st := fld (s.reg 0x19008) 1 0
  if o = 0x19000 then
    let s := s.setReg o (setFld old 31 0 (fld new 31 0))
    let s := if !wrote v m 32 then s
      else if st = 0 then (s.setReg o (setFld (s.reg o) 32 32 1)).schedule 0 .cutGo {}
      else s.setReg 0x19008 (s.reg 0x19008 ||| 4)
    if wrote v m 33 && st = 2 then ((s.setReg o (setFld (s.reg o) 33 33 1)).setReg 0x19008 (setFld (s.reg 0x19008) 1 0 3)).schedule 0 .cutResume {} else s
  else if o = 0x19008 then (if wrote v m 2 then s.setReg o (setFld old 2 2 0) else s)
  else if o < 0x19030 then s.setReg o new
  else s

/-- A write of a register of queue-identifier translation (R351). -/
def State.writeQt (s : State) (o : Nat) (v m : Word) : State :=
  let new := mergeReg (s.reg o) v m
  if o % 16 = 0 then s.setReg o (setFld (new &&& maskBits 56 13) 35 24 (capAt 2048 (fld new 35 24)))
  else
    let s := s.setReg o ((new &&& maskBits 48 8) ||| (s.reg o &&& 1))
    if wrote v m 0 then (s.setReg o (s.reg o ||| 1)).schedule 64 .stage1Invalidate { a := (o - 0x15000) / 16 } else s

/-- A write of an error counter (R380). -/
def State.writeEcc (s : State) (o : Nat) (v m : Word) : State :=
  let d := (o - 0x17000) / 256
  let r := o % 256
  let i := r % 0x80 / 8
  let new := (mergeReg (s.readReg o) v m).toNat
  if i = 12 ∧ d ≠ 0 then s
  else s.modDie d (fun q =>
    if r < 0x80 then { q with ecc := Table.put q.ecc i new } else { q with eccBad := Table.put q.eccBad i new })

/-- A write of the translation control registers (R197). -/
def State.writeControl (s : State) (o : Nat) (v m : Word) : State :=
  let new := mergeReg (s.reg o) v m
  if o = trpctb then s.setReg o (new &&& maskBits 51 13)
  else if o = trpctl then s.setCount o 0x100000 new 20
  else if o = trinvb then s.setReg o (new &&& maskBits 51 10)
  else if o = trinvt then (s.setReg o (new &&& maskBits 4 0)).invNext 32
  else if o = trstat then (if wrote v m 1 then s.setReg o (setFld (s.reg o) 1 1 0) else s)
  else s

/-- A write of the journal registers (R273). -/
def State.writeJournal (s : State) (o : Nat) (v m : Word) : State :=
  let new := mergeReg (s.reg o) v m
  if o = jbase then (if s.allDisabled then s.setReg o (new &&& maskBits 51 5) else s)
  else if o = jsize then
    (if s.allDisabled then
      let n := fld new 4 0
      s.setReg o (BitVec.ofNat 64 (if n < 6 then 6 else capAt 24 n))
     else s)
  else if o = jcons then
    let s := s.setReg o new
    (s.flushJournal s.journalWait.length).resumeFront
  else s

/-- A pair of table registers with the layouts of `TRPCTB` and `TRPCTL` at offset `o`. -/
def State.writeTable (s : State) (base limit hi : Nat) (o : Nat) (v m : Word) : State :=
  let new := mergeReg (s.reg o) v m
  if o = base then s.setReg o (new &&& maskBits 51 13) else if o = base + 8 then s.setCount o limit new hi else s

/-- A write of a doubleword of the device registers outside the core and cluster blocks. -/
def State.writeDeviceReg (s : State) (o : Nat) (v m : Word) : State :=
  let new := mergeReg (s.reg o) v m
  if 0x10000 ≤ o ∧ o < 0x11000 then s.writeControl o v m
  else if 0x11000 ≤ o ∧ o < 0x12000 then s.writeJournal o v m
  else if 0x12000 ≤ o ∧ o < 0x13000 then s.writeTable 0x12000 256 20 o v m
  else if 0x13000 ≤ o ∧ o < 0x13100 then s.writeTable 0x13000 65536 16 o v m
  else if 0x14000 ≤ o ∧ o < 0x15000 then
    (if o % 16 = 0 then s
     else if m &&& maskBits 31 0 = 0 then s.setReg o new else s.budgetAdd ((o - 0x14000) / 16) new)
  else if 0x15000 ≤ o ∧ o < 0x15400 then s.writeQt o v m
  else if 0x16000 ≤ o ∧ o < 0x17000 then s.writeTable irtbase 0x100000 20 o v m
  else if 0x17000 ≤ o ∧ o < 0x17800 then s.writeEcc o v m
  else if o = evJstall ∨ o = evQueue ∨ o = evVector then s.setReg o new
  else if 0x18100 ≤ o ∧ o < 0x18300 then s.setReg o (new &&& (maskBits 63 61 ||| maskBits 11 0))
  else if o = 0x18308 then { s.setCount o 256 new 20 with groupCount := [] }
  else if o = 0x18300 then s.setReg o (new &&& maskBits 51 13)
  else if 0x19000 ≤ o ∧ o < 0x1A000 then s.writeCut o v m
  else if o = 0x1A000 then
    if s.mgmtBusy then s else
    let w := fld new 11 0
    s.setReg o (BitVec.ofNat 64 (if w < 800 then 800 else capAt 2600 w))
  else if o = 0x1A008 then (if wrote v m 4 then s.setReg o (setFld (s.reg o) 4 4 0) else s)
  else if 0x20000 ≤ o ∧ o < 0x22000 then s.writeDomainReg o v m
  else if 0x100000 ≤ o ∧ o < 0x120000 then s.writeQueue o v m
  else s

/-- A write of the written bits `m` of the doubleword at an aligned offset of the register block. -/
def State.writeReg (s : State) (o : Nat) (v m : Word) (mgmt : Bool) : State :=
  if 0x1000000 ≤ o ∧ o < 0x1000000 + 0x2000 * 1536 then s.writeCoreReg ((o - 0x1000000) / 0x2000) (o % 0x2000) v m mgmt
  else if 0x2000000 ≤ o ∧ o < 0x2000000 + 0x40000 * 16 then
    s.writeClusterReg ((o - 0x2000000) / 0x40000) (o % 0x40000) v m
  else s.writeDeviceReg o v m

/-- The doublewords that `n` bytes at offset `o` with value `v` fall in: offset, value and written bits. -/
def regPieces (o n v : Nat) : List (Nat × Word × Word) :=
  (List.range ((o % 8 + n + 7) / 8)).map (fun k =>
    let at' := o / 8 * 8 + 8 * k
    let low := if k = 0 then o % 8 else 0
    let high := if o + n < at' + 8 then o + n - at' else 8
    let done := if k = 0 then 0 else at' - o
    (at', BitVec.ofNat 64 (v / 2 ^ (8 * done) % 2 ^ 64 * 2 ^ (8 * low)), maskBits (8 * high - 1) (8 * low)))

/-- `args.b` bytes, value `args.c`, are written at offset `args.a` of the device register block, by the management core
where `args.d` is 1. -/
def execRegisterWrite (s : State) : Host.Outcome State Fault Refusal :=
  .next (if s.args.b = 0 then s
    else (regPieces s.args.a s.args.b s.args.c).foldl (fun s p => s.writeReg p.1 p.2.1 p.2.2 (decide (s.args.d = 1))) s)

end Sys2Proof.Machine
end

