-- ==== Sys2Proof/Machine/Host.lean ====
section
/-! DEFINITION. Requests of the host and of peers, the consistent cut, power and links (R201, R383, R385, R387 to R394,
R399 to R401, R404). -/

namespace Sys2Proof.Machine

/-- Statuses of a completion: successful, Unsupported Request, Completer Abort. -/
def cplDone : Nat := 0
def cplUnsupported : Nat := 1
def cplAbort : Nat := 4

/-! ### Requests over the mailboxes of function 0 (R408, R413) -/

/-- The device answers SPDM once its first stage has run (R406). -/
def State.spdmUp (s : State) : Bool := s.stage = .configured || s.stage = .failed

/-- Management firmware runs: the first stage found an image of KIND 2 (R406). -/
def State.mgmtUp (s : State) : Bool := s.spdmUp && (Table.find s.slotInUse 2).isSome

/-- Answer a management request with a status: 0 done, 1 invalid, 2 busy, 3 refused. -/
def State.managed (s : State) (status : Nat) : State := s.emit (.managed status)

/-- A management request; it answers busy while the management core restarts. -/
def State.manage (s : State) (f : State → State) : State :=
  if !s.mgmtUp then s else if s.mgmtBusy then s.managed 2 else f s

/-- A management object: its request code, and for ACTIVATE its KIND; any other is invalid (R413). The places of the operands in
the object are the model's own (DESIGN CHOICE, log 62). -/
def State.managementObject (s : State) (o : List Byte) : State :=
  match numAt o 0 1 with
  | 1 => s.schedule 0 .domainReset { a := numAt o 4 4 }
  | 2 => s.schedule 0 .queueReset { a := numAt o 4 4, b := numAt o 8 4 }
  | 3 => s.schedule 0 .imageWrite { a := numAt o 4 4, b := numAt o 8 8, bytes := o.drop 16 }
  | 4 =>
    (match numAt o 4 4 with
      | 2 => s.schedule 0 .activateManagementFirmware {}
      | 3 => s.schedule 0 .activateColumnFirmware {}
      | 4 => s.schedule 0 .activateEngineMicrocode {}
      | _ => s.manage (fun s => s.managed 1))
  | 5 => s.schedule 0 .spare { core := numAt o 4 4 }
  | 6 =>
    s.schedule 0 .replay
      { a := numAt o 8 8, b := numAt o 4 4, c := numAt o 16 8, d := numAt o 24 4,
        pairs := (List.range (numAt o 28 4)).map (fun k => (numAt o (32 + 16 * k) 8, numAt o (40 + 16 * k) 8)) }
  | _ => s.manage (fun s => s.managed 1)

/-- The event of an SPDM request, by its code (R408). -/
def spdmEvent (code : Nat) : Instr :=
  match code with
  | 0x84 => .getVersion
  | 0xE1 => .getCapabilities
  | 0xE3 => .negotiateAlgorithms
  | 0x81 => .getDigests
  | 0x82 => .getCertificate
  | 0x83 => .challenge
  | 0xE0 => .getMeasurements
  | _ => .spdmUnsupportedRequest

/-- A data object written to the mailbox of function 0 at a host port: type 0x80 is the management protocol's, type 1 SPDM's
(R408, R413; DESIGN CHOICE, log 62). -/
def State.mailboxObject (s : State) (port ty : Nat) (o : List Byte) : State :=
  if ty = 0x80 then s.managementObject o
  else if ty = 1 then s.schedule 0 (spdmEvent (numAt o 1 1)) { a := port, bytes := o }
  else s

/-! ### CXL.mem (R388 to R390) -/

/-- The line of a device physical address is populated device memory. -/
def State.lineThere (s : State) (pa : Nat) : Bool := s.paKind (pa / 64 * 64) = .dram

/-- A host request that was routed with the old entry of a moved page (`args.core` 1) is forwarded once to the new home; with
the last one the forward window ends (R221). -/
def State.routed (s : State) (pa : Nat) : State :=
  if s.args.core ≠ 1 then s
  else
    match Table.find s.forwards (pa >>> 19) with
    | some (old, n + 1) =>
      let t : State := { s with forwards := Table.put s.forwards (pa >>> 19) (old, n) }
      if n = 0 then t.schedule 0 .forwardWindowClose { a := pa >>> 19 } else t
    | _ => s

/-- The host reads the line of device physical address `args.a`, tag `args.d`. With `args.b` 1 it then holds the line of a
page in host bias in its own caches, where it has `args.bytes` in it, or what it read (R388). -/
def execHostCxlMemRead (s : State) : Host.Outcome State Fault Refusal :=
  let a := s.args.a / 64 * 64
  let s := s.routed a
  let now := leBytes 64 (s.readPhys a 64)
  .next (if !s.lineThere a then s.emit (.hostData s.args.d [] true)
    else
      let t := s.emit (.hostData s.args.d now (s.poisoned a))
      if s.args.b = 1 ∧ s.hostBias.contains (a >>> 19) then
        { t with hostCopies := Table.put t.hostCopies (a / 64) (if s.args.bytes.length = 64 then s.args.bytes else now) }
      else t)

/-- The host writes `args.bytes` at device physical address `args.a`, tag `args.d`: performed at the home before its
completion; discarded where nothing is populated. -/
def execHostCxlMemWrite (s : State) : Host.Outcome State Fault Refusal :=
  let s := s.routed s.args.a
  let t := if s.lineThere s.args.a then s.agentWrite s.args.a s.args.bytes else s
  .next (t.emit (.hostDone s.args.d cplDone))

/-! ### AtomicOps (R389, R390) -/

/-- The new value of an AtomicOp of `w` bits: 0 FetchAdd, 1 Swap, 2 CAS with a compare value. -/
def atomicOpNew (w op old operand compare : Nat) : Nat :=
  match op with
  | 0 => (old + operand) % 2 ^ w
  | 1 => operand % 2 ^ w
  | _ => if old = compare % 2 ^ w then operand % 2 ^ w else old

/-- An AtomicOp at the home of a device physical address: a seq_cst atomic at `.sys` (R209). -/
def State.atomicAtHome (s : State) (pa : Nat) : State :=
  let g := s.args
  if !s.lineThere pa ∨ s.poisoned pa then s.emit (.hostDone g.slot cplAbort)
  else
    let s := s.drainLine (s.homeDie pa) (pa / 64)
    let old := s.readPhys pa g.b
    (s.agentWrite pa (leBytes g.b (atomicOpNew (8 * g.b) g.c old g.d g.e))).emit (.hostData g.slot (leBytes g.b old) false)

/-- The same at a scratchpad, which a page of the aperture names. -/
def State.atomicAtSpad (s : State) (k a : Nat) : State :=
  let g := s.args
  let old := Bytes.readLE (s.core k).spad a g.b
  if s.poisonedIn (spadPa k a) g.b then s.emit (.hostDone g.slot cplAbort)
  else (s.spadWrite k a (leBytes g.b (atomicOpNew (8 * g.b) g.c old g.d g.e)) none).emit (.hostData g.slot (leBytes g.b old) false)

/-- An AtomicOp `args.c` of `args.b` bytes, operand `args.d`, compare value `args.e`, tag `args.slot`: at device physical
address `args.a` through the alias window, or, where `args.bytes` holds the 4 bytes of a PASID prefix, at a virtual address
through BAR4, translated under that PASID and checked against its domain (R194, R389). -/
def execHostAtomicop (s : State) : Host.Outcome State Fault Refusal :=
  let g := s.args
  .next (if !g.atomicSupported then s.emit (.hostDone g.slot cplUnsupported)
    else if g.bytes = [] then (s.routed g.a).atomicAtHome g.a
    else
      let pasid := leValue g.bytes % 2 ^ 20
      match s.engineTarget (frontAgent (fld (s.contextWords pasid).1 15 8) pasid) .amo g.a g.b with
      | (s, .ok (.mem _ t)) => s.atomicAtHome t.pa
      | (s, .ok (.spad k a)) => s.atomicAtSpad k a
      | (s, _) => s.emit (.hostDone g.slot cplAbort))

/-! ### CXL.io (R268, R351, R384, R389, R390) -/

/-- A CXL.io request: which window it comes through (0 the register block and 2 the alias window of function 0, 4 the
translated window, 1 the register aperture, 3 the notify aperture, 5 the mailbox, where the address is the port and the value
the type of the object), function, PASID if it carries one, address within the
window, size, value and tag. -/
structure IoReq where
  write : Bool
  window : Nat
  fn : Nat
  pasid : Option Nat
  addr : Nat
  size : Nat
  value : Nat
  tag : Nat
deriving DecidableEq, Repr

/-- The request of an event: `args.a` address, `args.b` size, `args.c` value, `args.e` tag; `args.d` bit 0 write, bits
3:1 window, bits 9:4 function, bit 10 PASID present, bits 30:11 PASID. -/
def Args.ioReq (g : Args) : IoReq :=
  { write := bit g.d 0, window := bits g.d 3 1, fn := bits g.d 9 4, pasid := if bit g.d 10 then some (bits g.d 30 11) else none,
    addr := g.a, size := g.b, value := g.c, tag := g.e }

/-- A read answers with its bytes; a write is posted. -/
def State.ioAnswer (s : State) (q : IoReq) (v : Nat) : State := if q.write then s else s.emit (.hostData q.tag (leBytes q.size v) false)

/-- A failed read completes with a status; a failed write is discarded. -/
def State.ioFails (s : State) (q : IoReq) (status : Nat) : State := if q.write then s else s.emit (.hostDone q.tag status)

/-- A request that reaches a register at an offset of the register block. -/
def State.ioRegister (s : State) (q : IoReq) (off : Nat) : State :=
  if q.write then s.schedule 0 .registerWrite { a := off, b := q.size, c := q.value }
  else s.ioAnswer q (s.readRegBytes off q.size)

/-- Every line that `n` bytes meet is populated device memory. -/
def State.linesThere (s : State) (pa n : Nat) : Bool :=
  n = 0 || (List.range ((pa + n - 1) / 64 - pa / 64 + 1)).all (fun k => s.lineThere (64 * (pa / 64 + k)))

/-- A request to device memory by physical address. -/
def State.ioMemory (s : State) (q : IoReq) : State :=
  let s := s.routed q.addr
  if !s.linesThere q.addr q.size ∨ s.poisonedIn q.addr q.size then s.ioFails q cplAbort
  else if q.write then s.agentWrite q.addr (leBytes q.size q.value)
  else s.ioAnswer q (s.readPhys q.addr q.size)

/-- Every byte of a translated write lies in a page that allows it and in lines that are not poisoned. -/
def State.ioWritable (s : State) (g : EngAgent) (va n : Nat) : State × Bool :=
  (pagePieces va n).foldl (fun (q : State × Bool) p =>
    match q.1.engineTarget g .store p.1 p.2 with
    | (s, .ok (.mem _ t)) => (s, q.2 && !s.poisonedIn t.pa p.2)
    | (s, .ok (.spad k a)) => (s, q.2 && !s.poisonedIn (spadPa k a) p.2)
    | (s, _) => (s, false)) (s, true)

/-- A request translated under its PASID, checked against the domain bound to it. The manual gives such a request no privilege: it
is checked as U-mode (DESIGN CHOICE, log 49). -/
def State.ioTranslated (s : State) (q : IoReq) (pasid : Nat) : State :=
  let g := frontAgent (fld (s.contextWords pasid).1 15 8) pasid
  if q.write then
    match s.ioWritable g q.addr q.size with
    | (s, true) => (s.engineWrite g q.addr (leBytes q.size q.value)).1
    | (s, false) => s
  else
    match s.engineRead g q.addr q.size with
    | (s, .error _) => s.ioFails q cplAbort
    | (s, .ok bs) => s.ioAnswer q (leValue bs)

/-- The host's CXL.io request. -/
def execHostCxlioRequest (s : State) : Host.Outcome State Fault Refusal :=
  let q := s.args.ioReq
  .next (match q.window, q.fn, q.pasid with
    | 0, 0, none => s.ioRegister q q.addr
    | 5, 0, none => s.mailboxObject q.addr q.value s.args.bytes
    | 2, 0, none => s.ioMemory q
    | 4, _, some p => s.ioTranslated q p
    | 1, f, none =>
      (match s.queueOf f (q.addr / 64) with
        | (s, none) => s.ioAnswer q 0
        | (s, some i) => s.ioRegister q (0x100000 + 64 * i + q.addr % 64))
    | 3, f, none =>
      if q.write then s.schedule 0 .notifyWrite { a := f, b := q.addr / 4096, c := q.addr % 4096, d := q.size, e := q.value }
      else
        let r := s.notifyRead f (q.addr / 4096) (q.addr % 4096) q.size
        r.1.ioAnswer q r.2
    | _, _, _ => s.ioFails q cplUnsupported)

/-- The host snoops the host line `args.a`, or claims it where `args.b` is 1: a hub coherence cache that holds the line
answers with its bytes, after what cores have released there; the bytes that the host then has in it are `args.bytes`, none
where it keeps those there were (R391). -/
def execHostCxlCacheRequest (s : State) : Host.Outcome State Fault Refusal :=
  let l := s.args.a
  .next (if s.paKind (64 * l) ≠ .host then s
    else
      let s := s.drainLine (s.homeDie (64 * l)) l
      let s := if s.hostLines.contains l then s.emit (.hostData s.args.d (Bytes.readList s.mem (64 * l) 64) false) else s
      let bytes := s.args.bytes.take 64
      if s.args.b ≠ 1 then s
      else (({ s with hostLines := s.hostLines.filter (· ≠ l) } : State).breakBlock (64 * l) bytes.length none).writePhys (64 * l) bytes)

/-! ### Peers (R393, R394) -/

/-- A valid entry of the peer table names the PBR ID. -/
def State.peerKnown (s : State) (pid : Nat) : Bool :=
  (List.range 64).any (fun p =>
    let w := s.peerEntry p
    w.getLsbD 63 && fld w 11 0 = pid)

/-- A request of the peer with PBR ID `args.core` at device physical address `args.a`: `args.b` bytes, kind `args.c`
(0 load, 1 store, 2 atomic operation, 3 compare and swap), operand `args.d`, for a compare and swap the expected value
`args.e`, for an operation the code `args.e` mod 8 and the type `args.e` / 8; tag `args.slot`. -/
def execPeerRequest (s : State) : Host.Outcome State Fault Refusal :=
  let g := s.args
  .next (if !s.peerKnown g.core ∨ !s.lineThere g.a ∨ (g.c ≠ 1 ∧ s.poisoned g.a) then s.emit (.hostDone g.slot cplAbort)
    else
      let s := s.drainLine (s.homeDie g.a) (g.a / 64)
      let old := s.readPhys g.a g.b
      if g.c = 1 then (s.agentWrite g.a (leBytes g.b g.d)).emit (.hostDone g.slot cplDone)
      else
        let op : AtomicOp := if g.c = 3 then .cas g.e else .rmw (g.e % 8) (g.e / 8) (intSigned (g.e / 8)) (8 * g.b)
        let t := if g.c = 0 then s
          else
            match op.result amoFadd old g.d with
            | some v => s.agentWrite g.a (leBytes g.b v)
            | none => s
        t.emit (.hostData g.slot (leBytes g.b old) false))

/-! ### The consistent cut (R399, R400) -/

/-- Offset of `CUTSTAT`, and its state. -/
def cutstat : Nat := 0x19008
def State.cutState (s : State) : Nat := fld (s.reg cutstat) 1 0
def State.cutEpoch (s : State) : Nat := fld (s.reg cutstat) 47 16

/-- The domain is one of the job's. -/
def State.jobDomain (s : State) (dom : Nat) : Bool := bit (s.reg (0x19010 + 8 * (dom / 64))).toNat (dom % 64)

/-- The peers of the job. -/
def State.jobPeers (s : State) : List Nat :=
  (List.range 64).filter (fun p => (s.peerEntry p).getLsbD 63 && (s.peerEntry p).getLsbD 62)

/-- The job's waves that are bound. -/
def State.jobSlots (s : State) : List (Nat × Nat) :=
  s.cores.flatMap (fun e => (e.2.slots.filter (fun k => k.2.state ≠ .free && s.jobDomain k.2.wave.dom)).map (fun k => (e.1, k.1)))

/-- The copy and decompression commands of the job stop at their granules. -/
def State.stopJobEngines (s : State) : State :=
  { s with rings := s.rings.map (fun (r : Ring) =>
      if r.cls = .coll then r
      else
        let live := (match r.running with
          | some q => [q.poster]
          | none => []) ++ r.posters
        let csas := (live.filter (fun p => s.jobDomain p.dom)).map (fun p => p.csa)
        { r with stopped := csas.foldl (fun l c => if l.contains c then l else c :: l) r.stopped }) }

/-- A collective of the job that has started on all ranks still runs. -/
def State.jobCollRuns (s : State) : Bool :=
  s.rings.any (fun (r : Ring) => r.cls = .coll && (match r.running with
    | some q => q.begun && s.jobDomain q.poster.dom
    | none => false))

/-- PEND follows the markers that have not arrived; the device is ready once its own are sent and none is missing. -/
def State.cutProgress (s : State) : State :=
  let left := (s.jobPeers.filter (fun p => !s.markers.contains (p, s.cutEpoch))).length
  let s := s.setReg cutstat (setFld (s.reg cutstat) 15 8 left)
  if s.cutState = 1 ∧ s.markersSent ∧ left = 0 then
    let t : State := { s with markers := s.markers.filter (fun m => m.2 ≠ s.cutEpoch) }
    (t.setReg cutstat (setFld (t.reg cutstat) 1 0 2)).setReg 0x19000 (setFld (t.reg 0x19000) 32 32 0)
  else s

/-- A cut starts: its epoch, the markers already there, pre-emption of the job's waves, engines at their granules. -/
def State.cutStart (s : State) : State :=
  let epoch := fld (s.reg 0x19000) 31 0
  let wrong := s.markers.any (fun m => m.2 ≠ epoch)
  let err := fld (s.reg cutstat) 2 2
  let s := s.setReg cutstat (BitVec.ofNat 64 (epoch * 2 ^ 16 + (if wrong then 4 else err * 4) + 1))
  let t : State := { s with markers := s.markers.filter (fun m => m.2 = epoch), markersSent := false }
  let t := t.stopJobEngines
  let t := (t.rings.filter (fun (r : Ring) => r.cls = .coll && (t.live r).any (fun q => q.begun))).foldl (fun s r => s.scheduleGranule r) t
  (t.jobSlots.foldl (fun s q => s.requestPreemption q.1 q.2) t).cutProgress

/-- `CUTCTL.GO` starts a cut, and the event goes on until the device is ready: it sends its markers once every wave of
the job has left its slot and every collective that has started on all ranks has completed. -/
def execCutGo (s : State) : Host.Outcome State Fault Refusal :=
  .next (if !(s.reg 0x19000).getLsbD 32 then s
    else if s.cutState = 0 then (if s.column.isSome then s.schedule 64 .cutGo {} else s.cutStart.schedule 64 .cutGo {})
    else if s.cutState ≠ 1 ∨ s.markersSent then s
    else if s.jobSlots ≠ [] ∨ s.jobCollRuns then s.schedule 64 .cutGo {}
    else
      let s := s.jobPeers.foldl (fun s p => s.emit (.marker p s.cutEpoch)) s
      ({ s with markersSent := true } : State).cutProgress)

/-- A marker of epoch `args.b` arrives from peer `args.a`. -/
def execCutMarkerArrival (s : State) : Host.Outcome State Fault Refusal :=
  let p := s.args.a
  let e := s.args.b
  .next (if s.cutState = 0 then { s with markers := if s.markers.contains (p, e) then s.markers else s.markers ++ [(p, e)] }
    else if e ≠ s.cutEpoch then s.setReg cutstat (s.reg cutstat ||| 4)
    else if s.cutState = 1 then
      ({ s with markers := if s.markers.contains (p, e) then s.markers else s.markers ++ [(p, e)] } : State).cutProgress
    else s)

/-- Engine commands stopped for the cut go on, but those of waves that are saved or leaving: they go on at the restore
(R173). -/
def State.resumeJobEngines (s : State) : State :=
  let away (csa : Nat) : Bool :=
    s.saved.contains csa || s.cores.any (fun e => e.2.slots.any (fun k => k.2.state = .handingOver && k.2.wave.csa = csa))
  (s.rings.flatMap (fun (r : Ring) => r.stopped)).foldl (fun s csa => if away csa then s else s.resumeEngines csa) s

/-- Collective rings whose next entry a cut held back start it. -/
def State.resumeCollectives (s : State) : State :=
  (s.rings.filter (fun (r : Ring) => r.cls = .coll && r.running.isNone && r.posters ≠ [])).foldl (fun s r => s.nextEntry r.id) s

/-- `CUTCTL.RESUME` in state ready: acceptance opens again and the device is idle. -/
def execCutResume (s : State) : Host.Outcome State Fault Refusal :=
  .next (if s.cutState ≠ 3 ∨ !(s.reg 0x19000).getLsbD 33 then s
    else
      let s := (s.setReg cutstat (setFld (s.reg cutstat) 1 0 0)).setReg 0x19000 (setFld (s.reg 0x19000) 33 33 0)
      ((({ s with markersSent := false } : State).resumeJobEngines).resumeCollectives).resumeFront)

/-! ### Power, links, errors -/

/-- Offset of `THSTAT`. -/
def thstat : Nat := 0x1A008

/-- The clock goes to step `args.a`, at a rotation boundary and not while the management core restarts (R414); `args.b` says
that a die reached its thermal limit. -/
def execClockStepChange (s : State) : Host.Outcome State Fault Refusal :=
  let st := s.args.a
  .next (if 4 < st then s
    else if s.cycle % 16 ≠ 0 ∨ s.mgmtBusy then s.schedule (16 - s.cycle % 16) .clockStepChange s.args
    else
      let hot := if s.args.b = 1 then 1 else fld (s.reg thstat) 4 4
      s.setReg thstat (BitVec.ofNat 64 (hot * 16 + b2n (decide (st ≠ 0)) * 8 + st)))

/-- A fatal error: every core stops issuing, every port reports it, and no packet is accepted (R383). -/
def State.stopAll (s : State) : State := ({ s with fatal := true, intake := false } : State).emit .fatal

/-- The critical temperature (R404). -/
def execCriticalTemperatureStop (s : State) : Host.Outcome State Fault Refusal :=
  .next (s.setReg thstat (s.reg thstat ||| 16)).stopAll

/-- A die-to-die link fails beyond correction (R383). -/
def execDieLinkFatalError (s : State) : Host.Outcome State Fault Refusal := .next s.stopAll

/-- One more error in counter `i` of a table of ECC counters, saturating (R380). -/
def countError (t : Table Nat) (i : Nat) : Table Nat := Table.put t i (capAt (2 ^ 64 - 1) (Table.get t i 0 + 1))

/-- Memory `i` of R380 holds lines that a fetch or a load reads: scratchpads, by the lines of the aperture, the core caches,
L2 and the memories behind it. -/
def holdsLines (i line : Nat) : Bool :=
  if i = 1 then decide (0xE000000000000 ≤ 64 * line ∧ 64 * line < 0xE000030000000) else [5, 6, 7, 8, 9, 11, 12].contains i

/-- Background scrubbing corrects a bit in a memory of die `args.a` (counter 15), where `args.b` is 0. Otherwise an access meets
an error in memory `args.b` − 1 of R380: a corrected one is counted, and one that cannot be corrected (`args.c` not 0) is
counted as such and poisons line `args.d` where that memory holds lines (R201); a line of an instruction cache is fetched anew. -/
def execScrubCorrection (s : State) : Host.Outcome State Fault Refusal :=
  let die := s.args.a
  let i := s.args.b - 1
  .next (if s.args.b = 0 then s.modDie die (fun d => { d with ecc := countError d.ecc 15 })
    else if 15 ≤ i ∨ (i = 12 ∧ die ≠ 0) then s
    else if s.args.c = 0 then s.modDie die (fun d => { d with ecc := countError d.ecc i })
    else
      let s := s.modDie die (fun d => { d with eccBad := countError d.eccBad i })
      let line := s.args.d
      let s := if i = 7 then (s.coresOf die).foldl (fun s c => (s.dropLines c .inst (fun l => l.pline = line)).dropFetched c) s else s
      if holdsLines i line then { s with poison := line :: s.poison.filter (· ≠ line) } else s)

/-- A memory expander, entry `args.a` of the populated ranges, is removed: its range is populated no more (R385). The
LPDDR of a package stays. -/
def execMemoryExpanderRemoval (s : State) : Host.Outcome State Fault Refusal :=
  .next (match s.populated[s.args.a]? with
    | some r => if s.pkg.form = 2 ∧ s.args.a = 0 then s else { s with removed := r :: s.removed.filter (· ≠ r) }
    | none => s)

/-- Port `args.a` trains to `args.b` lanes at speed code `args.c`, or goes down (R387). Until the first stage has trained the
links every port is down (R406). -/
def execLinkTraining (s : State) : Host.Outcome State Fault Refusal :=
  let o := 0x18000 + 8 * s.args.a
  let up := (s.args.b = 8 ∨ s.args.b = 16) ∧ (s.args.c = 5 ∨ s.args.c = 6)
  .next (if 8 ≤ s.args.a ∨ !s.spdmUp then s
    else if up then s.setReg o (setFld (setFld (s.reg o) 12 8 s.args.b) 7 4 s.args.c)
    else if s.args.b = 0 ∧ s.args.c = 0 then s.setReg o (setFld (setFld (s.reg o) 12 8 0) 7 4 0)
    else s)

end Sys2Proof.Machine
end

