-- ==== Sys2Proof/Machine/Boot.lean ====
section
/-! DEFINITION. Images, the boot chain, measurements, the configuration table and SPDM (R385, R387, R405 to R410,
R418). -/

namespace Sys2Proof.Machine

/-! ### Images (R405, R406) -/

/-- The image in a flash slot of a kind. -/
def State.image (s : State) (kind slot : Nat) : List Byte := Table.get s.flash (2 * kind + slot) []

/-- Body of an image. -/
def imageBody (bs : List Byte) : List Byte := (bs.drop 256).take (numAt bs 16 4)

/-- D of an image. -/
def imageDigest (bs : List Byte) : List Byte := shake256 64 (bs.take 64 ++ imageBody bs)

/-- An image of a kind is valid: magic, kind, reserved bytes and sizes, key, signature, SVN, in that order. -/
def State.imageValid (s : State) (kind : Nat) (bs : List Byte) : Bool :=
  let size := numAt bs 16 4
  decide (256 ≤ bs.length) && numAt bs 0 4 = 0x3149484E && numAt bs 4 1 = kind && numAt bs 5 3 = 0 && numAt bs 20 44 = 0 &&
    numAt bs 121 7 = 0 && numAt bs 242 14 = 0 && decide (1 ≤ size ∧ size ≤ 2 ^ 24 ∧ 256 + size ≤ bs.length) &&
    shake256 64 ((bs.drop 64).take 57) = s.rootDigest &&
    ed448Verify ((bs.drop 64).take 57) (imageDigest bs) ((bs.drop 128).take 114) &&
    decide (Table.get s.minSvn kind 0 ≤ numAt bs 8 4)

/-- The slots of a kind in the order boot tries them: the higher SEQ first, slot A where they are equal. -/
def State.slotOrder (s : State) (kind : Nat) : List Nat :=
  if numAt (s.image kind 0) 12 4 < numAt (s.image kind 1) 12 4 then [1, 0] else [0, 1]

/-- The slot boot takes for a kind: the first that is valid and loads. -/
def State.pickSlot (s : State) (kind : Nat) (loads : List Byte → Bool) : Option Nat :=
  let valid (i : Nat) : Bool := s.imageValid kind (s.image kind i)
  let order := if valid 0 && valid 1 then s.slotOrder kind else [0, 1]
  order.find? (fun i => valid i && loads (imageBody (s.image kind i)))

/-! ### Measurements (R407) -/

/-- Measurement register `i`. -/
def State.measOf (s : State) (i : Nat) : List Byte := Table.get s.meas i (List.replicate 64 0)

/-- Extend measurement register `i` by a digest. -/
def State.extend (s : State) (i : Nat) (d : List Byte) : State :=
  { s with meas := Table.put s.meas i (shake256 64 (s.measOf i ++ d)) }

/-! ### The configuration table (R409) -/

/-- The first `n` bytes of a field as numbers. -/
def byteList (bs : List Byte) (o n : Nat) : List Nat := (List.range n).map (fun k => numAt bs (o + k) 1)

/-- Spared cores of a cluster in a table. -/
def spareBits (bs : List Byte) (k : Nat) : Nat := numAt bs (176 + 12 * k) 12

/-- Number of set bits below 96. -/
def count96 (v : Nat) : Nat := ((List.range 96).filter (fun i => bit v i)).length

/-- A table breaks no limit. -/
def tableOk (bs : List Byte) : Bool :=
  let w := numAt bs 0 1
  let map := byteList bs 40 w
  let roles := byteList bs 44 w
  let reclaim := numAt bs 4 4
  let period := numAt bs 8 4
  decide (1392 ≤ bs.length ∧ 1 ≤ w ∧ w ≤ 4) && decide (numAt bs 1 1 ≤ 1) && numAt bs 2 2 = 0 &&
    decide (1 ≤ reclaim ∧ reclaim ≤ 10000 ∧ 100 ≤ period ∧ period ≤ 1000000) && numAt bs 12 4 = 0 &&
    numAt bs 16 8 % 2 ^ 17 = 0 && decide (numAt bs 16 8 < 2 ^ 52) && numAt bs 24 8 % 2048 = 0 &&
    decide (numAt bs 24 8 < 2 ^ 52 ∧ 4 ≤ numAt bs 32 1 ∧ numAt bs 32 1 ≤ 16) && numAt bs 33 7 = 0 &&
    map.all (fun i => decide (i ≤ 95)) && decide (map.eraseDups.length = map.length) &&
    (List.range 3).all (fun r => roles.any (fun v => bit v r && !bit v 3)) &&
    (byteList bs 48 64).all (fun p => decide (p ≤ 7)) && (List.range 16).all (fun k => numAt bs (112 + 4 * k + 2) 2 = 0) &&
    (List.range 16).all (fun k => decide (count96 (spareBits bs k) ≤ 8))

/-- A list as a sparse table of its non-zero entries. -/
def sparse (l : List Nat) : Table Nat := ((List.range l.length).zip l).filter (fun e => e.2 ≠ 0)

/-- The configuration of a table. -/
def cfgOf (bs : List Byte) : Cfg :=
  let w := numAt bs 0 1
  { colw := w, compat := bit (numAt bs 1 1) 0, reclaim := numAt bs 4 4, period := numAt bs 8 4, frbase := numAt bs 16 8,
    recbase := numAt bs 24 8, rlog := numAt bs 32 1, colmap := byteList bs 40 w, colrole := byteList bs 44 w,
    funcport := sparse (byteList bs 48 64), expanders := (List.range 16).map (fun k => (numAt bs (112 + 4 * k) 1, numAt bs (113 + 4 * k) 1)),
    spare := sparse ((List.range 16).map (spareBits bs)), grant := sparse ((List.range 256).map (fun d => numAt bs (368 + 4 * d) 4)) }

/-- The firewall of a core under a configuration: COL for a column core, OOS for the highest positions of a cluster with
spared cores (R410, R418). -/
def Cfg.firewall (c : Cfg) (core : Nat) : Word :=
  let n := count96 (Table.get c.spare (core / 96) 0)
  BitVec.ofNat 64 (b2n (c.colmap.contains (core % 96)) + 2 * b2n (decide (96 - n ≤ placementOf core % 96)))

/-- The attached expanders that the table lists, in port order and then in its order (R385). -/
def Cfg.mapped (c : Cfg) (attached : List (Nat × Nat)) : List (Nat × Nat) :=
  let order := (List.range 8).flatMap (fun p => (c.expanders.filter (fun e => e.1 = p)).map (fun e => e.1 * 256 + e.2))
  order.eraseDups.filterMap (fun k => attached.find? (fun a => a.1 = k))

/-- The ranges of the second tier: the LPDDR of a package that has it, then the attached expanders in port order and in
the order the table lists them, each from a multiple of 512 MiB (R385). An expander is (port × 256 + index, bytes). -/
def Cfg.ranges (c : Cfg) (lpddr : Bool) (attached : List (Nat × Nat)) : List (Nat × Nat) :=
  let sizes := (c.mapped attached).map (fun a => a.2)
  let base := 2 ^ 48
  let first := if lpddr then [(base, 0xEE6B280000)] else []
  sizes.foldl (fun l n =>
    let top := match l.getLast? with
      | some r => r.1 + r.2
      | none => base
    l ++ [((top + 2 ^ 29 - 1) / 2 ^ 29 * 2 ^ 29, n)]) first

/-- Apply a configuration, sparing and the firewalls to the package as it is fitted. -/
def State.configure (s : State) (c : Cfg) : State :=
  let g := s.pkg
  let s := (List.range 1536).foldl (fun s k =>
    let f := c.firewall k
    if f = 0 then s else s.modCore k (fun q => { q with fwall := f })) s
  let ranges := c.ranges (decide (g.form = 2)) g.expanders
  let top := match ranges.getLast? with
    | some r => r.1 + r.2 - 2 ^ 48
    | none => 0
  let s : State := { s with cfg := c, populated := ranges, removed := [] }
  let s := ((s.setReg 0x8 (BitVec.ofNat 64 top)).setReg 0x10 (BitVec.ofNat 64 (g.form * 256 + 1))).setReg 0x18040 (BitVec.ofNat 64 (g.pbrId % 4096))
  (List.range 8).foldl (fun s p =>
    let n := ((List.range 64).filter (fun f => Table.get c.funcport f 0 = p)).length
    s.setReg (0x18000 + 8 * p) (BitVec.ofNat 64 (n * 2 ^ 16 + b2n (bit g.switchPorts p) * 2 + b2n (bit g.hostPorts p)))) s

/-! ### The boot chain (R406) -/

/-- The boot ROM: it takes the first stage and jumps to it, or the device stays in reset with every port down. -/
def execBootRomStage (s : State) : Host.Outcome State Fault Refusal :=
  .next (if s.stage ≠ .reset then s
    else
      match s.pickSlot 1 (fun _ => true) with
      | none => s
      | some i =>
        let t := s.extend 0 (imageDigest (s.image 1 i))
        { t with stage := .firstStage, slotInUse := Table.put t.slotInUse 1 i }.schedule 1000 .firstStageBoot {})

/-- The first stage loads one kind into a measurement register. -/
def State.loadKind (s : State) (kind reg : Nat) (loads : List Byte → Bool) : State × Option Nat :=
  match s.pickSlot kind loads with
  | none => (if kind = 5 then s.extend reg (List.replicate 64 0) else s, none)
  | some i =>
    let t := s.extend reg (imageDigest (s.image kind i))
    ({ t with slotInUse := Table.put t.slotInUse kind i }, some i)

/-- The ports that face a host or a switch are to train, to their full width and speed (R386, R387; DESIGN CHOICE, log 58). -/
def State.trainLinks (s : State) : State :=
  (List.range 8).foldl (fun s p =>
    if bit s.pkg.hostPorts p || bit s.pkg.switchPorts p then s.schedule 1000 .linkTraining { a := p, b := 16, c := 6 } else s) s

/-- The first stage: management firmware, configuration table, column firmware and microcode, in that order; then the
configuration is applied and the links train. Without an image of each kind no interface is ever enabled. -/
def execFirstStageBoot (s : State) : Host.Outcome State Fault Refusal :=
  .next (if s.stage ≠ .firstStage then s
    else
      let (s, a) := s.loadKind 2 1 (fun _ => true)
      let (s, t) := s.loadKind 5 2 tableOk
      let (s, b) := s.loadKind 3 3 (fun _ => true)
      let (s, c) := s.loadKind 4 4 (fun _ => true)
      let cfg := match t with
        | some i => cfgOf (imageBody (s.image 5 i))
        | none => {}
      { (s.configure cfg).trainLinks with stage := if a.isSome && b.isSome && c.isSome then .configured else .failed })

/-! ### SPDM (R408) -/

/-- An SPDM message of version 1.3 with a code, two parameters and a body. -/
def spdmMessage (code p1 p2 : Nat) (body : List Byte) : List Byte := leBytes 1 0x13 ++ leBytes 1 code ++ leBytes 1 p1 ++ leBytes 1 p2 ++ body

/-- ERROR with a code. -/
def State.spdmError (s : State) (code data : Nat) : State := s.emit (.answer s.args.a 0x7F (spdmMessage 0x7F code data []))

/-- What has been exchanged over the mailbox that the request came through. -/
def State.transcript (s : State) : List Byte := Table.get s.transcripts s.args.a []

/-- Keep what has been exchanged over that mailbox. -/
def State.setTranscript (s : State) (t : List Byte) : State := { s with transcripts := Table.put s.transcripts s.args.a t }

/-- Answer the request of `args.bytes` over the mailbox of function 0 at host port `args.a`: ERROR Busy while the management
core restarts. `f` gives the answer. A port that faces no host has no mailbox. -/
def State.spdm (s : State) (f : State → List Byte → State) : State :=
  if !s.spdmUp || !bit s.pkg.hostPorts s.args.a then s
  else if s.mgmtBusy then s.spdmError 3 0
  else f s s.args.bytes

/-- Send an answer and keep the exchange in the transcript. -/
def State.spdmAnswer (s : State) (code : Nat) (msg : List Byte) : State :=
  (s.setTranscript (s.transcript ++ s.args.bytes ++ msg)).emit (.answer s.args.a code msg)

/-- Send an answer signed over the transcript (SHA3-512, Ed448). -/
def State.spdmSigned (s : State) (code : Nat) (msg : List Byte) : State :=
  let t := s.transcript ++ s.args.bytes ++ msg
  let h := BitVec.ofNat 512 (leValue (sha3x512 t))
  let sig := (List.range 114).map (Config.signByte h)
  (s.setTranscript (t ++ sig)).emit (.answer s.args.a code (msg ++ sig))

/-- 32 fresh bytes of a nonce. -/
def State.nonce (s : State) : State × List Byte :=
  ({ s with freeCount := s.freeCount + 32 }, (List.range 32).map (fun k => Config.freeByte (s.freeCount + k)))

/-- The certificate chain of slot 0. -/
def certChain : List Byte := (List.range Config.certLength.toNat).map Config.certByte

/-- GET_VERSION: version 1.3; the transcript starts afresh. -/
def execGetVersion (s : State) : Host.Outcome State Fault Refusal :=
  .next (s.spdm (fun s _ => (s.setTranscript []).spdmAnswer 0x04
    (leBytes 4 0x00000410 ++ [0, 1] ++ leBytes 2 0x1300)))

/-- GET_CAPABILITIES: CERT_CAP, CHAL_CAP and MEAS_CAP signed. -/
def execGetCapabilities (s : State) : Host.Outcome State Fault Refusal :=
  .next (s.spdm (fun s _ => s.spdmAnswer 0x61 (spdmMessage 0x61 0 0 (leBytes 4 0 ++ leBytes 4 0x16 ++ leBytes 4 4608 ++ leBytes 4 4608))))

/-- NEGOTIATE_ALGORITHMS: DMTF measurements as a raw bit stream, Ed448, SHA3-512. -/
def execNegotiateAlgorithms (s : State) : Host.Outcome State Fault Refusal :=
  .next (s.spdm (fun s _ => s.spdmAnswer 0x63 (spdmMessage 0x63 0 0
    (leBytes 2 36 ++ [1, 0] ++ leBytes 4 1 ++ leBytes 4 0x800 ++ leBytes 4 0x20 ++ List.replicate 16 0))))

/-- GET_DIGESTS: certificate slot 0. -/
def execGetDigests (s : State) : Host.Outcome State Fault Refusal :=
  .next (s.spdm (fun s _ => s.spdmAnswer 0x01 (spdmMessage 0x01 0 1 (sha3x512 certChain))))

/-- GET_CERTIFICATE: slot 0, an offset and a length. -/
def execGetCertificate (s : State) : Host.Outcome State Fault Refusal :=
  .next (s.spdm (fun s q =>
    if numAt q 2 1 % 16 ≠ 0 ∨ certChain.length ≤ numAt q 4 2 then s.spdmError 1 0
    else
      let part := (certChain.drop (numAt q 4 2)).take (numAt q 6 2)
      s.spdmAnswer 0x02 (spdmMessage 0x02 0 0
        (leBytes 2 part.length ++ leBytes 2 (certChain.length - numAt q 4 2 - part.length) ++ part))))

/-- CHALLENGE: slot 0, signed over the transcript. The answer ends with the requester's 8 bytes of context. -/
def execChallenge (s : State) : Host.Outcome State Fault Refusal :=
  .next (s.spdm (fun s q =>
    if numAt q 2 1 ≠ 0 then s.spdmError 1 0
    else
      let n := s.nonce
      let sum := if numAt q 3 1 = 0 then [] else sha3x512 ((List.range 8).flatMap s.measOf)
      n.1.spdmSigned 0x03 (spdmMessage 0x03 0 1 (sha3x512 certChain ++ n.2 ++ sum ++ [0, 0] ++ leBytes 8 (numAt q 36 8)))))

/-- The block of a measurement register. -/
def State.measBlock (s : State) (i : Nat) : List Byte :=
  leBytes 1 i ++ [1] ++ leBytes 2 67 ++ [0x80] ++ leBytes 2 64 ++ s.measOf (i - 1)

/-- GET_MEASUREMENTS: indices 1 to 8, or 0xFF for all; signed where the request asks for it, which then carries a nonce and a
slot number before the requester's 8 bytes of context. -/
def execGetMeasurements (s : State) : Host.Outcome State Fault Refusal :=
  .next (s.spdm (fun s q =>
    let i := numAt q 3 1
    let is := if i = 0xFF then (List.range 8).map (· + 1) else [i]
    if i ≠ 0xFF ∧ (i = 0 ∨ 8 < i) then s.spdmError 1 0
    else
      let n := s.nonce
      let blocks := is.flatMap s.measBlock
      let context := numAt q (if bit (numAt q 2 1) 0 then 37 else 4) 8
      let msg := spdmMessage 0x60 0 0 (leBytes 1 is.length ++ leBytes 3 blocks.length ++ blocks ++ n.2 ++ [0, 0] ++ leBytes 8 context)
      if bit (numAt q 2 1) 0 then n.1.spdmSigned 0x60 msg else n.1.spdmAnswer 0x60 msg))

/-- Any other request: ERROR UnsupportedRequest. -/
def execSpdmUnsupportedRequest (s : State) : Host.Outcome State Fault Refusal :=
  .next (s.spdm (fun s q => s.spdmError 7 (numAt q 1 1)))

end Sys2Proof.Machine
end

