-- ==== Sys2Proof/Machine/Control.lean ====
section
/-! DEFINITION. The custom-3 words: structured masks, the mask stack, per-lane loops, divergent calls and jumps
(R139 to R149). -/

namespace Sys2Proof.Machine

/-! ### The mask stack (R94, R139) -/

/-- The KIND codes of an entry. -/
def kMask : Nat := 0
def kLoop : Nat := 1
def kCall : Nat := 2
def kPend : Nat := 3

/-- DEPTH of the mask stack. -/
def Wave.depth (w : Wave) : Nat := fld w.csrs.mstkp 5 0

/-- Entry `i`. -/
def Wave.entry (w : Wave) (i : Nat) : MaskEntry := w.stack.toList.getD i {}

/-- KIND of an entry. -/
def MaskEntry.kind (e : MaskEntry) : Nat := fld e.word 63 62

/-- PC of an entry, bits 48:2. -/
def MaskEntry.pc (e : MaskEntry) : Word := e.word &&& 0x1FFFFFFFFFFFC#64

/-- The top entry. -/
def Wave.top (w : Wave) : MaskEntry := w.entry (w.depth - 1)

/-- Set DEPTH. -/
def Wave.setDepth (w : Wave) (d : Nat) : Wave := { w with csrs := { w.csrs with mstkp := BitVec.ofNat 64 d } }

/-- Replace the mask of entry `i`; no bit at or above the width is written (R89). -/
def Wave.setEntryMask (w : Wave) (i : Nat) (m : Mask) : Wave :=
  { w with stack := w.stack.setIfInBounds i { w.entry i with mask := m &&& w.wm } }

/-- Push of R139; no mask bit at or above the width is written (R89). -/
def Wave.push (w : Wave) (kind : Nat) (m : Mask) (pc : Word) : Wave :=
  let e : MaskEntry := { mask := m &&& w.wm, word := BitVec.ofNat 64 (kind * 2 ^ 62) ||| (pc &&& 0x1FFFFFFFFFFFC#64) }
  { w with stack := w.stack.setIfInBounds w.depth e }.setDepth (w.depth + 1)

/-- Pop of R139: the entry's contents are kept. -/
def Wave.pop (w : Wave) : Wave := w.setDepth (w.depth - 1)

/-- A stack fault: cause and xtval (R140). -/
abbrev StackFault := Option (Nat × Nat)

/-- Need of R139: room for `k` pushes. -/
def Wave.need (w : Wave) (k : Nat) : StackFault := if 32 < w.depth + k then some (24, k) else none

/-- Expect of R139: the top entry has kind `k`. -/
def Wave.expect (w : Wave) (k : Nat) : StackFault :=
  if w.depth = 0 then some (25, 0) else if w.top.kind ≠ k then some (26, w.depth - 1) else none

/-- A custom-3 word: its stack or alignment fault, then its region checks, then its effect (R140, R142, R160). -/
def controlWord (i : Instr) (locs : List Loc) (ops : List Operand) (fault : Wave → Core → StackFault)
    (touch : Wave → Mask) (effect : State → State) (s : State) : Host.Outcome State Fault Refusal :=
  deviceIssue i 0 locs (fun s =>
    let w := s.wave
    let c := s.core s.curCore
    match absentItem s ops with
    | some item => registerMiss s item
    | none =>
      match fault w c with
      | some (cause, tval) => .trap cause (BitVec.ofNat 64 tval) s
      | none =>
        match regionViolation c w ops (fun _ => touch w) with
        | some r => regionFault s (regionWritten w ops (fun _ => touch w) r) r
        | none => .done (effect s)) s

/-- The effect of a word that goes on at `pc` and changes only its wave. -/
def goTo (pc : Word) (f : Wave → Wave) (s : State) : State := (s.issuedTo pc).modWave f

/-- Guard value of a word with a negate bit (R141). -/
def Wave.maskGuard (w : Wave) (neg : Bool) (q : BitVec 4) : Mask :=
  if neg then w.wm &&& ~~~(w.getP q.toNat) else w.getP q.toNat

/-- Target of a word with a signed offset in 4-byte units (R141). -/
def Wave.target (w : Wave) (off : BitVec 13) : Word := w.pc + BitVec.ofInt 64 (off.toInt * 4)

/-- The pc after a word that jumps when the new active mask is empty. -/
def Wave.skipPc (w : Wave) (m : Mask) (off : BitVec 13) : Word := if m &&& w.wm = 0 then w.target off else w.pc + 4

/-! ### Structured masks and the mask stack (R143, R144) -/

/-- `if` (R143). -/
def execMaskIf (off : BitVec 13) (neg : Bool) (q : BitVec 4) (s : State) : Host.Outcome State Fault Refusal :=
  controlWord (.maskIf off neg q) [.p q.toNat] [] (fun w _ => w.need 1) (fun _ => 0) (fun s =>
    let w := s.wave
    let m := w.amask &&& w.maskGuard neg q
    goTo (w.skipPc m off) (fun w => (w.push kMask w.amask 0).setAmask m) s) s

/-- `else` (R143). -/
def execMaskElse (off : BitVec 13) (s : State) : Host.Outcome State Fault Refusal :=
  controlWord (.maskElse off) [] [] (fun w _ => w.expect kMask) (fun _ => 0) (fun s =>
    let w := s.wave
    let m := w.top.mask &&& ~~~w.amask &&& w.wm
    goTo (w.skipPc m off) (fun w => w.setAmask m) s) s

/-- `endif` (R143). -/
def execMaskEndif (s : State) : Host.Outcome State Fault Refusal :=
  controlWord .maskEndif [] [] (fun w _ => w.expect kMask) (fun _ => 0) (fun s =>
    let w := s.wave
    goTo (w.pc + 4) (fun w => w.pop.setAmask w.top.mask) s) s

/-- `mpush`, `mpush mN` (R144). -/
def execMpush (n : BitVec 5) (s : State) : Host.Outcome State Fault Refusal :=
  controlWord (.mpush n) [.m n.toNat] [] (fun w _ => w.need 1) (fun _ => 0) (fun s =>
    let w := s.wave
    let m := if n = 0 then w.amask else w.amask &&& w.getM n.toNat
    goTo (w.pc + 4) (fun w => (w.push kMask w.amask 0).setAmask m) s) s

/-- `mpop` (R144). -/
def execMpop (s : State) : Host.Outcome State Fault Refusal :=
  controlWord .mpop [] []
    (fun w _ =>
      if w.depth = 0 then some (25, 0)
      else if w.top.kind = kMask ∨ w.top.kind = kPend then none else some (26, w.depth - 1))
    (fun _ => 0) (fun s =>
      let w := s.wave
      goTo (if w.top.kind = kMask then w.pc + 4 else w.top.pc) (fun w => w.pop.setAmask w.top.mask) s) s

/-- `mpop.d` (R144). -/
def execMpopD (s : State) : Host.Outcome State Fault Refusal :=
  controlWord .mpopD [] [] (fun w _ => if w.depth = 0 then some (25, 0) else none) (fun _ => 0)
    (fun s => goTo (s.wave.pc + 4) Wave.pop s) s

/-! ### Loops (R146, R147) -/

/-- The lanes of `m` in which `.i32` register `n` is positive. -/
def positiveLanes (c : Core) (w : Wave) (n : Nat) (m : Mask) : Mask :=
  (lanesOf m w.width).foldl (fun acc l =>
    if 0 < toSigned 32 (c.lane w n l).toNat then acc ||| BitVec.ofNat 128 (2 ^ l) else acc) 0

/-- The trip count after an iteration: one less where it is positive. -/
def tripNext (v : Word32) : Word32 := if 0 < v.toInt then v - 1 else v

/-- The word is at the end of an iteration of its own loop. -/
def Wave.loopEnd (w : Wave) : Bool := 1 ≤ w.depth && w.top.kind = kLoop && w.top.pc = w.pc

/-- The lanes of the LOOP entry that go on iterating. -/
def loopLive (c : Core) (w : Wave) (n : Nat) : Mask :=
  (lanesOf w.top.mask w.width).foldl (fun acc l =>
    if 0 < (tripNext (c.lane w n l)).toInt then acc ||| BitVec.ofNat 128 (2 ^ l) else acc) 0

/-- `loop.l` (R146). -/
def execLoopL (off : BitVec 13) (n : BitVec 5) (s : State) : Host.Outcome State Fault Refusal :=
  controlWord (.loopL off n) [.v n.toNat] [{ kind := .v, idx := n.toNat, wr := s.wave.loopEnd }]
    (fun w c =>
      if w.loopEnd then
        if loopLive c w n.toNat = 0 then
          if w.depth < 2 then some (25, 0)
          else if (w.entry (w.depth - 2)).kind ≠ kMask then some (26, w.depth - 2) else none
        else none
      else if positiveLanes c w n.toNat w.amask = 0 then none
      else w.need 2)
    (fun w => if w.loopEnd then w.top.mask else w.amask)
    (fun s =>
      let w := s.wave
      let c := s.core s.curCore
      if w.loopEnd then
        let live := loopLive c w n.toNat
        let upds := (lanesOf w.top.mask w.width).map (fun l => Upd.v n.toNat l (tripNext (c.lane w n.toNat l)))
        let s := if live ≠ 0
          then goTo (w.pc + 4) (fun w => (w.setEntryMask (w.depth - 1) live).setAmask live) s
          else goTo (w.target off) (fun w => w.pop.pop.setAmask (w.entry (w.depth - 2)).mask) s
        s.applyAll upds
      else
        let live := positiveLanes c w n.toNat w.amask
        if live = 0 then goTo (w.target off) id s
        else goTo (w.pc + 4) (fun q => ((q.push kMask w.amask 0).push kLoop live w.pc).setAmask live) s) s

/-- The index of the innermost entry that is neither MASK nor PEND, looking down from entry `i - 1`. -/
def Wave.innermost (w : Wave) : Nat → Option Nat
  | 0 => none
  | i + 1 => if (w.entry i).kind = kMask ∨ (w.entry i).kind = kPend then w.innermost i else some i

/-- The stack fault of `brk.l` and `cont.l` (R147). -/
def Wave.loopFault (w : Wave) : StackFault :=
  match w.innermost w.depth with
  | none => some (25, 0)
  | some i => if (w.entry i).kind ≠ kLoop then some (26, i) else none

/-- Take lanes `x` out of entries `i` to DEPTH − 1. -/
def Wave.dropLanes (w : Wave) (i : Nat) (x : Mask) : Wave :=
  (List.range w.depth).foldl (fun w j => if i ≤ j then w.setEntryMask j ((w.entry j).mask &&& ~~~x) else w) w

/-- The effect of `brk.l` and `cont.l` (R147). -/
def leaveLoop (brk : Bool) (off : BitVec 13) (neg : Bool) (q : BitVec 4) (s : State) : State :=
  let w := s.wave
  let i := (w.innermost w.depth).getD 0
  let x := w.amask &&& w.maskGuard neg q
  let m := w.amask &&& ~~~x
  goTo (w.skipPc m off) (fun w => (w.dropLanes (if brk then i else i + 1) x).setAmask m) s

/-- `brk.l` (R147). -/
def execBrkL (off : BitVec 13) (neg : Bool) (q : BitVec 4) (s : State) : Host.Outcome State Fault Refusal :=
  controlWord (.brkL off neg q) [.p q.toNat] [] (fun w _ => w.loopFault) (fun _ => 0) (leaveLoop true off neg q) s

/-- `cont.l` (R147). -/
def execContL (off : BitVec 13) (neg : Bool) (q : BitVec 4) (s : State) : Host.Outcome State Fault Refusal :=
  controlWord (.contL off neg q) [.p q.toNat] [] (fun w _ => w.loopFault) (fun _ => 0) (leaveLoop false off neg q) s

/-! ### Divergent calls and jumps (R148, R149) -/

/-- Target of lane `l`: x[B] + SignExt(v(A)[l]). -/
def laneTarget (c : Core) (w : Wave) (b a : BitVec 5) (l : Nat) : Word :=
  w.getX b.toNat + (c.lane w a.toNat l).signExtend 64

/-- T: the target of the lowest active lane, if a lane is active. -/
def firstTarget (c : Core) (w : Wave) (b a : BitVec 5) : Option Word :=
  (lanesOf w.amask w.width).head?.map (laneTarget c w b a)

/-- S: the active lanes whose target is `t`. -/
def sameTarget (c : Core) (w : Wave) (b a : BitVec 5) (t : Word) : Mask :=
  (lanesOf w.amask w.width).foldl (fun acc l =>
    if laneTarget c w b a l = t then acc ||| BitVec.ofNat 128 (2 ^ l) else acc) 0

/-- The word resumes a serialised call: a PEND entry of its own lies on top. -/
def Wave.reentry (w : Wave) : Bool := 1 ≤ w.depth && w.top.kind = kPend && w.top.pc = w.pc

/-- The faults of `call.l` and `jmp.l`: a misaligned target, then room on the stack. -/
def transferFault (call : Bool) (b a : BitVec 5) (w : Wave) (c : Core) : StackFault :=
  match firstTarget c w b a with
  | none => none
  | some t =>
    if t &&& 3 ≠ 0 then some (0, t.toNat)
    else
      let r := w.amask &&& ~~~(sameTarget c w b a t) &&& w.wm
      if call then (if w.reentry ∨ r = 0 then w.need 1 else w.need 2)
      else if r ≠ 0 then w.need 1 else none

/-- The effect of `call.l` and `jmp.l`. -/
def transfer (call : Bool) (b a : BitVec 5) (s : State) : State :=
  let w := s.wave
  let c := s.core s.curCore
  match firstTarget c w b a with
  | none => goTo (w.pc + 4) id s
  | some t =>
    let sel := sameTarget c w b a t
    let r := w.amask &&& ~~~sel &&& w.wm
    let f : Wave → Wave :=
      if call then
        if w.reentry then fun q => q.push kCall r (w.pc + 4)
        else if r = 0 then fun q => q.push kCall w.amask (w.pc + 4)
        else fun q => (q.push kPend w.amask w.pc).push kCall r (w.pc + 4)
      else if r ≠ 0 then fun q => q.push kPend r w.pc else id
    goTo t (fun q => (f q).setAmask sel) s

/-- `call.l` (R148). -/
def execCallL (b a : BitVec 5) (s : State) : Host.Outcome State Fault Refusal :=
  controlWord (.callL b a) [.x b.toNat, .v a.toNat] [{ kind := .v, idx := a.toNat }] (transferFault true b a)
    (fun w => w.amask) (transfer true b a) s

/-- `jmp.l` (R149). -/
def execJmpL (b a : BitVec 5) (s : State) : Host.Outcome State Fault Refusal :=
  controlWord (.jmpL b a) [.x b.toNat, .v a.toNat] [{ kind := .v, idx := a.toNat }] (transferFault false b a)
    (fun w => w.amask) (transfer false b a) s

/-- `ret.l` (R148). -/
def execRetL (s : State) : Host.Outcome State Fault Refusal :=
  controlWord .retL [] [] (fun w _ => w.expect kCall) (fun _ => 0) (fun s =>
    let w := s.wave
    let e := w.top
    let p := w.pop
    if 1 ≤ p.depth ∧ p.top.kind = kPend ∧ p.top.pc = e.pc - 4 then
      if e.mask ≠ 0 then goTo p.top.pc (fun w => w.pop.setAmask e.mask) s
      else goTo e.pc (fun w => w.pop.pop.setAmask p.top.mask) s
    else goTo e.pc (fun w => w.pop.setAmask e.mask) s) s

end Sys2Proof.Machine
end

