-- ==== Sys2Proof/Machine/LaneInt.lean ====
section
/-! DEFINITION. Lane integer and bit instructions, majors 0x00 to 0x33 (R109 to R119). Each meaning says what its word
writes in one active lane; the checks and the accounting are the shared operations of Operands.lean. -/

namespace Sys2Proof.Machine

/-- What an integer word computes from in lane `l`: width and signedness of its type, and its operands as patterns. -/
structure IntOps where
  wd : Nat
  sgn : Bool
  a : Nat
  b : Nat
  c : Nat

/-- The operands of an integer word in lane `l`: va, vb or, with `imm`, the immediate, and vc (R111, R113). -/
def intOps (imm : Bool) (e : LaneEnv) (w : LaneWord) (l : Nat) : IntOps :=
  let wd := intWidth w.ty.toNat
  let sgn := intSigned w.ty.toNat
  { wd := wd, sgn := sgn,
    a := e.pattern wd w.va.toNat l,
    b := if imm then immPattern wd sgn w.imm else e.pattern wd w.vb.toNat l,
    c := e.pattern wd (vcOf w) l }

/-- The value of operand a, b and c. -/
def IntOps.av (o : IntOps) : Int := typed o.wd o.sgn o.a
def IntOps.bv (o : IntOps) : Int := typed o.wd o.sgn o.b
def IntOps.cv (o : IntOps) : Int := typed o.wd o.sgn o.c

/-- The outcome of an integer word that writes `f` of its operands by Put (R111). -/
def intWord (major : Nat) (w : LaneWord) (f : IntOps → Int) (s : State) : Host.Outcome State Fault Refusal :=
  ordinaryLane major (rowForm (intRow major) major false w) w (fun e => e.lanes.flatMap (fun l =>
    let o := intOps (takesImm (intRow major) w) e w l
    putUpd o.wd o.sgn w.vd.toNat l (f o))) s

/-- The outcome of a word that writes a whole 32-bit vd, zero-extended (R116). -/
def intCountWord (major : Nat) (w : LaneWord) (f : IntOps → Nat) (s : State) : Host.Outcome State Fault Refusal :=
  ordinaryLane major (rowForm (intRow major) major false w) w (fun e => e.lanes.map (fun l =>
    .v w.vd.toNat l (BitVec.ofNat 32 (f (intOps (takesImm (intRow major) w) e w l))))) s

/-- The outcome of a compare: predicate vd takes the condition in each active lane (R119). -/
def intCompare (major : Nat) (w : LaneWord) (f : IntOps → Bool) (s : State) : Host.Outcome State Fault Refusal :=
  ordinaryLane major (rowForm (intRow major) major false w) w (fun e => e.lanes.map (fun l =>
    .p w.vd.toNat l (f (intOps (takesImm (intRow major) w) e w l)))) s

/-- The outcome of an integer word whose results in lane `l` are given whole. -/
def intLaneWord (major : Nat) (w : LaneWord) (f : LaneEnv → Nat → List Upd) (s : State) :
    Host.Outcome State Fault Refusal :=
  ordinaryLane major (rowForm (intRow major) major false w) w (fun e => e.lanes.flatMap (f e)) s

/-! ### Integer arithmetic (R114, R115) -/

/-- `vadd`: y := a + b (R114). -/
def execVadd (w : LaneWord) (s : State) : Host.Outcome State Fault Refusal :=
  intWord 0x00 w (fun o => o.av + o.bv) s

/-- `vsub`: y := a − b (R114). -/
def execVsub (w : LaneWord) (s : State) : Host.Outcome State Fault Refusal :=
  intWord 0x01 w (fun o => o.av - o.bv) s

/-- `vadds`: saturating sum (R114). -/
def execVadds (w : LaneWord) (s : State) : Host.Outcome State Fault Refusal :=
  intWord 0x02 w (fun o => satTo o.wd o.sgn (o.av + o.bv)) s

/-- `vsubs`: saturating difference (R114). -/
def execVsubs (w : LaneWord) (s : State) : Host.Outcome State Fault Refusal :=
  intWord 0x03 w (fun o => satTo o.wd o.sgn (o.av - o.bv)) s

/-- `vmul`: y := a × b (R114). -/
def execVmul (w : LaneWord) (s : State) : Host.Outcome State Fault Refusal :=
  intWord 0x04 w (fun o => o.av * o.bv) s

/-- `vmulh`: upper half of the exact product (R114). -/
def execVmulh (w : LaneWord) (s : State) : Host.Outcome State Fault Refusal :=
  intWord 0x05 w (fun o => (o.av * o.bv) / (2 ^ o.wd : Int)) s

/-- `vmulw`: exact product to a pair (R114). -/
def execVmulw (w : LaneWord) (s : State) : Host.Outcome State Fault Refusal :=
  intLaneWord 0x06 w (fun e l =>
    let o := intOps false e w l
    putUpd 64 o.sgn w.vd.toNat l (o.av * o.bv)) s

/-- `vmad`: y := a × b + c (R114). -/
def execVmad (w : LaneWord) (s : State) : Host.Outcome State Fault Refusal :=
  intWord 0x07 w (fun o => o.av * o.bv + o.cv) s

/-- `vmadw`: a × b plus the 64-bit pair vc (R114). -/
def execVmadw (w : LaneWord) (s : State) : Host.Outcome State Fault Refusal :=
  intLaneWord 0x08 w (fun e l =>
    let o := intOps false e w l
    putUpd 64 o.sgn w.vd.toNat l (o.av * o.bv + typed 64 o.sgn (e.pattern 64 (vcOf w) l))) s

/-- `vmin` (R114). -/
def execVmin (w : LaneWord) (s : State) : Host.Outcome State Fault Refusal :=
  intWord 0x09 w (fun o => min o.av o.bv) s

/-- `vmax` (R114). -/
def execVmax (w : LaneWord) (s : State) : Host.Outcome State Fault Refusal :=
  intWord 0x0A w (fun o => max o.av o.bv) s

/-- `vabs`: the minimum value wraps to itself (R114). -/
def execVabs (w : LaneWord) (s : State) : Host.Outcome State Fault Refusal :=
  intWord 0x0B w (fun o => (o.av.natAbs : Int)) s

/-- `vneg` (R114). -/
def execVneg (w : LaneWord) (s : State) : Host.Outcome State Fault Refusal :=
  intWord 0x0C w (fun o => -o.av) s

/-- `vabsd`: |a − b| written with zero extension whatever the signedness (R114). -/
def execVabsd (w : LaneWord) (s : State) : Host.Outcome State Fault Refusal :=
  intLaneWord 0x0D w (fun e l =>
    let o := intOps (immForm w) e w l
    putUpd o.wd false w.vd.toNat l ((o.av - o.bv).natAbs : Int)) s

/-- `vclamp`: min(max(a, b), c) (R114). -/
def execVclamp (w : LaneWord) (s : State) : Host.Outcome State Fault Refusal :=
  intWord 0x0E w (fun o => min (max o.av o.bv) o.cv) s

/-- `vshadd`: a × 2^s + b, s in func bits 52:50 (R114). -/
def execVshadd (w : LaneWord) (s : State) : Host.Outcome State Fault Refusal :=
  intWord 0x1B w (fun o => o.av * (2 ^ bits w.func.toNat 2 0 : Int) + o.bv) s

/-- The carry or borrow predicate index Q, func bits 53:50 (R115). -/
def carryIndex (w : LaneWord) : Nat := bits w.func.toNat 3 0

/-- The carry or borrow taken in: p[Q] when CI, func bit 54, is set (R115). -/
def carryIn (e : LaneEnv) (w : LaneWord) (l : Nat) : Nat :=
  b2n (w.func.getLsbD 4 && (e.wave.getP (carryIndex w)).getLsbD l)

/-- `vaddc` (R115). -/
def execVaddc (w : LaneWord) (s : State) : Host.Outcome State Fault Refusal :=
  intLaneWord 0x30 w (fun e l =>
    let t := e.reg w.va.toNat l + e.reg w.vb.toNat l + carryIn e w l
    [.v w.vd.toNat l (BitVec.ofNat 32 t), .p (carryIndex w) l (decide (2 ^ 32 ≤ t))]) s

/-- `vsubc` (R115). -/
def execVsubc (w : LaneWord) (s : State) : Host.Outcome State Fault Refusal :=
  intLaneWord 0x31 w (fun e l =>
    let t : Int := (e.reg w.va.toNat l : Int) - (e.reg w.vb.toNat l : Int) - (carryIn e w l : Int)
    [.v w.vd.toNat l (BitVec.ofNat 32 (wrapTo 32 t)), .p (carryIndex w) l (decide (t < 0))]) s

/-- `vmuls`: saturating product (R114). -/
def execVmuls (w : LaneWord) (s : State) : Host.Outcome State Fault Refusal :=
  intWord 0x32 w (fun o => satTo o.wd o.sgn (o.av * o.bv)) s

/-- `vdot4`: sum of four byte products, plus vc when A is set (R115). -/
def execVdot4 (w : LaneWord) (s : State) : Host.Outcome State Fault Refusal :=
  intLaneWord 0x33 w (fun e l =>
    let sgn := intSigned w.ty.toNat
    let byte (n i : Nat) : Int := typed 8 sgn (e.reg n l / 256 ^ i)
    let t := byte w.va.toNat 0 * byte w.vb.toNat 0 + byte w.va.toNat 1 * byte w.vb.toNat 1 +
      byte w.va.toNat 2 * byte w.vb.toNat 2 + byte w.va.toNat 3 * byte w.vb.toNat 3
    let t := if w.func.getLsbD 0 then t + (e.reg (vcOf w) l : Int) else t
    [.v w.vd.toNat l (BitVec.ofNat 32 (wrapTo 32 t))]) s

/-! ### Logic, shifts and bit operations (R116, R117) -/

/-- `vand` (R116). -/
def execVand (w : LaneWord) (s : State) : Host.Outcome State Fault Refusal :=
  intWord 0x0F w (fun o => ((o.a &&& o.b : Nat) : Int)) s

/-- `vor` (R116). -/
def execVor (w : LaneWord) (s : State) : Host.Outcome State Fault Refusal :=
  intWord 0x10 w (fun o => ((o.a ||| o.b : Nat) : Int)) s

/-- `vxor` (R116). -/
def execVxor (w : LaneWord) (s : State) : Host.Outcome State Fault Refusal :=
  intWord 0x11 w (fun o => ((o.a ^^^ o.b : Nat) : Int)) s

/-- Complement of a `wd`-bit pattern. -/
def notBits (wd v : Nat) : Nat := 2 ^ wd - 1 - v % 2 ^ wd

/-- `vandn`: A AND NOT B (R116). -/
def execVandn (w : LaneWord) (s : State) : Host.Outcome State Fault Refusal :=
  intWord 0x12 w (fun o => ((o.a &&& notBits o.wd o.b : Nat) : Int)) s

/-- `vnot` (R116). -/
def execVnot (w : LaneWord) (s : State) : Host.Outcome State Fault Refusal :=
  intWord 0x13 w (fun o => (notBits o.wd o.a : Int)) s

/-- The function of two bit patterns that a 4-bit truth table gives: bit (2·A[i] + B[i]) of `h` (R116). -/
def truthTable (wd h a b : Nat) : Nat :=
  let na := notBits wd a
  let nb := notBits wd b
  (if bit h 0 then na &&& nb else 0) ||| (if bit h 1 then na &&& b else 0) |||
    (if bit h 2 then a &&& nb else 0) ||| (if bit h 3 then a &&& b else 0)

/-- `vbmux`: h1 where C is 1, h0 where C is 0 (R116). -/
def execVbmux (w : LaneWord) (s : State) : Host.Outcome State Fault Refusal :=
  intWord 0x14 w (fun o =>
    let h0 := bits w.func.toNat 3 0
    let h1 := bits w.func.toNat 7 4
    (((o.c &&& truthTable o.wd h1 o.a o.b) ||| (notBits o.wd o.c &&& truthTable o.wd h0 o.a o.b) : Nat) : Int)) s

/-- `vsll`: shift by B mod w (R116). -/
def execVsll (w : LaneWord) (s : State) : Host.Outcome State Fault Refusal :=
  intWord 0x15 w (fun o => ((o.a * 2 ^ (o.b % o.wd) : Nat) : Int)) s

/-- `vsrl`: zeros in, whatever the signedness (R116). -/
def execVsrl (w : LaneWord) (s : State) : Host.Outcome State Fault Refusal :=
  intWord 0x16 w (fun o => ((o.a / 2 ^ (o.b % o.wd) : Nat) : Int)) s

/-- `vsra`: copies of A[w−1] in, whatever the signedness (R116). -/
def execVsra (w : LaneWord) (s : State) : Host.Outcome State Fault Refusal :=
  intWord 0x17 w (fun o => toSigned o.wd o.a / (2 ^ (o.b % o.wd) : Int)) s

/-- Rotation of a `wd`-bit pattern to the left by `k` below `wd`. -/
def rotLeft (wd v k : Nat) : Nat := (v * 2 ^ k) % 2 ^ wd + v / 2 ^ (wd - k)

/-- `vrol` (R116). -/
def execVrol (w : LaneWord) (s : State) : Host.Outcome State Fault Refusal :=
  intWord 0x18 w (fun o => (rotLeft o.wd o.a (o.b % o.wd) : Int)) s

/-- `vror` (R116). -/
def execVror (w : LaneWord) (s : State) : Host.Outcome State Fault Refusal :=
  intWord 0x19 w (fun o => (rotLeft o.wd o.a ((o.wd - o.b % o.wd) % o.wd) : Int)) s

/-- `vshf`: 32 bits of B:A from bit C[4:0] (R116). -/
def execVshf (w : LaneWord) (s : State) : Host.Outcome State Fault Refusal :=
  intWord 0x1A w (fun o => (((o.b * 2 ^ 32 + o.a) / 2 ^ (o.c % 32) : Nat) : Int)) s

/-- Number of set bits below bit `n`. -/
def popBits (v : Nat) : Nat → Nat
  | 0 => 0
  | n + 1 => popBits v n + b2n (bit v n)

/-- Leading zero bits of a `wd`-bit pattern; `wd` for zero. -/
def leadZeros (wd v : Nat) : Nat := if v = 0 then wd else wd - 1 - Nat.log2 v

/-- Trailing zero bits among the bits from `wd − n` up. -/
def trailZerosFrom (wd v : Nat) : Nat → Nat
  | 0 => wd
  | n + 1 => if bit v (wd - (n + 1)) then wd - (n + 1) else trailZerosFrom wd v n

/-- Trailing zero bits of a `wd`-bit pattern; `wd` for zero. -/
def trailZeros (wd v : Nat) : Nat := trailZerosFrom wd v wd

/-- The pattern with bit i moved to bit `wd − 1 − i`, for the bits below `n`. -/
def revBits (wd v : Nat) : Nat → Nat
  | 0 => 0
  | n + 1 => revBits wd v n + b2n (bit v n) * 2 ^ (wd - 1 - n)

/-- The pattern of `n` bytes with byte j moved to byte `n − 1 − j`. -/
def revBytes (v : Nat) : Nat → Nat
  | 0 => 0
  | n + 1 => (v % 256) * 256 ^ n + revBytes (v / 256) n

/-- `vpopc` (R116). -/
def execVpopc (w : LaneWord) (s : State) : Host.Outcome State Fault Refusal :=
  intCountWord 0x1C w (fun o => popBits o.a o.wd) s

/-- `vclz` (R116). -/
def execVclz (w : LaneWord) (s : State) : Host.Outcome State Fault Refusal :=
  intCountWord 0x1D w (fun o => leadZeros o.wd o.a) s

/-- `vctz` (R116). -/
def execVctz (w : LaneWord) (s : State) : Host.Outcome State Fault Refusal :=
  intCountWord 0x1E w (fun o => trailZeros o.wd o.a) s

/-- `vbrev` (R116). -/
def execVbrev (w : LaneWord) (s : State) : Host.Outcome State Fault Refusal :=
  intWord 0x1F w (fun o => (revBits o.wd o.a o.wd : Int)) s

/-- `vbswap` (R116). -/
def execVbswap (w : LaneWord) (s : State) : Host.Outcome State Fault Refusal :=
  intWord 0x20 w (fun o => (revBytes o.a (o.wd / 8) : Int)) s

/-- `vilog2`: floor(log2 |a|), w for zero (R116). -/
def execVilog2 (w : LaneWord) (s : State) : Host.Outcome State Fault Refusal :=
  intCountWord 0x2E w (fun o => if o.av = 0 then o.wd else Nat.log2 o.av.natAbs) s

/-- `vperm`: each nibble of B selects a byte of va and vc, or zero (R116). -/
def execVperm (w : LaneWord) (s : State) : Host.Outcome State Fault Refusal :=
  intWord 0x2F w (fun o =>
    let src := o.c * 2 ^ 32 + o.a
    let pick (i : Nat) : Nat :=
      let n := bits o.b (4 * i + 3) (4 * i)
      if bit n 3 then 0 else bits src (8 * (n % 8) + 7) (8 * (n % 8))
    ((pick 0 + pick 1 * 2 ^ 8 + pick 2 * 2 ^ 16 + pick 3 * 2 ^ 24 : Nat) : Int)) s

/-- The control word of `vbext` and `vbins`: bits 15:0 of vb, or of the immediate (R117). -/
def fieldCtl (e : LaneEnv) (w : LaneWord) (l : Nat) : Nat :=
  (if immForm w then w.imm.toNat else e.reg w.vb.toNat l) % 2 ^ 16

/-- `vbext`: a field of A, A extended without limit by its signedness (R117). -/
def execVbext (w : LaneWord) (s : State) : Host.Outcome State Fault Refusal :=
  intLaneWord 0x21 w (fun e l =>
    let wd := intWidth w.ty.toNat
    let sgn := intSigned w.ty.toNat
    let ctl := fieldCtl e w l
    let len := min (bits ctl 15 8) wd
    let x := typed wd sgn (e.pattern wd w.va.toNat l)
    let f := wrapTo len (x / (2 ^ bits ctl 7 0 : Int))
    putUpd wd sgn w.vd.toNat l (if len = 0 then 0 else typed len sgn f)) s

/-- `vbins`: low bits of A inserted in vd; nothing is written when the field is empty or outside (R117). -/
def execVbins (w : LaneWord) (s : State) : Host.Outcome State Fault Refusal :=
  intLaneWord 0x22 w (fun e l =>
    let wd := intWidth w.ty.toNat
    let sgn := intSigned w.ty.toNat
    let ctl := fieldCtl e w l
    let pos := bits ctl 7 0
    let len := min (bits ctl 15 8) wd
    if len = 0 ∨ wd ≤ pos then []
    else
      let n := min len (wd - pos)
      let d := e.pattern wd w.vd.toNat l
      putUpd wd sgn w.vd.toNat l ((setBits d (pos + n - 1) pos (e.pattern wd w.va.toNat l) : Nat) : Int)) s

/-! ### Moves, selects, extension and compares (R118, R119) -/

/-- `vsel`: p[Q] picks A or B, Q in func bits 53:50 (R118). -/
def execVsel (w : LaneWord) (s : State) : Host.Outcome State Fault Refusal :=
  intLaneWord 0x23 w (fun e l =>
    let o := intOps (immForm w) e w l
    putUpd o.wd o.sgn w.vd.toNat l
      ((if (e.wave.getP (carryIndex w)).getLsbD l then o.a else o.b : Nat) : Int)) s

/-- `vmov`: A, or the immediate extended by the type (R118). -/
def execVmov (w : LaneWord) (s : State) : Host.Outcome State Fault Refusal :=
  intLaneWord 0x24 w (fun e l =>
    let wd := intWidth w.ty.toNat
    let sgn := intSigned w.ty.toNat
    putUpd wd sgn w.vd.toNat l
      ((if immForm w then immPattern wd sgn w.imm else e.pattern wd w.va.toNat l : Nat) : Int)) s

/-- `vcmpeq` (R119). -/
def execVcmpeq (w : LaneWord) (s : State) : Host.Outcome State Fault Refusal :=
  intCompare 0x25 w (fun o => decide (o.av = o.bv)) s

/-- `vcmpne` (R119). -/
def execVcmpne (w : LaneWord) (s : State) : Host.Outcome State Fault Refusal :=
  intCompare 0x26 w (fun o => decide (o.av ≠ o.bv)) s

/-- `vcmplt` (R119). -/
def execVcmplt (w : LaneWord) (s : State) : Host.Outcome State Fault Refusal :=
  intCompare 0x27 w (fun o => decide (o.av < o.bv)) s

/-- `vcmple` (R119). -/
def execVcmple (w : LaneWord) (s : State) : Host.Outcome State Fault Refusal :=
  intCompare 0x28 w (fun o => decide (o.av ≤ o.bv)) s

/-- `vcmpgt` (R119). -/
def execVcmpgt (w : LaneWord) (s : State) : Host.Outcome State Fault Refusal :=
  intCompare 0x29 w (fun o => decide (o.bv < o.av)) s

/-- `vcmpge` (R119). -/
def execVcmpge (w : LaneWord) (s : State) : Host.Outcome State Fault Refusal :=
  intCompare 0x2A w (fun o => decide (o.bv ≤ o.av)) s

/-- `vtst`: some common bit set (R119). -/
def execVtst (w : LaneWord) (s : State) : Host.Outcome State Fault Refusal :=
  intCompare 0x2B w (fun o => decide (o.a &&& o.b ≠ 0)) s

/-- `vsext`: sign extension from bit B[5:0] (R118). -/
def execVsext (w : LaneWord) (s : State) : Host.Outcome State Fault Refusal :=
  intWord 0x2C w (fun o => let q := o.b % 64; if q < o.wd then toSigned (q + 1) o.a else o.av) s

/-- `vzext`: zero extension from bit B[5:0] (R118). -/
def execVzext (w : LaneWord) (s : State) : Host.Outcome State Fault Refusal :=
  intWord 0x2D w (fun o => let q := o.b % 64; if q < o.wd then ((o.a % 2 ^ (q + 1) : Nat) : Int) else o.av) s

end Sys2Proof.Machine
end

