-- ==== Sys2Proof/Machine/LaneMask.lean ====
section
/-! DEFINITION. Masks, predicates and cross-lane instructions, majors 0xA0 to 0xB5 (R151 to R154). -/

namespace Sys2Proof.Machine

/-- The outcome of a mask word whose results are `f` of what it sees. -/
def maskWord (major : Nat) (w : LaneWord) (f : LaneEnv → List Upd) (s : State) : Host.Outcome State Fault Refusal :=
  ordinaryLane major (rowForm (maskRow major) major false w) w f s

/-- Predicate D takes the condition in each active lane. -/
def predWord (major : Nat) (w : LaneWord) (f : LaneEnv → Nat → Bool) (s : State) : Host.Outcome State Fault Refusal :=
  maskWord major w (fun e => e.lanes.map (fun l => .p w.vd.toNat l (f e l))) s

/-- Bit `l` of predicates A and B of the word. -/
def predA (e : LaneEnv) (w : LaneWord) (l : Nat) : Bool := (e.wave.getP w.va.toNat).getLsbD l
def predB (e : LaneEnv) (w : LaneWord) (l : Nat) : Bool := (e.wave.getP w.vb.toNat).getLsbD l

/-- `pand` (R151). -/
def execPand (w : LaneWord) (s : State) : Host.Outcome State Fault Refusal :=
  predWord 0xA0 w (fun e l => predA e w l && predB e w l) s

/-- `por` (R151). -/
def execPor (w : LaneWord) (s : State) : Host.Outcome State Fault Refusal :=
  predWord 0xA1 w (fun e l => predA e w l || predB e w l) s

/-- `pxor` (R151). -/
def execPxor (w : LaneWord) (s : State) : Host.Outcome State Fault Refusal :=
  predWord 0xA2 w (fun e l => predA e w l ^^ predB e w l) s

/-- `pandn` (R151). -/
def execPandn (w : LaneWord) (s : State) : Host.Outcome State Fault Refusal :=
  predWord 0xA3 w (fun e l => predA e w l && !predB e w l) s

/-- `pnot` (R151). -/
def execPnot (w : LaneWord) (s : State) : Host.Outcome State Fault Refusal :=
  predWord 0xA4 w (fun e l => !predA e w l) s

/-- `pfirst`: set in the lowest active lane only (R151). -/
def execPfirst (w : LaneWord) (s : State) : Host.Outcome State Fault Refusal :=
  predWord 0xA5 w (fun e l => decide (e.lanes.head? = some l)) s

/-- `mfromp` (R151). -/
def execMfromp (w : LaneWord) (s : State) : Host.Outcome State Fault Refusal :=
  maskWord 0xA6 w (fun e => [.m w.vd.toNat e.active (e.wave.getP w.va.toNat)]) s

/-- `pfromm` (R151). -/
def execPfromm (w : LaneWord) (s : State) : Host.Outcome State Fault Refusal :=
  predWord 0xA7 w (fun e l => (e.wave.getM w.va.toNat).getLsbD l) s

/-- `mgeta`: the active mask in every lane of WM (R151). -/
def execMgeta (w : LaneWord) (s : State) : Host.Outcome State Fault Refusal :=
  maskWord 0xA8 w (fun e => [.m w.vd.toNat e.wave.wm e.wave.amask]) s

/-- `mseta`, with `.and` in func bit 50 (R151). -/
def execMseta (w : LaneWord) (s : State) : Host.Outcome State Fault Refusal :=
  maskWord 0xA9 w (fun e =>
    let m := e.wave.getM w.va.toNat
    [.amask (if w.func.getLsbD 0 then e.wave.amask &&& m else m)]) s

/-- First lane of the half a ballot names: 64 with `.hi`, func bit 50 (R152). -/
def ballotBase (w : LaneWord) : Nat := if w.func.getLsbD 0 then 64 else 0

/-- `vballot` (R152). -/
def execVballot (w : LaneWord) (s : State) : Host.Outcome State Fault Refusal :=
  maskWord 0xAA w (fun e =>
    [.x w.vd.toNat (((e.wave.getP w.va.toNat &&& e.active) >>> ballotBase w).setWidth 64)]) s

/-- `pfromx` (R152). -/
def execPfromx (w : LaneWord) (s : State) : Host.Outcome State Fault Refusal :=
  maskWord 0xAB w (fun e =>
    (e.lanes.filter (fun l => decide (ballotBase w ≤ l) && decide (l < ballotBase w + 64))).map (fun l =>
      .p w.vd.toNat l ((e.wave.getX w.va.toNat).getLsbD (l - ballotBase w)))) s

/-- The result of `vvote` over the active lanes (R152). -/
def voteValue (op : Nat) (active chosen : List Nat) : Word :=
  match op with
  | 0 => if chosen = [] then 0 else 1
  | 1 => if chosen = active then 1 else 0
  | 2 => if chosen = [] ∨ chosen = active then 1 else 0
  | 3 => BitVec.ofNat 64 chosen.length
  | 4 => match chosen.head? with
    | none => BitVec.allOnes 64
    | some l => BitVec.ofNat 64 l
  | _ => match chosen.getLast? with
    | none => BitVec.allOnes 64
    | some l => BitVec.ofNat 64 l

/-- `vvote` (R152). -/
def execVvote (w : LaneWord) (s : State) : Host.Outcome State Fault Refusal :=
  maskWord 0xAC w (fun e =>
    [.x w.vd.toNat (voteValue (bits w.func.toNat 2 0) e.lanes (e.lanes.filter (predA e w)))]) s

/-- The x-register image of a typed pattern: sign-extended for `.i32`, else zero-extended (R153, R154). -/
def toXreg (ty v : Nat) : Word := BitVec.ofNat 64 (if ty = 2 then signExt 32 64 v else v)

/-- The lane `vrdlane` reads: its index modulo W (R153). -/
def rdLane (wv : Wave) (w : LaneWord) : Nat :=
  (if immForm w then w.imm.toNat % 128 else (wv.getX w.vb.toNat).toNat % 128) % wv.width

/-- `vrdlane` touches its source in the lane it reads, and nothing when ACTIVE is empty (R105, R153). -/
def touchRdLane (w : LaneWord) (e : LaneEnv) (_ : Operand) : Mask :=
  if e.lanes = [] then 0 else BitVec.ofNat 128 (2 ^ rdLane e.wave w)

/-- `vrdlane` (R153). -/
def execVrdlane (w : LaneWord) (s : State) : Host.Outcome State Fault Refusal :=
  (laneIssue 0xAD (rowForm (maskRow 0xAD) 0xAD false w) w (touchRdLane w) (fun e _ s =>
    ordinaryDone (laneBytes w)
      (if e.lanes = [] then []
       else [.x w.vd.toNat (toXreg w.ty.toNat
        (e.pattern (intWidth w.ty.toNat) w.va.toNat (rdLane e.wave w)))]) s) s).finish

/-- `vbcast` (R151). -/
def execVbcast (w : LaneWord) (s : State) : Host.Outcome State Fault Refusal :=
  maskWord 0xAE w (fun e => e.lanes.flatMap (fun l =>
    putUpd (intWidth w.ty.toNat) (intSigned w.ty.toNat) w.vd.toNat l ((e.wave.getX w.va.toNat).toNat : Int))) s

/-- The source lane of `vlperm` for lane `l` (R153). -/
def permLane (e : LaneEnv) (w : LaneWord) (l : Nat) : Nat :=
  let c := min (2 ^ bits w.func.toNat 4 2) e.wave.width
  let j := l % c
  let b := l - j
  let d := (if immForm w then w.imm.toNat else e.reg w.vb.toNat l) % 128 % c
  match bits w.func.toNat 1 0 with
  | 0 => b + d
  | 1 => b + (j + c - d) % c
  | 2 => b + (j + d) % c
  | _ => b + (j ^^^ d)

/-- `vlperm` touches va in the lanes it reads from (R105, R153). -/
def touchPerm (w : LaneWord) (e : LaneEnv) (o : Operand) : Mask :=
  if o.wr ∨ o.idx ≠ w.va.toNat then e.active
  else
    let src := e.lanes.foldl (fun m l => m ||| BitVec.ofNat 128 (2 ^ permLane e w l)) (0 : Mask)
    if w.vb = w.va ∧ immForm w = false then src ||| e.active else src

/-- `vlperm` (R153). -/
def execVlperm (w : LaneWord) (s : State) : Host.Outcome State Fault Refusal :=
  (laneIssue 0xAF (rowForm (maskRow 0xAF) 0xAF false w) w (touchPerm w) (fun e _ s =>
    ordinaryDone (laneBytes w) (e.lanes.flatMap (fun l =>
      let wd := intWidth w.ty.toNat
      putUpd wd false w.vd.toNat l ((e.pattern wd w.va.toNat (permLane e w l) : Nat) : Int))) s) s).finish

/-! ### Reductions and scans (R154) -/

/-- Identity pattern of an operation on a type. -/
def redIdentity (op ty : Nat) : Nat :=
  let wd := intWidth ty
  if ty = 10 then
    match op with
    | 0 => 0
    | 1 => Fmt.f32.encode (.inf false)
    | _ => Fmt.f32.encode (.inf true)
  else
    let lo := if intSigned ty then 2 ^ (wd - 1) else 0
    let hi := if intSigned ty then 2 ^ (wd - 1) - 1 else 2 ^ wd - 1
    match op with
    | 1 => hi
    | 2 => lo
    | 3 => 2 ^ wd - 1
    | _ => 0

/-- One combination step on patterns. -/
def redStep (op ty a b : Nat) : Nat :=
  let wd := intWidth ty
  if ty = 10 then
    let x := Fmt.f32.decode a
    let y := Fmt.f32.decode b
    match op with
    | 0 => Fmt.f32.result .rne (x.add .rne y)
    | 1 => Fmt.f32.encode (pickNumber Fv.minOf x y)
    | _ => Fmt.f32.encode (pickNumber Fv.maxOf x y)
  else
    let x := typed wd (intSigned ty) a
    let y := typed wd (intSigned ty) b
    match op with
    | 0 => wrapTo wd (x + y)
    | 1 => wrapTo wd (min x y)
    | 2 => wrapTo wd (max x y)
    | 3 => a &&& b
    | 4 => a ||| b
    | _ => a ^^^ b

/-- Width of the elements of a reduction type. -/
def redWidth (ty : Nat) : Nat := if ty = 10 then 32 else intWidth ty

/-- The values of va in the active lanes, ascending. -/
def redValues (e : LaneEnv) (w : LaneWord) : List Nat :=
  e.lanes.map (fun l => e.pattern (redWidth w.ty.toNat) w.va.toNat l)

/-- The reduction of the active lanes (R154). -/
def reduceLanes (e : LaneEnv) (w : LaneWord) : Nat :=
  let op := bits w.func.toNat 2 0
  (redValues e w).foldl (redStep op w.ty.toNat) (redIdentity op w.ty.toNat)

/-- The pattern `v` put to a register or pair of lane `l`. -/
def putRed (w : LaneWord) (l v : Nat) : List Upd :=
  putUpd (redWidth w.ty.toNat) false w.vd.toNat l (v : Int)

/-- `vred` (R154). -/
def execVred (w : LaneWord) (s : State) : Host.Outcome State Fault Refusal :=
  maskWord 0xB0 w (fun e => e.lanes.flatMap (fun l => putRed w l (reduceLanes e w))) s

/-- `vredx` (R154). -/
def execVredx (w : LaneWord) (s : State) : Host.Outcome State Fault Refusal :=
  maskWord 0xB1 w (fun e => [.x w.vd.toNat (toXreg w.ty.toNat (reduceLanes e w))]) s

/-- Running combinations before (`ex`) or after each value. -/
def scanValues (f : Nat → Nat → Nat) (ex : Bool) : Nat → List Nat → List Nat
  | _, [] => []
  | acc, v :: vs => (if ex then acc else f acc v) :: scanValues f ex (f acc v) vs

/-- `vscan`, exclusive with func bit 53 (R154). -/
def execVscan (w : LaneWord) (s : State) : Host.Outcome State Fault Refusal :=
  maskWord 0xB2 w (fun e =>
    let op := bits w.func.toNat 2 0
    let outs := scanValues (redStep op w.ty.toNat) (w.func.getLsbD 3) (redIdentity op w.ty.toNat) (redValues e w)
    (e.lanes.zip outs).flatMap (fun q => putRed w q.1 q.2)) s

/-- `vmatch`: some other active lane has the same pattern (R151). -/
def execVmatch (w : LaneWord) (s : State) : Host.Outcome State Fault Refusal :=
  predWord 0xB3 w (fun e l =>
    let v (k : Nat) : Nat := e.pattern (intWidth w.ty.toNat) w.va.toNat k
    e.lanes.any (fun k => k ≠ l && v k = v l)) s

/-- `vlaneid` (R151). -/
def execVlaneid (w : LaneWord) (s : State) : Host.Outcome State Fault Refusal :=
  maskWord 0xB4 w (fun e => e.lanes.map (fun l => .v w.vd.toNat l (BitVec.ofNat 32 l))) s

/-- `vprank` (R151). -/
def execVprank (w : LaneWord) (s : State) : Host.Outcome State Fault Refusal :=
  maskWord 0xB5 w (fun e => e.lanes.map (fun l =>
    .v w.vd.toNat l (BitVec.ofNat 32 (e.lanes.filter (fun k => decide (k < l) && predA e w k)).length))) s

end Sys2Proof.Machine
end

