-- ==== Sys2Proof/Machine/LanePacked.lean ====
section
/-! DEFINITION. Packed INT16 and packed-pixel instructions, majors 0x40 to 0x55 (R120, R121). -/

namespace Sys2Proof.Machine

/-- The operands of a packed word in lane `l`: signedness, va, vb or the immediate, and vc as 32-bit patterns. -/
structure HalfOps where
  sgn : Bool
  a : Nat
  b : Nat
  c : Nat

/-- The operands of a packed word in lane `l`; with `imm` the immediate stands for vb (R113, R120). -/
def halfOps (imm : Bool) (e : LaneEnv) (w : LaneWord) (l : Nat) : HalfOps :=
  { sgn := intSigned w.ty.toNat,
    a := e.reg w.va.toNat l,
    b := if imm then w.imm.toNat else e.reg w.vb.toNat l,
    c := e.reg (vcOf w) l }

/-- Half `j` of a register as a value. -/
def halfOf (sgn : Bool) (v j : Nat) : Int := typed 16 sgn (v / 2 ^ (16 * j))

/-- Values a_j and b_j (R120). -/
def HalfOps.aj (o : HalfOps) (j : Nat) : Int := halfOf o.sgn o.a j
def HalfOps.bj (o : HalfOps) (j : Nat) : Int := halfOf o.sgn o.b j

/-- The register of two result halves, each modulo 2^16. -/
def packHalves (y0 y1 : Int) : Word32 := BitVec.ofNat 32 (wrapTo 16 y0 + 2 ^ 16 * wrapTo 16 y1)

/-- The outcome of a packed word that writes one 32-bit register in each active lane. -/
def packedWord (major : Nat) (w : LaneWord) (f : HalfOps → Word32) (s : State) : Host.Outcome State Fault Refusal :=
  ordinaryLane major (rowForm (packedRow major) major false w) w (fun e => e.lanes.map (fun l =>
    .v w.vd.toNat l (f (halfOps (takesImm (packedRow major) w) e w l)))) s

/-- The outcome of a packed word whose result halves are `f j` of its operands (R120). -/
def halvesWord (major : Nat) (w : LaneWord) (f : HalfOps → Nat → Int) (s : State) : Host.Outcome State Fault Refusal :=
  packedWord major w (fun o => packHalves (f o 0) (f o 1)) s

/-- Whether the optional third operand is added: func bit 50, A (R113). -/
def addsC (w : LaneWord) : Bool := w.func.getLsbD 0

/-- `hadd` (R120). -/
def execHadd (w : LaneWord) (s : State) : Host.Outcome State Fault Refusal :=
  halvesWord 0x40 w (fun o j => o.aj j + o.bj j) s

/-- `hadds` (R120). -/
def execHadds (w : LaneWord) (s : State) : Host.Outcome State Fault Refusal :=
  halvesWord 0x41 w (fun o j => satTo 16 o.sgn (o.aj j + o.bj j)) s

/-- `hsub` (R120). -/
def execHsub (w : LaneWord) (s : State) : Host.Outcome State Fault Refusal :=
  halvesWord 0x42 w (fun o j => o.aj j - o.bj j) s

/-- `hsubs` (R120). -/
def execHsubs (w : LaneWord) (s : State) : Host.Outcome State Fault Refusal :=
  halvesWord 0x43 w (fun o j => satTo 16 o.sgn (o.aj j - o.bj j)) s

/-- `hmin` (R120). -/
def execHmin (w : LaneWord) (s : State) : Host.Outcome State Fault Refusal :=
  halvesWord 0x44 w (fun o j => min (o.aj j) (o.bj j)) s

/-- `hmax` (R120). -/
def execHmax (w : LaneWord) (s : State) : Host.Outcome State Fault Refusal :=
  halvesWord 0x45 w (fun o j => max (o.aj j) (o.bj j)) s

/-- `havg`: rounding up, or down with `.rdn`, func bit 50 (R120). -/
def execHavg (w : LaneWord) (s : State) : Host.Outcome State Fault Refusal :=
  halvesWord 0x46 w (fun o j => (o.aj j + o.bj j + (if w.func.getLsbD 0 then 0 else 1)) / 2) s

/-- `habsd`: |a_j − b_j| as an unsigned 16-bit pattern (R120). -/
def execHabsd (w : LaneWord) (s : State) : Host.Outcome State Fault Refusal :=
  halvesWord 0x47 w (fun o j => ((o.aj j - o.bj j).natAbs : Int)) s

/-- `habsds`: |a_j − b_j| clamped to the type's maximum (R120). -/
def execHabsds (w : LaneWord) (s : State) : Host.Outcome State Fault Refusal :=
  halvesWord 0x48 w (fun o j => satTo 16 o.sgn ((o.aj j - o.bj j).natAbs : Int)) s

/-- `hmul` (R120). -/
def execHmul (w : LaneWord) (s : State) : Host.Outcome State Fault Refusal :=
  halvesWord 0x49 w (fun o j => o.aj j * o.bj j) s

/-- `hmuls` (R120). -/
def execHmuls (w : LaneWord) (s : State) : Host.Outcome State Fault Refusal :=
  halvesWord 0x4A w (fun o j => satTo 16 o.sgn (o.aj j * o.bj j)) s

/-- The shift amount of half `j`: B_j[3:0] (R120). -/
def HalfOps.sh (o : HalfOps) (j : Nat) : Nat := (o.b / 2 ^ (16 * j)) % 16

/-- `hshl` (R120). -/
def execHshl (w : LaneWord) (s : State) : Host.Outcome State Fault Refusal :=
  halvesWord 0x4B w (fun o j => o.aj j * (2 ^ o.sh j : Int)) s

/-- `hshr`: arithmetic for `.i16`, logical for `.n16` (R120). -/
def execHshr (w : LaneWord) (s : State) : Host.Outcome State Fault Refusal :=
  halvesWord 0x4C w (fun o j => o.aj j / (2 ^ o.sh j : Int)) s

/-- The sum of the two half products, with vc as 32-bit two's complement when A is set (R120). -/
def halfDot (w : LaneWord) (o : HalfOps) : Int :=
  o.aj 0 * o.bj 0 + o.aj 1 * o.bj 1 + (if addsC w then toSigned 32 o.c else 0)

/-- `hdot2` (R120). -/
def execHdot2 (w : LaneWord) (s : State) : Host.Outcome State Fault Refusal :=
  packedWord 0x4D w (fun o => BitVec.ofNat 32 (wrapTo 32 (halfDot w o))) s

/-- `hdot2s`: the sum clamped to `.i32` (R120). -/
def execHdot2s (w : LaneWord) (s : State) : Host.Outcome State Fault Refusal :=
  packedWord 0x4E w (fun o => BitVec.ofNat 32 (wrapTo 32 (satTo 32 true (halfDot w o)))) s

/-- `hsad`: sum of absolute differences, with vc unsigned when A is set (R120). -/
def execHsad (w : LaneWord) (s : State) : Host.Outcome State Fault Refusal :=
  packedWord 0x4F w (fun o =>
    BitVec.ofNat 32 ((o.aj 0 - o.bj 0).natAbs + (o.aj 1 - o.bj 1).natAbs + (if addsC w then o.c else 0))) s

/-- `hpack`: vb[15:0] : va[15:0] (R120). -/
def execHpack (w : LaneWord) (s : State) : Host.Outcome State Fault Refusal :=
  packedWord 0x50 w (fun o => BitVec.ofNat 32 (o.a % 2 ^ 16 + 2 ^ 16 * (o.b % 2 ^ 16))) s

/-- `hpacks`: both registers read as `.i32` and clamped to the type (R120). -/
def execHpacks (w : LaneWord) (s : State) : Host.Outcome State Fault Refusal :=
  packedWord 0x51 w (fun o => packHalves (satTo 16 o.sgn (toSigned 32 o.a)) (satTo 16 o.sgn (toSigned 32 o.b))) s

/-- `hunpk`: the two halves to a register pair (R120). -/
def execHunpk (w : LaneWord) (s : State) : Host.Outcome State Fault Refusal :=
  ordinaryLane 0x52 (rowForm (packedRow 0x52) 0x52 false w) w (fun e => e.lanes.flatMap (fun l =>
    let o := halfOps false e w l
    [.v w.vd.toNat l (BitVec.ofInt 32 (o.aj 0)), .v (w.vd.toNat + 1) l (BitVec.ofInt 32 (o.aj 1))])) s

/-- `hpk8`: four halves read as `.i16`, each clamped to the 8-bit type (R120). -/
def execHpk8 (w : LaneWord) (s : State) : Host.Outcome State Fault Refusal :=
  packedWord 0x53 w (fun o =>
    let q (v j : Nat) : Nat := wrapTo 8 (satTo 8 o.sgn (halfOf true v j))
    BitVec.ofNat 32 (q o.a 0 + q o.a 1 * 2 ^ 8 + q o.b 0 * 2 ^ 16 + q o.b 1 * 2 ^ 24)) s

/-! ### Packed-pixel streams (R121) -/

/-- Sample width of a stream word: 10, 12 or 14 (R121). -/
def sampleWidth (w : LaneWord) : Nat := 10 + 2 * bits w.func.toNat 1 0

/-- The 32·W bits of a register across the wave, lane 0 lowest (R121). -/
def chunkBits (e : LaneEnv) (n : Nat) : Nat :=
  ((List.range e.wave.width).map (fun l => e.reg n l * 2 ^ (32 * l))).foldl (· + ·) 0

/-- A stream word reads va in every lane below the width (R110). -/
def touchStream (w : LaneWord) (e : LaneEnv) (o : Operand) : Mask :=
  if o.wr then e.active else if o.idx = w.va.toNat then e.wave.wm else e.active

/-- `sunpk` (R121). -/
def execSunpk (w : LaneWord) (s : State) : Host.Outcome State Fault Refusal :=
  (laneIssue 0x54 (rowForm (packedRow 0x54) 0x54 false w) w (touchStream w) (fun e _ s =>
    let n := sampleWidth w
    let chunk := chunkBits e w.va.toNat
    let sample (i : Nat) : Int := typed n (intSigned w.ty.toNat) (chunk / 2 ^ (n * i))
    ordinaryDone (laneBytes w) (e.lanes.map (fun l =>
      .v w.vd.toNat l (packHalves (sample (2 * l)) (sample (2 * l + 1))))) s) s).finish

/-- `spack`, with the clamp of SAT, func bit 52 (R121). -/
def execSpack (w : LaneWord) (s : State) : Host.Outcome State Fault Refusal :=
  (laneIssue 0x55 (rowForm (packedRow 0x55) 0x55 false w) w (touchStream w) (fun e _ s =>
    let n := sampleWidth w
    let q (i : Nat) : Nat :=
      let x := halfOf (intSigned w.ty.toNat) (e.reg w.va.toNat (i / 2)) (i % 2)
      if w.func.getLsbD 2 then (min (max x 0) (2 ^ n - 1)).toNat else wrapTo n x
    let stream := ((List.range (2 * e.wave.width)).map (fun i => q i * 2 ^ (n * i))).foldl (· + ·) 0
    ordinaryDone (laneBytes w) (e.lanes.map (fun l =>
      .v w.vd.toNat l (BitVec.ofNat 32 (stream / 2 ^ (32 * l))))) s) s).finish

end Sys2Proof.Machine
end

