-- ==== Sys2Proof/Machine/Manage.lean ====
section
/-! DEFINITION. Live service: management requests, domain reset, core reset and device reset (R174, R189, R290, R291,
R383, R407, R413 to R420). -/

namespace Sys2Proof.Machine

/-! ### Retiring what a reset removes -/

/-- A save area is marked retired: bit 28 of its header (R174). -/
def State.markRetired (s : State) (csa : Nat) : State :=
  s.agentWrite (csa + 3) [BitVec.ofNat 8 (numAt (s.saveRead csa 8) 3 1 ||| 16)]

/-- A slot loses its wave with nothing stored. -/
def State.discardWave (s : State) (c i : Nat) : State :=
  let w := (s.slotAt c i).wave
  let s := ((s.leaveWait c i).interruptSequencer c i).modDie (dieOf c) (fun d => d.dropCompat c i)
  let s := s.modSlotAt c i (fun _ => {})
  let s := s.dropBound (clusterOf c) w.cteam
  let s := s.modCore c (fun q => { q with seq := match q.seq with
    | some r => if r.slot = i then none else some r
    | none => none })
  s.checkPrdom c i

/-- Bound waves whose team is of a domain. -/
def State.domainWaves (s : State) (dom : Nat) : List (Nat × Nat) :=
  s.cores.flatMap (fun e => (e.2.slots.filter (fun k =>
    k.2.state ≠ .free && (s.team (clusterOf e.1) k.2.wave.cteam).dom = dom)).map (fun k => (e.1, k.1)))

/-- Save areas of the saved waves of a domain. -/
def State.savedOf (s : State) (dom : Nat) : List Nat := s.saved.filter (fun a => numAt (s.saveRead a 8) 4 1 = dom)

/-- Every wave of a domain is retired and its save area marked. -/
def State.retireDomain (s : State) (dom : Nat) : State :=
  let ws := s.domainWaves dom
  let csas := ws.map (fun q => (s.slotAt q.1 q.2).wave.csa) ++ s.savedOf dom
  let s := ws.foldl (fun s q => s.discardWave q.1 q.2) s
  let s := csas.foldl (fun s a => s.markRetired a) s
  { s with saved := s.saved.filter (fun a => !csas.contains a), lateCauses := s.lateCauses.filter (fun q => !csas.contains q.1),
           expelled := s.expelled.filter (fun q => !csas.contains q.1),
           freshHalves := s.freshHalves.filter (fun q => !csas.contains q.1) }

/-! ### DOMAIN_RESET (R417) -/

/-- Teams of a domain. -/
def State.domainTeams (s : State) (dom : Nat) : List (Nat × Nat) :=
  s.clusters.flatMap (fun k => (k.2.teams.filter (fun t => t.2.live && t.2.dom = dom)).map (fun t => (k.1, t.1)))

/-- Segments of a domain become free, with no write-back; their tiles' granules return, where they are resident or, while
they refill, on the core that attaches them. -/
def State.dropSegments (s : State) (dom : Nat) : State :=
  s.clusters.foldl (fun s k => (k.2.segs.filter (fun e => e.2.kind ≠ 0 && e.2.dom = dom)).foldl (fun s e =>
    let core := match e.2.pend with
      | some p => if e.2.sst = ssRefilling then p.core else e.2.home k.1
      | none => e.2.home k.1
    let s := if e.2.res ∨ e.2.sst = ssRefilling then
        s.modCore core (fun c => e.2.tiles.foldl (fun (c : Core) t => c.freeGranules t.1 t.2) c)
      else s
    let s := s.modCore core (fun c =>
      { c with tiles := c.tiles.filter (fun t => ¬ (tSegv t.2.1 = true ∧ tSeg t.2.1 = e.1)) })
    s.freeSeg k.1 e.1) s) s

/-- Banks and regions of a domain are zeroed and its cache lines dropped; its accumulator tiles, reservations and the
counting array become free, with what they hold (R417, R184, R355). -/
def Core.wipeDomain (c : Core) (dom : Nat) : Core :=
  let bank (b : Nat) : Bool := c.bankDom b = some dom
  let region (r : Nat) : Bool := c.regionDom r = some dom
  let other (l : CacheLine) : Bool := l.dom ≠ dom
  { c with
    spad := Table.keep c.spad (fun k => !bank (k / 16384)),
    regs := Table.keep c.regs (fun k => !region (k / 512)),
    laneL1 := c.laneL1.filter other, hartData := c.hartData.filter other, icache := c.icache.filter other,
    constCache := c.constCache.filter other, samplerCache := c.samplerCache.filter other,
    accHold := c.accHold.filter (fun e => e.2.dom ≠ dom),
    resv := c.resv.filter (fun e => fld e.2.w2 23 16 ≠ dom),
    cntRec := if c.cntHeld && c.cntDom = dom then {} else c.cntRec }

/-- The L2 lines of a domain are written back and invalidated (R189). -/
def State.wipeL2 (s : State) (dom : Nat) : State :=
  (List.range 8).foldl (fun s d => s.modDie d (fun q => { q with l2 := q.l2.filter (fun e => e.2.1 ≠ dom) })) s

/-- The wave of a slot leaves every gate up to the outermost whose target is the domain. -/
def State.expel (s : State) (c i dom : Nat) : State := s.expelLevels c i (s.levelsInto dom (s.slotAt c i).wave.gates)

/-- Saved waves of other domains that are inside such a gate leave it when they are bound again (R417). -/
def State.expelSaved (s : State) (dom : Nat) : State :=
  s.saved.foldl (fun s a =>
    let n := s.levelsInto dom (savedGates (s.saveRead a 0x1000))
    if Table.get s.expelled a 0 < n then { s with expelled := Table.put s.expelled a n } else s) s

/-- Waves of other domains that are inside a gate whose target is the domain. -/
def State.guests (s : State) (dom : Nat) : List (Nat × Nat) :=
  s.cores.flatMap (fun e => (e.2.slots.filter (fun k =>
    k.2.state ≠ .free && k.2.wave.gates.any (fun g => s.gateTarget g = some dom))).map (fun k => (e.1, k.1)))

/-- The commands of a domain complete with status 4. -/
def State.abortCommands (s : State) (pick : Command → Bool) : State :=
  (s.commands.filter pick).foldl (fun s c => s.complete c.seq 4) s

/-- Engine commands that a picked poster posted fail with ECODE 5, and complete. -/
def State.abortEngines (s : State) (pick : Ring → Poster → Bool) : State :=
  let s := s.abortRuns pick
  s.rings.foldl (fun s r => s.drainAborted r.id (2 * r.posters.length + 1)) s

/-- The steps of a domain reset. -/
def State.resetDomain (s : State) (dom : Nat) : State :=
  let s := (s.listedQueues.filter (fun q => s.queueDom q = dom)).foldl (fun s q => s.disableQueue q) s
  let s := (s.retireDomain dom).abortCommands (fun c => c.dom = dom)
  let s := s.abortEngines (fun _ p => p.dom = dom)
  let teams := s.domainTeams dom
  let s := s.dropSegments dom
  let s := teams.foldl (fun s t => s.retireTeam t.1 t.2) s
  let s := ((s.guests dom).foldl (fun s q => s.expel q.1 q.2 dom) s).expelSaved dom
  let s : State := { s with cores := s.cores.map (fun e => (e.1, e.2.wipeDomain dom)) }
  (s.wipeL2 dom).setUnits dom 0

/-- DOMAIN_RESET of domain `args.a`. -/
def execDomainReset (s : State) : Host.Outcome State Fault Refusal :=
  .next (s.manage (fun s => if 256 ≤ s.args.a then s.managed 1 else (s.resetDomain s.args.a).managed 0))

/-! ### The other requests (R413 to R420) -/

/-- QUEUE_RESET of interface `args.b` of function `args.a`. -/
def execQueueReset (s : State) : Host.Outcome State Fault Refusal :=
  .next (s.manage (fun s =>
    let w := s.qt2a s.args.a
    let q := if s.args.a = 0 then s.args.b else fld w 23 13 + s.args.b
    if 64 ≤ s.args.a ∨ 2048 ≤ q ∨ (s.args.a ≠ 0 ∧ fld w 35 24 ≤ s.args.b) then s.managed 1
    else (s.disableQueue q).managed 0))

/-- The slot of a kind that is not in use. -/
def State.spareSlot (s : State) (kind : Nat) : Nat := 1 - Table.get s.slotInUse kind 0

/-- Bytes of a slot: a header and the largest body. -/
def slotBytes : Nat := 256 + 2 ^ 24

/-- IMAGE_WRITE of `args.bytes` at offset `args.b` of the slot of kind `args.a` that is not in use. -/
def execImageWrite (s : State) : Host.Outcome State Fault Refusal :=
  .next (s.manage (fun s =>
    let kind := s.args.a
    let o := s.args.b
    let bs := s.args.bytes
    if kind = 0 ∨ 5 < kind then s.managed 1
    else if slotBytes < o + bs.length then s.managed 3
    else
      let i := s.spareSlot kind
      let old := s.image kind i
      let gap := (List.range (o - old.length)).map (fun k => Config.freeByte (s.freeCount + k))
      let new := old.take o ++ gap ++ bs ++ old.drop (o + bs.length)
      ({ s with flash := Table.put s.flash (2 * kind + i) new, freeCount := s.freeCount + gap.length } : State).managed 0))

/-- ACTIVATE of a kind: the written slot is checked, measured and put in use. -/
def State.activate (s : State) (kind : Nat) (f : State → State) : State :=
  let i := s.spareSlot kind
  if !s.imageValid kind (s.image kind i) then s.managed 3
  else
    let t := s.extend 5 (imageDigest (s.image kind i))
    (f { t with slotInUse := Table.put t.slotInUse kind i }).managed 0

/-- ACTIVATE of management firmware: the management core restarts, and with `args.b` 1 the restart ends. -/
def execActivateManagementFirmware (s : State) : Host.Outcome State Fault Refusal :=
  .next (if s.args.b = 1 then { s with mgmtBusy := false }
    else s.manage (fun s => s.activate 2 (fun s =>
      ({ s with mgmtBusy := true } : State).schedule 1000000 .activateManagementFirmware { b := 1 })))

/-- The standby cores of the column, each with the old core whose place it takes: the first others, in the order of COLMAP
(DEDUCED, log 55). -/
def handoverPairs (roles : List Nat) : List (Nat × Nat) :=
  let n := roles.length
  List.zip ((List.range n).filter (fun i => bit (roles.getD i 0) 3)) ((List.range n).filter (fun i => !bit (roles.getD i 0) 3))

/-- Two cores exchange their COL bits. -/
def State.swapCol (s : State) (a b : Nat) : State :=
  let x := fld (s.core a).fwall 0 0
  let y := fld (s.core b).fwall 0 0
  if x = y then s
  else (s.modCore a (fun c => { c with fwall := setFld c.fwall 0 0 y })).modCore b (fun c => { c with fwall := setFld c.fwall 0 0 x })

/-- Step 3 of a handover: the standby cores load the new image and read the scheduling state; each takes the roles of the old
core whose place it takes, and COL moves with it in every cluster. -/
def State.takeColumn (s : State) (h : ColHandover) : State :=
  let roles := h.pairs.foldl (fun l p => l.set p.1 (s.cfg.colrole.getD p.2 0)) s.cfg.colrole
  let core (k i : Nat) : Nat := 96 * k + s.cfg.colmap.getD i 0
  let t := (List.range 16).foldl (fun s k => h.pairs.foldl (fun s p => s.swapCol (core k p.1) (core k p.2)) s) s
  { t with
    cfg := { t.cfg with colrole := roles },
    commands := t.commands.filter (fun (c : Command) => match h.stored with
      | some l => l.contains c.seq
      | none => true),
    column := some { h with taken := true } }

/-- ACTIVATE of column firmware: the intake closes (step 1). With `args.b` 1 the old column has finished the bind records it was
writing and stores its scheduling state (step 2), and with 2 the standby cores take over (step 3). Where in device memory that
state lies, and in what form, is not said (DEDUCED, log 55). -/
def execActivateColumnFirmware (s : State) : Host.Outcome State Fault Refusal :=
  .next (match s.args.b, s.column with
    | 0, none =>
      s.manage (fun s =>
        if !s.cfg.colrole.any (fun r => bit r 3) then s.managed 3
        else s.activate 3 (fun s =>
          ({ s with intake := false, column := some { pairs := handoverPairs s.cfg.colrole } } : State).schedule 50000
            .activateColumnFirmware { b := 1 }))
    | 0, some _ => s.manage (fun s => s.managed 2)
    | 1, some h =>
      if s.cores.any (fun e => e.2.bctl.getLsbD 0) then s.schedule 8 .activateColumnFirmware { b := 1 }
      else
        ({ s with column := some { h with stored := some (s.commands.map (fun (c : Command) => c.seq)) } } : State).schedule 25000
          .activateColumnFirmware { b := 2 }
    | 2, some h => if h.stored.isSome then (s.takeColumn h).schedule 25000 .firmwareIntakeReopen {} else s
    | _, _ => s)

/-- The engines of the device, as home and engine code, in the order they reload. -/
def allEngines : List (Nat × Nat) :=
  (List.range 8).flatMap (fun d => (List.range 8).map (fun k => (d, k)) ++ (List.range 2).map (fun k => (d, 8 + k))) ++
    (List.range 2).flatMap (fun h => (List.range 4).map (fun k => (h, 16 + k)))

/-- One engine's turn to reload: it starts nothing, and once it runs nothing it has reloaded and the next one follows. -/
def State.reloadEngine (s : State) (n : Nat) : State :=
  match allEngines[n]? with
  | none => { s with reloading := [] }
  | some e =>
    let s : State := { s with reloading := [e] }
    if s.rings.any (fun (r : Ring) => r.engineCode = e && r.running.isSome) then s.schedule 64 .activateEngineMicrocode { b := n + 1 }
    else
      let s : State := { s with reloading := [] }
      let s := (s.rings.filter (fun (r : Ring) => r.engineCode = e)).foldl (fun s r => s.nextEntry r.id) s
      s.schedule 64 .activateEngineMicrocode { b := n + 2 }

/-- A reload of engine microcode is under way. -/
def State.reloadsEngines (s : State) : Bool :=
  s.reloading ≠ [] || s.agenda.any (fun e => e.2.1 = .activateEngineMicrocode && e.2.2.b ≠ 0)

/-- ACTIVATE of engine microcode, busy while one is under way; with `args.b` = n + 1 the turn of engine n. -/
def execActivateEngineMicrocode (s : State) : Host.Outcome State Fault Refusal :=
  .next (if s.args.b ≠ 0 then s.reloadEngine (s.args.b - 1)
    else s.manage (fun s => if s.reloadsEngines then s.managed 2 else s.activate 4 (fun s => s.schedule 64 .activateEngineMicrocode { b := 1 })))

/-- SPARE of core `args.core`: out of service; its waves are pre-empted and its named-transient segments are to be evicted. It
asks for pre-emption, and so is busy during a handover of the column (R415; DESIGN CHOICE, log 55). -/
def execSpare (s : State) : Host.Outcome State Fault Refusal :=
  .next (s.manage (fun s =>
    let c := s.args.core
    if 1536 ≤ c ∨ (s.core c).fwall.getLsbD 0 then s.managed 1
    else if s.column.isSome then s.managed 2
    else
      let k := clusterOf c
      let s := s.modCore c (fun q => { q with fwall := q.fwall ||| 2 })
      let s := (List.range 16).foldl (fun s i => s.requestPreemption c i) s
      let s := ((s.cluster k).segs.filter (fun e => e.2.kind = 2 && e.2.standsOn k = some c)).foldl (fun s e =>
        s.schedule 64 .firmwareSegmentEviction { core := k, a := e.1 }) s
      s.managed 0))

/-- The buffers and code of a replay agree with its slot. -/
def State.replayMatches (s : State) (g : EngAgent) (slot : List Byte) (buffers : List (Nat × Nat)) : State × Bool :=
  let n := numAt slot 10 1
  if buffers.length ≠ n then (s, false)
  else
    let r := s.recordDigests g buffers
    match r with
    | (s, none) => (s, false)
    | (s, some ds) =>
      let same := (List.range n).all (fun k => ((ds.drop (64 * k + 16)).take 32) = ((slot.drop (192 + 64 * k + 16)).take 32))
      let d := s.codeDigest g (numAt slot 72 8)
      (d.1, same && d.2 = (slot.drop 128).take 64)

/-- A domain in which a launch may be replayed: no enabled interface, no service, no peer. -/
def State.replayDomain (s : State) (dom : Nat) : Bool :=
  s.listedQueues.all (fun q => s.queueState q = 0 || s.queueDom q ≠ dom) && fld (s.reg (0x20008 + 32 * dom)) 2 0 = 0 &&
    (List.range 64).all (fun p => !(s.peerEntry p).getLsbD 63)

/-- REPLAY of record `args.a` in domain `args.b` under PASID `args.d`, buffers `args.pairs`, completion address `args.c`; busy
during a handover of the column, whose firmware launches it (DESIGN CHOICE, log 55). -/
def execReplay (s : State) : Host.Outcome State Fault Refusal :=
  .next (s.manage (fun s =>
    let g := s.args
    let a := s.cfg.recbase + 2048 * (g.a % 2 ^ s.cfg.rlog)
    let slot := s.saveRead a 2048
    if s.column.isSome then s.managed 2
    else if s.cfg.recbase = 0 ∨ 256 ≤ g.b ∨ numAt slot 0 8 ≠ g.a ∨ g.c % 8 ≠ 0 then s.managed 1
    else if !s.replayDomain g.b then s.managed 3
    else
      match s.replayMatches (frontAgent g.b g.d) slot g.pairs with
      | (s, false) => s.managed 3
      | (s, true) =>
        let p := (slot.drop 64).take 64
        let p := p.take 1 ++ leBytes 1 (numAt p 1 1 &&& 5) ++ (p.drop 2).take 22 ++ leBytes 8 g.c ++ p.drop 32
        let seq := s.commands.foldl (fun m (c : Command) => if m ≤ c.seq then c.seq + 1 else m) (2 ^ 64)
        let c : Command := { seq := seq, iface := 0xFFFF, index := 0, packet := p, dom := g.b, pasid := g.d }
        let t : State := { s with commands := s.commands ++ [c] }
        (t.schedule 4 .launchPacket { a := seq }).managed 0))

/-! ### Resets -/

/-- A core after its reset: its cycle count starts again (R18), and its send unit has only the messages in flight, each
to be aborted (R291). An item changes only through the agents its card lists (R8), and no other card of a core lists a core
reset (DEDUCED, log 45). -/
def Core.afterReset (c : Core) (now : Nat) : Core :=
  { c with
    resetAt := now,
    send := (c.send.filter (fun m => m.admitted.isSome)).map (fun m => { m with aborted := true }) }

/-- Core `args.core` is reset: its messages in flight are aborted (R291), and its engine commands fail with ECODE 5
(R280). -/
def execCoreReset (s : State) : Host.Outcome State Fault Refusal :=
  let c := s.args.core
  let s2 := s.abortEngines (fun r _ => r.core = c)
  let s3 := s2.modCore c (fun q => q.afterReset s.cycle)
  .next (((s3.core c).send.map (fun m => m.chan)).foldl (fun s k => s.schedule 16 .messageAbort { core := c, a := k }) s3)

/-- The expanders still attached: those not removed since the boot that mapped them (R385). -/
def State.stillAttached (s : State) : List (Nat × Nat) :=
  let mapped := s.cfg.mapped s.pkg.expanders
  let gone := ((mapped.zip (s.populated.drop (b2n (decide (s.pkg.form = 2))))).filter (fun e => s.removed.contains e.2)).map (fun e => e.1)
  s.pkg.expanders.filter (fun a => !gone.contains a)

/-- The device is reset: every command not complete completes with status 4, every register and table is as reset, and
the boot ROM runs again. Memory, flash, fuses and what is attached stay (R383, R407; DEDUCED, log 45). -/
def execDeviceReset (s : State) : Host.Outcome State Fault Refusal :=
  let t := s.abortCommands (fun _ => true)
  .next { State.reset with
    mem := t.mem, poison := t.poison, flash := t.flash, rootDigest := t.rootDigest, minSvn := t.minSvn,
    freeCount := t.freeCount, lat := t.lat, outbox := t.outbox,
    pkg := { t.pkg with expanders := t.stillAttached } }

end Sys2Proof.Machine
end

