-- ==== Sys2Proof/Machine/Paired.lean ====
section
/-! DEFINITION. The paired word: a lane part and a guarded scalar part issued as one word (R71, R72). -/

namespace Sys2Proof.Machine

/-- The lane part of a paired word, by its major opcode; majors from 0xD5 on never pair. -/
def lanePart (major : Nat) (w : LaneWord) (s : State) : Host.Outcome State Fault Refusal :=
  match major with
  | 0x00 => execVadd w s
  | 0x01 => execVsub w s
  | 0x02 => execVadds w s
  | 0x03 => execVsubs w s
  | 0x04 => execVmul w s
  | 0x05 => execVmulh w s
  | 0x06 => execVmulw w s
  | 0x07 => execVmad w s
  | 0x08 => execVmadw w s
  | 0x09 => execVmin w s
  | 0x0A => execVmax w s
  | 0x0B => execVabs w s
  | 0x0C => execVneg w s
  | 0x0D => execVabsd w s
  | 0x0E => execVclamp w s
  | 0x0F => execVand w s
  | 0x10 => execVor w s
  | 0x11 => execVxor w s
  | 0x12 => execVandn w s
  | 0x13 => execVnot w s
  | 0x14 => execVbmux w s
  | 0x15 => execVsll w s
  | 0x16 => execVsrl w s
  | 0x17 => execVsra w s
  | 0x18 => execVrol w s
  | 0x19 => execVror w s
  | 0x1A => execVshf w s
  | 0x1B => execVshadd w s
  | 0x1C => execVpopc w s
  | 0x1D => execVclz w s
  | 0x1E => execVctz w s
  | 0x1F => execVbrev w s
  | 0x20 => execVbswap w s
  | 0x21 => execVbext w s
  | 0x22 => execVbins w s
  | 0x23 => execVsel w s
  | 0x24 => execVmov w s
  | 0x25 => execVcmpeq w s
  | 0x26 => execVcmpne w s
  | 0x27 => execVcmplt w s
  | 0x28 => execVcmple w s
  | 0x29 => execVcmpgt w s
  | 0x2A => execVcmpge w s
  | 0x2B => execVtst w s
  | 0x2C => execVsext w s
  | 0x2D => execVzext w s
  | 0x2E => execVilog2 w s
  | 0x2F => execVperm w s
  | 0x30 => execVaddc w s
  | 0x31 => execVsubc w s
  | 0x32 => execVmuls w s
  | 0x33 => execVdot4 w s
  | 0x40 => execHadd w s
  | 0x41 => execHadds w s
  | 0x42 => execHsub w s
  | 0x43 => execHsubs w s
  | 0x44 => execHmin w s
  | 0x45 => execHmax w s
  | 0x46 => execHavg w s
  | 0x47 => execHabsd w s
  | 0x48 => execHabsds w s
  | 0x49 => execHmul w s
  | 0x4A => execHmuls w s
  | 0x4B => execHshl w s
  | 0x4C => execHshr w s
  | 0x4D => execHdot2 w s
  | 0x4E => execHdot2s w s
  | 0x4F => execHsad w s
  | 0x50 => execHpack w s
  | 0x51 => execHpacks w s
  | 0x52 => execHunpk w s
  | 0x53 => execHpk8 w s
  | 0x54 => execSunpk w s
  | 0x55 => execSpack w s
  | 0x60 => execVfadd w s
  | 0x61 => execVfsub w s
  | 0x62 => execVfmul w s
  | 0x63 => execVffma w s
  | 0x64 => execVffms w s
  | 0x65 => execVffnma w s
  | 0x66 => execVffnms w s
  | 0x67 => execVfmin w s
  | 0x68 => execVfmax w s
  | 0x69 => execVfminx w s
  | 0x6A => execVfmaxx w s
  | 0x6B => execVfabs w s
  | 0x6C => execVfneg w s
  | 0x6D => execVfsgnj w s
  | 0x6E => execVfsgnjn w s
  | 0x6F => execVfsgnjx w s
  | 0x70 => execVfcmpeq w s
  | 0x71 => execVfcmpne w s
  | 0x72 => execVfcmplt w s
  | 0x73 => execVfcmple w s
  | 0x74 => execVfcmpgt w s
  | 0x75 => execVfcmpge w s
  | 0x76 => execVfcmpun w s
  | 0x77 => execVfclass w s
  | 0x78 => execVfrcp w s
  | 0x79 => execVfrsq w s
  | 0x7A => execVfsqrt w s
  | 0x7B => execVfdiv w s
  | 0x7C => execVfexp2 w s
  | 0x7D => execVflog2 w s
  | 0x7E => execVfsin w s
  | 0x7F => execVfcos w s
  | 0x80 => execVfscale w s
  | 0x81 => execVfrint w s
  | 0x90 => execVcvtf w s
  | 0x91 => execVcvtfi w s
  | 0x92 => execVcvtif w s
  | 0x93 => execVcvtii w s
  | 0x94 => execVunpk4 w s
  | 0x95 => execVpk4 w s
  | 0x96 => execVpk2 w s
  | 0x97 => execVunp2 w s
  | 0x98 => execVpk8 w s
  | 0x99 => execVunp8 w s
  | 0x9A => execVcvtxf w s
  | 0x9B => execVcvtfx w s
  | 0xA0 => execPand w s
  | 0xA1 => execPor w s
  | 0xA2 => execPxor w s
  | 0xA3 => execPandn w s
  | 0xA4 => execPnot w s
  | 0xA5 => execPfirst w s
  | 0xA6 => execMfromp w s
  | 0xA7 => execPfromm w s
  | 0xA8 => execMgeta w s
  | 0xA9 => execMseta w s
  | 0xAA => execVballot w s
  | 0xAB => execPfromx w s
  | 0xAC => execVvote w s
  | 0xAD => execVrdlane w s
  | 0xAE => execVbcast w s
  | 0xAF => execVlperm w s
  | 0xB0 => execVred w s
  | 0xB1 => execVredx w s
  | 0xB2 => execVscan w s
  | 0xB3 => execVmatch w s
  | 0xB4 => execVlaneid w s
  | 0xB5 => execVprank w s
  | 0xC0 => execVldGlobal w s
  | 0xC1 => execVstGlobal w s
  | 0xC2 => execVldScratchpad w s
  | 0xC3 => execVstScratchpad w s
  | 0xC4 => execVldWindow w s
  | 0xC5 => execVstWindow w s
  | 0xC6 => execVldc w s
  | 0xC7 => execVsmp w s
  | 0xC8 => execVpf w s
  | 0xC9 => execVamoGlobal w s
  | 0xCA => execVamoScratchpad w s
  | 0xCB => execVamoWindow w s
  | 0xCC => execVcasGlobal w s
  | 0xCD => execVcasScratchpad w s
  | 0xCE => execVcasWindow w s
  | 0xCF => execAmoLock w s
  | 0xD0 => execAmoUnlk w s
  | 0xD1 => execXld w s
  | 0xD2 => execXst w s
  | 0xD3 => execVldAccumulator w s
  | 0xD4 => execVstAccumulator w s
  | _ => (illegal s (laneLow major true false w)).finish

/-- The lane part as its own 96-bit form: the conversions of R133 read their fields there. -/
def pairedLane (major : Nat) (w : LaneWord) : LaneWord :=
  if 0x90 ≤ major ∧ major ≤ 0x95 then { w with len := 1 } else w

/-- runS of R71. -/
def runsScalar (all : Bool) (w : LaneWord) (wv : Wave) : Bool :=
  let a := wv.activeLanes w
  a ≠ 0 && (!all || a = wv.amask &&& wv.wm)

/-- The scalar part on the state `t` that the lane part left; `s` is the state at issue, to which a fault of the scalar
part returns. -/
def pairScalar (w : LaneWord) (i : Rv) (s t : State) : Host.Outcome State Fault Refusal :=
  match rvPerform i s.wave t with
  | .trap cause tval => (Issue.trap cause tval s).finish
  | .park cause tval => (Issue.park cause tval s).finish
  | .hold => (Issue.hold s).finish
  | .now u upds _ post => .next ((u.applyAll upds).modWave post)
  | .later u upds acks locs lat =>
    .next (u.modWave (fun q =>
      { q with pending := q.pending ++
          [{ pc := s.wave.pc, la := w.la.toNat, since := 0, due := q.csrs.turn.toNat + lat, locs := liveLocs locs,
             upds := upds, acks := acks }] }))
  | .late f u =>
    match u.wave.park with
    | some _ =>
      .next (u.modWave (fun q =>
        { q with park := q.park.map (fun p => { p with held := p.held ++ [(.riscvScalarInstruction i, 1)] }) }))
    | none => (lateFault s.wave.pc f (.riscvScalarInstruction i, 1) u).finish

/-- A paired word (R71). A floating-point scalar part that RISC-V makes illegal by state, with `mstatus.FS` Off or an invalid
dynamic rounding mode, is legal in itself (R72): it takes cause 2 where it runs, with the 32-bit part as xtval (DESIGN
CHOICE, log 81). -/
def execPairedWord (major : BitVec 8) (w : LaneWord) (all : Bool) (i : Rv) (s : State) :
    Host.Outcome State Fault Refusal :=
  let m := major.toNat
  let ops := (laneForm m true w).getD []
  let wv := s.wave
  if !s.canIssue then .fault .noRunningWave
  else if !(pairLegal major w i && wv.profileOn 0 && inBudget wv.budget ops) then
    (illegal s (laneLow m true all w)).finish
  else
    match lookahead s (laneLocs w ops ++ liveLocs (rvLocs i)) with
    | some r => r.finish
    | none =>
      match lanePart m (pairedLane m w) s with
      | .next t =>
        if t.verdict ≠ .issued then .next t
        else
          let t := t.modWave (fun q => { q with pc := wv.pc + 16 })
          if !runsScalar all w wv then .next t
          else if !rvFpReady i wv then (Issue.trap 2 (rvBits i) s).finish
          else pairScalar w i s t
      | o => o

end Sys2Proof.Machine
end

