-- ==== Sys2Proof/Machine/Dispatch.lean ====
section
/-! DEFINITION. One arm for every instruction and device event: each calls its meaning. -/

namespace Sys2Proof.Machine

open Sys2Proof

/-- What an instruction or a device event does. -/
def exec (i : Instr) (s : State) : Host.Outcome State Fault Refusal :=
  match i with
  | .vadd w => Sys2Proof.Machine.execVadd w s
  | .vsub w => Sys2Proof.Machine.execVsub w s
  | .vadds w => Sys2Proof.Machine.execVadds w s
  | .vsubs w => Sys2Proof.Machine.execVsubs w s
  | .vmul w => Sys2Proof.Machine.execVmul w s
  | .vmulh w => Sys2Proof.Machine.execVmulh w s
  | .vmulw w => Sys2Proof.Machine.execVmulw w s
  | .vmad w => Sys2Proof.Machine.execVmad w s
  | .vmadw w => Sys2Proof.Machine.execVmadw w s
  | .vmin w => Sys2Proof.Machine.execVmin w s
  | .vmax w => Sys2Proof.Machine.execVmax w s
  | .vabs w => Sys2Proof.Machine.execVabs w s
  | .vneg w => Sys2Proof.Machine.execVneg w s
  | .vabsd w => Sys2Proof.Machine.execVabsd w s
  | .vclamp w => Sys2Proof.Machine.execVclamp w s
  | .vand w => Sys2Proof.Machine.execVand w s
  | .vor w => Sys2Proof.Machine.execVor w s
  | .vxor w => Sys2Proof.Machine.execVxor w s
  | .vandn w => Sys2Proof.Machine.execVandn w s
  | .vnot w => Sys2Proof.Machine.execVnot w s
  | .vbmux w => Sys2Proof.Machine.execVbmux w s
  | .vsll w => Sys2Proof.Machine.execVsll w s
  | .vsrl w => Sys2Proof.Machine.execVsrl w s
  | .vsra w => Sys2Proof.Machine.execVsra w s
  | .vrol w => Sys2Proof.Machine.execVrol w s
  | .vror w => Sys2Proof.Machine.execVror w s
  | .vshf w => Sys2Proof.Machine.execVshf w s
  | .vshadd w => Sys2Proof.Machine.execVshadd w s
  | .vpopc w => Sys2Proof.Machine.execVpopc w s
  | .vclz w => Sys2Proof.Machine.execVclz w s
  | .vctz w => Sys2Proof.Machine.execVctz w s
  | .vbrev w => Sys2Proof.Machine.execVbrev w s
  | .vbswap w => Sys2Proof.Machine.execVbswap w s
  | .vbext w => Sys2Proof.Machine.execVbext w s
  | .vbins w => Sys2Proof.Machine.execVbins w s
  | .vsel w => Sys2Proof.Machine.execVsel w s
  | .vmov w => Sys2Proof.Machine.execVmov w s
  | .vcmpeq w => Sys2Proof.Machine.execVcmpeq w s
  | .vcmpne w => Sys2Proof.Machine.execVcmpne w s
  | .vcmplt w => Sys2Proof.Machine.execVcmplt w s
  | .vcmple w => Sys2Proof.Machine.execVcmple w s
  | .vcmpgt w => Sys2Proof.Machine.execVcmpgt w s
  | .vcmpge w => Sys2Proof.Machine.execVcmpge w s
  | .vtst w => Sys2Proof.Machine.execVtst w s
  | .vsext w => Sys2Proof.Machine.execVsext w s
  | .vzext w => Sys2Proof.Machine.execVzext w s
  | .vilog2 w => Sys2Proof.Machine.execVilog2 w s
  | .vperm w => Sys2Proof.Machine.execVperm w s
  | .vaddc w => Sys2Proof.Machine.execVaddc w s
  | .vsubc w => Sys2Proof.Machine.execVsubc w s
  | .vmuls w => Sys2Proof.Machine.execVmuls w s
  | .vdot4 w => Sys2Proof.Machine.execVdot4 w s
  | .hadd w => Sys2Proof.Machine.execHadd w s
  | .hadds w => Sys2Proof.Machine.execHadds w s
  | .hsub w => Sys2Proof.Machine.execHsub w s
  | .hsubs w => Sys2Proof.Machine.execHsubs w s
  | .hmin w => Sys2Proof.Machine.execHmin w s
  | .hmax w => Sys2Proof.Machine.execHmax w s
  | .havg w => Sys2Proof.Machine.execHavg w s
  | .habsd w => Sys2Proof.Machine.execHabsd w s
  | .habsds w => Sys2Proof.Machine.execHabsds w s
  | .hmul w => Sys2Proof.Machine.execHmul w s
  | .hmuls w => Sys2Proof.Machine.execHmuls w s
  | .hshl w => Sys2Proof.Machine.execHshl w s
  | .hshr w => Sys2Proof.Machine.execHshr w s
  | .hdot2 w => Sys2Proof.Machine.execHdot2 w s
  | .hdot2s w => Sys2Proof.Machine.execHdot2s w s
  | .hsad w => Sys2Proof.Machine.execHsad w s
  | .hpack w => Sys2Proof.Machine.execHpack w s
  | .hpacks w => Sys2Proof.Machine.execHpacks w s
  | .hunpk w => Sys2Proof.Machine.execHunpk w s
  | .hpk8 w => Sys2Proof.Machine.execHpk8 w s
  | .sunpk w => Sys2Proof.Machine.execSunpk w s
  | .spack w => Sys2Proof.Machine.execSpack w s
  | .vfadd w => Sys2Proof.Machine.execVfadd w s
  | .vfsub w => Sys2Proof.Machine.execVfsub w s
  | .vfmul w => Sys2Proof.Machine.execVfmul w s
  | .vffma w => Sys2Proof.Machine.execVffma w s
  | .vffms w => Sys2Proof.Machine.execVffms w s
  | .vffnma w => Sys2Proof.Machine.execVffnma w s
  | .vffnms w => Sys2Proof.Machine.execVffnms w s
  | .vfmin w => Sys2Proof.Machine.execVfmin w s
  | .vfmax w => Sys2Proof.Machine.execVfmax w s
  | .vfminx w => Sys2Proof.Machine.execVfminx w s
  | .vfmaxx w => Sys2Proof.Machine.execVfmaxx w s
  | .vfabs w => Sys2Proof.Machine.execVfabs w s
  | .vfneg w => Sys2Proof.Machine.execVfneg w s
  | .vfsgnj w => Sys2Proof.Machine.execVfsgnj w s
  | .vfsgnjn w => Sys2Proof.Machine.execVfsgnjn w s
  | .vfsgnjx w => Sys2Proof.Machine.execVfsgnjx w s
  | .vfcmpeq w => Sys2Proof.Machine.execVfcmpeq w s
  | .vfcmpne w => Sys2Proof.Machine.execVfcmpne w s
  | .vfcmplt w => Sys2Proof.Machine.execVfcmplt w s
  | .vfcmple w => Sys2Proof.Machine.execVfcmple w s
  | .vfcmpgt w => Sys2Proof.Machine.execVfcmpgt w s
  | .vfcmpge w => Sys2Proof.Machine.execVfcmpge w s
  | .vfcmpun w => Sys2Proof.Machine.execVfcmpun w s
  | .vfclass w => Sys2Proof.Machine.execVfclass w s
  | .vfrcp w => Sys2Proof.Machine.execVfrcp w s
  | .vfrsq w => Sys2Proof.Machine.execVfrsq w s
  | .vfsqrt w => Sys2Proof.Machine.execVfsqrt w s
  | .vfdiv w => Sys2Proof.Machine.execVfdiv w s
  | .vfexp2 w => Sys2Proof.Machine.execVfexp2 w s
  | .vflog2 w => Sys2Proof.Machine.execVflog2 w s
  | .vfsin w => Sys2Proof.Machine.execVfsin w s
  | .vfcos w => Sys2Proof.Machine.execVfcos w s
  | .vfscale w => Sys2Proof.Machine.execVfscale w s
  | .vfrint w => Sys2Proof.Machine.execVfrint w s
  | .vcvtf w => Sys2Proof.Machine.execVcvtf w s
  | .vcvtfi w => Sys2Proof.Machine.execVcvtfi w s
  | .vcvtif w => Sys2Proof.Machine.execVcvtif w s
  | .vcvtii w => Sys2Proof.Machine.execVcvtii w s
  | .vunpk4 w => Sys2Proof.Machine.execVunpk4 w s
  | .vpk4 w => Sys2Proof.Machine.execVpk4 w s
  | .vpk2 w => Sys2Proof.Machine.execVpk2 w s
  | .vunp2 w => Sys2Proof.Machine.execVunp2 w s
  | .vpk8 w => Sys2Proof.Machine.execVpk8 w s
  | .vunp8 w => Sys2Proof.Machine.execVunp8 w s
  | .vcvtxf w => Sys2Proof.Machine.execVcvtxf w s
  | .vcvtfx w => Sys2Proof.Machine.execVcvtfx w s
  | .pand w => Sys2Proof.Machine.execPand w s
  | .por w => Sys2Proof.Machine.execPor w s
  | .pxor w => Sys2Proof.Machine.execPxor w s
  | .pandn w => Sys2Proof.Machine.execPandn w s
  | .pnot w => Sys2Proof.Machine.execPnot w s
  | .pfirst w => Sys2Proof.Machine.execPfirst w s
  | .mfromp w => Sys2Proof.Machine.execMfromp w s
  | .pfromm w => Sys2Proof.Machine.execPfromm w s
  | .mgeta w => Sys2Proof.Machine.execMgeta w s
  | .mseta w => Sys2Proof.Machine.execMseta w s
  | .vballot w => Sys2Proof.Machine.execVballot w s
  | .pfromx w => Sys2Proof.Machine.execPfromx w s
  | .vvote w => Sys2Proof.Machine.execVvote w s
  | .vrdlane w => Sys2Proof.Machine.execVrdlane w s
  | .vbcast w => Sys2Proof.Machine.execVbcast w s
  | .vlperm w => Sys2Proof.Machine.execVlperm w s
  | .vred w => Sys2Proof.Machine.execVred w s
  | .vredx w => Sys2Proof.Machine.execVredx w s
  | .vscan w => Sys2Proof.Machine.execVscan w s
  | .vmatch w => Sys2Proof.Machine.execVmatch w s
  | .vlaneid w => Sys2Proof.Machine.execVlaneid w s
  | .vprank w => Sys2Proof.Machine.execVprank w s
  | .vldGlobal w => Sys2Proof.Machine.execVldGlobal w s
  | .vstGlobal w => Sys2Proof.Machine.execVstGlobal w s
  | .vldScratchpad w => Sys2Proof.Machine.execVldScratchpad w s
  | .vstScratchpad w => Sys2Proof.Machine.execVstScratchpad w s
  | .vldWindow w => Sys2Proof.Machine.execVldWindow w s
  | .vstWindow w => Sys2Proof.Machine.execVstWindow w s
  | .vldc w => Sys2Proof.Machine.execVldc w s
  | .vsmp w => Sys2Proof.Machine.execVsmp w s
  | .vpf w => Sys2Proof.Machine.execVpf w s
  | .vamoGlobal w => Sys2Proof.Machine.execVamoGlobal w s
  | .vamoScratchpad w => Sys2Proof.Machine.execVamoScratchpad w s
  | .vamoWindow w => Sys2Proof.Machine.execVamoWindow w s
  | .vcasGlobal w => Sys2Proof.Machine.execVcasGlobal w s
  | .vcasScratchpad w => Sys2Proof.Machine.execVcasScratchpad w s
  | .vcasWindow w => Sys2Proof.Machine.execVcasWindow w s
  | .amoLock w => Sys2Proof.Machine.execAmoLock w s
  | .amoUnlk w => Sys2Proof.Machine.execAmoUnlk w s
  | .xld w => Sys2Proof.Machine.execXld w s
  | .xst w => Sys2Proof.Machine.execXst w s
  | .vldAccumulator w => Sys2Proof.Machine.execVldAccumulator w s
  | .vstAccumulator w => Sys2Proof.Machine.execVstAccumulator w s
  | .chRecv w => Sys2Proof.Machine.execChRecv w s
  | .mld w => Sys2Proof.Machine.execMld w s
  | .mma w => Sys2Proof.Machine.execMma w s
  | .mmac w => Sys2Proof.Machine.execMmac w s
  | .accSt w => Sys2Proof.Machine.execAccSt w s
  | .accTake w => Sys2Proof.Machine.execAccTake w s
  | .accRel w => Sys2Proof.Machine.execAccRel w s
  | .accClr w => Sys2Proof.Machine.execAccClr w s
  | .accLd w => Sys2Proof.Machine.execAccLd w s
  | .accCvt w => Sys2Proof.Machine.execAccCvt w s
  | .cntAcc w => Sys2Proof.Machine.execCntAcc w s
  | .cntMrg w => Sys2Proof.Machine.execCntMrg w s
  | .cntDrn w => Sys2Proof.Machine.execCntDrn w s
  | .cntSpl w => Sys2Proof.Machine.execCntSpl w s
  | .cntFil w => Sys2Proof.Machine.execCntFil w s
  | .pairedWord major w all scalar => Sys2Proof.Machine.execPairedWord major w all scalar s
  | .tileAlloc checked zero a d => Sys2Proof.Machine.execTileAlloc checked zero a d s
  | .tileFree a d => Sys2Proof.Machine.execTileFree a d s
  | .tileAwait a d => Sys2Proof.Machine.execTileAwait a d s
  | .tileRel writeBack a d => Sys2Proof.Machine.execTileRel writeBack a d s
  | .tileState a d => Sys2Proof.Machine.execTileState a d s
  | .segAtt m b a d => Sys2Proof.Machine.execSegAtt m b a d s
  | .segDet a d => Sys2Proof.Machine.execSegDet a d s
  | .segDetRel a d => Sys2Proof.Machine.execSegDetRel a d s
  | .segName b a d => Sys2Proof.Machine.execSegName b a d s
  | .segPin a d => Sys2Proof.Machine.execSegPin a d s
  | .segUnpin a d => Sys2Proof.Machine.execSegUnpin a d s
  | .segEvict a d => Sys2Proof.Machine.execSegEvict a d s
  | .segEvictDrop a d => Sys2Proof.Machine.execSegEvictDrop a d s
  | .cpyPost b a d => Sys2Proof.Machine.execCpyPost b a d s
  | .dczPost b a d => Sys2Proof.Machine.execDczPost b a d s
  | .chSend b a d => Sys2Proof.Machine.execChSend b a d s
  | .sqRing b a d => Sys2Proof.Machine.execSqRing b a d s
  | .sqRingCq b a d => Sys2Proof.Machine.execSqRingCq b a d s
  | .barInit n a => Sys2Proof.Machine.execBarInit n a s
  | .barArrive n d => Sys2Proof.Machine.execBarArrive n d s
  | .barWait n a => Sys2Proof.Machine.execBarWait n a s
  | .barInv n => Sys2Proof.Machine.execBarInv n s
  | .fenceScope sc => Sys2Proof.Machine.execFenceScope sc s
  | .pfence p => Sys2Proof.Machine.execPfence p s
  | .waita sc b a d => Sys2Proof.Machine.execWaita sc b a d s
  | .chunk a d => Sys2Proof.Machine.execChunk a d s
  | .elect n => Sys2Proof.Machine.execElect n s
  | .gateCall b a => Sys2Proof.Machine.execGateCall b a s
  | .gateRet => Sys2Proof.Machine.execGateRet s
  | .domQuery a d => Sys2Proof.Machine.execDomQuery a d s
  | .waveEnd => Sys2Proof.Machine.execWaveEnd s
  | .yield => Sys2Proof.Machine.execYield s
  | .obRsv n b a d => Sys2Proof.Machine.execObRsv n b a d s
  | .obRel n d => Sys2Proof.Machine.execObRel n d s
  | .cntRsv a d => Sys2Proof.Machine.execCntRsv a d s
  | .cntRsvRel d => Sys2Proof.Machine.execCntRsvRel d s
  | .cntClr k => Sys2Proof.Machine.execCntClr k s
  | .maskIf off neg q => Sys2Proof.Machine.execMaskIf off neg q s
  | .maskElse off => Sys2Proof.Machine.execMaskElse off s
  | .maskEndif => Sys2Proof.Machine.execMaskEndif s
  | .mpush n => Sys2Proof.Machine.execMpush n s
  | .mpop => Sys2Proof.Machine.execMpop s
  | .mpopD => Sys2Proof.Machine.execMpopD s
  | .loopL off n => Sys2Proof.Machine.execLoopL off n s
  | .brkL off neg q => Sys2Proof.Machine.execBrkL off neg q s
  | .contL off neg q => Sys2Proof.Machine.execContL off neg q s
  | .callL b a => Sys2Proof.Machine.execCallL b a s
  | .jmpL b a => Sys2Proof.Machine.execJmpL b a s
  | .retL => Sys2Proof.Machine.execRetL s
  | .lmulhh b a d => Sys2Proof.Machine.execLmulhh b a d s
  | .lsumh b a d => Sys2Proof.Machine.execLsumh b a d s
  | .linrng b a d => Sys2Proof.Machine.execLinrng b a d s
  | .lsatw b a d => Sys2Proof.Machine.execLsatw b a d s
  | .lrevh a d => Sys2Proof.Machine.execLrevh a d s
  | .linsb b a d => Sys2Proof.Machine.execLinsb b a d s
  | .ecall => Sys2Proof.Machine.execEcall s
  | .mret => Sys2Proof.Machine.execMret s
  | .sret => Sys2Proof.Machine.execSret s
  | .fenceI rd rs1 imm => Sys2Proof.Machine.execFenceI rd rs1 imm s
  | .wfi => Sys2Proof.Machine.execWfi s
  | .riscvScalarInstruction r => Sys2Proof.Machine.execRiscvScalarInstruction r s
  | .longLatencyCompletion => Sys2Proof.Machine.execLongLatencyCompletion s
  | .fetchBlockArrival => Sys2Proof.Machine.execFetchBlockArrival s
  | .slotTimerExpiry => Sys2Proof.Machine.execSlotTimerExpiry s
  | .tileWaitTimeout => Sys2Proof.Machine.execTileWaitTimeout s
  | .interruptTaken => Sys2Proof.Machine.execInterruptTaken s
  | .deferredCauseTaken => Sys2Proof.Machine.execDeferredCauseTaken s
  | .registerMissLoadComplete => Sys2Proof.Machine.execRegisterMissLoadComplete s
  | .preemptionRequest => Sys2Proof.Machine.execPreemptionRequest s
  | .domainPreemptionRequest => Sys2Proof.Machine.execDomainPreemptionRequest s
  | .handoverBegin => Sys2Proof.Machine.execHandoverBegin s
  | .reclaimGraceExpiry => Sys2Proof.Machine.execReclaimGraceExpiry s
  | .engineStopAck => Sys2Proof.Machine.execEngineStopAck s
  | .handoverComplete => Sys2Proof.Machine.execHandoverComplete s
  | .waveRetireComplete => Sys2Proof.Machine.execWaveRetireComplete s
  | .newWaveBind => Sys2Proof.Machine.execNewWaveBind s
  | .restoreBind => Sys2Proof.Machine.execRestoreBind s
  | .teamTableEntryWrite => Sys2Proof.Machine.execTeamTableEntryWrite s
  | .domainPartitionWrite => Sys2Proof.Machine.execDomainPartitionWrite s
  | .stationTranslate => Sys2Proof.Machine.execStationTranslate s
  | .stationWalkComplete => Sys2Proof.Machine.execStationWalkComplete s
  | .faultRingAppend => Sys2Proof.Machine.execFaultRingAppend s
  | .parkResume => Sys2Proof.Machine.execParkResume s
  | .parkDeliver => Sys2Proof.Machine.execParkDeliver s
  | .parkRetire => Sys2Proof.Machine.execParkRetire s
  | .invPageRange => Sys2Proof.Machine.execInvPageRange s
  | .invWholePasid => Sys2Proof.Machine.execInvWholePasid s
  | .invHostTag => Sys2Proof.Machine.execInvHostTag s
  | .invEverything => Sys2Proof.Machine.execInvEverything s
  | .stationInvAck => Sys2Proof.Machine.execStationInvAck s
  | .releaseDirectoryDrain => Sys2Proof.Machine.execReleaseDirectoryDrain s
  | .drainAck => Sys2Proof.Machine.execDrainAck s
  | .activeMessageService => Sys2Proof.Machine.execActiveMessageService s
  | .activeMessageAck => Sys2Proof.Machine.execActiveMessageAck s
  | .notifyWrite => Sys2Proof.Machine.execNotifyWrite s
  | .latchTake => Sys2Proof.Machine.execLatchTake s
  | .packetAccept => Sys2Proof.Machine.execPacketAccept s
  | .launchPacket => Sys2Proof.Machine.execLaunchPacket s
  | .signalPacket => Sys2Proof.Machine.execSignalPacket s
  | .waitPacket => Sys2Proof.Machine.execWaitPacket s
  | .waitSatisfied => Sys2Proof.Machine.execWaitSatisfied s
  | .quiescePacket => Sys2Proof.Machine.execQuiescePacket s
  | .nopPacket => Sys2Proof.Machine.execNopPacket s
  | .commandCompletion => Sys2Proof.Machine.execCommandCompletion s
  | .queueEnable => Sys2Proof.Machine.execQueueEnable s
  | .queueDisable => Sys2Proof.Machine.execQueueDisable s
  | .firmwareIntakeReopen => Sys2Proof.Machine.execFirmwareIntakeReopen s
  | .forwardWindowClose => Sys2Proof.Machine.execForwardWindowClose s
  | .widxStorePublish => Sys2Proof.Machine.execWidxStorePublish s
  | .engineCommandStart => Sys2Proof.Machine.execEngineCommandStart s
  | .engineGranuleBoundary => Sys2Proof.Machine.execEngineGranuleBoundary s
  | .copyCompletion => Sys2Proof.Machine.execCopyCompletion s
  | .decompressionCompletion => Sys2Proof.Machine.execDecompressionCompletion s
  | .tileWritebackComplete => Sys2Proof.Machine.execTileWritebackComplete s
  | .segmentRefillComplete => Sys2Proof.Machine.execSegmentRefillComplete s
  | .segmentEvictionComplete => Sys2Proof.Machine.execSegmentEvictionComplete s
  | .firmwareSegmentEviction => Sys2Proof.Machine.execFirmwareSegmentEviction s
  | .messageAdmission => Sys2Proof.Machine.execMessageAdmission s
  | .messageTailFlit => Sys2Proof.Machine.execMessageTailFlit s
  | .channelSendRetry => Sys2Proof.Machine.execChannelSendRetry s
  | .messageAbort => Sys2Proof.Machine.execMessageAbort s
  | .compatRequestService => Sys2Proof.Machine.execCompatRequestService s
  | .sequencerKblockComplete => Sys2Proof.Machine.execSequencerKblockComplete s
  | .cascadeArrival => Sys2Proof.Machine.execCascadeArrival s
  | .cascadeSwap => Sys2Proof.Machine.execCascadeSwap s
  | .waitaRecheck => Sys2Proof.Machine.execWaitaRecheck s
  | .budgetAdd => Sys2Proof.Machine.execBudgetAdd s
  | .coreBudgetCharge => Sys2Proof.Machine.execCoreBudgetCharge s
  | .stage1Invalidate => Sys2Proof.Machine.execStage1Invalidate s
  | .irtMaskClear => Sys2Proof.Machine.execIrtMaskClear s
  | .hostCxlMemRead => Sys2Proof.Machine.execHostCxlMemRead s
  | .hostCxlMemWrite => Sys2Proof.Machine.execHostCxlMemWrite s
  | .hostAtomicop => Sys2Proof.Machine.execHostAtomicop s
  | .hostCxlioRequest => Sys2Proof.Machine.execHostCxlioRequest s
  | .peerRequest => Sys2Proof.Machine.execPeerRequest s
  | .collectiveInstanceStart => Sys2Proof.Machine.execCollectiveInstanceStart s
  | .collectiveCompletion => Sys2Proof.Machine.execCollectiveCompletion s
  | .cutGo => Sys2Proof.Machine.execCutGo s
  | .cutMarkerArrival => Sys2Proof.Machine.execCutMarkerArrival s
  | .cutResume => Sys2Proof.Machine.execCutResume s
  | .clockStepChange => Sys2Proof.Machine.execClockStepChange s
  | .criticalTemperatureStop => Sys2Proof.Machine.execCriticalTemperatureStop s
  | .dieLinkFatalError => Sys2Proof.Machine.execDieLinkFatalError s
  | .deviceReset => Sys2Proof.Machine.execDeviceReset s
  | .bootRomStage => Sys2Proof.Machine.execBootRomStage s
  | .firstStageBoot => Sys2Proof.Machine.execFirstStageBoot s
  | .scrubCorrection => Sys2Proof.Machine.execScrubCorrection s
  | .getVersion => Sys2Proof.Machine.execGetVersion s
  | .getCapabilities => Sys2Proof.Machine.execGetCapabilities s
  | .negotiateAlgorithms => Sys2Proof.Machine.execNegotiateAlgorithms s
  | .getDigests => Sys2Proof.Machine.execGetDigests s
  | .getCertificate => Sys2Proof.Machine.execGetCertificate s
  | .challenge => Sys2Proof.Machine.execChallenge s
  | .getMeasurements => Sys2Proof.Machine.execGetMeasurements s
  | .spdmUnsupportedRequest => Sys2Proof.Machine.execSpdmUnsupportedRequest s
  | .domainReset => Sys2Proof.Machine.execDomainReset s
  | .queueReset => Sys2Proof.Machine.execQueueReset s
  | .imageWrite => Sys2Proof.Machine.execImageWrite s
  | .activateManagementFirmware => Sys2Proof.Machine.execActivateManagementFirmware s
  | .activateColumnFirmware => Sys2Proof.Machine.execActivateColumnFirmware s
  | .activateEngineMicrocode => Sys2Proof.Machine.execActivateEngineMicrocode s
  | .spare => Sys2Proof.Machine.execSpare s
  | .replay => Sys2Proof.Machine.execReplay s
  | .registerWrite => Sys2Proof.Machine.execRegisterWrite s
  | .illegalInstruction => Sys2Proof.Machine.execIllegalInstruction s
  | .coreReset => Sys2Proof.Machine.execCoreReset s
  | .memoryExpanderRemoval => Sys2Proof.Machine.execMemoryExpanderRemoval s
  | .hostCxlCacheRequest => Sys2Proof.Machine.execHostCxlCacheRequest s
  | .linkTraining => Sys2Proof.Machine.execLinkTraining s

end Sys2Proof.Machine
end

