-- ==== Sys2Proof/Machine/Rotation.lean ====
section
/-! DEFINITION. The rotation: whose turn it is, what a turn does before its word, lent turns and lent half groups
(R18, R24 to R27, R32, R165). The step runs the word. -/

namespace Sys2Proof.Machine

/-- The core that acts next in this cycle: the first listed one whose place has not passed. -/
def State.nextCore (s : State) : Option Nat := (s.cores.find? (fun e => decide (s.coreIdx ≤ e.1))).map (fun e => e.1)

/-- The state at the turn of core `c`: its slot by its own cycle count (R18). -/
def State.turnOf (s : State) (c : Nat) : State :=
  { s with coreIdx := c + 1, curCore := c, curSlot := s.coreCycle c % 16, half := false }

/-- The next cycle begins. -/
def State.nextCycle (s : State) : State := { s with cycle := s.cycle + 1, coreIdx := 0 }

/-- A bound slot's own turn begins: the advance of `turn`, then results that are complete, and the end of a `yield` or
`waita` wait whose time has come; a lock holder's grace starts (R18, R97, R138, R168, R172, R245). -/
def State.beginTurn (s : State) : State :=
  let s := (((s.tick s.curCore s.curSlot).completeDue s.curCore s.curSlot).startGrace s.curCore s.curSlot).modSlot
    (fun k => { k with ownFirst := false })
  let w := s.wave
  let ended := match w.wait with
    | some q =>
      match q.kind with
      | .yield => decide (q.start + 2 ≤ w.csrs.turn.toNat)
      | .waita _ _ _ again => decide (again ≤ w.csrs.turn.toNat)
      | _ => false
    | none => false
  if ended then
    s.modSlot (fun k =>
      { k with
        state := .running,
        wave := match k.wave.wait with
          | some { kind := .yield, start := _ } => { k.wave with wait := none }
          | _ => k.wave })
  else s

/-- The wave that acts waits in a way that keeps its word from being examined this turn. -/
def State.asleep (s : State) : Bool :=
  s.slot.state = .waiting &&
    (match s.wave.wait with
      | some q =>
        match q.kind with
        | .yield => true
        | .waita _ _ _ _ => true
        | _ => false
      | none => false)

/-- The co-resident launch of the wave that acts, while its grid has not been bound whole (R31). -/
def State.unopened (s : State) : Option Command :=
  match (s.team (clusterOf s.curCore) s.wave.cteam).cmd with
  | 0 => none
  | n + 1 => (s.command n).filter (fun c => pktType c.packet = 1 && pktFlag c.packet 0 && !c.whole)

/-- Every wave of every team of a grid is bound. -/
def State.gridBound (s : State) (c : Command) : Bool :=
  let teams := s.clusters.flatMap (fun k => (k.2.teams.filter (fun t => t.2.live && t.2.cmd = c.seq + 1)).map (fun t => t.2))
  decide (numAt c.packet 4 4 ≤ teams.length) && teams.all (fun t => t.bound + t.done = t.waves)

/-- The waves of a co-resident grid may issue from now on. -/
def State.openGrid (s : State) (c : Command) : State :=
  { s with commands := s.commands.map (fun (d : Command) => if d.seq = c.seq then { d with whole := true } else d) }

/-- A pre-emption request that is acted on at this turn; a lock holder's is deferred (R172), and some waits are
not divided (R162). -/
def State.preempts (s : State) : Bool := s.slot.prq && s.wave.graceOver s && s.wave.interruptible

/-- An interrupt is taken at this turn (R161, R162). -/
def State.interrupts (s : State) : Bool := s.wave.interrupt.isSome && s.wave.interruptible

/-- The narrowing flags of the long words that are complete at the coming own turn of the slot that acts (R108). -/
def State.dueFlags (s : State) : BitVec 4 :=
  let w := s.wave
  (w.pending.filter (fun o => decide (o.due ≤ w.csrs.turn.toNat + 1) && o.acks = [])).foldl (fun a o =>
    o.upds.foldl (fun a u => match u with
      | .nflags b => a ||| b
      | _ => a) a) 0

/-- The word of the turn is a CSR write that may name `nround`. -/
def State.writesNround (s : State) : Bool :=
  match s.fetched with
  | .word (.riscvScalarInstruction (.csr _ _ _ n)) => n = 0x800
  | .word (.riscvScalarInstruction (.csrImm _ _ _ n)) => n = 0x800
  | _ => false

/-- The flags of the coming own turn that go into `nround` after a CSR write of it by the turn's word (R108). -/
def State.lateFlags (s : State) : BitVec 4 := if s.beginTurn.writesNround then s.dueFlags else 0

/-- Narrowing flags OR into `nround` after the turn's word (R108). -/
def State.orFlags (s : State) (c i : Nat) (b : BitVec 4) : State := if b = 0 then s else s.applyAt c i (.nflags b)

/-- The word of the wave that acts is in the instruction cache, with the word S after `elect` (R19, R75). -/
def State.present (s : State) : Bool :=
  match s.fetched with
  | .absent => false
  | .word (.elect _) => s.codeAt (s.wave.pc + 4).toNat ≠ none
  | _ => true

/-- The slots that may borrow a turn of slot `i`, in rotation order: those of the same team and domain that R24 finds
eligible (R24, R25, R26). A pending pre-emption request or deferred cause waits for the own turn and bars nothing (R159,
R165); a wave just woken issues at its own turn first (R32). -/
def State.candidates (s : State) (i : Nat) : List Nat :=
  let w := s.wave
  ((List.range 15).map (fun k => (i + 1 + k) % 16)).filter (fun j =>
    let k := s.slotAt s.curCore j
    k.state = .running && k.wave.cteam = w.cteam && k.wave.dom = w.dom && !k.ownFirst &&
      decide (4 ≤ (j + 16 - i) % 16) &&
      (match k.lastIssue with
        | some t => decide (t + 4 ≤ s.cycle)
        | none => true) &&
      !k.wave.windowClosed && ({ s with curSlot := j } : State).present)

/-- What a word that has been run comes to has broken an open window: it waits as if beyond it, so that it fails R21 and its
slot may not borrow (R22, R24). -/
def State.heldBack (t : State) (j : Nat) : Bool :=
  t.verdict = .notIssued && (t.slotAt t.curCore j).wave.pending.any (fun o => o.broken)

/-- Put back the counters that count own turns, after a word has been looked at in a lent turn (R378). -/
def State.ownTurnCounts (t s : State) : State :=
  t.modCore s.curCore (fun q =>
    { q with ev := [2, 8, 9, 10].foldl (fun e k =>
        match Table.find (s.core s.curCore).ev k with
        | some n => Table.put e k n
        | none => Table.erase e k) q.ev })

/-- The turn may be lent: the wave waits in one of the ways of R25, with no request pending and no fetch on its way. -/
def State.lends (s : State) : Bool := s.slot.state = .waiting && !s.slot.prq &&
  (match s.wave.busy with
    | some (.fetch _ _) => false
    | _ => true) &&
  (match s.wave.wait with
    | some q =>
      match q.kind with
      | .segEvict _ => false
      | .segDet _ => false
      | _ => true
    | none => false)

/-- The word of a width-16 wave whose other half group may be lent (R26). -/
def State.halfTurn (s : State) : Bool :=
  s.wave.widthCode = 0 &&
    (match s.fetched with
      | .word i => i.laneParts.isSome ||
        (match i with
          | .pairedWord _ _ _ _ => true
          | _ => false)
      | _ => false)

/-- The candidates for the other half of the home group: width-16 waves whose next word is an unpaired lane word. -/
def State.halfCandidates (s : State) : List Nat :=
  (s.candidates s.curSlot).filter (fun j =>
    let t := { s with curSlot := j }
    t.wave.widthCode = 0 &&
      (match t.fetched with
        | .word i => i.laneParts.isSome
        | _ => false))

end Sys2Proof.Machine
end

