-- ==== Sys2Proof/Machine/Step.lean ====
section
/-! DEFINITION. One step of the machine: a device event that is due, or the turn of one core (R18, R25, R165). -/

namespace Sys2Proof.Machine

/-- The word of the wave that acts: fetched, and run. -/
def runWord (s : State) : Host.Outcome State Fault Refusal :=
  match s.fetched with
  | .word i => exec i s
  | .illegal low => exec .illegalInstruction { s with args := { a := low } }
  | .misplaced => (Issue.trap 0 s.wave.pc s).finish
  | .absent => (fetchWait s.wave.pc.toNat s).finish

/-- The first of some slots whose wave is eligible (R24), with what its word comes to in a turn that is not its own. -/
def firstEligible (s : State) (js : List Nat) : Option State :=
  js.findSome? (fun j =>
    match runWord { s with curSlot := j } with
    | .next t => if t.heldBack j then none else some { t.ownTurnCounts s with curSlot := s.curSlot }
    | _ => none)

/-- The turn of the first eligible wave in a lent turn (R25). -/
def borrow (s : State) : Option State := firstEligible s (s.candidates s.curSlot)

/-- A waiting slot's turn is lent to the first eligible wave; the turn is used where its word issues, traps, parks or
begins a wait (R25, R378). -/
def lend (s : State) : State :=
  if s.lends then
    match borrow s with
    | some t =>
      let used := t.verdict ≠ .notIssued ∨ (s.candidates s.curSlot).any (fun j =>
        (s.slotAt s.curCore j).state ≠ .waiting && (t.slotAt s.curCore j).state = .waiting)
      t.count s.curCore (if used then 4 else 5) 1
    | none => s.count s.curCore 5 1
  else s

/-- A turn in which no word issued is counted (R378). -/
def closeTurn (t : State) : State := if t.verdict = .issued then t else t.count t.curCore 1 1

/-- The end of a turn whose word came to `t`: a slot that was waiting when its turn came lends it (R25, R27; the turn in
which the wait begins is spent on the word), and a turn in which nothing issued is counted. -/
def endTurn (waited : Bool) (t : State) : State :=
  closeTurn (if waited ∧ t.verdict = .notIssued then lend t else t)

/-- The turn of a running or waiting slot, after `beginTurn`, by the rows of R165. -/
def ownTurn (s : State) : Host.Outcome State Fault Refusal :=
  if let some (cause, tval) := s.wave.raised then
    .next (closeTurn { s.takeRaised s.curCore s.curSlot cause tval with verdict := .raised })
  else if s.wave.deferred ≠ [] ∧ s.wave.interruptible then
    .next (closeTurn { s.takeDeferred s.curCore s.curSlot with verdict := .raised })
  else if s.preempts ∨ s.interrupts then
    let event : State :=
      if s.preempts then { s.beginHandover s.curCore s.curSlot with verdict := .notIssued }
      else { s.takeInterrupt s.curCore s.curSlot with verdict := .raised }
    if s.asleep then .next (closeTurn event)
    else
      match runWord s with
      | .next t =>
        .next (closeTurn (if t.verdict = .raised ∨ (t.slotAt s.curCore s.curSlot).state = .retiring then t else event))
      | _ => .next (closeTurn event)
  else if s.asleep then .next (endTurn true { s with verdict := .notIssued })
  else
    match runWord s with
    | .next t => .next (endTurn s.wave.wait.isSome { t with half := s.halfTurn && t.verdict = .issued })
    | o => o

/-- The own turn of a running or waiting slot; the narrowing flags of the words complete at it also stand after a CSR write of
`nround` by the turn's word (R108). -/
def fullTurn (s : State) : Host.Outcome State Fault Refusal :=
  match ownTurn s.beginTurn with
  | .next t => .next (t.orFlags s.curCore s.curSlot s.lateFlags)
  | o => o

/-- The own turn of a slot whose wave may not issue yet: only a pre-emption request is acted on. -/
def heldTurn (s : State) : Host.Outcome State Fault Refusal :=
  let s := s.beginTurn
  .next ((if s.preempts then s.beginHandover s.curCore s.curSlot else s).count s.curCore 1 1)

/-- The turn of the core that acts. A wave of a co-resident grid issues nothing before the whole grid is bound (R31). -/
def coreTurn (s : State) : Host.Outcome State Fault Refusal :=
  match s.slot.state with
  | .free => .next (s.count s.curCore 1 1)
  | .running =>
    match s.unopened with
    | none => fullTurn s
    | some c => if s.gridBound c then fullTurn (s.openGrid c) else heldTurn s
  | .waiting => fullTurn s
  | .held => heldTurn s
  | .parked =>
    let s := (s.beginTurn.count s.curCore 11 1).count s.curCore 1 1
    .next (if s.preempts then s.beginHandover s.curCore s.curSlot else s)
  | .handingOver => .next ((s.beginTurn.count s.curCore 1 1).schedule 0 .handoverComplete { core := s.curCore, slot := s.curSlot })
  | .retiring =>
    let s := s.beginTurn.count s.curCore 1 1
    let s := if s.slot.prq then s.modSlot (fun k => { k with prq := false, retd := true }) else s
    .next (s.schedule 0 .waveRetireComplete { core := s.curCore, slot := s.curSlot })

/-- The half group of the turn just taken is lent (R26). -/
def halfTurnStep (s : State) : Host.Outcome State Fault Refusal :=
  let s := { s with half := false }
  match firstEligible s s.halfCandidates with
  | some t => .next (if t.verdict = .notIssued then t else t.count s.curCore 6 1)
  | none => .next s

/-- A step: the event that is due, the rest of a turn, the turn of the next core, or the next cycle. -/
def step (s : State) : Host.Outcome State Fault Refusal :=
  match s.agenda.head? with
  | some (t, i, a) =>
    if t ≤ s.cycle then exec i { s with agenda := s.agenda.tail, args := a }
    else if s.fatal then .next s.nextCycle
    else if s.half then halfTurnStep s
    else
      match s.nextCore with
      | some c => coreTurn (s.turnOf c)
      | none => .next s.nextCycle
  | none =>
    if s.fatal then .fault .fatalStop
    else if s.half then halfTurnStep s
    else
      match s.nextCore with
      | some c => coreTurn (s.turnOf c)
      | none => .next s.nextCycle

/-! ### A word placed where the step fetches -/

/-- The wave that runs a placed word: the wave of the slot, in M-mode and running, with every profile, the largest
budget, nothing outstanding, and its pc at the head of a fetch block. -/
def Wave.placed (w : Wave) : Wave :=
  { w with
    mode := .m, profiles := 15, budget := 256, pc := w.pc &&& ~~~31#64, amask := w.wm, pending := [], wait := none,
    park := none, busy := none, deferred := [], absentBlocks := [], absentAccs := [], graceFrom := none,
    raised := none, fetchBuf := none,
    csrs := { w.csrs with mip := 0, sturncmp := BitVec.allOnes 64 } }

/-- `s` with the word `w` standing where core 0 fetches at its next turn, in a bound slot that runs. -/
def State.withFetchWord (s : State) (_nbits w : Nat) : State :=
  let i := s.coreCycle 0 % 16
  let k := s.slotAt 0 i
  let wave := k.wave.placed
  let line : CacheLine :=
    { dom := wave.dom, pasid := wave.pasid, vline := wave.pc.toNat / 64, pline := wave.pc.toNat / 64,
      data := BitVec.ofNat 512 (w % 2 ^ 128 * 2 ^ (8 * (wave.pc.toNat % 64))), dirty := 0, epoch := 0 }
  let t := s.modCore 0 (fun c =>
    let c := c.modSlot i (fun k => { k with state := .running, prq := false, wave := wave })
    { c with
      icache := line :: c.icache,
      dslot := Table.put c.dslot 0 wave.dom,
      dpreg := (List.range wave.regions).foldl (fun t r => Table.put t (wave.regBase + r) 0) c.dpreg })
  { t with agenda := [], coreIdx := 0, half := false, fatal := false }

end Sys2Proof.Machine
end

