-- ==== Sys2Proof/Safety.lean ====
section
/-! DEFINITION. What the claims are stated in: safe runs, the conditions under which a word issues, and the states a
word that issued leaves. -/

namespace Sys2Proof

/-- The machine reaches `t` from `s` in `n` steps. -/
def Reaches (n : Nat) (s t : Machine.State) : Prop := core.run n s = .next t

/-- No fault and no refusal in the first `n` steps from `s`. -/
def SafeFor (n : Nat) (s : Machine.State) : Prop := ∃ t, Reaches n s t

/-- Every run from `s`, of whatever length, is safe. -/
def Safe (s : Machine.State) : Prop := ∀ n, SafeFor n s

namespace Machine

/-- No open lookahead window forbids the next word: none is passed, and none holds a location of the word (R21). -/
def State.windowsAllow (s : State) (locs : List Loc) : Bool :=
  decide (s.wave.violations locs = []) && !s.wave.windowClosed

/-- A scalar device word of profile `k` (0 CL1, 1 CM1, 2 CK1, 3 CD1) that names `locs` may issue: a wave runs or waits there,
the profile is on, and no window forbids it (R21, R32, R77). -/
def State.wordReady (s : State) (k : Nat) (locs : List Loc) : Bool :=
  s.canIssue && s.wave.profileOn k && s.windowsAllow (liveLocs locs)

/-- A lane word of a major may issue: a wave runs or waits there, the word is legal under its profile and budget, no
window forbids it, every register it names is present, and each register region it touches bears the wave's domain
(R21, R67, R69, R77, R105, R107). -/
def State.laneReady (s : State) (major : Nat) (w : LaneWord) (touch : LaneEnv → Operand → Mask := touchActive) : Bool :=
  s.canIssue &&
    match laneForm major false w with
    | none => false
    | some ops =>
      s.wave.profileOn (majorProfile major) && inBudget s.wave.budget ops && s.windowsAllow (laneLocs w ops) &&
        decide (absentItem s ops = none) &&
        decide (regionViolation (s.core s.curCore) s.wave ops (touch (laneEnv s w)) = none)

/-- The operands of a legal lane word. -/
def laneOperands (major : Nat) (w : LaneWord) : List Operand := (laneForm major false w).getD []

/-- What issuing a word of `len` bytes leaves when its results `upds` are complete at once (R20, R21, R90). -/
def State.afterWord (s : State) (len : Nat) (upds : List Upd) : State := (s.issued len).applyAll upds

/-- What issuing a long-latency word leaves: its results wait `lat` own turns, and for the acknowledgements `acks`;
`reads` stays in use, and under `fence` no later word issues before the acknowledgements (R20, R21, R219, R263). -/
def State.afterLong (s : State) (len la lat : Nat) (locs : List Loc) (upds : List Upd) (acks : List AckPut := [])
    (reads : List Loc := []) (fence : Bool := false) : State :=
  (s.issued len).modWave (fun q =>
    { q with pending := q.pending ++
        [{ pc := s.wave.pc, la := la, since := 0, due := q.csrs.turn.toNat + lat, locs := locs, upds := upds,
           acks := acks, reads := reads, fence := fence }] })

/-- What issuing a scalar word of 4 bytes leaves, with `v` in x register `d`. -/
def State.afterX (s : State) (d : BitVec 5) (v : Word) : State := (s.issued 4).modWave (fun w => w.setX d.toNat v)

/-- Register `n` of lane `l` of the wave that acts. -/
def State.laneReg (s : State) (n l : Nat) : Word32 := (s.core s.curCore).lane s.wave n l

/-- A 32-bit register, or the pair from it on for a 64-bit type, holds the integer `y` under a width and signedness, as
Put of R111 leaves it. -/
def State.laneHolds (s : State) (wd : Nat) (sgn : Bool) (n l : Nat) (y : Int) : Prop :=
  if wd = 64 then s.laneReg n l = BitVec.ofInt 32 y ∧ s.laneReg (n + 1) l = BitVec.ofInt 32 (y / 2 ^ 32)
  else s.laneReg n l = BitVec.ofInt 32 (typed wd sgn (wrapTo wd y))

/-- Nothing outside the wave that acts has changed, but lane registers and the event count of its core. -/
def State.sameOutside (s t : State) : Prop :=
  t = { s with cores := t.cores, verdict := t.verdict } ∧
  (∀ c, c ≠ s.curCore → t.core c = s.core c) ∧
  (t.core s.curCore =
    { s.core s.curCore with
      slots := (t.core s.curCore).slots, regs := (t.core s.curCore).regs, ev := (t.core s.curCore).ev }) ∧
  (∀ i, i ≠ s.curSlot → t.slotAt s.curCore i = s.slotAt s.curCore i) ∧
  (∀ a, Bytes.read t.mem a = Bytes.read s.mem a)

/-- The wave that acts has issued a word of `len` bytes that fell through: its pc and instret have moved on, its open
windows are one word further, and besides those only x registers, predicates, mask registers, the active mask and the
narrowing flags may have changed. -/
def State.fellThrough (s t : State) (len : Nat) : Prop :=
  t.slot = { s.slot with state := .running, lastIssue := some s.cycle, wave := t.wave } ∧
  t.wave =
    { s.wave with
      pc := s.wave.pc + BitVec.ofNat 64 len, wait := none, busy := none, x := t.wave.x, p := t.wave.p, m := t.wave.m,
      amask := t.wave.amask,
      pending := s.wave.pending.map (fun o => { o with since := o.since + 1 }),
      csrs := { s.wave.csrs with instret := s.wave.csrs.instret + 1, nround := t.wave.csrs.nround } }

/-- No register of the wave but lane registers has changed. -/
def State.sameButLanes (s t : State) : Prop :=
  t.wave.x = s.wave.x ∧ t.wave.p = s.wave.p ∧ t.wave.m = s.wave.m ∧ t.wave.amask = s.wave.amask ∧
    t.wave.csrs.nround = s.wave.csrs.nround

/-- Lane registers are as they were but for those that `dst` picks by number and lane. -/
def State.sameLanes (s t : State) (dst : Nat → Nat → Prop) : Prop :=
  ∀ n l, l < s.wave.width → ¬ dst n l → t.laneReg n l = s.laneReg n l

end Machine

/-- `exec` answers the next state `t`, as the outcome of a word that issued. -/
def Completes (i : Instr) (s t : Machine.State) : Prop := Machine.exec i s = .next { t with verdict := .issued }

end Sys2Proof
end

