-- ==== Sys2Proof/Certificates/Slice0/Obligations.lean ====
section
/-! DEFINITION. The statements for the provers. The first part names, for each group of instructions, the values the
manual gives; the statements `Obligations.<Name>` follow them group by group. -/

namespace Sys2Proof.Claims

open Sys2Proof.Machine

/-! ### Lane integer words -/

/-- A lane instruction, its major opcode, and what it computes in one lane from its operands. -/
structure LaneRule (α : Type) where
  con : LaneWord → Instr
  major : Nat
  value : α

/-- The integer that each word writes by Put (R114, R116, R118), from its word and the operands of one lane. -/
def integerRules : List (LaneRule (LaneWord → IntOps → Int)) := [
  ⟨.vadd, 0x00, fun _ o => o.av + o.bv⟩,
  ⟨.vsub, 0x01, fun _ o => o.av - o.bv⟩,
  ⟨.vadds, 0x02, fun _ o => satTo o.wd o.sgn (o.av + o.bv)⟩,
  ⟨.vsubs, 0x03, fun _ o => satTo o.wd o.sgn (o.av - o.bv)⟩,
  ⟨.vmul, 0x04, fun _ o => o.av * o.bv⟩,
  ⟨.vmulh, 0x05, fun _ o => (o.av * o.bv) / 2 ^ o.wd⟩,
  ⟨.vmad, 0x07, fun _ o => o.av * o.bv + o.cv⟩,
  ⟨.vmin, 0x09, fun _ o => if o.av ≤ o.bv then o.av else o.bv⟩,
  ⟨.vmax, 0x0A, fun _ o => if o.av ≤ o.bv then o.bv else o.av⟩,
  ⟨.vabs, 0x0B, fun _ o => if o.av < 0 then -o.av else o.av⟩,
  ⟨.vneg, 0x0C, fun _ o => -o.av⟩,
  ⟨.vclamp, 0x0E, fun _ o => min (max o.av o.bv) o.cv⟩,
  ⟨.vand, 0x0F, fun _ o => ((o.a &&& o.b : Nat) : Int)⟩,
  ⟨.vor, 0x10, fun _ o => ((o.a ||| o.b : Nat) : Int)⟩,
  ⟨.vxor, 0x11, fun _ o => ((o.a ^^^ o.b : Nat) : Int)⟩,
  ⟨.vandn, 0x12, fun _ o => ((o.a &&& notBits o.wd o.b : Nat) : Int)⟩,
  ⟨.vnot, 0x13, fun _ o => ((notBits o.wd o.a : Nat) : Int)⟩,
  ⟨.vbmux, 0x14, fun w o =>
    (((o.c &&& truthTable o.wd (bits w.func.toNat 7 4) o.a o.b) |||
      (notBits o.wd o.c &&& truthTable o.wd (bits w.func.toNat 3 0) o.a o.b) : Nat) : Int)⟩,
  ⟨.vsll, 0x15, fun _ o => ((o.a * 2 ^ (o.b % o.wd) : Nat) : Int)⟩,
  ⟨.vsrl, 0x16, fun _ o => ((o.a / 2 ^ (o.b % o.wd) : Nat) : Int)⟩,
  ⟨.vsra, 0x17, fun _ o => toSigned o.wd o.a / 2 ^ (o.b % o.wd)⟩,
  ⟨.vrol, 0x18, fun _ o => ((rotLeft o.wd o.a (o.b % o.wd) : Nat) : Int)⟩,
  ⟨.vror, 0x19, fun _ o => ((rotLeft o.wd o.a ((o.wd - o.b % o.wd) % o.wd) : Nat) : Int)⟩,
  ⟨.vshf, 0x1A, fun _ o => (((o.b * 2 ^ 32 + o.a) / 2 ^ (o.c % 32) : Nat) : Int)⟩,
  ⟨.vshadd, 0x1B, fun w o => o.av * 2 ^ bits w.func.toNat 2 0 + o.bv⟩,
  ⟨.vbrev, 0x1F, fun _ o => ((revBits o.wd o.a o.wd : Nat) : Int)⟩,
  ⟨.vbswap, 0x20, fun _ o => ((revBytes o.a (o.wd / 8) : Nat) : Int)⟩,
  ⟨.vsext, 0x2C, fun _ o => if o.b % 64 < o.wd then toSigned (o.b % 64 + 1) o.a else o.av⟩,
  ⟨.vzext, 0x2D, fun _ o => if o.b % 64 < o.wd then ((o.a % 2 ^ (o.b % 64 + 1) : Nat) : Int) else o.av⟩,
  ⟨.vperm, 0x2F, fun _ o =>
    let pick (i : Nat) : Nat :=
      if bit o.b (4 * i + 3) then 0 else (o.c * 2 ^ 32 + o.a) / 256 ^ bits o.b (4 * i + 2) (4 * i) % 256
    ((pick 0 + pick 1 * 2 ^ 8 + pick 2 * 2 ^ 16 + pick 3 * 2 ^ 24 : Nat) : Int)⟩,
  ⟨.vmuls, 0x32, fun _ o => satTo o.wd o.sgn (o.av * o.bv)⟩]

/-- What each word writes to a whole 32-bit register, zero-extended (R116). -/
def countRules : List (LaneRule (IntOps → Nat)) := [
  ⟨.vpopc, 0x1C, fun o => popBits o.a o.wd⟩,
  ⟨.vclz, 0x1D, fun o => leadZeros o.wd o.a⟩,
  ⟨.vctz, 0x1E, fun o => trailZeros o.wd o.a⟩,
  ⟨.vilog2, 0x2E, fun o => if o.av = 0 then o.wd else Nat.log2 o.av.natAbs⟩]

/-- The condition of each compare (R119). -/
def compareRules : List (LaneRule (IntOps → Prop)) := [
  ⟨.vcmpeq, 0x25, fun o => o.av = o.bv⟩,
  ⟨.vcmpne, 0x26, fun o => o.av ≠ o.bv⟩,
  ⟨.vcmplt, 0x27, fun o => o.av < o.bv⟩,
  ⟨.vcmple, 0x28, fun o => o.av ≤ o.bv⟩,
  ⟨.vcmpgt, 0x29, fun o => o.av > o.bv⟩,
  ⟨.vcmpge, 0x2A, fun o => o.av ≥ o.bv⟩,
  ⟨.vtst, 0x2B, fun o => o.a &&& o.b ≠ 0⟩]

/-- The results of one lane of the integer words that Put alone does not describe (R114, R115, R117, R118). -/
def fieldRules : List (LaneRule (LaneEnv → LaneWord → Nat → List Upd)) := [
  ⟨.vmulw, 0x06, fun e w l =>
    let o := intOps false e w l
    putUpd 64 o.sgn w.vd.toNat l (o.av * o.bv)⟩,
  ⟨.vmadw, 0x08, fun e w l =>
    let o := intOps false e w l
    putUpd 64 o.sgn w.vd.toNat l (o.av * o.bv + typed 64 o.sgn (e.pattern 64 (vcOf w) l))⟩,
  ⟨.vabsd, 0x0D, fun e w l =>
    let o := intOps (immForm w) e w l
    putUpd o.wd false w.vd.toNat l ((o.av - o.bv).natAbs : Int)⟩,
  ⟨.vbext, 0x21, fun e w l =>
    let wd := intWidth w.ty.toNat
    let sgn := intSigned w.ty.toNat
    let ctl := fieldCtl e w l
    let len := min (bits ctl 15 8) wd
    let f := wrapTo len (typed wd sgn (e.pattern wd w.va.toNat l) / 2 ^ bits ctl 7 0)
    putUpd wd sgn w.vd.toNat l (if len = 0 then 0 else typed len sgn f)⟩,
  ⟨.vbins, 0x22, fun e w l =>
    let wd := intWidth w.ty.toNat
    let ctl := fieldCtl e w l
    let pos := bits ctl 7 0
    let len := min (bits ctl 15 8) wd
    if len = 0 ∨ wd ≤ pos then []
    else putUpd wd (intSigned w.ty.toNat) w.vd.toNat l
      ((setBits (e.pattern wd w.vd.toNat l) (pos + min len (wd - pos) - 1) pos (e.pattern wd w.va.toNat l) : Nat) : Int)⟩,
  ⟨.vsel, 0x23, fun e w l =>
    let o := intOps (immForm w) e w l
    putUpd o.wd o.sgn w.vd.toNat l
      ((if (e.wave.getP (bits w.func.toNat 3 0)).getLsbD l then o.a else o.b : Nat) : Int)⟩,
  ⟨.vmov, 0x24, fun e w l =>
    let wd := intWidth w.ty.toNat
    let sgn := intSigned w.ty.toNat
    putUpd wd sgn w.vd.toNat l
      ((if immForm w then immPattern wd sgn w.imm else e.pattern wd w.va.toNat l : Nat) : Int)⟩,
  ⟨.vaddc, 0x30, fun e w l =>
    let t := e.reg w.va.toNat l + e.reg w.vb.toNat l + carryIn e w l
    [.v w.vd.toNat l (BitVec.ofNat 32 t), .p (carryIndex w) l (decide (2 ^ 32 ≤ t))]⟩,
  ⟨.vsubc, 0x31, fun e w l =>
    let t : Int := (e.reg w.va.toNat l : Int) - e.reg w.vb.toNat l - carryIn e w l
    [.v w.vd.toNat l (BitVec.ofInt 32 t), .p (carryIndex w) l (decide (t < 0))]⟩,
  ⟨.vdot4, 0x33, fun e w l =>
    let byte (n i : Nat) : Int := typed 8 (intSigned w.ty.toNat) (e.reg n l / 256 ^ i)
    let t := byte w.va.toNat 0 * byte w.vb.toNat 0 + byte w.va.toNat 1 * byte w.vb.toNat 1 +
      byte w.va.toNat 2 * byte w.vb.toNat 2 + byte w.va.toNat 3 * byte w.vb.toNat 3 +
      (if w.func.getLsbD 0 then (e.reg (vcOf w) l : Int) else 0)
    [.v w.vd.toNat l (BitVec.ofInt 32 t)]⟩]

/-! ### Packed words -/

/-- The two result halves of the packed words (R120). -/
def halfRules : List (LaneRule (LaneWord → HalfOps → Nat → Int)) := [
  ⟨.hadd, 0x40, fun _ o j => o.aj j + o.bj j⟩,
  ⟨.hadds, 0x41, fun _ o j => satTo 16 o.sgn (o.aj j + o.bj j)⟩,
  ⟨.hsub, 0x42, fun _ o j => o.aj j - o.bj j⟩,
  ⟨.hsubs, 0x43, fun _ o j => satTo 16 o.sgn (o.aj j - o.bj j)⟩,
  ⟨.hmin, 0x44, fun _ o j => min (o.aj j) (o.bj j)⟩,
  ⟨.hmax, 0x45, fun _ o j => max (o.aj j) (o.bj j)⟩,
  ⟨.havg, 0x46, fun w o j => (o.aj j + o.bj j + (if w.func.getLsbD 0 then 0 else 1)) / 2⟩,
  ⟨.habsd, 0x47, fun _ o j => ((o.aj j - o.bj j).natAbs : Int)⟩,
  ⟨.habsds, 0x48, fun _ o j => satTo 16 o.sgn ((o.aj j - o.bj j).natAbs : Int)⟩,
  ⟨.hmul, 0x49, fun _ o j => o.aj j * o.bj j⟩,
  ⟨.hmuls, 0x4A, fun _ o j => satTo 16 o.sgn (o.aj j * o.bj j)⟩,
  ⟨.hshl, 0x4B, fun _ o j => o.aj j * 2 ^ ((o.b / 2 ^ (16 * j)) % 16)⟩,
  ⟨.hshr, 0x4C, fun _ o j => o.aj j / 2 ^ ((o.b / 2 ^ (16 * j)) % 16)⟩,
  ⟨.hpacks, 0x51, fun _ o j => satTo 16 o.sgn (toSigned 32 (if j = 0 then o.a else o.b))⟩]

/-- The 32-bit result of the packed words that write one value (R120). -/
def packedRules : List (LaneRule (LaneWord → HalfOps → Int)) := [
  ⟨.hdot2, 0x4D, fun w o => o.aj 0 * o.bj 0 + o.aj 1 * o.bj 1 + (if w.func.getLsbD 0 then toSigned 32 o.c else 0)⟩,
  ⟨.hdot2s, 0x4E, fun w o =>
    satTo 32 true (o.aj 0 * o.bj 0 + o.aj 1 * o.bj 1 + (if w.func.getLsbD 0 then toSigned 32 o.c else 0))⟩,
  ⟨.hsad, 0x4F, fun w o =>
    (((o.aj 0 - o.bj 0).natAbs + (o.aj 1 - o.bj 1).natAbs + (if w.func.getLsbD 0 then o.c else 0) : Nat) : Int)⟩,
  ⟨.hpack, 0x50, fun _ o => ((o.a % 2 ^ 16 + 2 ^ 16 * (o.b % 2 ^ 16) : Nat) : Int)⟩,
  ⟨.hpk8, 0x53, fun _ o =>
    let q (v j : Nat) : Nat := wrapTo 8 (satTo 8 o.sgn (halfOf true v j))
    ((q o.a 0 + q o.a 1 * 2 ^ 8 + q o.b 0 * 2 ^ 16 + q o.b 1 * 2 ^ 24 : Nat) : Int)⟩]

/-! ### Floating words -/

/-- The code of one element of the floating words that round, by format, rounding direction and operands (R126, R130);
the class tells when the result is complete: 0 arithmetic, 1 special function, 2 divide. -/
def floatRules : List (LaneRule (Nat × (Fmt → Rm → FOps → Nat))) := [
  ⟨.vfadd, 0x60, 0, fun f rm o => f.result rm (o.a.add rm o.b)⟩,
  ⟨.vfsub, 0x61, 0, fun f rm o => f.result rm (o.a.add rm o.b.neg)⟩,
  ⟨.vfmul, 0x62, 0, fun f rm o => f.result rm (o.a.mul o.b)⟩,
  ⟨.vffma, 0x63, 0, fun f rm o => f.result rm (Fv.fma rm o.a o.b o.c)⟩,
  ⟨.vffms, 0x64, 0, fun f rm o => f.result rm (Fv.fma rm o.a o.b o.c.neg)⟩,
  ⟨.vffnma, 0x65, 0, fun f rm o => f.result rm (Fv.fma rm o.a.neg o.b o.c)⟩,
  ⟨.vffnms, 0x66, 0, fun f rm o => f.result rm (Fv.fma rm o.a.neg o.b o.c.neg)⟩,
  ⟨.vfrcp, 0x78, 1, fun f rm o => f.result rm (Fv.div f.prec (.fin false 1 0) o.a)⟩,
  ⟨.vfrsq, 0x79, 1, fun f rm o => f.result rm (Fv.rsqrt f.prec o.a)⟩,
  ⟨.vfsqrt, 0x7A, 1, fun f rm o => f.result rm (Fv.sqrt f.prec o.a)⟩,
  ⟨.vfdiv, 0x7B, 2, fun f rm o => f.result rm (Fv.div f.prec o.a o.b)⟩,
  ⟨.vfrint, 0x81, 0, fun f rm o =>
    match o.a with
    | .fin n m e => f.encode (if 0 ≤ e then .fin n m e else .fin n (roundShift rm n m (-e).toNat false) 0)
    | v => f.encode v⟩]

/-- The order of R127 on values that are not NaN: by value, and −0 below +0. -/
def below (x y : Fv) : Bool := x.lt y || (!y.lt x && x.isNeg && !y.isNeg)

/-- The four rows of R127: the form, whether it gives a number where one operand is a NaN, and whether it is a minimum. -/
def minMaxRules : List (LaneRule (Bool × Bool)) := [
  ⟨.vfmin, 0x67, true, true⟩, ⟨.vfmax, 0x68, true, false⟩, ⟨.vfminx, 0x69, false, true⟩, ⟨.vfmaxx, 0x6A, false, false⟩]

/-- The table of R127: what the code of a min or max of two values must be. -/
def IsMinMax (f : Fmt) (number least : Bool) (a b : Fv) (code : Nat) : Prop :=
  ((a.isNan && b.isNan) = true → code = f.encode (.nan false)) ∧
  ((a.isNan && !b.isNan) = true → code = f.encode (if number then b else .nan false)) ∧
  ((!a.isNan && b.isNan) = true → code = f.encode (if number then a else .nan false)) ∧
  ((!a.isNan && !b.isNan) = true → ∃ v, (v = a ∨ v = b) ∧ code = f.encode v ∧
    (if least then below a v = false ∧ below b v = false else below v a = false ∧ below v b = false))

/-- The sign that each sign operation sets, from the sign bits of a and b (R128). -/
def signRules : List (LaneRule (Bool → Bool → Bool)) := [
  ⟨.vfabs, 0x6B, fun _ _ => false⟩, ⟨.vfneg, 0x6C, fun a _ => !a⟩, ⟨.vfsgnj, 0x6D, fun _ b => b⟩,
  ⟨.vfsgnjn, 0x6E, fun _ b => !b⟩, ⟨.vfsgnjx, 0x6F, fun a b => a != b⟩]

/-- A code with its sign bit replaced, or the canonical NaN for a NaN (R128). -/
def withSign (f : Fmt) (g : Bool → Bool → Bool) (a b : Nat) : Nat :=
  if (f.decode a).isNan then f.encode (.nan false)
  else a % 2 ^ f.signBit + (if g (bit a f.signBit) (bit b f.signBit) then 2 ^ f.signBit else 0)

/-- The condition of each floating compare (R129). -/
def floatCompareRules : List (LaneRule (Fv → Fv → Bool)) := [
  ⟨.vfcmpeq, 0x70, fun a b => a.eq b⟩, ⟨.vfcmpne, 0x71, fun a b => !a.eq b⟩,
  ⟨.vfcmplt, 0x72, fun a b => !(a.isNan || b.isNan) && a.lt b⟩,
  ⟨.vfcmple, 0x73, fun a b => !(a.isNan || b.isNan) && !b.lt a⟩,
  ⟨.vfcmpgt, 0x74, fun a b => !(a.isNan || b.isNan) && b.lt a⟩,
  ⟨.vfcmpge, 0x75, fun a b => !(a.isNan || b.isNan) && !a.lt b⟩,
  ⟨.vfcmpun, 0x76, fun a b => a.isNan || b.isNan⟩]

/-- The faithful functions of an FP32 register (R131). -/
def faithfulRules : List (LaneRule (BitVec 32 → Fv)) := [
  ⟨.vfexp2, 0x7C, faithfulExp2⟩, ⟨.vflog2, 0x7D, faithfulLog2⟩, ⟨.vfsin, 0x7E, faithfulSin⟩, ⟨.vfcos, 0x7F, faithfulCos⟩]

/-- Whether a floating word is long-latency, and after how many own turns its result is complete on this device (R123,
R132; the figures are the model's, DEDUCED, log 5). -/
def floatLatency (s : State) (cls : Nat) (w : LaneWord) : Option Nat :=
  if w.ty = 11 then some (if cls = 0 then s.lat.fp64 else s.lat.fp64Special)
  else if cls = 0 then none else some (if cls = 2 then s.lat.divide else s.lat.special)

/-- The state a lane word leaves whose results are `upds`: at once, or after a latency. -/
def afterLane (s : State) (major : Nat) (w : LaneWord) (lat : Option Nat) (upds : List Upd) : State :=
  match lat with
  | none => s.afterWord (laneBytes w) upds
  | some n => s.afterLong (laneBytes w) w.la.toNat n (writtenLocs (laneOperands major w)) upds

end Sys2Proof.Claims

open Sys2Proof Sys2Proof.Machine Sys2Proof.Claims

/-! ## Lane integer words -/

/-- R109, R111, R114, R116, R118: each word of `integerRules` completes wherever it may issue, writes its value by Put in
every active lane, and changes nothing else but the pc and the counts. -/
def Obligations.LaneIntegerResults : Prop :=
  ∀ r ∈ integerRules, ∀ (w : LaneWord) (s : State), s.laneReady r.major w = true →
    ∃ t, exec (r.con w) s = .next t ∧
      (∀ l ∈ (laneEnv s w).lanes,
        t.laneHolds (intWidth w.ty.toNat) (intSigned w.ty.toNat) w.vd.toNat l (r.value w (intOps (takesImm (intRow r.major) w) (laneEnv s w) w l))) ∧
      s.sameLanes t (fun n l => l ∈ (laneEnv s w).lanes ∧
        (n = w.vd.toNat ∨ (intWidth w.ty.toNat = 64 ∧ n = w.vd.toNat + 1))) ∧
      s.sameOutside t ∧ s.fellThrough t (laneBytes w) ∧ s.sameButLanes t

/-- R116, R119: a bit count writes the whole register; a compare sets predicate vd to its condition in the active lanes, and
predicate 0 stays all ones; inactive lanes, other predicates and every other lane register keep their values. -/
def Obligations.LaneCountAndCompareResults : Prop :=
  (∀ r ∈ countRules, ∀ (w : LaneWord) (s : State), s.laneReady r.major w = true →
     ∃ t, exec (r.con w) s = .next t ∧
       (∀ l ∈ (laneEnv s w).lanes, t.laneReg w.vd.toNat l = BitVec.ofNat 32 (r.value (intOps (takesImm (intRow r.major) w) (laneEnv s w) w l))) ∧
       s.sameLanes t (fun n l => l ∈ (laneEnv s w).lanes ∧ n = w.vd.toNat) ∧
       s.sameOutside t ∧ s.fellThrough t (laneBytes w) ∧ s.sameButLanes t) ∧
  (∀ r ∈ compareRules, ∀ (w : LaneWord) (s : State), s.laneReady r.major w = true →
     ∃ t, exec (r.con w) s = .next t ∧
       (∀ l ∈ (laneEnv s w).lanes, w.vd ≠ 0 →
         ((t.wave.getP w.vd.toNat).getLsbD l = true ↔ r.value (intOps (takesImm (intRow r.major) w) (laneEnv s w) w l))) ∧
       (∀ n l, n ≠ w.vd.toNat ∨ n = 0 ∨ l ∉ (laneEnv s w).lanes →
         (t.wave.getP n).getLsbD l = (s.wave.getP n).getLsbD l) ∧
       s.sameLanes t (fun _ _ => False) ∧ s.sameOutside t ∧ s.fellThrough t (laneBytes w) ∧
       t.wave.x = s.wave.x ∧ t.wave.m = s.wave.m ∧ t.wave.amask = s.wave.amask ∧
       t.wave.csrs.nround = s.wave.csrs.nround)

/-- R114, R115, R117, R118: the field, wide and carry words complete with the results of `fieldRules`. -/
def Obligations.LaneFieldResults : Prop :=
  ∀ r ∈ fieldRules, ∀ (w : LaneWord) (s : State), s.laneReady r.major w = true →
    Completes (r.con w) s
      (s.afterWord (laneBytes w) ((laneEnv s w).lanes.flatMap (r.value (laneEnv s w) w)))

/-- R120, R121: the packed words complete with their results; the stream words take the bits of a register across the
whole wave. -/
def Obligations.PackedResults : Prop :=
  (∀ r ∈ halfRules, ∀ (w : LaneWord) (s : State), s.laneReady r.major w = true →
    Completes (r.con w) s (s.afterWord (laneBytes w) ((laneEnv s w).lanes.map (fun l =>
      let o := halfOps (takesImm (packedRow r.major) w) (laneEnv s w) w l
      .v w.vd.toNat l (BitVec.ofNat 32 (wrapTo 16 (r.value w o 0) + 2 ^ 16 * wrapTo 16 (r.value w o 1))))))) ∧
  (∀ r ∈ packedRules, ∀ (w : LaneWord) (s : State), s.laneReady r.major w = true →
    Completes (r.con w) s (s.afterWord (laneBytes w) ((laneEnv s w).lanes.map (fun l =>
      .v w.vd.toNat l (BitVec.ofInt 32 (r.value w (halfOps (takesImm (packedRow r.major) w) (laneEnv s w) w l))))))) ∧
  (∀ (w : LaneWord) (s : State), s.laneReady 0x52 w = true →
    Completes (.hunpk w) s (s.afterWord (laneBytes w) ((laneEnv s w).lanes.flatMap (fun l =>
      let o := halfOps false (laneEnv s w) w l
      [.v w.vd.toNat l (BitVec.ofInt 32 (o.aj 0)), .v (w.vd.toNat + 1) l (BitVec.ofInt 32 (o.aj 1))])))) ∧
  (∀ (w : LaneWord) (s : State), s.laneReady 0x54 w (touchStream w) = true →
    let e := laneEnv s w
    let n := 10 + 2 * bits w.func.toNat 1 0
    let sample (i : Nat) : Int := typed n (intSigned w.ty.toNat) (chunkBits e w.va.toNat / 2 ^ (n * i))
    Completes (.sunpk w) s (s.afterWord (laneBytes w) (e.lanes.map (fun l =>
      .v w.vd.toNat l (packHalves (sample (2 * l)) (sample (2 * l + 1))))))) ∧
  (∀ (w : LaneWord) (s : State), s.laneReady 0x55 w (touchStream w) = true →
    let e := laneEnv s w
    let n := 10 + 2 * bits w.func.toNat 1 0
    let q (i : Nat) : Nat :=
      let x := halfOf (intSigned w.ty.toNat) (e.reg w.va.toNat (i / 2)) (i % 2)
      if w.func.getLsbD 2 then (min (max x 0) (2 ^ n - 1)).toNat else wrapTo n x
    let stream := ((List.range (2 * e.wave.width)).map (fun i => q i * 2 ^ (n * i))).foldl (· + ·) 0
    Completes (.spack w) s (s.afterWord (laneBytes w) (e.lanes.map (fun l =>
      .v w.vd.toNat l (BitVec.ofNat 32 (stream / 2 ^ (32 * l)))))))

/-! ## Lane floating-point words -/

/-- R123 to R126, R130: the rounding words complete, element by element in every active lane, at once or after their
latency. -/
def Obligations.FloatArithmetic : Prop :=
  (∀ r ∈ floatRules, ∀ (w : LaneWord) (s : State), s.laneReady r.major w = true →
    let g (l j : Nat) : Nat := r.value.2 (laneFmt w.ty.toNat) (laneRm w) (fOps (takesImm (floatRow r.major) w) (laneEnv s w) w l j)
    Completes (r.con w) s (afterLane s r.major w (floatLatency s r.value.1 w)
      ((laneEnv s w).lanes.flatMap (fun l => fPut w l (g l 0) (g l 1))))) ∧
  (∀ (w : LaneWord) (s : State), s.laneReady 0x80 w = true →
    let e := laneEnv s w
    let k (l : Nat) : Int := toSigned 32 (if immForm w then w.imm.toNat else e.reg w.vb.toNat l)
    Completes (.vfscale w) s (afterLane s 0x80 w (floatLatency s 0 w) (e.lanes.flatMap (fun l =>
      fPut w l ((laneFmt w.ty.toNat).result (laneRm w) (scaleBy (fOps false e w l 0).a (k l))) 0))))

/-- R127: the four min and max forms give the lesser or greater value with −0 below +0, the other operand or the
canonical NaN where one operand is a NaN, and the canonical NaN where both are; they never round. -/
def Obligations.FloatMinMax : Prop :=
  ∀ r ∈ minMaxRules, ∀ (w : LaneWord) (s : State), s.laneReady r.major w = true →
    ∃ g : Nat → Nat → Nat,
      (∀ l j, IsMinMax (laneFmt w.ty.toNat) r.value.1 r.value.2 (fOps (takesImm (floatRow r.major) w) (laneEnv s w) w l j).a
        (fOps (takesImm (floatRow r.major) w) (laneEnv s w) w l j).b (g l j)) ∧
      Completes (r.con w) s (afterLane s r.major w (floatLatency s 0 w)
        ((laneEnv s w).lanes.flatMap (fun l => fPut w l (g l 0) (g l 1))))

/-- R128: the sign operations copy the magnitude of a, set the sign their row gives, and give the canonical NaN where a is
a NaN; the sign of b is its sign bit even where b is a NaN. -/
def Obligations.FloatSigns : Prop :=
  ∀ r ∈ signRules, ∀ (w : LaneWord) (s : State), s.laneReady r.major w = true →
    let e := laneEnv s w
    let ty := w.ty.toNat
    let g (l j : Nat) : Nat := withSign (laneFmt ty) r.value (fBits e ty w.va.toNat l j) (fBits e ty w.vb.toNat l j)
    Completes (r.con w) s (afterLane s r.major w (floatLatency s 0 w)
      (e.lanes.flatMap (fun l => fPut w l (g l 0) (g l 1))))

/-- R129, R131: compares write predicate vd, `vfclass` one bit of ten, and the faithful functions their FP32 result. -/
def Obligations.FloatCompareClassFaithful : Prop :=
  (∀ r ∈ floatCompareRules, ∀ (w : LaneWord) (s : State), s.laneReady r.major w = true →
    Completes (r.con w) s (afterLane s r.major w (floatLatency s 0 w) ((laneEnv s w).lanes.map (fun l =>
      .p w.vd.toNat l (r.value (fOps (takesImm (floatRow r.major) w) (laneEnv s w) w l 0).a
        (fOps (takesImm (floatRow r.major) w) (laneEnv s w) w l 0).b))))) ∧
  (∀ (w : LaneWord) (s : State), s.laneReady 0x77 w = true →
    let e := laneEnv s w
    let f := laneFmt w.ty.toNat
    Completes (.vfclass w) s (afterLane s 0x77 w (floatLatency s 0 w) (e.lanes.map (fun l =>
      .v w.vd.toNat l (BitVec.ofNat 32 (2 ^ classBit f (f.decode (fBits e w.ty.toNat w.va.toNat l 0)))))))) ∧
  (∀ r ∈ faithfulRules, ∀ (w : LaneWord) (s : State), s.laneReady r.major w = true →
    Completes (r.con w) s (afterLane s r.major w (some s.lat.special) ((laneEnv s w).lanes.map (fun l =>
      .v w.vd.toNat l (BitVec.ofNat 32 (Fmt.f32.encode
        (r.value (BitVec.ofNat 32 ((laneEnv s w).reg w.va.toNat l)))))))))

namespace Sys2Proof.Claims

/-! ### Conversions -/

/-- The results of one lane of the conversion words, under the narrowing state, with whether a side is FP64, which makes
the word long-latency (R123, R133 to R138). -/
def convertRules : List (LaneRule ((LaneWord → Bool) × (LaneEnv → Narrow → LaneWord → Nat → List Upd))) := [
  ⟨.vcvtf, 0x90, fun w => w.ty = 11 || cvtSrcTy w = 11, fun e n w l =>
    let d := cvtFmt w.ty.toNat (dstP w) n.b8inf
    let r := convertFp n (fmtFitsFmt (cvtFmt (cvtSrcTy w) (cvtSp w) n.b8inf) d) d (cvtSource e w l n.b8inf)
    putElement e (typeWidth w.ty.toNat) w.vd.toNat l (cvtDsel w) r.1 ++ flagUpd r.2⟩,
  ⟨.vcvtfi, 0x91, fun w => cvtSrcTy w = 11, fun e n w l =>
    let ty := w.ty.toNat
    let r := narrowInt n (intMin ty) (intMax ty) (cvtSource e w l n.b8inf)
    putUpd (intWidth ty) (intSigned ty) w.vd.toNat l r.1 ++ flagUpd r.2⟩,
  ⟨.vcvtif, 0x92, fun w => w.ty = 11, fun e n w l =>
    let d := cvtFmt w.ty.toNat (dstP w) n.b8inf
    let r := convertFp n (intFitsFmt (cvtSrcTy w) d) d (Fv.ofInt (cvtIntSource e w l))
    putElement e (typeWidth w.ty.toNat) w.vd.toNat l (cvtDsel w) r.1 ++ flagUpd r.2⟩,
  ⟨.vcvtii, 0x93, fun _ => false, fun e n w l =>
    let ty := w.ty.toNat
    let r := narrowInt n (intMin ty) (intMax ty) (Fv.ofInt (cvtIntSource e w l))
    putUpd (intWidth ty) (intSigned ty) w.vd.toNat l r.1 ++ flagUpd r.2⟩,
  ⟨.vpk2, 0x96, fun _ => false, fun e n w l =>
    let f := laneFmt w.ty.toNat
    let r0 := convertFp n false f (Fmt.f32.decode (e.reg w.va.toNat l))
    let r1 := convertFp n false f (Fmt.f32.decode (e.reg w.vb.toNat l))
    [.v w.vd.toNat l (BitVec.ofNat 32 (r0.1 + 2 ^ 16 * r1.1))] ++ flagUpd (r0.2 ||| r1.2)⟩,
  ⟨.vunp2, 0x97, fun _ => false, fun e _ w l =>
    (List.range 2).map (fun j => .v (w.vd.toNat + j) l (BitVec.ofNat 32
      (Fmt.f32.encode ((laneFmt w.ty.toNat).decode ((e.reg w.va.toNat l / 2 ^ (16 * j)) % 2 ^ 16)))))⟩,
  ⟨.vpk8, 0x98, fun _ => false, fun e n w l =>
    let f := cvtFmt w.ty.toNat (dstP w) n.b8inf
    let rs := (List.range 4).map (fun j => convertFp n false f (Fmt.f32.decode (e.reg (w.va.toNat + j) l)))
    [.v w.vd.toNat l (BitVec.ofNat 32 (((List.range 4).map (fun j => (rs.getD j (0, 0)).1 * 256 ^ j)).foldl (· + ·) 0))]
      ++ flagUpd (rs.foldl (fun b r => b ||| r.2) 0)⟩,
  ⟨.vunp8, 0x99, fun _ => false, fun e n w l =>
    let f := cvtFmt w.ty.toNat (dstP w) n.b8inf
    (List.range 4).map (fun j => .v (w.vd.toNat + j) l (BitVec.ofNat 32
      (Fmt.f32.encode (f.decode ((e.reg w.va.toNat l / 256 ^ j) % 256)))))⟩,
  ⟨.vcvtxf, 0x9A, fun w => w.ty = 11, fun e n w l =>
    let x := (Fv.ofInt (toSigned 32 (e.reg w.va.toNat l))).scale (-(bits w.func.toNat 7 3 : Int))
    let r := convertFp n (w.ty = 11) (laneFmt w.ty.toNat) x
    (if w.ty = 11 then putElement e 64 w.vd.toNat l 0 r.1 else [.v w.vd.toNat l (BitVec.ofNat 32 r.1)]) ++ flagUpd r.2⟩,
  ⟨.vcvtfx, 0x9B, fun w => w.ty = 11, fun e n w l =>
    let x := ((laneFmt w.ty.toNat).decode (fBits e w.ty.toNat w.va.toNat l 0)).scale (bits w.func.toNat 7 3)
    let r := narrowInt n (-(2 ^ 31)) (2 ^ 31 - 1) x
    [.v w.vd.toNat l (BitVec.ofInt 32 r.1)] ++ flagUpd r.2⟩]

/-- The code and flags that `vpk4` makes of element `i` of a lane (R136, R137). -/
def nibbleOf (e : LaneEnv) (n : Narrow) (w : LaneWord) (l i : Nat) : Nat × BitVec 4 :=
  let st := cvtSrcTy w
  let g := typeWidth st
  let v := groupElement e g w.va.toNat l i
  let x := if st < 8 then Fv.ofInt (typed g (intSigned st) v) else (laneFmt st).decode v
  match bits w.func.toNat 1 0 with
  | 2 => roundL4 n x
  | 0 => (wrapTo 4 (narrowInt n (-8) 7 x).1, (narrowInt n (-8) 7 x).2)
  | _ => (wrapTo 4 (narrowInt n 0 15 x).1, (narrowInt n 0 15 x).2)

/-! ### Predicates and cross-lane words -/

/-- The bit that each predicate word gives predicate vd in an active lane (R151). -/
def predicateRules : List (LaneRule (LaneEnv → LaneWord → Nat → Bool)) := [
  ⟨.pand, 0xA0, fun e w l => (e.wave.getP w.va.toNat).getLsbD l && (e.wave.getP w.vb.toNat).getLsbD l⟩,
  ⟨.por, 0xA1, fun e w l => (e.wave.getP w.va.toNat).getLsbD l || (e.wave.getP w.vb.toNat).getLsbD l⟩,
  ⟨.pxor, 0xA2, fun e w l => (e.wave.getP w.va.toNat).getLsbD l != (e.wave.getP w.vb.toNat).getLsbD l⟩,
  ⟨.pandn, 0xA3, fun e w l => (e.wave.getP w.va.toNat).getLsbD l && !(e.wave.getP w.vb.toNat).getLsbD l⟩,
  ⟨.pnot, 0xA4, fun e w l => !(e.wave.getP w.va.toNat).getLsbD l⟩,
  ⟨.pfirst, 0xA5, fun e _ l => decide (e.lanes.head? = some l)⟩,
  ⟨.pfromm, 0xA7, fun e w l => (e.wave.getM w.va.toNat).getLsbD l⟩,
  ⟨.vmatch, 0xB3, fun e w l =>
    let v (k : Nat) : Nat := e.pattern (intWidth w.ty.toNat) w.va.toNat k
    e.lanes.any (fun k => decide (k ≠ l) && decide (v k = v l))⟩]

/-- The results of the other mask and cross-lane words (R151 to R154). -/
def crossRules : List (LaneRule (LaneEnv → LaneWord → List Upd)) := [
  ⟨.mfromp, 0xA6, fun e w => [.m w.vd.toNat e.active (e.wave.getP w.va.toNat)]⟩,
  ⟨.mgeta, 0xA8, fun e w => [.m w.vd.toNat e.wave.wm e.wave.amask]⟩,
  ⟨.mseta, 0xA9, fun e w =>
    [.amask (if w.func.getLsbD 0 then e.wave.amask &&& e.wave.getM w.va.toNat else e.wave.getM w.va.toNat)]⟩,
  ⟨.vballot, 0xAA, fun e w =>
    [.x w.vd.toNat (((e.wave.getP w.va.toNat &&& e.active) >>> (if w.func.getLsbD 0 then 64 else 0)).setWidth 64)]⟩,
  ⟨.pfromx, 0xAB, fun e w =>
    let b := if w.func.getLsbD 0 then 64 else 0
    (e.lanes.filter (fun l => decide (b ≤ l) && decide (l < b + 64))).map (fun l =>
      .p w.vd.toNat l ((e.wave.getX w.va.toNat).getLsbD (l - b)))⟩,
  ⟨.vvote, 0xAC, fun e w =>
    [.x w.vd.toNat (voteValue (bits w.func.toNat 2 0) e.lanes
      (e.lanes.filter (fun l => (e.wave.getP w.va.toNat).getLsbD l)))]⟩,
  ⟨.vbcast, 0xAE, fun e w => e.lanes.flatMap (fun l =>
    putUpd (intWidth w.ty.toNat) (intSigned w.ty.toNat) w.vd.toNat l ((e.wave.getX w.va.toNat).toNat : Int))⟩,
  ⟨.vred, 0xB0, fun e w => e.lanes.flatMap (fun l =>
    putUpd (redWidth w.ty.toNat) false w.vd.toNat l (reduceLanes e w : Int))⟩,
  ⟨.vredx, 0xB1, fun e w => [.x w.vd.toNat (toXreg w.ty.toNat (reduceLanes e w))]⟩,
  ⟨.vscan, 0xB2, fun e w =>
    let op := bits w.func.toNat 2 0
    (e.lanes.zip (scanValues (redStep op w.ty.toNat) (w.func.getLsbD 3) (redIdentity op w.ty.toNat)
      (redValues e w))).flatMap (fun q => putUpd (redWidth w.ty.toNat) false w.vd.toNat q.1 (q.2 : Int))⟩,
  ⟨.vlaneid, 0xB4, fun e w => e.lanes.map (fun l => .v w.vd.toNat l (BitVec.ofNat 32 l))⟩,
  ⟨.vprank, 0xB5, fun e w => e.lanes.map (fun l =>
    .v w.vd.toNat l (BitVec.ofNat 32 (e.lanes.filter (fun k =>
      decide (k < l) && (e.wave.getP w.va.toNat).getLsbD k)).length))⟩]

/-! ### Memory words -/

/-- The global and window words and what kind of access each makes (R230, R234, R240). -/
def globalRules : List (LaneRule MemWord) := [
  ⟨.vldGlobal, 0xC0, .load false .lane⟩, ⟨.vstGlobal, 0xC1, .store false⟩, ⟨.vldWindow, 0xC4, .load true .lane⟩,
  ⟨.vstWindow, 0xC5, .store true⟩, ⟨.vldc, 0xC6, .load false .const⟩, ⟨.vamoGlobal, 0xC9, .atomic false false⟩,
  ⟨.vamoWindow, 0xCB, .atomic true false⟩, ⟨.vcasGlobal, 0xCC, .atomic false true⟩,
  ⟨.vcasWindow, 0xCE, .atomic true true⟩]

/-- No check stops a global or window word of `n` bytes at the addresses `as`: aligned, inside its space, its target
open, and no release waits for acknowledgements (R177, R180, R219, R229). -/
def accessOpen (window : Bool) (k : AccKind) (n : Nat) (releases : Bool) (scope : Nat) (as : List Nat) (s : State) : Bool :=
  (memOwn window k n as s).isNone && (memAfter window k n as s).isNone && !releaseHeld releases scope s

/-- No check stops a scratchpad word of `n` bytes at offsets `os` of tile `h`: named, ready, inside, aligned, its banks
the wave's domain's, no race, and no release waits (R180, R182, R219, R223, R314). -/
def tileOpen (h n align : Nat) (k : AccKind) (plain releases : Bool) (scope : Nat) (os : List Nat) (s : State) : Bool :=
  (tileOwn h n align k os s).isNone && (tileReady h n k os s).isNone && !releaseHeld releases scope s &&
    (raceFault h n k.writes plain os s).isNone

/-- Scratchpad byte of a lane's access. -/
def spadByte (s : State) (w : LaneWord) (l : Nat) : Nat :=
  1024 * tFirst (s.myTile w.va.toNat) + (laneEnv s w).offset w false l

/-- A byte that an access may reach: of physical memory (`none`), or of a core's scratchpad. -/
abbrev Place := Option Nat × Nat

/-- Byte `k` of where an access goes; an active message and a device register are no such place. -/
def placeOf (d : Dest) (k : Nat) : Option Place :=
  match d with
  | .mem _ t => some (none, t.pa + k)
  | .spad c a => some (some c, a + k)
  | .remote _ _ _ => none
  | .reg _ => none

/-- A byte as core `c` has it. In memory it is what the core's lane stores have left in the lane L1, where one stands there, and
else the byte at the home (R184, R187, R189). -/
def placeByte (s : State) (c : Nat) (p : Place) : Byte :=
  match p.1 with
  | some q => Bytes.read (s.core q).spad p.2
  | none =>
    match (s.core c).laneL1.find? (fun l => l.pline = p.2 / 64 && l.dirty.getLsbD (p.2 % 64)) with
    | some l => l.byte (p.2 % 64)
    | none => Bytes.read s.mem p.2

/-- The `n` bytes that an access reaches, as a little-endian number. -/
def valueIn (m : Place → Byte) (d : Dest) (n : Nat) : Nat :=
  leValue ((List.range n).map (fun k => ((placeOf d k).map m).getD 0))

/-- The bytes with `n` bytes of `v` put where an access goes. -/
def putIn (m : Place → Byte) (d : Dest) (n v : Nat) : Place → Byte := fun p =>
  match (List.range n).find? (fun k => placeOf d k = some p) with
  | some k => BitVec.ofNat 8 (v / 256 ^ k)
  | none => m p

/-- Byte `p` after stores of `n` bytes a lane: the byte of the last lane that stores there, and else what it was (R230). -/
def storedLast (s q : State) (n : Nat) (bytes : Nat → Nat → Byte) (ds : List (Nat × Dest)) (p : Place) : Prop :=
  ((∀ d ∈ ds, ∀ k, k < n → placeOf d.2 k ≠ some p) → placeByte q s.curCore p = placeByte s s.curCore p) ∧
  (∀ pre l d post k, ds = pre ++ (l, d) :: post → k < n → placeOf d k = some p →
    (∀ x ∈ post, ∀ j, j < n → placeOf x.2 j ≠ some p) → placeByte q s.curCore p = bytes l k)

/-- Byte `k` of the registers from `n` on of a lane. -/
def regByte (s : State) (n l k : Nat) : Byte := (s.laneReg (n + k / 4) l >>> (8 * (k % 4))).setWidth 8

/-- What each operation of `vamo` writes under a type, from the old value and the operand (R239). -/
def amoRule (op ty old src : Nat) : Nat :=
  let wd := typeWidth ty
  let first := decide (typed wd (intSigned ty) old ≤ typed wd (intSigned ty) src)
  match op with
  | 0 => (old + src) % 2 ^ wd
  | 1 => if first then old else src
  | 2 => if first then src else old
  | 3 => old &&& src
  | 4 => old ||| src
  | 5 => old ^^^ src
  | 6 => src
  | _ => (laneFmt ty).result .rne (Fv.add .rne ((laneFmt ty).decode old) ((laneFmt ty).decode src))

/-- What the atomic of a lane writes, if it writes (R239, R240). -/
def atomicWrites (s : State) (cas : Bool) (w : LaneWord) (l old : Nat) : Option Nat :=
  let e := laneEnv s w
  let wd := typeWidth w.ty.toNat
  let src := e.pattern wd (vcOf w) l
  if cas then (if old = e.pattern wd w.vd.toNat l then some src else none)
  else some (amoRule (amoOp w) w.ty.toNat old src)

/-- The atomics of some lanes one after the other: the old value that each finds, and the bytes they leave (R240). -/
def atomicRun (n : Nat) (new : Nat → Nat → Option Nat) : List (Nat × Dest) → (Place → Byte) → List (Nat × Nat) × (Place → Byte)
  | [], m => ([], m)
  | (l, d) :: ds, m =>
    let old := valueIn m d n
    let r := atomicRun n new ds (match new l old with
      | some v => putIn m d n v
      | none => m)
    ((l, old) :: r.1, r.2)

/-- What an atomic of some lanes returns: the old values, where it returns any. -/
def atomicReturns (cas : Bool) (w : LaneWord) (olds : List (Nat × Nat)) : List Upd :=
  olds.flatMap (fun q =>
    if cas || amoRet w then
      putUpd (typeWidth w.ty.toNat) (intSigned w.ty.toNat) w.vd.toNat q.1
        (typed (typeWidth w.ty.toNat) (intSigned w.ty.toNat) q.2)
    else [])

/-- The cache that a memory word looks up. -/
def cacheOf : MemWord → CacheId
  | .load _ .const => .const
  | _ => .lane

/-- The accesses of a global or window word for some lanes, one after the other, go where `ds` says; `u` is the state once all
their addresses are translated. -/
def goesTo (m : MemWord) (e : LaneEnv) (w : LaneWord) : List Nat → State → State → List (Nat × Dest) → Prop
  | [], s, u, ds => u = s ∧ ds = []
  | l :: ls, s, u, ds =>
    let a := e.address w m.window m.isAtomic l
    ∃ d v rest, ds = (l, d) :: rest ∧ goesTo m e w ls v u rest ∧
      (if m.window then v = s ∧ ∃ c p, d = .spad c p ∧ s.windowAs m.kind a (m.size w) = .ok (c, p)
      else s.resolve s.curCore s.curSlot e.wave (cacheOf m) m.kind a (m.size w) = (v, .ok d))

/-- Destinations in device or host memory or a scratchpad, as pages give them: an address and where it leads agree within the
line, one virtual line leads to one physical line, and no line lies half in a drive's BAR (R178, R191, R392). -/
def placed (s : State) (ds : List (Nat × Dest)) : Prop :=
  (∀ d ∈ ds, (∃ c a, d.2 = .spad c a) ∨ ∃ va t, d.2 = .mem va t ∧ (s.paKind t.pa = .dram ∨ s.paKind t.pa = .host) ∧
    t.pa % 64 = va % 64) ∧
  (∀ d ∈ ds, ∀ q ∈ ds, ∀ va t vb g, d.2 = .mem va t → q.2 = .mem vb g → va / 64 = vb / 64 →
    t.pa / 64 = g.pa / 64 ∧ t.mt = g.mt) ∧
  (∀ r ∈ s.pkg.drives, r.1 % 64 = 0 ∧ r.2 % 64 = 0)

/-- The caches of the acting core hold no data line, no release waits at a home, and the host holds no line of the device. -/
def cold (s : State) : Prop :=
  (s.core s.curCore).laneL1 = [] ∧ (s.core s.curCore).hartData = [] ∧ (s.core s.curCore).constCache = [] ∧
    (s.core s.curCore).samplerCache = [] ∧ s.hostCopies = [] ∧ ∀ d, (s.die d).reldir = []

/-- The wave that acts is `w`, and no lane register, accumulator or operand buffer of any core has changed. -/
def keptBut (s q : State) (w : Wave) : Prop :=
  q.wave = w ∧ q.curCore = s.curCore ∧ q.curSlot = s.curSlot ∧
    ∀ c, (q.core c).regs = (s.core c).regs ∧ (q.core c).acc = (s.core c).acc ∧ (q.core c).obuf = (s.core c).obuf

end Sys2Proof.Claims

/-! ## Conversions, predicates and cross-lane words -/

/-- R133 to R138: the conversions complete with the values and flags of the narrowing state. -/
def Obligations.ConversionResults : Prop :=
  (∀ r ∈ convertRules, ∀ (w : LaneWord) (s : State), s.laneReady r.major w = true →
    Completes (r.con w) s (afterLane s r.major w (if r.value.1 w then some s.lat.fp64 else none)
      ((laneEnv s w).lanes.flatMap (r.value.2 (laneEnv s w) (narrowOf s.wave.csrs.nround) w)))) ∧
  (∀ (w : LaneWord) (s : State), s.laneReady 0x94 w = true →
    let e := laneEnv s w
    let d := w.ty.toNat
    let code (l i : Nat) : Nat :=
      match nibbleValue (cvtSp w) ((e.reg w.va.toNat l / 16 ^ i) % 16), decide (d < 8) with
      | .fin neg m ex, true => wrapTo (typeWidth d) (roundToInt .rtz neg m ex)
      | _, true => 0
      | x, false => (laneFmt d).encode x
    Completes (.vunpk4 w) s (s.afterWord (laneBytes w) (e.lanes.flatMap (fun l =>
      putGroup (typeWidth d) w.vd.toNat l ((List.range 8).map (code l)))))) ∧
  (∀ (w : LaneWord) (s : State), s.laneReady 0x95 w = true →
    let e := laneEnv s w
    let n := narrowOf s.wave.csrs.nround
    Completes (.vpk4 w) s (s.afterWord (laneBytes w) (e.lanes.flatMap (fun l =>
      let rs := (List.range 8).map (nibbleOf e n w l)
      [.v w.vd.toNat l (BitVec.ofNat 32 (((List.range 8).map (fun i => (rs.getD i (0, 0)).1 * 16 ^ i)).foldl (· + ·) 0))]
        ++ flagUpd (rs.foldl (fun b r => b ||| r.2) 0)))))

/-- R151: each predicate word gives predicate vd its bit in the active lanes, leaves inactive lanes, other predicates and
every other register alone, and writes nothing where vd is p0. -/
def Obligations.PredicateResults : Prop :=
  ∀ r ∈ predicateRules, ∀ (w : LaneWord) (s : State), s.laneReady r.major w = true →
    ∃ t, exec (r.con w) s = .next t ∧
      (∀ l ∈ (laneEnv s w).lanes, w.vd ≠ 0 →
        (t.wave.getP w.vd.toNat).getLsbD l = r.value (laneEnv s w) w l) ∧
      (∀ n l, n ≠ w.vd.toNat ∨ n = 0 ∨ l ∉ (laneEnv s w).lanes →
        (t.wave.getP n).getLsbD l = (s.wave.getP n).getLsbD l) ∧
      s.sameLanes t (fun _ _ => False) ∧ s.sameOutside t ∧ s.fellThrough t (laneBytes w) ∧
      t.wave.x = s.wave.x ∧ t.wave.m = s.wave.m ∧ t.wave.amask = s.wave.amask ∧
      t.wave.csrs.nround = s.wave.csrs.nround

/-- R151 to R154: the mask, vote, broadcast, reduction and scan words complete with the results of `crossRules`;
`vrdlane` and `vlperm` read the lanes they name. -/
def Obligations.CrossLaneResults : Prop :=
  (∀ r ∈ crossRules, ∀ (w : LaneWord) (s : State), s.laneReady r.major w = true →
    Completes (r.con w) s (s.afterWord (laneBytes w) (r.value (laneEnv s w) w))) ∧
  (∀ (w : LaneWord) (s : State), s.laneReady 0xAD w (touchRdLane w) = true →
    let e := laneEnv s w
    let k := (if immForm w then w.imm.toNat % 128 else (s.wave.getX w.vb.toNat).toNat % 128) % s.wave.width
    Completes (.vrdlane w) s (s.afterWord (laneBytes w)
      (if e.lanes = [] then []
       else [.x w.vd.toNat (toXreg w.ty.toNat (e.pattern (intWidth w.ty.toNat) w.va.toNat k))]))) ∧
  (∀ (w : LaneWord) (s : State), s.laneReady 0xAF w (touchPerm w) = true →
    let e := laneEnv s w
    let wd := intWidth w.ty.toNat
    Completes (.vlperm w) s (s.afterWord (laneBytes w) (e.lanes.flatMap (fun l =>
      putUpd wd false w.vd.toNat l ((e.pattern wd w.va.toNat (permLane e w l) : Nat) : Int)))))

/-! ## Memory lane words -/

/-- R178, R181, R229, R230, R234, R239, R240: a global or window word whose checks pass and whose lanes all lead to memory or a
scratchpad completes. A load takes the bytes there; a store leaves the bytes of its lanes' registers, those of the last lane where
several meet; an atomic finds in each lane, in ascending order, what the lanes before it have left, writes its operation's
result and returns the old value; and every other byte, the lane registers and the wave are as they were. The
bytes are stated where the core's caches start cold. To another cluster's scratchpad an active message leaves, and to a device
register an event. -/
def Obligations.GlobalWordsComplete : Prop :=
  ∀ r ∈ globalRules, ∀ (w : LaneWord) (s u : State) (ds : List (Nat × Dest)),
    let e := laneEnv s w
    let m := r.value
    let n := m.size w
    let c := s.curCore
    let lat := if m.window then s.lat.window else s.lat.l2
    let locs := writtenLocs (laneOperands r.major w)
    let cas := decide (m = MemWord.atomic m.window true)
    let releases := m.kind.writes && decide (ordOf w ≠ 0)
    s.laneReady r.major w = true →
    accessOpen m.window m.kind n releases (scopeOf w) (e.lanes.map (e.address w m.window m.isAtomic)) s = true →
    goesTo m e w e.lanes s u ds →
    (placed s ds →
      (m.kind = .load →
        ∃ q upds, Completes (r.con w) s (q.afterLong (laneBytes w) w.la.toNat lat locs upds) ∧ keptBut s q s.wave ∧
          (cold s → upds = ds.flatMap (fun d => loadUpds w d.1 (valueIn (placeByte s c) d.2 n)) ∧
            ∀ p, placeByte q c p = placeByte s c p)) ∧
      (m.kind = .store →
        ∃ q : State, Completes (r.con w) s (q.afterWord (laneBytes w) []) ∧ keptBut s q s.wave ∧
          (cold s → ∀ p, storedLast s q n (regByte s w.vd.toNat) ds p)) ∧
      (m.kind = .amo →
        ∃ q upds, Completes (r.con w) s (q.afterLong (laneBytes w) w.la.toNat lat locs upds) ∧ keptBut s q s.wave ∧
          (cold s →
            let run := atomicRun n (atomicWrites s cas w) ds (placeByte s c)
            upds = atomicReturns cas w run.1 ∧ ∀ p, placeByte q c p = run.2 p))) ∧
    (∀ l k a va, ds = [(l, .remote k a va)] →
      ∃ t x, exec (r.con w) s = .next t ∧ t.verdict = .issued ∧ x ∈ (t.core k).inbound ++ (t.core k).network ∧
        x.kind = (match m with
          | .load _ _ => MsgKind.load
          | .store _ => .store
          | .atomic _ b => if b then .cas else .atomic) ∧
        x.addr = a ∧ x.size = n ∧ x.dom = s.wave.dom ∧ x.sender = c ∧ x.slot = s.curSlot ∧ x.tag = s.nextTag ∧
        (m.kind = .store → x.operand = leValue ((List.range n).map (regByte s w.vd.toNat l))) ∧
        ∀ b, Bytes.read (t.core k).spad b = Bytes.read (s.core k).spad b) ∧
    (∀ l off, ds = [(l, .reg off)] → m.kind = .store →
      ∃ t, exec (r.con w) s = .next t ∧ t.verdict = .issued ∧
        (s.cycle, Instr.registerWrite,
          ({ a := off, b := n, c := leValue ((List.range n).map (regByte s w.vd.toNat l)) } : Args)) ∈ t.agenda)

/-- R229, R230: a scratchpad load completes with the bytes of its lanes and, but where it acquires at cluster scope or wider,
leaves memory as it was; a plain scratchpad store completes: every byte of the
own scratchpad outside those its active lanes store to, at `spadByte`, reads as before, the last lane's bytes read back, and
no memory, other scratchpad or register of the wave changes. -/
def Obligations.ScratchpadLoadAndStore : Prop :=
  (∀ (w : LaneWord) (s : State),
     let e := laneEnv s w
     let n := memSize w
     let plain := decide (ordOf w = 0)
     s.laneReady 0xC2 w = true →
     tileOpen w.va.toNat n n .load plain false (scopeOf w) (e.lanes.map (e.offset w false)) s = true →
     ∃ u : State, Completes (.vldScratchpad w) s (u.afterLong (laneBytes w) w.la.toNat s.lat.scratchpad
         (writtenLocs (laneOperands 0xC2 w)) (e.lanes.flatMap (fun l =>
           loadUpds w l (Bytes.readLE (s.core s.curCore).spad (spadByte s w l) n)))) ∧
       (plain = true →
         let r := raceRecord w.va.toNat n false plain (e.lanes.map (e.offset w false)) s
         u = { r with cores := u.cores } ∧ ∀ c, u.core c =
           { r.core c with laneCycle := (u.core c).laneCycle, laneBanks := (u.core c).laneBanks }) ∧
       (∀ c a, Bytes.read (u.core c).spad a = Bytes.read (s.core c).spad a) ∧
       (ordOf w = 0 ∨ s.wideScope (scopeOf w) = false → ∀ a, Bytes.read u.mem a = Bytes.read s.mem a) ∧
       u.wave = s.wave) ∧
  (∀ (w : LaneWord) (s : State),
     let e := laneEnv s w
     let n := memSize w
     ordOf w = 0 → s.laneReady 0xC3 w = true →
     tileOpen w.va.toNat n n .store true false (scopeOf w) (e.lanes.map (e.offset w false)) s = true →
     ∃ t, exec (.vstScratchpad w) s = .next t ∧
       (∀ a, (∀ l ∈ e.lanes, a < spadByte s w l ∨ spadByte s w l + n ≤ a) →
         Bytes.read (t.core s.curCore).spad a = Bytes.read (s.core s.curCore).spad a) ∧
       (∀ l, e.lanes.getLast? = some l → ∀ k, k < n →
         Bytes.read (t.core s.curCore).spad (spadByte s w l + k) = (storeBytes e w l).getD k 0) ∧
       (∀ c, c ≠ s.curCore → (t.core c).spad = (s.core c).spad) ∧
       (∀ a, Bytes.read t.mem a = Bytes.read s.mem a) ∧
       s.sameLanes t (fun _ _ => False) ∧ s.fellThrough t (laneBytes w) ∧ s.sameButLanes t)

/-- R230, R239, R240: a scratchpad store at any ordering leaves in each byte what the last of its lanes stores there; a
scratchpad atomic finds in each lane, in ascending order, what the lanes before it have left, writes its operation's result and
returns the old value. Every other byte of every scratchpad is as before, and, but where the word releases lines that the lane L1
holds, memory. -/
def Obligations.ScratchpadOrderedAndAtomic : Prop :=
  ∀ r ∈ ([⟨.vstScratchpad, 0xC3, .store false⟩, ⟨.vamoScratchpad, 0xCA, .atomic false false⟩,
      ⟨.vcasScratchpad, 0xCD, .atomic false true⟩] : List (LaneRule MemWord)),
    ∀ (w : LaneWord) (s : State),
    let e := laneEnv s w
    let m := r.value
    let h := w.va.toNat
    let n := m.size w
    let c := s.curCore
    let plain := decide (ordOf w = 0) && !m.isAtomic
    let cas := decide (m = MemWord.atomic false true)
    let offs := e.lanes.map (e.offset w m.isAtomic)
    let ds := e.lanes.map (fun l => (l, Dest.spad c (1024 * tFirst (s.myTile h) + e.offset w m.isAtomic l)))
    s.laneReady r.major w = true →
    tileOpen h n n m.kind plain (decide (ordOf w ≠ 0)) (scopeOf w) offs s = true →
    ∃ q : State, keptBut s q s.wave ∧
      (ordOf w = 0 ∨ s.wideScope (scopeOf w) = false ∨ (s.core c).laneL1 = [] →
        ∀ a, Bytes.read q.mem a = Bytes.read s.mem a) ∧
      (m.kind = .store → Completes (r.con w) s (q.afterWord (laneBytes w) []) ∧
        ∀ k a, storedLast s q n (regByte s w.vd.toNat) ds (some k, a)) ∧
      (m.kind = .amo →
        let run := atomicRun n (atomicWrites s cas w) ds (placeByte s c)
        Completes (r.con w) s (q.afterLong (laneBytes w) w.la.toNat s.lat.scratchpad (writtenLocs (laneOperands r.major w))
          (atomicReturns cas w run.1)) ∧
        ∀ k a, placeByte q c (some k, a) = run.2 (some k, a))

/-- R180, R232, R235 to R237, R241: `amo.lock` answers the old value of its lock word, writes x[B] where that was 0, and then
counts in LOCKS where x[B] is not 0; `amo.unlk` writes 0 and counts down; `xld` answers the typed bytes of a scratchpad and `xst`
stores the low bytes of its register; a sample of an image whose descriptor is not valid is the canonical NaN, and a nearest one
inside the image is the FP32 code of its texel. With no lane active they only go on; a prefetch always completes and writes no
register. The bytes of memory are stated where the core's caches start cold. -/
def Obligations.LocksWindowsSampler : Prop :=
  (∀ (w : LaneWord) (s u : State) (d : Dest),
    let a := (s.wave.getX w.va.toNat).toNat
    let v := (s.wave.getX w.vb.toNat).toNat
    let c := s.curCore
    s.laneReady 0xCF w = true → (laneEnv s w).lanes ≠ [] → accessOpen false .amo 8 false 0 [a] s = true →
    s.resolve c s.curSlot s.wave .lane .amo a 8 = (u, .ok d) → placed s [(0, d)] →
    ∃ (q : State) (old : Nat),
      Completes (.amoLock w) s (q.afterLong (laneBytes w) w.la.toNat s.lat.l2 (writtenLocs (laneOperands 0xCF w))
        [.x w.vd.toNat (BitVec.ofNat 64 old)]) ∧
      keptBut s q
        { s.wave with locks := if old = 0 ∧ v ≠ 0 then (if s.wave.locks < 15 then s.wave.locks + 1 else 15) else s.wave.locks } ∧
      (cold s → old = valueIn (placeByte s c) d 8 ∧
        ∀ p, placeByte q c p = (if old = 0 then putIn (placeByte s c) d 8 v else placeByte s c) p)) ∧
  (∀ (w : LaneWord) (s u : State) (d : Dest),
    let a := (s.wave.getX w.va.toNat).toNat
    let c := s.curCore
    s.laneReady 0xD0 w = true → (laneEnv s w).lanes ≠ [] → accessOpen false .amo 8 true 3 [a] s = true →
    s.resolve c s.curSlot s.wave .lane .amo a 8 = (u, .ok d) → placed s [(0, d)] →
    ∃ q : State, Completes (.amoUnlk w) s (q.afterWord (laneBytes w) []) ∧
      keptBut s q { s.wave with locks := s.wave.locks - 1 } ∧
      (cold s → ∀ p, placeByte q c p = putIn (placeByte s c) d 8 0 p)) ∧
  (∀ (w : LaneWord) (s : State) (k p : Nat),
    let n := memSize w
    let v := Bytes.readLE (s.core k).spad p n
    s.laneReady 0xD1 w = true → (laneEnv s w).lanes ≠ [] →
    accessOpen true .load n false 0 [windowX w s.wave] s = true → s.windowAs .load (windowX w s.wave) n = .ok (k, p) →
    ∃ q : State, keptBut s q s.wave ∧ (∀ a, Bytes.read q.mem a = Bytes.read s.mem a) ∧
      (∀ j a, Bytes.read (q.core j).spad a = Bytes.read (s.core j).spad a) ∧
      Completes (.xld w) s (q.afterLong (laneBytes w) w.la.toNat s.lat.window (writtenLocs (laneOperands 0xD1 w))
        [.x w.vd.toNat (BitVec.ofInt 64 (typed (typeWidth w.ty.toNat) (intSigned w.ty.toNat) v))])) ∧
  (∀ (w : LaneWord) (s : State) (k p : Nat),
    let n := memSize w
    s.laneReady 0xD2 w = true → (laneEnv s w).lanes ≠ [] →
    accessOpen true .store n (decide (ordOf w ≠ 0)) (scopeOf w) [windowX w s.wave] s = true →
    s.windowAs .store (windowX w s.wave) n = .ok (k, p) →
    ∃ q : State, Completes (.xst w) s (q.afterWord (laneBytes w) []) ∧ keptBut s q s.wave ∧
      (ordOf w = 0 ∨ s.wideScope (scopeOf w) = false ∨ (s.core s.curCore).laneL1 = [] →
        ∀ a, Bytes.read q.mem a = Bytes.read s.mem a) ∧
      ∀ j a, Bytes.read (q.core j).spad a =
        if j = k ∧ p ≤ a ∧ a < p + n then BitVec.ofNat 8 ((s.wave.getX w.vd.toNat).toNat / 256 ^ (a - p))
        else Bytes.read (s.core j).spad a) ∧
  (∀ (w : LaneWord) (s : State),
    let e := laneEnv s w
    let o := vsmpPerform e w e.lanes s
    s.laneReady 0xC7 w = true → e.lanes ≠ [] →
    accessOpen false .load 32 false 0 [(s.wave.getX w.va.toNat).toNat] s = true → (vsmpOutside e w s).isNone = true →
    o.fault.isNone = true →
    Completes (.vsmp w) s (o.s.afterLong (laneBytes w) w.la.toNat s.lat.l2 (writtenLocs (laneOperands 0xC7 w)) o.upds o.acks)) ∧
  (∀ (w : LaneWord) (s u : State) (d : Dest),
    let e := laneEnv s w
    let c := s.curCore
    let a := (s.wave.getX w.va.toNat).toNat
    let desc := valueIn (placeByte s c) d 32
    let base := desc % 2 ^ 64
    let width := desc / 2 ^ 64 % 2 ^ 32
    let height := desc / 2 ^ 96 % 2 ^ 32
    let pitch := desc / 2 ^ 128 % 2 ^ 32
    let ty := desc / 2 ^ 160 % 2 ^ 8
    let size := typeWidth ty / 8
    let u1 := (u.readDest c s.wave .sampler false 32 d).1
    let done (q : State) (upds : List Upd) : Prop :=
      Completes (.vsmp w) s (q.afterLong (laneBytes w) w.la.toNat s.lat.l2 (writtenLocs (laneOperands 0xC7 w)) upds) ∧
        keptBut s q s.wave ∧ ∀ p, placeByte q c p = placeByte s c p
    s.laneReady 0xC7 w = true → e.lanes ≠ [] → accessOpen false .load 32 false 0 [a] s = true → cold s →
    s.resolve c s.curSlot s.wave .sampler .load a 32 = (u, .ok d) → placed s [(0, d)] →
    ((Image.ofBytes desc).valid = false →
      ∃ q, done q (e.lanes.map (fun l => .v w.vd.toNat l (BitVec.ofNat 32 (Fmt.f32.encode (.nan false)))))) ∧
    (∀ (l : Nat) (x y : Int) (i j : Nat) (v : State) (g : Dest),
      let b := (base + j * pitch + i * size) % 2 ^ 64
      (Image.ofBytes desc).valid = true → desc / 2 ^ 176 % 2 ^ 8 = 0 → e.lanes = [l] →
      coordOf (Fmt.f32.decode (s.laneReg w.vb.toNat l).toNat) = some x →
      coordOf (Fmt.f32.decode (s.laneReg (w.vb.toNat + 1) l).toNat) = some y →
      x / 2 ^ 256 = i → y / 2 ^ 256 = j → i < width → j < height → b + size ≤ 2 ^ 49 →
      u1.resolve c s.curSlot s.wave .sampler .load b size = (v, .ok g) → placed s [(0, d), (0, g)] →
      let code := valueIn (placeByte s c) g size
      let value := if ty < 8 then Fv.ofInt (typed (typeWidth ty) (intSigned ty) code) else (laneFmt ty).decode code
      ∃ q, done q [.v w.vd.toNat l (BitVec.ofNat 32 (Fmt.f32.encode value))])) ∧
  (∀ r ∈ ([(.amoLock, 0xCF), (.amoUnlk, 0xD0), (.xld, 0xD1), (.xst, 0xD2), (.vsmp, 0xC7)] : List ((LaneWord → Instr) × Nat)),
    ∀ (w : LaneWord) (s : State), s.laneReady r.2 w = true → (laneEnv s w).lanes = [] →
      ∃ t, exec (r.1 w) s = .next t ∧ t.wave.pc = s.wave.pc + BitVec.ofNat 64 (laneBytes w) ∧ t.wave.x = s.wave.x ∧
        t.mem = s.mem) ∧
  (∀ (w : LaneWord) (s : State), s.laneReady 0xC8 w = true →
    ∃ t, exec (.vpf w) s = .next t ∧ t.wave.pc = s.wave.pc + BitVec.ofNat 64 (laneBytes w) ∧
      t.wave.x = s.wave.x ∧ t.wave.p = s.wave.p ∧ t.wave.m = s.wave.m ∧ t.wave.amask = s.wave.amask ∧
      (t.core s.curCore).regs = (s.core s.curCore).regs)

/-- R183, R229, R233: an accumulator element word on a tile the wave's team holds completes: a load takes the tile's
words, a store writes them in ascending lane order and leaves every other accumulator word alone. -/
def Obligations.AccumulatorElements : Prop :=
  ∀ (store : Bool) (w : LaneWord) (s : State),
    let major := if store then 0xD4 else 0xD3
    let e := laneEnv s w
    let n := memSize w
    let at' (l j : Nat) : Nat := 2048 * w.va.toNat + (e.offset w false l) / 4 + j
    s.laneReady major w = true →
    (∀ l ∈ e.lanes, (e.offset w false l) % n = 0 ∧ e.offset w false l + n ≤ 8192) →
    (∃ h, s.accHolder w.va.toNat = some h ∧ h.team = s.wave.cteam ∧ h.dom = s.wave.dom) →
    (store = false →
      Completes (.vldAccumulator w) s (s.afterLong (laneBytes w) w.la.toNat (if e.lanes = [] then 0 else s.lat.accElement)
        (if e.lanes = [] then [] else writtenLocs (laneOperands major w))
        (e.lanes.flatMap (fun l => (List.range (2 ^ vecOf w)).map (fun j =>
          .v (w.vd.toNat + j) l (Table.get (s.core s.curCore).acc (at' l j) 0)))) []
        (if e.lanes = [] then [] else [.acc w.va.toNat]))) ∧
    (store = true →
      ∃ u : State, Completes (.vstAccumulator w) s (u.afterLong (laneBytes w) w.la.toNat
          (if e.lanes = [] then 0 else s.lat.accElement) (if e.lanes = [] then [] else writtenLocs (laneOperands major w)) []) ∧
        (∀ k, (∀ l ∈ e.lanes, ∀ j, j < 2 ^ vecOf w → k ≠ at' l j) →
          Table.get (u.core s.curCore).acc k 0 = Table.get (s.core s.curCore).acc k 0) ∧
        (∀ l, e.lanes.getLast? = some l → ∀ j, j < 2 ^ vecOf w →
          Table.get (u.core s.curCore).acc (at' l j) 0 = s.laneReg (w.vd.toNat + j) l) ∧
        u.mem = s.mem ∧ u.wave = s.wave ∧ (∀ c, c ≠ s.curCore → u.core c = s.core c))

namespace Sys2Proof.Claims

/-! ### Matrix, accumulator and counting words -/

/-- Every lane of the width is in the active mask: no cause 51 (R93, R255). -/
def fullMask (s : State) : Bool := decide (s.wave.amask &&& s.wave.wm = s.wave.wm)

/-- No check stops a transfer of `n` bytes between the accumulators or the counting array and offset `o` of tile `h`
(R180, R222, R264). -/
def sideOpen (h n : Nat) (k : AccKind) (o : Nat) (s : State) : Bool := tileOpen h n 1 k true false 0 [o] s

/-- The state after the race record of such a transfer. -/
def sideState (h n : Nat) (k : AccKind) (o : Nat) (s : State) : State := raceRecord h n k.writes true [o] s

/-- Bytes of the own scratchpad from offset `o` of tile `h` on are replaced. -/
def putTile (s : State) (h o : Nat) (bs : List Byte) : State :=
  s.storeSpad s.curCore s.curSlot s.curCore (tileByte (s.myTile h) o) bs

/-- The wave of the acting slot as a holder. -/
def holderOf (s : State) : Holder := { team := s.wave.cteam, twave := s.wave.twave, dom := s.wave.dom }

/-- The record of reservation o(n) of the acting core. -/
def resvAt (s : State) (n : Nat) : Reserv := ((s.core s.curCore).resvOf n).getD {}

/-- K codes, in the tiles of a `cnt.acc` (R367). -/
def accK (w : LaneWord) : Nat := 16 * (bits w.imm.toNat 11 0 + 1)

/-- Offsets of the tiles of a `cnt.acc`. -/
def accOffA (w : LaneWord) : Nat := 1024 * bits w.imm.toNat 20 12
def accOffB (w : LaneWord) : Nat := 1024 * bits w.imm.toNat 29 21

/-- How often a `cnt.acc` selects counter `j` of a cell (R367). -/
def accCount (s : State) (w : LaneWord) (cell j : Nat) : Nat :=
  let c := s.core s.curCore
  (cntTally c c.cntPair (tileByte (s.myTile w.va.toNat) (accOffA w)) (tileByte (s.myTile w.vb.toNat) (accOffB w)) (accK w)
    (cell / 32) (cell % 32)).count j

/-- A counting word of the wave that holds the array may start (R364, R366). -/
def countOpen (s : State) (team : Bool) : Bool :=
  fullMask s && (cntCheck team (!team) s).isNone && !(s.core s.curCore).cntBusy

end Sys2Proof.Claims

/-! ## Matrix and accumulator words -/

/-- R254: `ob.rsv` of a free number with a valid record and room answers 0, records the wave as holder and clears the
granules (that a cascade reservation then takes no delivery before its first `mld` is the model's reading, log 83); `ob.rel`
by the holder answers 0 and frees the number; both report the statuses the manual lists otherwise. -/
def Obligations.OperandBufferReservations : Prop :=
  (∀ (n : BitVec 3) (b a d : BitVec 5) (s : State) (g : Nat),
    let r : Reserv := { w0 := s.wave.getX a.toNat, w1 := s.wave.getX b.toNat }
    s.wordReady 1 (xLocs [a, b, d] ++ [.resv n.toNat, .half n.toNat]) = true →
    (s.core s.curCore).resvOf n.toNat = none → r.valid = true → (s.core s.curCore).findGrans r.gran = some g →
    Completes (.obRsv n b a d) s
      ((s.modCur (fun c =>
        { c.clearObuf (1024 * g) (1024 * r.gran) with
          resv := Table.put c.resv n.toNat
            { r with
              w2 := BitVec.ofNat 64 (s.wave.twave * 2 ^ 24 + s.wave.dom * 2 ^ 16 + 64 + g), team := s.wave.cteam,
              fresh := r.cas } })).afterX
        d 0)) ∧
  (∀ (n : BitVec 3) (b a d : BitVec 5) (s : State),
    let r : Reserv := { w0 := s.wave.getX a.toNat, w1 := s.wave.getX b.toNat }
    s.wordReady 1 (xLocs [a, b, d] ++ [.resv n.toNat, .half n.toNat]) = true →
    (∀ q, (s.core s.curCore).resvOf n.toNat = some q → q.dom = s.wave.dom →
      Completes (.obRsv n b a d) s (s.afterX d (if q.ofWave s.wave then 4 else 1))) ∧
    ((s.core s.curCore).resvOf n.toNat = none → r.valid = false → Completes (.obRsv n b a d) s (s.afterX d 3)) ∧
    ((s.core s.curCore).resvOf n.toNat = none → r.valid = true → (s.core s.curCore).findGrans r.gran = none →
      Completes (.obRsv n b a d) s (s.afterX d 2))) ∧
  (∀ (n : BitVec 3) (d : BitVec 5) (s : State),
    s.wordReady 1 (xLocs [d] ++ [.resv n.toNat, .half n.toNat]) = true →
    ((s.core s.curCore).resvOf n.toNat = none → Completes (.obRel n d) s (s.afterX d 1)) ∧
    (∀ q, (s.core s.curCore).resvOf n.toNat = some q → q.dom = s.wave.dom → q.ofWave s.wave = false →
      Completes (.obRel n d) s (s.afterX d 1)) ∧
    (∀ q, (s.core s.curCore).resvOf n.toNat = some q → q.ofWave s.wave = true →
      (s.core s.curCore).inUse (.resv n.toNat) = false →
      Completes (.obRel n d) s ((s.modCur (fun c => { c with resv := Table.erase c.resv n.toNat })).afterX d 0)))

/-- R263 to R265: the accumulator words of a wave that holds what they need complete: `acc.take` zeroes and holds the tiles
that were free, `acc.rel` frees, `acc.clr` zeroes, and the transfers move 2,048 words between a tile of the store and a
scratchpad tile, converted by `acc.cvt`. -/
def Obligations.AccumulatorWords : Prop :=
  (∀ (w : LaneWord) (s : State),
    let ks := accRange w
    let new := ks.filter (fun k => (s.accHolder k).isNone)
    s.laneReady 0xE4 w = true → w.func = 0 → fullMask s = true → (accRangeCheck ks s).isNone = true →
    Completes (.accTake w) s
      (((s.modCur (fun c =>
        { c.zeroAcc new with accHold := new.foldl (fun t k => Table.put t k (holderOf s)) c.accHold })).modWave
          (fun q => q.maskAcc ks true)).afterWord (laneBytes w) [])) ∧
  (∀ (w : LaneWord) (s : State),
    let ks := accRange w
    s.laneReady 0xE4 w = true → w.func = 1 → fullMask s = true → (accRangeCheck ks s).isNone = true →
    ks.all (fun k => !(s.core s.curCore).inUse (.acc k)) = true →
    Completes (.accRel w) s
      (((s.modCur (fun c => { c with accHold := Table.keep c.accHold (fun k => !ks.contains k) })).modWave
        (fun q => q.maskAcc ks false)).afterWord (laneBytes w) [])) ∧
  (∀ (w : LaneWord) (s : State),
    s.laneReady 0xE4 w = true → w.func = 2 → fullMask s = true → (accCheck true (accRange w) s).isNone = true →
    Completes (.accClr w) s ((s.modCur (fun c => c.zeroAcc (accRange w))).afterWord (laneBytes w) [])) ∧
  (∀ (w : LaneWord) (s : State),
    let h := w.va.toNat
    let u := sideState h 8192 .store w.imm.toNat s
    s.laneReady 0xE3 w = true → fullMask s = true → (accCheck false [w.vd.toNat] s).isNone = true →
    sideOpen h 8192 .store w.imm.toNat s = true →
    Completes (.accSt w) s
      ((putTile u h w.imm.toNat (((s.core s.curCore).accWords w.vd.toNat).flatMap (fun v => leBytes 4 v.toNat))).afterLong
        (laneBytes w) w.la.toNat s.lat.accMove [.tile h] [] [] [.acc w.vd.toNat])) ∧
  (∀ (w : LaneWord) (s : State),
    let h := w.va.toNat
    let u := sideState h 8192 .load w.imm.toNat s
    let a := tileByte (s.myTile h) w.imm.toNat
    let vals := (List.range 2048).map (fun j => BitVec.ofNat 32 (Bytes.readLE (s.core s.curCore).spad (a + 4 * j) 4))
    s.laneReady 0xE5 w = true → fullMask s = true → (accCheck true [w.vd.toNat] s).isNone = true →
    sideOpen h 8192 .load w.imm.toNat s = true →
    Completes (.accLd w) s ((u.modCur (fun c => c.setAcc w.vd.toNat vals)).afterLong (laneBytes w) w.la.toNat s.lat.accMove
      [.acc w.vd.toNat] [])) ∧
  (∀ (w : LaneWord) (s : State),
    let h := w.va.toNat
    let d := w.vd.toNat
    let ty := w.ty.toNat
    let src := bits w.func.toNat 4 3
    let size := typeWidth ty / 8
    let u := sideState h (2048 * size) .store w.imm.toNat s
    let c := s.core s.curCore
    let rs := ((c.accWords d).zip (if src = 2 then c.accWords (d + 1) else c.accWords d)).map
      (fun v => accConvert (narrowOf s.wave.csrs.nround) src ty (dstP w) (accSource src v.1 v.2))
    s.laneReady 0xE6 w = true → fullMask s = true → (accCheck false (if src = 2 then [d, d + 1] else [d]) s).isNone = true →
    sideOpen h (2048 * size) .store w.imm.toNat s = true →
    Completes (.accCvt w) s
      ((putTile u h w.imm.toNat (rs.flatMap (fun r => leBytes size r.1))).afterLong (laneBytes w) w.la.toNat s.lat.accMove
        [.tile h, .nround] (flagUpd (rs.foldl (fun a r => a ||| r.2) 0)) [] (if src = 2 then [.acc d, .acc (d + 1)] else [.acc d])))

namespace Sys2Proof.Claims

/-- Code of element `k` of line `line` in the half of reservation `r` in use: dense, K-block by K-block; sparse, the line's
bitmap of each 128 elements places it among the kept ones, and a position not kept is +0 (R252). -/
def elementCode (c : Core) (r : Reserv) (line k : Nat) : Nat :=
  let at' := r.halfByte r.cur
  let es := elementSize r.fmt
  if r.sparse = 0 then
    Bytes.readLE c.obuf (at' + r.doff + es * ((k / r.blk) * (r.lines * r.blk) + line * r.blk + k % r.blk)) es
  else
    let map := Bytes.readLE c.obuf (at' + r.moff + 16 * (32 * (k / 128) + line)) 16
    let j := ((List.range (k % 128)).filter (fun i => bit map i)).length
    if bit map (k % 128) ∧ j < r.kept then
      Bytes.readLE c.obuf (at' + r.doff + es * ((k / 128) * (32 * r.kept) + line * r.kept + j)) es
    else 0

/-- The value of that element, and the scale of K-block `b` of a line: 1 where the record names none (R52, R252). -/
def elementValue (c : Core) (r : Reserv) (line k : Nat) : Fv := (cvtFmt r.fmt r.p r.inf).decode (elementCode c r line k)

def scaleValue (c : Core) (r : Reserv) (line b : Nat) : Fv :=
  if r.scl = 0 then .fin false 1 0
  else (if r.scl = 1 then Fmt.f16 else Fmt.bf16).decode
    (Bytes.readLE c.obuf (r.halfByte r.cur + r.soff + 2 * (b * r.lines + line)) 2)

/-- The product of two values as a value: exact. -/
def productValue (p : Raw) : Fv :=
  match p with
  | .nan _ => .nan false
  | .inf neg _ => .inf neg
  | .num neg m e _ => .fin neg m e

/-- The exact sum of products (R52, R56): NaN where one is NaN or infinities of both signs meet, an infinity where one is
infinite, else the sum of the signed significands over the least exponent, +0 where it is zero. -/
def exactSum (ps : List Fv) : Fv :=
  if ps.any (fun p => p.isNan) ∨ ((.inf true ∈ ps) ∧ (.inf false ∈ ps)) then .nan false
  else if .inf true ∈ ps then .inf true
  else if .inf false ∈ ps then .inf false
  else
    let expo (p : Fv) : Int := match p with
      | .fin _ _ e => e
      | _ => 0
    let least := ps.foldl (fun a p => min a (expo p)) 0
    let z : Int := (ps.map (fun p => match p with
      | .fin neg m e => (if neg then -1 else 1) * (m : Int) * 2 ^ (e - least).toNat
      | _ => 0)).sum
    .fin (decide (z < 0)) z.natAbs least

/-- Word j of accumulator tile `k`. -/
def accWord (c : Core) (k j : Nat) : Word32 := Table.get c.acc (2048 * k + j) 0

/-- What K-block `b` of a multiply word leaves in element (m, n) (R52 to R57, R258): an INT16 pair adds its products to the
64-bit element modulo 2^64; FP32 rounds once per product in ascending k; the others round once per group of 16 or 8, with
the exact group sum and the scale product. -/
def blockElementRule (c c' : Core) (w : LaneWord) (b m n : Nat) : Prop :=
  let ra := (c.resvOf w.va.toNat).getD {}
  let rb := (c.resvOf w.vb.toNat).getD {}
  let d := w.vd.toNat
  let j := 64 * m + n
  let k0 := b * ra.blk
  if ra.fmt = 1 ∨ ra.fmt = 5 then
    let whole (q : Core) : Int := (accWord q d j).toNat + 2 ^ 32 * (accWord q (d + 1) j).toNat
    whole c' = (whole c + ((List.range ra.blk).map (fun k =>
      typed 16 (ra.fmt = 1) (elementCode c ra m (k0 + k)) * typed 16 (rb.fmt = 1) (elementCode c rb n (k0 + k)))).sum) % 2 ^ 64
  else
    let va (k : Nat) : Fv := elementValue c ra m (k0 + k)
    let vb (k : Nat) : Fv := elementValue c rb n (k0 + k)
    let rounded (p q : Fv) (a : Nat) : Nat := Fmt.f32.result .rne (p.fma .rne q (Fmt.f32.decode a))
    let old := (accWord c d j).toNat
    if ra.fmt = 10 then
      accWord c' d j = BitVec.ofNat 32 ((List.range ra.blk).foldl (fun a k => rounded (va k) (vb k) a) old)
    else
      let size := if ra.fmt = 12 ∨ ra.fmt = 13 then 16 else 8
      let scale := productValue ((scaleValue c ra m b).mul (scaleValue c rb n b))
      let sum (g : Nat) : Fv := exactSum ((List.range size).map (fun i =>
        productValue ((va (size * g + i)).mul (vb (size * g + i)))))
      accWord c' d j = BitVec.ofNat 32 ((List.range (ra.blk / size)).foldl (fun a g => rounded (sum g) scale a) old)

end Sys2Proof.Claims

/-- R256 to R261, R52 to R57: `mld` copies whole granules into a reservation; a multiply word whose records fit its types
goes to the sequencer at its resume step; the sequencer takes one K-block a step, which adds to every element of c(D) the sum
of products the manual orders, and hands a cascade word on after the last. The delay of a step is not architectural (R259),
and a record that left the core reads as zeros (log 84, the model's choice). -/
def Obligations.MatrixWordsAndSequencer : Prop :=
  (∀ (w : LaneWord) (s : State),
    let i := w.imm.toNat
    let r := resvAt s w.vd.toNat
    let n := bits i 30 24
    let src := 1024 * (tFirst (s.myTile w.va.toNat) + bits i 8 0)
    s.laneReady 0xE0 w = true → fullMask s = true → (resvCheck true [w.vd.toNat] s).isNone = true →
    (tileOwn w.va.toNat (1024 * n) 1 .load [1024 * bits i 8 0] s).isNone = true → bits i 21 16 + n ≤ r.half →
    (tileReady w.va.toNat (1024 * n) .load [1024 * bits i 8 0] s).isNone = true → (s.core s.curCore).seq = none →
    Completes (.mld w) s
      ((s.modCur (fun c =>
        { c with
          obuf := Bytes.writeList c.obuf (r.halfByte r.cur + 1024 * bits i 21 16) (Bytes.readList c.spad src (1024 * n)) })).afterLong
        (laneBytes w) w.la.toNat s.lat.scratchpad [.resv w.vd.toNat] (if r.cas then [.cvalid w.vd.toNat] else []))) ∧
  (∀ (cascade : Bool) (w : LaneWord) (s : State),
    let major := if cascade then 0xE2 else 0xE1
    let con : Instr := if cascade then .mmac w else .mma w
    let ra := resvAt s w.va.toNat
    let rb := resvAt s w.vb.toNat
    let ta := w.ty.toNat
    let pOf (t f : Nat) : Nat := if t = 12 ∨ t = 13 then f else 0
    let x := s.wave.getX (vcOf w)
    let m := s.wave.csrs.mseq
    let first := if m.getLsbD 16 then fld m 15 0 else 0
    let nb := ra.kext / ra.blk
    let run : SeqRun :=
      { slot := s.curSlot, pc := s.wave.pc, cascade := cascade, word := w, next := first, last := x.getLsbD 7,
        step := fld x 6 0, nb := nb, sending := false }
    s.laneReady major w = true → fullMask s = true →
    (accCheck true (if ta = 1 ∨ ta = 5 then [w.vd.toNat, w.vd.toNat + 1] else [w.vd.toNat]) s).isNone = true →
    (resvCheck false [w.va.toNat, w.vb.toNat] s).isNone = true →
    (cascade = true → rb.cas = true ∧ (x.getLsbD 7 = true ∨ fld x 6 0 < s.myTeam.tcores)) →
    ra.role = 0 → rb.role = 1 → ra.fmt = ta → ra.p = pOf ta (bits w.func.toNat 2 0) → rb.fmt = mmaTb w →
    rb.p = pOf (mmaTb w) (mmaTbP w) → ra.kext = rb.kext → ra.blk = rb.blk → (rb.cas = true → rb.cvalid = true) →
    (s.core s.curCore).seq = none →
    Completes con s
      ((((s.modCur (fun c => { c with seq := some run })).modCsrs (fun q => { q with mseq := q.mseq &&& 0xFFFF })).afterLong
        (laneBytes w) w.la.toNat notYet (writtenLocs (laneOperands major w)) []).schedule
          (if first < nb then stepCycles ra else 0) .sequencerKblockComplete { core := s.curCore })) ∧
  (∀ (s : State) (q : SeqRun), (s.core s.args.core).seq = some q → q.sending = false →
    (q.next + 1 < q.nb →
      ∃ d, exec .sequencerKblockComplete s = .next
        ((s.modCore s.args.core (fun k => { k.kblock q.word q.next with seq := some { q with next := q.next + 1 } })).schedule d
          .sequencerKblockComplete { core := s.args.core })) ∧
    (let c := s.core s.args.core
      let c' := c.kblock q.word q.next
      (∀ m n, m < 32 → n < 64 → blockElementRule c c' q.word q.next m n) ∧ c' = { c with acc := c'.acc }) ∧
    (q.next + 1 = q.nb → (q.cascade = false ∨ q.last = true) →
      exec .sequencerKblockComplete s = .next
        ((s.modCore s.args.core (fun k =>
          { k.kblock q.word q.next with seq := some { q with next := q.next + 1 } })).sequencerDone s.args.core
            { q with next := q.next + 1 })) ∧
    (q.next + 1 = q.nb → q.cascade = true → q.last = false →
      ∃ t, exec .sequencerKblockComplete s = .next t ∧
        (t.core s.args.core).seq = some { q with next := q.next + 1, sending := true } ∧
        (t.core s.args.core).acc = ((s.core s.args.core).kblock q.word q.next).acc)) ∧
  (∀ (s : State) (q : SeqRun) (rs rd : Reserv),
    let c := s.args.core
    let w := (s.slotAt c q.slot).wave
    let n := q.word.vb.toNat
    let dst := 96 * clusterOf c + Table.get (s.team (clusterOf c) w.cteam).cmap q.step 0
    (s.core c).seq = some q → q.sending = true → w.park = none → (s.core c).resvOf n = some rs →
    (s.core dst).resvOf n = some rd → rd.team = w.cteam → rd.w0 = rs.w0 → rd.w1 = rs.w1 → rd.ivalid = false →
    rd.fresh = false → rd.dom = w.dom → dst ≠ c →
    ∃ t, exec .cascadeArrival s = .next t ∧ (t.core c).seq = none ∧
      (t.core dst).obuf = Bytes.writeList (s.core dst).obuf (rd.halfByte (1 - rd.cur))
        (Bytes.readList (s.core c).obuf (rs.halfByte rs.cur) (1024 * rs.half)) ∧
      (t.core dst).resvOf n = some { rd with w2 := rd.w2 ||| 0x200 } ∧
      (t.core c).resvOf n = some { rs with w2 := rs.w2 &&& ~~~0x100#64 }) ∧
  (∀ (s : State) (r : Reserv), (s.core s.args.core).resvOf s.args.a = some r → r.cas = true → r.cvalid = false →
    r.ivalid = true →
    (s.core s.args.core).slots.all (fun e => e.2.wave.pending.all (fun o => !o.upds.contains (.cvalid s.args.a))) = true →
    exec .cascadeSwap s = .next (s.modCore s.args.core (fun k =>
      { k with resv := Table.put k.resv s.args.a { r with w2 := ((r.w2 ^^^ 0x80) ||| 0x100) &&& ~~~0x200#64 } })))

/-! ## Counting words -/

/-- R365: `cnt.rsv` of a free array with a legal word answers 0 and clears both banks; `cnt.rsv.rel` and `cnt.clr` of
the holder free it and zero the banks they name. -/
def Obligations.CountingReservation : Prop :=
  (∀ (a d : BitVec 5) (s : State),
    let v := s.wave.getX a.toNat
    s.wordReady 2 (xLocs [a, d] ++ cntLocs [0, 1]) = true → (s.core s.curCore).cntHeld = false →
    (fld v 63 4 = 0 ∧ fld v 2 0 ≤ 4 →
      Completes (.cntRsv a d) s
        ((s.modCur (fun c =>
          { c with
            bank := [], cellFlag := [],
            cntRec :=
              { w0 := v, w1 := 0,
                w2 := BitVec.ofNat 64 (s.wave.twave * 2 ^ 24 + s.wave.dom * 2 ^ 16 +
                  (if 1 ≤ fld v 2 0 ∧ fld v 2 0 ≤ 3 then 128 else 0) + 64),
                team := s.wave.cteam } })).afterX d 0)) ∧
    (fld v 63 4 ≠ 0 ∨ 4 < fld v 2 0 → Completes (.cntRsv a d) s (s.afterX d 3))) ∧
  (∀ (a d : BitVec 5) (s : State), s.wordReady 2 (xLocs [a, d] ++ cntLocs [0, 1]) = true →
    (s.core s.curCore).cntHeld = true → (s.core s.curCore).cntDom = s.wave.dom →
    Completes (.cntRsv a d) s (s.afterX d (if (s.core s.curCore).cntOfWave s.wave then 4 else 1))) ∧
  (∀ (d : BitVec 5) (s : State), s.wordReady 2 (xLocs [d]) = true → (cntDomain s true).isNone = true →
    ((s.core s.curCore).cntOfWave s.wave = false → Completes (.cntRsvRel d) s (s.afterX d 1)) ∧
    ((s.core s.curCore).cntOfWave s.wave = true → (s.core s.curCore).cntBusy = false →
      Completes (.cntRsvRel d) s ((s.modCur (fun c => { c with cntRec := {} })).afterX d 0))) ∧
  (∀ (k : BitVec 3) (s : State), s.wordReady 2 (.bank 3 :: cntLocs [0, 1]) = true → 1 ≤ k.toNat → k.toNat ≤ 3 →
    (s.core s.curCore).cntOfWave s.wave = true →
    ∃ t, exec (.cntClr k) s = .next t ∧ t.wave.pc = s.wave.pc + 4 ∧
      (∀ cell, cell < 512 → (t.core s.curCore).flagOf cell = false ∧ ∀ b i, b < 2 → i < 128 →
        (t.core s.curCore).counter b cell i =
          if (s.core s.curCore).cntWide || k.getLsbD b then 0 else (s.core s.curCore).counter b cell i))

/-- R366, R367: `cnt.acc` adds to each counter of the view it names the number of its pairs that select it, at most
16,383; a counter that would pass that sets its cell's overflow flag. -/
def Obligations.CountingAccumulate : Prop :=
  ∀ (w : LaneWord) (s : State),
    let c := s.core s.curCore
    let b := w.vd.toNat
    let sat (cell : Nat) : Bool := (List.range c.viewSize).any (fun j =>
      decide (kMax < c.counter b cell j + accCount s w cell j) && decide (0 < accCount s w cell j))
    s.laneReady 0xE8 w = true → countOpen s false = true → accPair w = c.cntPair → (c.cntWide = true → b = 0) →
    tileOpen w.va.toNat (8 * accK w) 1 .load false false 0 [accOffA w] s = true →
    tileOpen w.vb.toNat (16 * accK w) 1 .load false false 0 [accOffB w] s = true →
    ∃ u : State, Completes (.cntAcc w) s
        (u.afterLong (laneBytes w) w.la.toNat ((accK w + 255) / 256 + 2) (cntLocs [b]) (cntTrap c sat)) ∧
      u.mem = s.mem ∧ u.wave = s.wave ∧ (u.core s.curCore).spad = c.spad ∧ (u.core s.curCore).acc = c.acc ∧
      (∀ cell j, cell < 512 → j < c.viewSize →
        (u.core s.curCore).counter b cell j = min kMax (c.counter b cell j + accCount s w cell j)) ∧
      (∀ cell, cell < 512 → (u.core s.curCore).flagOf cell = (c.flagOf cell || sat cell)) ∧
      (∀ k, k < 2 → k ≠ b → c.cntWide = false → ∀ cell j, cell < 512 → j < 128 →
        (u.core s.curCore).counter k cell j = c.counter k cell j)

/-- R369: `cnt.mrg` raises Fault(2, word[63:0]) on a WIDE record; otherwise, in every cell and for every index i, k0[i] becomes
min(k0[i] + k1[i], 16,383) and k1[i] becomes 0; a sum above 16,383 sets the cell's flag and counts as a saturation for the
trap rule. -/
def Obligations.CountingMerge : Prop :=
  ∀ (w : LaneWord) (s : State),
    let c := s.core s.curCore
    let sum (cell i : Nat) : Nat := c.counter 0 cell i + c.counter 1 cell i
    let sat (cell : Nat) : Bool := (List.range 128).any (fun i => decide (16383 < sum cell i))
    s.laneReady 0xE9 w = true → countOpen s false = true →
    (c.cntWide = true → exec (.cntMrg w) s = (Issue.trap 2 (laneLow 0xE9 false false w) s).finish) ∧
    (c.cntWide = false →
      ∃ u : State, Completes (.cntMrg w) s
          (u.afterLong (laneBytes w) w.la.toNat s.lat.countShort (cntLocs [0, 1]) (cntTrap c sat)) ∧
        u.mem = s.mem ∧ u.wave = s.wave ∧
        ∀ cell, cell < 512 → (u.core s.curCore).flagOf cell = (c.flagOf cell || sat cell) ∧
          ∀ i, i < 128 → (u.core s.curCore).counter 0 cell i = min (sum cell i) 16383 ∧
            (u.core s.curCore).counter 1 cell i = 0)

/-- R51, R370 to R372: `cnt.drn` writes the drained sums of a view to a quarter of an accumulator tile and zeroes the view;
`cnt.spl` stores the image of a view and `cnt.fil` loads one. -/
def Obligations.CountingDrainAndImages : Prop :=
  (∀ (w : LaneWord) (s : State),
    let c := s.core s.curCore
    let o := w.imm.toNat
    let sc := w.func.getLsbD 1
    let scale (k : Nat) : Fv :=
      if sc then Fmt.f16.decode (Bytes.readLE c.spad (tileByte (s.myTile w.vb.toNat) o + k) 2) else .fin false 1 0
    let inQuarter (m n : Nat) : Bool :=
      decide (m / 16 = b2n (w.func.getLsbD 2)) && decide (n / 32 = b2n (w.func.getLsbD 3))
    let vals := (List.range 2048).map (fun e =>
      let v := (c.accWords w.vd.toNat).getD e 0
      if inQuarter (e / 64) (e % 64) then
        BitVec.ofNat 32 (drainElement c w w.va.toNat (32 * (e / 64 % 16) + e % 64 % 32) v.toNat
          (scale (2 * (e / 64 % 16))) (scale (32 + 2 * (e % 64 % 32))))
      else v)
    s.laneReady 0xEA w = true → countOpen s false = true → (accCheck true [w.vd.toNat] s).isNone = true →
    (c.cntWide = true → w.va = 0) →
    (sc = true → tileOpen w.vb.toNat 96 2 .load false false 0 [o] s = true) →
    Completes (.cntDrn w) s
      ((s.modCur (fun _ => ((c.setAcc w.vd.toNat vals).setView w.va.toNat (fun _ _ => 0)).setFlags (fun _ => false))).afterLong
        (laneBytes w) w.la.toNat s.lat.countShort (cntLocs [w.va.toNat] ++ [.acc w.vd.toNat]) [])) ∧
  (∀ (w : LaneWord) (s : State),
    let c := s.core s.curCore
    let h := w.va.toNat
    let o := 1024 * w.imm.toNat
    let size := 512 * c.blockBytes
    s.laneReady 0xEB w = true → countOpen s true = true → (c.cntWide = true → w.vd = 0) →
    sideOpen h size .store o s = true →
    Completes (.cntSpl w) s
      ((putTile (sideState h size .store o s) h o (c.image w.vd.toNat)).afterLong (laneBytes w) w.la.toNat
        (if c.cntWide then s.lat.countWide else s.lat.countImage) [.tile h, .bank 3] [] [] [.bank 2])) ∧
  (∀ (w : LaneWord) (s : State),
    let c := s.core s.curCore
    let h := w.va.toNat
    let o := 1024 * w.imm.toNat
    let size := 512 * c.blockBytes
    let u := sideState h size .load o s
    s.laneReady 0xEC w = true → countOpen s false = true → (c.cntWide = true → w.vd = 0) →
    sideOpen h size .load o s = true →
    Completes (.cntFil w) s
      ((u.modCur (fun k => k.loadImage w.vd.toNat (Bytes.readList c.spad (tileByte (s.myTile h) o) size))).afterLong
        (laneBytes w) w.la.toNat (if c.cntWide then s.lat.countWide else s.lat.countImage) (cntLocs [w.vd.toNat]) []))

namespace Sys2Proof.Claims

/-! ### RISC-V words -/

/-- A RISC-V word may issue: a wave runs or waits there, the word is legal for it, and no window forbids it. -/
def rvOpen (i : Rv) (s : State) : Bool :=
  s.canIssue && i.wellFormed && rvLegal i s.wave && s.windowsAllow (liveLocs (rvLocs i))

/-- A word of the base encoding that names `locs` may issue. -/
def baseOpen (locs : List Loc) (s : State) : Bool := s.canIssue && s.windowsAllow (liveLocs locs)

/-- The sign-extended low word of a number. -/
def sxw (n : Nat) : Word := (BitVec.ofNat 32 n).signExtend 64

/-- The low word of a register as a signed number. -/
def low32 (x : Word) : Int := (x.setWidth 32).toInt

/-- 1 where a condition holds, else 0. -/
def oneIf (p : Prop) [Decidable p] : Word := if p then 1 else 0

/-- What each two-register operation leaves in rd, for the operands `a` and `b` (R90). -/
def intRule (op : IntOp) (a b v : Word) : Prop :=
  let k := b.toNat % 64
  match op with
  | .add => v.toNat = (a.toNat + b.toNat) % 2 ^ 64
  | .sub => v = BitVec.ofInt 64 (a.toInt - b.toInt)
  | .sll => v.toNat = a.toNat * 2 ^ k % 2 ^ 64
  | .slt => v = oneIf (a.toInt < b.toInt)
  | .sltu => v = oneIf (a.toNat < b.toNat)
  | .xor => ∀ i, v.getLsbD i = (a.getLsbD i != b.getLsbD i)
  | .srl => v.toNat = a.toNat / 2 ^ k
  | .sra => v.toInt = a.toInt / 2 ^ k
  | .or => ∀ i, v.getLsbD i = (a.getLsbD i || b.getLsbD i)
  | .and => ∀ i, v.getLsbD i = (a.getLsbD i && b.getLsbD i)
  | .mul => v.toNat = a.toNat * b.toNat % 2 ^ 64
  | .mulh => v.toInt = a.toInt * b.toInt / 2 ^ 64
  | .mulhsu => v.toInt = a.toInt * (b.toNat : Int) / 2 ^ 64
  | .mulhu => v.toNat = a.toNat * b.toNat / 2 ^ 64
  | .div => if b = 0 then v.toInt = -1 else v = BitVec.ofInt 64 (a.toInt.tdiv b.toInt)
  | .divu => v.toNat = if b = 0 then 2 ^ 64 - 1 else a.toNat / b.toNat
  | .rem => v.toInt = if b = 0 then a.toInt else a.toInt.tmod b.toInt
  | .remu => v.toNat = if b = 0 then a.toNat else a.toNat % b.toNat
  | .sh1add => v.toNat = (b.toNat + 2 * a.toNat) % 2 ^ 64
  | .sh2add => v.toNat = (b.toNat + 4 * a.toNat) % 2 ^ 64
  | .sh3add => v.toNat = (b.toNat + 8 * a.toNat) % 2 ^ 64
  | .andn => ∀ i, i < 64 → v.getLsbD i = (a.getLsbD i && !b.getLsbD i)
  | .orn => ∀ i, i < 64 → v.getLsbD i = (a.getLsbD i || !b.getLsbD i)
  | .xnor => ∀ i, i < 64 → v.getLsbD i = (a.getLsbD i == b.getLsbD i)
  | .max => v.toInt = max a.toInt b.toInt
  | .maxu => v.toNat = max a.toNat b.toNat
  | .min => v.toInt = min a.toInt b.toInt
  | .minu => v.toNat = min a.toNat b.toNat
  | .rol => ∀ i, i < 64 → v.getLsbD ((i + k) % 64) = a.getLsbD i
  | .ror => ∀ i, i < 64 → v.getLsbD i = a.getLsbD ((i + k) % 64)

/-- What each word operation leaves in rd (R90). -/
def intRule32 (op : IntOp32) (x y v : Word) : Prop :=
  let a := x.toNat % 2 ^ 32
  let b := y.toNat % 2 ^ 32
  let k := y.toNat % 32
  match op with
  | .addw => v = sxw (a + b)
  | .subw => v = (BitVec.ofInt 32 (low32 x - low32 y)).signExtend 64
  | .sllw => v = sxw (a * 2 ^ k)
  | .srlw => v = sxw (a / 2 ^ k)
  | .sraw => v.toInt = low32 x / 2 ^ k
  | .mulw => v = sxw (a * b)
  | .divw => if b = 0 then v.toInt = -1 else v = (BitVec.ofInt 32 ((low32 x).tdiv (low32 y))).signExtend 64
  | .divuw => v = if b = 0 then sxw (2 ^ 32 - 1) else sxw (a / b)
  | .remw => v.toInt = if b = 0 then low32 x else (low32 x).tmod (low32 y)
  | .remuw => v = if b = 0 then sxw a else sxw (a % b)
  | .addUw => v.toNat = (y.toNat + a) % 2 ^ 64
  | .sh1addUw => v.toNat = (y.toNat + 2 * a) % 2 ^ 64
  | .sh2addUw => v.toNat = (y.toNat + 4 * a) % 2 ^ 64
  | .sh3addUw => v.toNat = (y.toNat + 8 * a) % 2 ^ 64
  | .rolw => v = sxw v.toNat ∧ ∀ i, i < 32 → v.getLsbD ((i + k) % 32) = x.getLsbD i
  | .rorw => v = sxw v.toNat ∧ ∀ i, i < 32 → v.getLsbD i = x.getLsbD ((i + k) % 32)

/-- What each register-immediate operation leaves in rd, for the sign-extended immediate `i` (R90). -/
def immRule (op : ImmOp) (a i v : Word) : Prop :=
  match op with
  | .addi => v.toNat = (a.toNat + i.toNat) % 2 ^ 64
  | .slti => v = oneIf (a.toInt < i.toInt)
  | .sltiu => v = oneIf (a.toNat < i.toNat)
  | .xori => ∀ j, v.getLsbD j = (a.getLsbD j != i.getLsbD j)
  | .ori => ∀ j, v.getLsbD j = (a.getLsbD j || i.getLsbD j)
  | .andi => ∀ j, v.getLsbD j = (a.getLsbD j && i.getLsbD j)

/-- What each shift by an immediate leaves in rd (R90). -/
def shiftRule (op : ShiftOp) (a : Word) (k : Nat) (v : Word) : Prop :=
  match op with
  | .slli => v.toNat = a.toNat * 2 ^ k % 2 ^ 64
  | .srli => v.toNat = a.toNat / 2 ^ k
  | .srai => v.toInt = a.toInt / 2 ^ k
  | .rori => ∀ i, i < 64 → v.getLsbD i = a.getLsbD ((i + k) % 64)
  | .slliUw => v.toNat = a.toNat % 2 ^ 32 * 2 ^ k % 2 ^ 64

/-- What each shift of a word by an immediate leaves in rd (R90). -/
def shiftRule32 (op : ShiftOp32) (x : Word) (k : Nat) (v : Word) : Prop :=
  match op with
  | .slliw => v = sxw (x.toNat % 2 ^ 32 * 2 ^ k)
  | .srliw => v = sxw (x.toNat % 2 ^ 32 / 2 ^ k)
  | .sraiw => v.toInt = low32 x / 2 ^ k
  | .roriw => v = sxw v.toNat ∧ ∀ i, i < 32 → v.getLsbD i = x.getLsbD ((i + k) % 32)

/-- `n` is the number of leading zero bits among the low `w` bits. -/
def leadingZerosAre (a : Word) (w n : Nat) : Prop :=
  n ≤ w ∧ (∀ i, w - n ≤ i → i < w → a.getLsbD i = false) ∧ (n < w → a.getLsbD (w - 1 - n) = true)

/-- `n` is the number of trailing zero bits among the low `w` bits. -/
def trailingZerosAre (a : Word) (w n : Nat) : Prop :=
  n ≤ w ∧ (∀ i, i < n → a.getLsbD i = false) ∧ (n < w → a.getLsbD n = true)

/-- Byte `k` of a register. -/
def byteOf (a : Word) (k : Nat) : Nat := a.toNat / 256 ^ k % 256

/-- What each one-register operation leaves in rd (R90). -/
def unaryRule (op : UnaryOp) (a v : Word) : Prop :=
  match op with
  | .clz => leadingZerosAre a 64 v.toNat
  | .ctz => trailingZerosAre a 64 v.toNat
  | .cpop => v.toNat = ((List.range 64).filter (fun i => a.getLsbD i)).length
  | .sextB => v = (a.setWidth 8).signExtend 64
  | .sextH => v = (a.setWidth 16).signExtend 64
  | .orcB => ∀ k, k < 8 → byteOf v k = if byteOf a k = 0 then 0 else 255
  | .rev8 => ∀ k, k < 8 → byteOf v k = byteOf a (7 - k)
  | .clzw => leadingZerosAre a 32 v.toNat
  | .ctzw => trailingZerosAre a 32 v.toNat
  | .cpopw => v.toNat = ((List.range 32).filter (fun i => a.getLsbD i)).length
  | .zextH => v.toNat = a.toNat % 2 ^ 16

/-- When each branch is taken (R90). -/
def branchRule (op : BranchOp) (a b : Word) : Prop :=
  match op with
  | .beq => a = b
  | .bne => a ≠ b
  | .blt => a.toInt < b.toInt
  | .bge => b.toInt ≤ a.toInt
  | .bltu => a.toNat < b.toNat
  | .bgeu => b.toNat ≤ a.toNat

/-- The results of the floating-point words that read f or x registers only (R90). -/
def floatUpds (i : Rv) (w : Wave) : Option (List Upd) :=
  let f (n : BitVec 5) : Word := w.getF n.toNat
  let rm := rvRounding i w
  let toF (d : BitVec 5) (v : Word × BitVec 5) : Option (List Upd) := some [.f d.toNat v.1, .fflags v.2]
  let toX (d : BitVec 5) (v : Word × BitVec 5) : Option (List Upd) := some [.x d.toNat v.1, .fflags v.2]
  match i with
  | .fused .madd fm _ rd a b c => toF rd (fpRound fm rm ((fpVal fm (f a)).fma rm (fpVal fm (f b)) (fpVal fm (f c))))
  | .fused .msub fm _ rd a b c => toF rd (fpRound fm rm ((fpVal fm (f a)).fma rm (fpVal fm (f b)) (fpVal fm (f c)).neg))
  | .fused .nmsub fm _ rd a b c => toF rd (fpRound fm rm ((fpVal fm (f a)).neg.fma rm (fpVal fm (f b)) (fpVal fm (f c))))
  | .fused .nmadd fm _ rd a b c =>
    toF rd (fpRound fm rm ((fpVal fm (f a)).neg.fma rm (fpVal fm (f b)) (fpVal fm (f c)).neg))
  | .farith .add fm _ rd a b => toF rd (fpRound fm rm ((fpVal fm (f a)).add rm (fpVal fm (f b))))
  | .farith .sub fm _ rd a b => toF rd (fpRound fm rm ((fpVal fm (f a)).add rm (fpVal fm (f b)).neg))
  | .farith .mul fm _ rd a b => toF rd (fpRound fm rm ((fpVal fm (f a)).mul (fpVal fm (f b))))
  | .farith .div fm _ rd a b => toF rd (fpRound fm rm (Fv.div (fpFmt fm).prec (fpVal fm (f a)) (fpVal fm (f b))))
  | .fsqrt fm _ rd a => toF rd (fpRound fm rm (Fv.sqrt (fpFmt fm).prec (fpVal fm (f a))))
  | .fcvtFmt .s _ rd a => toF rd (fpRound .s rm (fpVal .d (f a)).raw)
  | .fcvtFmt .d _ rd a => toF rd (fpRound .d rm (fpVal .s (f a)).raw)
  | .fcvtToFp int fm _ rd a =>
    let x := w.getX a.toNat
    toF rd (fpRound fm rm (Fv.ofInt (match int with
      | .w => low32 x
      | .wu => ((x.toNat % 2 ^ 32 : Nat) : Int)
      | .l => x.toInt
      | .lu => (x.toNat : Int))).raw)
  | .fcvtToInt int fm _ rd a => toX rd (fpToInt int fm rm (f a))
  | .fminmax mx fm rd a b => toF rd (fpMinMax mx fm (f a) (f b))
  | .fcompare op fm rd a b => toX rd (fpCompare op fm (f a) (f b))
  | .fclass fm rd a => some [.x rd.toNat (fpClass fm (f a))]
  | .fsgnj op fm rd a b => some [.f rd.toNat (fpSign op fm (f a) (f b))]
  | .fmvToX .s rd a => some [.x rd.toNat (sxw (f a).toNat)]
  | .fmvToX .d rd a => some [.x rd.toNat (f a)]
  | .fmvToF .s rd a => some [.f rd.toNat (BitVec.ofNat 64 ((2 ^ 32 - 1) * 2 ^ 32 + (w.getX a.toNat).toNat % 2 ^ 32))]
  | .fmvToF .d rd a => some [.f rd.toNat (w.getX a.toNat)]
  | _ => none

/-- An aligned hart access of `n` bytes at `a` leads to device or host memory behind a home, and leaves `u` (R177, R178). -/
def hartTo (s : State) (k : AccKind) (a n : Nat) (u : State) (va : Nat) (t : Target) : Prop :=
  a % n = 0 ∧ a + n ≤ 2 ^ 49 ∧ s.resolve s.curCore s.curSlot s.wave .hart k a n = (u, .ok (.mem va t)) ∧
    (u.paKind t.pa = .dram ∨ u.paKind t.pa = .host)

/-- No data line of the acting core has dirty bytes, no release waits at a home, and the host holds no line of the device. -/
def settled (s : State) : Prop :=
  (∀ l ∈ (s.core s.curCore).laneL1 ++ (s.core s.curCore).hartData, l.dirty = 0) ∧ s.hostCopies = [] ∧
    ∀ d, (s.die d).reldir = []

/-- The wave and all registers of every core are as they were, the wave but for its reservation. -/
def hartKept (s q : State) (reservation : Option Nat) : Prop := keptBut s q { s.wave with reservation := reservation }

/-- Every byte of memory reads as before. -/
def sameMemory (s q : State) : Prop := ∀ a, Bytes.read q.mem a = Bytes.read s.mem a

/-- The effective address of a scalar load or store. -/
def effective (s : State) (a : BitVec 5) (imm : BitVec 12) : Nat := (s.wave.getX a.toNat + imm.signExtend 64).toNat

/-- Every byte of memory but the `n` from `pa` on reads as in `u`, and those read as the low bytes of `v`. -/
def storedAt (u t : State) (pa n v : Nat) : Prop :=
  (∀ k, k < n → (Bytes.read t.mem (pa + k)).toNat = v / 256 ^ k % 256) ∧
    (∀ b, b < pa ∨ pa + n ≤ b → Bytes.read t.mem b = Bytes.read u.mem b)

/-- What an AMO of `n` bytes leaves in memory, for the old value and the operand (R90). -/
def amoValue (op : AmoOp) (n old src : Nat) : Nat :=
  match op with
  | .add => (old + src) % 2 ^ (8 * n)
  | .swap => src
  | .and => old &&& src
  | .or => old ||| src
  | .xor => old ^^^ src
  | .min => if toSigned (8 * n) old ≤ toSigned (8 * n) src then old else src
  | .max => if toSigned (8 * n) old ≤ toSigned (8 * n) src then src else old
  | .minu => min old src
  | .maxu => max old src

/-- What a scalar part that names no memory leaves in its registers, with the operands of wave `w` (R71, R90). -/
def scalarRule (i : Rv) (w : Wave) (upds : List Upd) : Prop :=
  let x (n : BitVec 5) : Word := w.getX n.toNat
  let toX (d : BitVec 5) (p : Word → Prop) : Prop := ∃ v, p v ∧ upds = [.x d.toNat v]
  match i with
  | .op op d a b => toX d (intRule op (x a) (x b))
  | .op32 op d a b => toX d (intRule32 op (x a) (x b))
  | .opImm op d a imm => toX d (immRule op (x a) (imm.signExtend 64))
  | .addiw d a imm => toX d (fun v => v = sxw ((x a).toNat + (imm.signExtend 64 : Word).toNat))
  | .shiftImm op d a k => toX d (shiftRule op (x a) k.toNat)
  | .shiftImm32 op d a k => toX d (shiftRule32 op (x a) k.toNat)
  | .unary op d a => toX d (unaryRule op (x a))
  | .lui d imm => toX d (fun v => v = sxw (imm.toNat * 2 ^ 12))
  | .auipc d imm => toX d (fun v => v = w.pc + sxw (imm.toNat * 2 ^ 12))
  | _ => floatUpds i w = some upds

/-- Kind, effective address and size of the access of a scalar part (R90, R242). -/
def scalarAccess (i : Rv) (w : Wave) : Option (AccKind × Nat × Nat) :=
  let at' (a : BitVec 5) (imm : BitVec 12) : Nat := (w.getX a.toNat + imm.signExtend 64).toNat
  let wide (dw : Bool) : Nat := if dw then 8 else 4
  match i with
  | .load op _ a imm => some (.load, at' a imm, (loadShape op).1)
  | .store op a _ imm => some (.store, at' a imm, storeSize op)
  | .fload fm _ a imm => some (.load, at' a imm, wide (fm = .d))
  | .fstore fm a _ imm => some (.store, at' a imm, wide (fm = .d))
  | .lr dw _ _ _ a => some (.load, at' a 0, wide dw)
  | .sc dw _ _ _ a _ => some (.amo, at' a 0, wide dw)
  | .amo _ dw _ _ _ a _ => some (.amo, at' a 0, wide dw)
  | _ => none

/-- The result of a scalar part's load or atomic, still to come at own turn `due`. -/
def scalarPending (pc : Word) (la due : Nat) (l : Loc) (u : Upd) : PendingOp :=
  { pc := pc, la := la, since := 0, due := due, locs := liveLocs [l], upds := [u] }

/-- What the access of a scalar part does at physical address `pa`, from state `p` to `q`, with the operands of wave `w`: its
result, if any, the wave's reservation, and the bytes (R90, R242). -/
def scalarMemory (i : Rv) (w : Wave) (p q : State) (pa : Nat) (out : Option (Loc × Upd)) : Prop :=
  let wide (dw : Bool) : Nat := if dw then 8 else 4
  let signed (n v : Nat) : Word := BitVec.ofInt 64 (toSigned (8 * n) v)
  let loaded (n : Nat) (held : Option Nat) (l : Loc) (put : Nat → Upd) : Prop :=
    ∃ v, out = some (l, put v) ∧ hartKept p q held ∧ (settled p → v = Bytes.readLE p.mem pa n ∧ sameMemory p q)
  let stored (n : Nat) (v : Word) : Prop :=
    out = none ∧ hartKept p q p.wave.reservation ∧ (settled p → storedAt p q pa n v.toNat)
  match i with
  | .load op d _ _ =>
    let n := (loadShape op).1
    loaded n p.wave.reservation (.x d.toNat) (fun v => .x d.toNat (if (loadShape op).2 then signed n v else BitVec.ofNat 64 v))
  | .fload fm d _ _ =>
    loaded (wide (fm = .d)) p.wave.reservation (.f d.toNat)
      (fun v => .f d.toNat (BitVec.ofNat 64 (if fm = .s then (2 ^ 32 - 1) * 2 ^ 32 + v % 2 ^ 32 else v)))
  | .store op _ b _ => stored (storeSize op) (w.getX b.toNat)
  | .fstore fm _ b _ => stored (wide (fm = .d)) (w.getF b.toNat)
  | .lr dw _ _ d _ => loaded (wide dw) (some (pa / 64)) (.x d.toNat) (fun v => .x d.toNat (signed (wide dw) v))
  | .sc dw _ _ d _ b =>
    let holds := p.wave.reservation = some (pa / 64)
    out = some (.x d.toNat, .x d.toNat (oneIf (¬ holds))) ∧ hartKept p q none ∧ (¬ holds → sameMemory p q) ∧
      (holds → settled p → storedAt p q pa (wide dw) (w.getX b.toNat).toNat)
  | .amo op dw _ _ d _ b =>
    let n := wide dw
    ∃ old, out = some (.x d.toNat, .x d.toNat (signed n old)) ∧ hartKept p q p.wave.reservation ∧
      (settled p → old = Bytes.readLE p.mem pa n ∧
        storedAt p q pa n (amoValue op n old ((w.getX b.toNat).toNat % 2 ^ (8 * n))))
  | _ => False

/-- The result of a word of the compatibility unit by its function code, for x[rs1], x[rs2] and x[rd] (R76). -/
def compatRule (f : Nat) (a b d v : Word) : Prop :=
  let half (x : Word) (i : Nat) : Nat := x.toNat / 2 ^ (16 * i) % 2 ^ 16
  match f with
  | 0 => v.toInt = ((a >>> 16).setWidth 16).toInt * ((b >>> 16).setWidth 16).toInt
  | 1 => v.toNat = (b.toNat + half a 0 + half a 1 + half a 2 + half a 3) % 2 ^ 64
  | 2 => v = oneIf (low32 b ≤ a.toInt ∧ a.toInt ≤ ((b >>> 32).setWidth 32).toInt)
  | 3 => v.toInt = min (max a.toInt (-(2 ^ (b.toNat % 64)))) (2 ^ (b.toNat % 64) - 1)
  | 4 => ∀ i, i < 4 → half v i = half a (3 - i)
  | _ => ∀ k, k < 8 → byteOf v k = if k = b.toNat % 8 then byteOf a 0 else byteOf d k

/-- The retired forms, with their function codes (R76). -/
def retiredForms : List (Nat × (BitVec 5 → BitVec 5 → BitVec 5 → Instr)) := [
  (0, .lmulhh), (1, .lsumh), (2, .linrng), (3, .lsatw), (4, fun _ a d => .lrevh a d), (5, .linsb)]

/-- The encoding of a scalar instruction. -/
def wordOf (i : Instr) : BitVec 32 := (encodeScalar i).getD 0

end Sys2Proof.Claims

/-! ## RISC-V and system words -/

/-- R61, R90: every base integer word completes with rd at the manual's value; jumps and taken branches go to their target, and
one to a misaligned target raises cause 0. -/
def Obligations.ScalarResultsAndJumps : Prop :=
  ((∀ (op : IntOp) (d a b : BitVec 5) (s : State), rvOpen (.op op d a b) s = true →
     ∃ v, intRule op (s.wave.getX a.toNat) (s.wave.getX b.toNat) v ∧
       Completes (.riscvScalarInstruction (.op op d a b)) s (s.afterX d v)) ∧
   (∀ (op : IntOp32) (d a b : BitVec 5) (s : State), rvOpen (.op32 op d a b) s = true →
     ∃ v, intRule32 op (s.wave.getX a.toNat) (s.wave.getX b.toNat) v ∧
       Completes (.riscvScalarInstruction (.op32 op d a b)) s (s.afterX d v)) ∧
   (∀ (op : ImmOp) (d a : BitVec 5) (imm : BitVec 12) (s : State), rvOpen (.opImm op d a imm) s = true →
     ∃ v, immRule op (s.wave.getX a.toNat) (imm.signExtend 64) v ∧
       Completes (.riscvScalarInstruction (.opImm op d a imm)) s (s.afterX d v)) ∧
   (∀ (d a : BitVec 5) (imm : BitVec 12) (s : State), rvOpen (.addiw d a imm) s = true →
     Completes (.riscvScalarInstruction (.addiw d a imm)) s
       (s.afterX d (sxw ((s.wave.getX a.toNat).toNat + (imm.signExtend 64 : Word).toNat)))) ∧
   (∀ (op : ShiftOp) (d a : BitVec 5) (k : BitVec 6) (s : State), rvOpen (.shiftImm op d a k) s = true →
     ∃ v, shiftRule op (s.wave.getX a.toNat) k.toNat v ∧
       Completes (.riscvScalarInstruction (.shiftImm op d a k)) s (s.afterX d v)) ∧
   (∀ (op : ShiftOp32) (d a k : BitVec 5) (s : State), rvOpen (.shiftImm32 op d a k) s = true →
     ∃ v, shiftRule32 op (s.wave.getX a.toNat) k.toNat v ∧
       Completes (.riscvScalarInstruction (.shiftImm32 op d a k)) s (s.afterX d v)) ∧
   (∀ (op : UnaryOp) (d a : BitVec 5) (s : State), rvOpen (.unary op d a) s = true →
     ∃ v, unaryRule op (s.wave.getX a.toNat) v ∧
       Completes (.riscvScalarInstruction (.unary op d a)) s (s.afterX d v)) ∧
   (∀ (d : BitVec 5) (imm : BitVec 20) (s : State), rvOpen (.lui d imm) s = true →
     Completes (.riscvScalarInstruction (.lui d imm)) s (s.afterX d (sxw (imm.toNat * 2 ^ 12)))) ∧
   (∀ (d : BitVec 5) (imm : BitVec 20) (s : State), rvOpen (.auipc d imm) s = true →
     Completes (.riscvScalarInstruction (.auipc d imm)) s (s.afterX d (s.wave.pc + sxw (imm.toNat * 2 ^ 12))))) ∧
  ((∀ (i : Rv) (d : BitVec 5) (target : Word) (s : State), rvOpen i s = true →
     ((∃ off, i = .jal d off ∧ target = s.wave.pc + BitVec.ofInt 64 (2 * off.toInt)) ∨
       (∃ a imm, i = .jalr d a imm ∧
         target = BitVec.ofNat 64 ((s.wave.getX a.toNat + imm.signExtend 64).toNat / 2 * 2))) →
     (target.toNat % 4 = 0 →
       Completes (.riscvScalarInstruction i) s ((s.issuedTo target).modWave (fun w => w.setX d.toNat (s.wave.pc + 4)))) ∧
     (target.toNat % 4 ≠ 0 → exec (.riscvScalarInstruction i) s = (Issue.trap 0 target s).finish)) ∧
   (∀ (op : BranchOp) (a b : BitVec 5) (off : BitVec 12) (s : State), rvOpen (.branch op a b off) s = true →
     let target := s.wave.pc + BitVec.ofInt 64 (2 * off.toInt)
     let taken := branchRule op (s.wave.getX a.toNat) (s.wave.getX b.toNat)
     (taken → target.toNat % 4 = 0 → Completes (.riscvScalarInstruction (.branch op a b off)) s (s.issuedTo target)) ∧
     (taken → target.toNat % 4 ≠ 0 →
       exec (.riscvScalarInstruction (.branch op a b off)) s = (Issue.trap 0 target s).finish) ∧
     (¬ taken → Completes (.riscvScalarInstruction (.branch op a b off)) s (s.issuedTo (s.wave.pc + 4)))))

/-- R90: each floating-point register word completes with its rounded result and flags, and leaves FS Dirty where it
writes an f register or a flag; with FS Off it raises illegal instruction. -/
def Obligations.ScalarFloatResults : Prop :=
  ∀ (i : Rv) (s : State) (upds : List Upd), floatUpds i s.wave = some upds →
    (rvOpen i s = true →
      Completes (.riscvScalarInstruction i) s (s.afterWord 4 upds) ∧
      (upds.any (fun u => match u with
        | .f _ _ => true
        | .fflags b => b ≠ 0
        | _ => false) = true → fld (s.afterWord 4 upds).wave.csrs.mstatus 14 13 = 3)) ∧
    (s.canIssue = true → fld s.wave.csrs.mstatus 14 13 = 0 →
      exec (.riscvScalarInstruction i) s = (Issue.trap 2 ((encodeRv i).setWidth 64) s).finish)

/-- R90, R177, R242: a misaligned scalar access traps with cause 4 or 6; an aligned one to memory completes: a load with
the bytes at its physical address, zero- or sign-extended or boxed, a store with exactly its bytes replaced there; no other byte
and no other register changes. The bytes are stated where no line of the core waits to be written back. -/
def Obligations.ScalarLoadsStores : Prop :=
  (∀ (op : LoadOp) (d a : BitVec 5) (imm : BitVec 12) (s : State), rvOpen (.load op d a imm) s = true →
    let ea := effective s a imm
    let n := (loadShape op).1
    (ea % n ≠ 0 → exec (.riscvScalarInstruction (.load op d a imm)) s = (Issue.trap 4 (BitVec.ofNat 64 ea) s).finish) ∧
    (∀ (u : State) (va : Nat) (t : Target), hartTo s .load ea n u va t →
      ∃ (q : State) (v : Nat), Completes (.riscvScalarInstruction (.load op d a imm)) s
          (q.afterLong 4 0 s.lat.l2 (liveLocs [.x d.toNat])
            [.x d.toNat (if (loadShape op).2 then BitVec.ofInt 64 (toSigned (8 * n) v) else BitVec.ofNat 64 v)]) ∧
        hartKept s q s.wave.reservation ∧
        (settled s → v = Bytes.readLE s.mem t.pa n ∧ sameMemory s q))) ∧
  (∀ (op : StoreOp) (a b : BitVec 5) (imm : BitVec 12) (s : State), rvOpen (.store op a b imm) s = true →
    let ea := effective s a imm
    let n := storeSize op
    (ea % n ≠ 0 → exec (.riscvScalarInstruction (.store op a b imm)) s = (Issue.trap 6 (BitVec.ofNat 64 ea) s).finish) ∧
    (∀ (u : State) (va : Nat) (t : Target), hartTo s .store ea n u va t →
      ∃ q : State, Completes (.riscvScalarInstruction (.store op a b imm)) s (q.issued 4) ∧
        hartKept s q s.wave.reservation ∧ (settled s → storedAt s q t.pa n (s.wave.getX b.toNat).toNat))) ∧
  (∀ (fm : FpFmt) (d a : BitVec 5) (imm : BitVec 12) (s : State), rvOpen (.fload fm d a imm) s = true →
    let ea := effective s a imm
    let n := if fm = .s then 4 else 8
    (ea % n ≠ 0 → exec (.riscvScalarInstruction (.fload fm d a imm)) s = (Issue.trap 4 (BitVec.ofNat 64 ea) s).finish) ∧
    (∀ (u : State) (va : Nat) (t : Target), hartTo s .load ea n u va t →
      ∃ (q : State) (v : Nat), Completes (.riscvScalarInstruction (.fload fm d a imm)) s
          (q.afterLong 4 0 s.lat.l2 [.f d.toNat]
            [.f d.toNat (if fm = .s then BitVec.ofNat 64 ((2 ^ 32 - 1) * 2 ^ 32 + v % 2 ^ 32) else BitVec.ofNat 64 v)]) ∧
        hartKept s q s.wave.reservation ∧
        (settled s → v = Bytes.readLE s.mem t.pa n ∧ sameMemory s q))) ∧
  (∀ (fm : FpFmt) (a b : BitVec 5) (imm : BitVec 12) (s : State), rvOpen (.fstore fm a b imm) s = true →
    let ea := effective s a imm
    let n := if fm = .s then 4 else 8
    (ea % n ≠ 0 → exec (.riscvScalarInstruction (.fstore fm a b imm)) s = (Issue.trap 6 (BitVec.ofNat 64 ea) s).finish) ∧
    (∀ (u : State) (va : Nat) (t : Target), hartTo s .store ea n u va t →
      ∃ q : State, Completes (.riscvScalarInstruction (.fstore fm a b imm)) s (q.issued 4) ∧
        hartKept s q s.wave.reservation ∧ (settled s → storedAt s q t.pa n (s.wave.getF b.toNat).toNat)))

/-- R90, R219, R242: an LR that leads to memory answers the bytes there and reserves their 64-byte block; an SC whose block the
wave holds writes its bytes and answers 0, otherwise it writes nothing and answers 1, and it ends the reservation either way; an
AMO answers the old value and writes the operation's result. Each does so under every aq and rl, where a release has no active
message to wait for; no other byte and no other register changes. The bytes are stated where no line of the core waits to be
written back. -/
def Obligations.ScalarAtomics : Prop :=
  (∀ (dw aq rl : Bool) (d a : BitVec 5) (s u : State) (va : Nat) (t : Target),
    let i : Rv := .lr dw aq rl d a
    let n := if dw then 8 else 4
    rvOpen i s = true → (rl = true → s.messagesOut s.curCore s.curSlot = false) →
    hartTo s .load (s.wave.getX a.toNat).toNat n u va t →
    ∃ (q : State) (v : Nat), Completes (.riscvScalarInstruction i) s
        (q.afterLong 4 0 s.lat.l2 (liveLocs [.x d.toNat]) [.x d.toNat (BitVec.ofInt 64 (toSigned (8 * n) v))]) ∧
      hartKept s q (some (t.pa / 64)) ∧ (settled s → v = Bytes.readLE s.mem t.pa n ∧ sameMemory s q)) ∧
  (∀ (dw aq rl : Bool) (d a b : BitVec 5) (s u : State) (va : Nat) (t : Target),
    let i : Rv := .sc dw aq rl d a b
    let n := if dw then 8 else 4
    let holds := s.wave.reservation = some (t.pa / 64)
    rvOpen i s = true → (rl = true → s.messagesOut s.curCore s.curSlot = false) →
    hartTo s .amo (s.wave.getX a.toNat).toNat n u va t →
    ∃ q : State, Completes (.riscvScalarInstruction i) s
        (q.afterLong 4 0 s.lat.l2 (liveLocs [.x d.toNat]) [.x d.toNat (oneIf (¬ holds))]) ∧
      hartKept s q none ∧ (¬ holds → sameMemory s q) ∧
      (holds → settled s → storedAt s q t.pa n (s.wave.getX b.toNat).toNat)) ∧
  (∀ (op : AmoOp) (dw aq rl : Bool) (d a b : BitVec 5) (s u : State) (va : Nat) (t : Target),
    let i : Rv := .amo op dw aq rl d a b
    let n := if dw then 8 else 4
    rvOpen i s = true → (rl = true → s.messagesOut s.curCore s.curSlot = false) →
    hartTo s .amo (s.wave.getX a.toNat).toNat n u va t →
    ∃ (q : State) (old : Nat), Completes (.riscvScalarInstruction i) s
        (q.afterLong 4 0 s.lat.l2 (liveLocs [.x d.toNat]) [.x d.toNat (BitVec.ofInt 64 (toSigned (8 * n) old))]) ∧
      hartKept s q s.wave.reservation ∧
      (settled s →
        let src := (s.wave.getX b.toNat).toNat % 2 ^ (8 * n)
        old = Bytes.readLE s.mem t.pa n ∧
        storedAt s q t.pa n (amoValue op n old src))) ∧
  (∀ (i : Rv) (dw aq rl : Bool) (d a b : BitVec 5) (s : State),
    let n := if dw then 8 else 4
    rvOpen i s = true → (s.wave.getX a.toNat).toNat % n ≠ 0 →
    (i = .lr dw aq rl d a → exec (.riscvScalarInstruction i) s = (Issue.trap 4 (s.wave.getX a.toNat) s).finish) ∧
    ((i = .sc dw aq rl d a b ∨ ∃ op, i = .amo op dw aq rl d a b) →
      exec (.riscvScalarInstruction i) s = (Issue.trap 6 (s.wave.getX a.toNat) s).finish))

namespace Sys2Proof.Claims

/-- What a write leaves in the status, interrupt and trap registers of the privileged architecture (R90, R158, R161). The
masks of `mie` and of the counter enables are the model's reading (log 14), a reserved trap-vector mode read back as Direct
is the model's choice (log 67), and an MPP of 2 keeps the old one as the privileged specification's WARL field may. -/
def trapCsrRule (s : State) (w : Wave) (v : Word) : Prop :=
  let c := w.csrs
  let at' (n m : Nat) : Word := s.csrRead (w.csrWrite n v) m
  (∀ b ∈ [1, 3, 5, 7, 8, 13, 14, 17, 18, 19, 20, 21, 22], (at' 0x300 0x300).getLsbD b = v.getLsbD b) ∧
  fld (at' 0x300 0x300) 12 11 = (if fld v 12 11 = 2 then fld c.mstatus 12 11 else fld v 12 11) ∧
  (∀ b ∈ [1, 5, 8, 13, 14, 18, 19], (at' 0x100 0x100).getLsbD b = v.getLsbD b) ∧
  (∀ b ∈ [3, 7, 17, 20, 21, 22], (at' 0x100 0x300).getLsbD b = c.mstatus.getLsbD b) ∧
  at' 0x302 0x302 = v &&& 0x3DF00009700B3FF ∧ at' 0x303 0x303 = v &&& 0x22 ∧ at' 0x304 0x304 = v &&& 0xAAA ∧
  at' 0x104 0x104 &&& 0xAAA = v &&& c.mideleg &&& 0xAAA ∧ at' 0x104 0x304 &&& ~~~c.mideleg = c.mie &&& ~~~c.mideleg ∧
  at' 0x344 0x344 = (c.mip &&& ~~~2#64) ||| (v &&& 2) ∧
  at' 0x144 0x344 = (c.mip &&& ~~~(c.mideleg &&& 2)) ||| (v &&& c.mideleg &&& 2) ∧
  at' 0x305 0x305 = (if v.getLsbD 1 then v &&& ~~~3#64 else v) ∧
  at' 0x105 0x105 = (if v.getLsbD 1 then v &&& ~~~3#64 else v) ∧
  at' 0x306 0x306 = v &&& 0xFFFFFFFF ∧ at' 0x106 0x106 = v &&& 0xFFFFFFFF

/-- What a write leaves in `fflags`, `frm`, `nround`, `lastat`, the mask, the mask stack's window, `mdomfault` and `mracefault`
(R42, R90, R93 to R95, R101, R102). -/
def flagCsrRule (s : State) (w : Wave) (v : Word) : Prop :=
  let c := w.csrs
  let at' (n m : Nat) : Word := s.csrRead (w.csrWrite n v) m
  let shown := (w.stack.toList.getD (fld c.mstksel 4 0) {}).mask
  at' 1 1 = v &&& 0x1F ∧ at' 1 2 = s.csrRead w 2 ∧ at' 2 2 = v &&& 7 ∧ at' 2 1 = s.csrRead w 1 ∧
  (∀ n ∈ [1, 2, 3], fld (w.csrWrite n v).csrs.mstatus 14 13 = 3) ∧
  fld (at' 0x800 0x800) 11 8 = fld c.nround 11 8 &&& (15 - fld v 11 8) ∧
  (at' 0x800 0x800).getLsbD 5 = v.getLsbD 5 ∧
  fld (at' 0x800 0x800) 4 3 = (if fld v 4 3 = 3 then 0 else fld v 4 3) ∧
  fld (at' 0x800 0x800) 2 0 = (if 4 < fld v 2 0 then 0 else fld v 2 0) ∧
  at' 0x800 0x800 &&& ~~~0xF3F#64 = 0 ∧
  at' 0x801 0x801 = c.lastat &&& ~~~v &&& 1 ∧
  (w.csrWrite 0x803 v).amask = ((v.setWidth 128 <<< 64) ||| (w.amask.setWidth 64).setWidth 128) &&& w.wm ∧
  at' 0x806 0x806 = v &&& w.wm.setWidth 64 ∧ at' 0x806 0x807 = ((shown &&& w.wm) >>> 64).setWidth 64 ∧
  at' 0x807 0x807 = v &&& (w.wm >>> 64).setWidth 64 ∧ at' 0x807 0x806 = (shown &&& w.wm).setWidth 64 ∧
  at' 0x808 0x808 = v &&& 0xC001FFFFFFFFFFFC ∧
  (∀ n ∈ [0x806, 0x807, 0x808], ∀ k, k ≠ fld c.mstksel 4 0 →
    (w.csrWrite n v).stack.toList.getD k {} = w.stack.toList.getD k {}) ∧
  at' 0x7C3 0x7C3 = v &&& 0x1FFFFFFF ∧ at' 0x7C4 0x7C4 = v &&& 0x7FFFFFFFF

end Sys2Proof.Claims

/-- R90 to R97, R101, R102, R42: the CSR words answer the old value and write the new one; a write of each writable register
leaves the bits it keeps and changes no other register; `sfence.vma` and `fence` complete, and `ebreak` raises cause 3. -/
def Obligations.CsrAndFenceWords : Prop :=
  ((∀ (op : CsrOp) (d a : BitVec 5) (n : BitVec 12) (s : State), rvOpen (.csr op d a n) s = true →
     let old := s.csrRead s.wave n.toNat
     let src := s.wave.getX a.toNat
     Completes (.riscvScalarInstruction (.csr op d a n)) s
       (if op ≠ .rw ∧ a = 0 then s.afterX d old
       else (s.afterX d old).modWave (fun q => q.csrWrite n.toNat (match op with
         | .rw => src
         | .rs => old ||| src
         | .rc => old &&& ~~~src)))) ∧
   (∀ (op : CsrOp) (d u : BitVec 5) (n : BitVec 12) (s : State), rvOpen (.csrImm op d u n) s = true →
     let old := s.csrRead s.wave n.toNat
     let src : Word := BitVec.ofNat 64 u.toNat
     Completes (.riscvScalarInstruction (.csrImm op d u n)) s
       (if op ≠ .rw ∧ u = 0 then s.afterX d old
       else (s.afterX d old).modWave (fun q => q.csrWrite n.toNat (match op with
         | .rw => src
         | .rs => old ||| src
         | .rc => old &&& ~~~src)))) ∧
   (∀ (a b : BitVec 5) (s : State), rvOpen (.sfenceVma a b) s = true →
     Completes (.riscvScalarInstruction (.sfenceVma a b)) s (s.issued 4)) ∧
   (∀ (d a : BitVec 5) (imm : BitVec 12) (s : State), rvOpen (.fence d a imm) s = true →
     s.messagesOut s.curCore s.curSlot = false →
     Completes (.riscvScalarInstruction (.fence d a imm)) s ((s.wideFence s.curCore s.wave.dom).issued 4)) ∧
   (∀ (s : State), rvOpen .ebreak s = true →
     exec (.riscvScalarInstruction .ebreak) s = (Issue.trap 3 s.wave.pc s).finish)) ∧
  ((∀ (w : Wave) (v : Word) (n : Nat),
     n ∈ [0x140, 0x142, 0x143, 0x340, 0x342, 0x343, 0xB02, 0x5C0, 0x5C1, 0x5C2, 0x7C0, 0x7C1] →
     ∀ s : State, s.csrRead (w.csrWrite n v) n = v) ∧
   (∀ (w : Wave) (v : Word) (s : State),
     s.csrRead (w.csrWrite 0x341 v) 0x341 = v &&& ~~~3#64 ∧ s.csrRead (w.csrWrite 0x141 v) 0x141 = v &&& ~~~3#64 ∧
     s.csrRead (w.csrWrite 0x805 v) 0x805 = v &&& 0x1F ∧ s.csrRead (w.csrWrite 0x7C5 v) 0x7C5 = v &&& 1 ∧
     s.csrRead (w.csrWrite 0x5C4 v) 0x5C4 = v &&& 0xFFFFFFFF ∧ s.csrRead (w.csrWrite 0x7C2 v) 0x7C2 = v &&& 0x1FFFF ∧
     s.csrRead (w.csrWrite 3 v) 3 = v &&& 0xFF ∧
     (s.csrRead (w.csrWrite 0x804 v) 0x804).toNat = min (v.toNat % 64) 32 ∧
     (w.csrWrite 0x802 v).amask = ((w.amask >>> 64 <<< 64) ||| v.setWidth 128) &&& w.wm ∧
     (w.csrWrite 0x5C0 v).csrs.mip.getLsbD 5 = decide (v.toNat ≤ w.csrs.turn.toNat)) ∧
   (∀ (w : Wave) (v : Word) (s : State), trapCsrRule s w v ∧ flagCsrRule s w v) ∧
   (∀ (w : Wave) (v : Word) (n : Nat), n ∈ [0x301, 0x180, 0xB00, 0xF11, 0xF12, 0xF13, 0xF14, 0xCC0, 0xCC1, 0xCC2, 0xFC0] →
     w.csrWrite n v = w) ∧
   (∀ (w : Wave) (v : Word) (n : Nat), let q := w.csrWrite n v
     q = { w with csrs := q.csrs, amask := q.amask, stack := q.stack } ∧ q.csrs.turn = w.csrs.turn ∧
       q.csrs.wid = w.csrs.wid ∧ q.csrs.did = w.csrs.did ∧ q.csrs.sgate = w.csrs.sgate ∧
       q.amask &&& ~~~w.wm = w.amask &&& ~~~w.wm &&& (if n = 0x802 ∨ n = 0x803 then 0 else BitVec.allOnes 128)))

/-- R156, R169: trap entry, and `ecall` as its one cause raised by a word that always traps. The mode, saved registers,
status and mask change as the manual lists, and nothing else of the wave's architectural state does. -/
def Obligations.TrapEntry : Prop :=
  (∀ (w : Wave) (intr : Bool) (cause : Nat) (tval epc : Word), cause < 64 → epc.toNat % 4 = 0 →
    let q := w.trapEntry intr cause tval epc
    let toS := decide (w.mode ≠ .m) && (if intr then w.csrs.mideleg else w.csrs.medeleg).getLsbD cause
    let tvec := if toS then w.csrs.stvec else w.csrs.mtvec
    let low : Word := w.amask.setWidth 64
    let high : Word := (w.amask >>> 64).setWidth 64
    let word : Word := BitVec.ofNat 64 (cause + (if intr then 2 ^ 63 else 0))
    q.mode = (if toS then .s else .m) ∧
    q.pc = (tvec &&& ~~~3#64) + (if intr && tvec.getLsbD 0 then BitVec.ofNat 64 (4 * cause) else 0) ∧
    q.amask = w.wm ∧ q.reservation = none ∧ (∀ o ∈ q.pending, o.la = 0) ∧ q.pending.length = w.pending.length ∧
    q.csrs = (if toS then
        { w.csrs with
          mstatus := q.csrs.mstatus, sepc := epc, scause := word, stval := tval, samask0 := low, samask1 := high }
      else
        { w.csrs with
          mstatus := q.csrs.mstatus, mepc := epc, mcause := word, mtval := tval, mamask0 := low, mamask1 := high }) ∧
    (toS = true → q.csrs.mstatus.getLsbD 5 = w.csrs.mstatus.getLsbD 1 ∧ q.csrs.mstatus.getLsbD 1 = false ∧
      q.csrs.mstatus.getLsbD 8 = decide (w.mode = .s) ∧
      ∀ i, i ≠ 1 → i ≠ 5 → i ≠ 8 → q.csrs.mstatus.getLsbD i = w.csrs.mstatus.getLsbD i) ∧
    (toS = false → q.csrs.mstatus.getLsbD 7 = w.csrs.mstatus.getLsbD 3 ∧ q.csrs.mstatus.getLsbD 3 = false ∧
      fld q.csrs.mstatus 12 11 = (match w.mode with
        | .u => 0
        | .s => 1
        | .m => 3) ∧
      ∀ i, i ≠ 3 → i ≠ 7 → i ≠ 11 → i ≠ 12 → q.csrs.mstatus.getLsbD i = w.csrs.mstatus.getLsbD i) ∧
    q = { w with
      mode := q.mode, pc := q.pc, amask := q.amask, reservation := none, pending := q.pending, csrs := q.csrs, wait := none,
      busy := none }) ∧
  (∀ s : State, baseOpen [] s = true →
    exec .ecall s = .next { s.modSlot (fun k =>
      { k with
        state := .running,
        wave := k.wave.trapEntry false (match s.wave.mode with
          | .u => 8
          | .s => 9
          | .m => 11) 0 s.wave.pc }) with verdict := .raised })

/-- R98, R157: `mret` and `sret` where they are legal return to the saved mode, address, status and mask, and close every
window; elsewhere they raise illegal instruction. -/
def Obligations.Returns : Prop :=
  (∀ s : State, baseOpen [.amask] s = true →
    (s.wave.mode = .m →
      ∃ t, exec .mret s = .next t ∧
        t.wave.pc = s.wave.csrs.mepc &&& ~~~3#64 ∧
        t.wave.mode = (match fld s.wave.csrs.mstatus 12 11 with
          | 0 => .u
          | 1 => .s
          | _ => .m) ∧
        t.wave.amask = (s.wave.csrs.mamask1.setWidth 128 <<< 64 ||| s.wave.csrs.mamask0.setWidth 128) &&& s.wave.wm ∧
        t.wave.csrs.mstatus.getLsbD 3 = s.wave.csrs.mstatus.getLsbD 7 ∧ t.wave.csrs.mstatus.getLsbD 7 = true ∧
        fld t.wave.csrs.mstatus 12 11 = 0 ∧
        t.wave.csrs.mstatus.getLsbD 17 = (s.wave.csrs.mstatus.getLsbD 17 && decide (t.wave.mode = .m)) ∧
        (∀ i, i ≠ 3 → i ≠ 7 → i ≠ 11 → i ≠ 12 → i ≠ 17 →
          t.wave.csrs.mstatus.getLsbD i = s.wave.csrs.mstatus.getLsbD i) ∧
        (∀ o ∈ t.wave.pending, o.la = 0) ∧ t.wave.x = s.wave.x ∧ t.mem = s.mem) ∧
    (s.wave.mode ≠ .m → exec .mret s = (Issue.trap 2 0x30200073 s).finish)) ∧
  (∀ s : State, baseOpen [.amask] s = true →
    (s.wave.mode = .m ∨ (s.wave.mode = .s ∧ s.wave.csrs.mstatus.getLsbD 22 = false) →
      ∃ t, exec .sret s = .next t ∧
        t.wave.pc = s.wave.csrs.sepc &&& ~~~3#64 ∧
        t.wave.mode = (if s.wave.csrs.mstatus.getLsbD 8 then .s else .u) ∧
        t.wave.amask = (s.wave.csrs.samask1.setWidth 128 <<< 64 ||| s.wave.csrs.samask0.setWidth 128) &&& s.wave.wm ∧
        t.wave.csrs.mstatus.getLsbD 1 = s.wave.csrs.mstatus.getLsbD 5 ∧ t.wave.csrs.mstatus.getLsbD 5 = true ∧
        t.wave.csrs.mstatus.getLsbD 8 = false ∧ t.wave.csrs.mstatus.getLsbD 17 = false ∧
        (∀ i, i ≠ 1 → i ≠ 5 → i ≠ 8 → i ≠ 17 → t.wave.csrs.mstatus.getLsbD i = s.wave.csrs.mstatus.getLsbD i) ∧
        (∀ o ∈ t.wave.pending, o.la = 0) ∧ t.wave.x = s.wave.x ∧ t.mem = s.mem) ∧
    (s.wave.mode = .u ∨ (s.wave.mode = .s ∧ s.wave.csrs.mstatus.getLsbD 22 = true) →
      exec .sret s = (Issue.trap 2 0x10200073 s).finish))

/-- R32, R168, R243, R214, R244, R245: `yield`, `end`, `wfi` and the fences complete with what they order; `waita` on an open
location answers the value read where it differs from the expected one, and otherwise waits, watching the physical address. -/
def Obligations.WaveAndFenceWords : Prop :=
  ((∀ s : State, s.wordReady 0 [] = true →
     Completes .yield s ((s.issued 4).beginWait .yield) ∧
     (s.wave.gdepth = 0 → Completes .waveEnd s ((s.issued 4).retire s.curCore s.curSlot) ∧
       ∃ t, exec .waveEnd s = .next t ∧ t.slot.state = .retiring ∧ t.slot.prq = false ∧ t.wave.locks = 0 ∧
         t.wave.reservation = none ∧ t.wave.csrs.mip = 0 ∧ t.wave.deferred = [] ∧ t.wave.pending.length = s.wave.pending.length) ∧
     (s.wave.gdepth ≠ 0 → exec .waveEnd s = (Issue.trap 57 0 s).finish)) ∧
   (∀ s : State, baseOpen [] s = true → Completes .wfi s (s.issued 4)) ∧
   (∀ (d a : BitVec 5) (imm : BitVec 12) (s : State), baseOpen [] s = true →
     ∃ u : State, Completes (.fenceI d a imm) s (u.issued 4) ∧ u.wave = { s.wave with fetchBuf := none } ∧
       (∀ l ∈ (u.core s.curCore).icache, l.dom ≠ s.wave.dom) ∧
       (∀ l ∈ (u.core s.curCore).laneL1, l.dom = s.wave.dom → l.dirty = 0)) ∧
   (∀ (sc : BitVec 3) (s : State), s.wordReady 0 [] = true → sc.toNat ≤ 4 → releaseHeld true sc.toNat s = false →
     (s.wideScope sc.toNat = false → Completes (.fenceScope sc) s (s.issued 4)) ∧
     (s.wideScope sc.toNat = true →
       ∃ u : State, Completes (.fenceScope sc) s (u.issued 4) ∧ u.wave = s.wave ∧
         ∀ l ∈ (u.core s.curCore).laneL1, l.dom ≠ s.wave.dom)) ∧
   (∀ (p : BitVec 5) (s : State), s.wordReady 0 [] = true → p ≠ 0 →
     ∃ u : State, Completes (.pfence p) s (u.issued 4) ∧
       u.wave = { s.wave with fetchBuf := if p.getLsbD 4 then none else s.wave.fetchBuf } ∧
       (p.getLsbD 0 = true → ∀ l ∈ (u.core s.curCore).laneL1, l.dom ≠ s.wave.dom) ∧
       (p.getLsbD 1 = true → ∀ l ∈ (u.core s.curCore).constCache, l.dom ≠ s.wave.dom) ∧
       (p.getLsbD 2 = true → ∀ l ∈ (u.core s.curCore).samplerCache, l.dom ≠ s.wave.dom) ∧
       (p.getLsbD 4 = true → ∀ l ∈ (u.core s.curCore).icache, l.dom ≠ s.wave.dom))) ∧
  (∀ (sc : BitVec 3) (b a d : BitVec 5) (s u q : State) (t : Dest) (pa v : Nat),
     let ctl := s.wave.getX d.toNat
     let win := ctl.getLsbD 33
     let n := if ctl.getLsbD 32 then 4 else 8
     let ea := (s.wave.getX a.toNat).toNat
     let e := (s.wave.getX b.toNat).toNat % 2 ^ (8 * n)
     let limit := ctl.toNat % 2 ^ 32
     let turn := s.wave.csrs.turn.toNat
     s.wordReady 0 (xLocs [a, b, d]) = true → sc.toNat ≤ 4 →
     (ea % n ≠ 0 → exec (.waita sc b a d) s = (Issue.trap 4 (BitVec.ofNat 64 ea) s).finish) ∧
     (s.messagesOut s.curCore s.curSlot = false → (memOwn win .load n [ea] s).isNone = true →
       (memAfter win .load n [ea] s).isNone = true → waitaDest s win ea n = (u, .ok (t, pa)) →
       waitaRead u (u.wideScope sc.toNat) n t = (q, .ok v) →
       (v ≠ e → Completes (.waita sc b a d) s (q.afterX d (BitVec.ofNat 64 v))) ∧
       (∀ p z x r start, s.wave.wait = some { kind := .waita p z x r, start := start } → limit ≠ 0 → start + limit ≤ turn →
         Completes (.waita sc b a d) s (q.afterX d (BitVec.ofNat 64 v))) ∧
       (v = e → limit = 0 → exec (.waita sc b a d) s =
         .next { q.beginWait (.waita pa ea (BitVec.ofNat 64 e) (turn + 64)) with verdict := .notIssued })))

/-- R34, R60, R69, R74, R76, R77, R296: a retired form goes to the die's unit, which answers the value the manual gives, and
raises cause 54 where it is refused; a word no instruction has, a lane word of any major or a paired word of no legal form or
above its budget or profile, and an illegal scalar word raise illegal instruction with the word in xtval. -/
def Obligations.RetiredAndIllegalWords : Prop :=
  (∀ f ∈ retiredForms, ∀ (b a d : BitVec 5) (s : State),
     let i := f.2 b a d
     let die := dieOf s.curCore
     let b' := if f.1 = 4 then 0 else b
     let req : CompatReq :=
       { core := s.curCore, slot := s.curSlot, word := wordOf i, rs1 := s.wave.getX a.toNat, rs2 := s.wave.getX b'.toNat,
         rd := s.wave.getX d.toNat }
     baseOpen (xLocs [a, b', d]) s = true →
     (s.wave.busy = none → (s.die die).compat.length < 64 →
       ∃ t, exec i s = .next t ∧ t.verdict = .notIssued ∧ req ∈ (t.die die).compat ∧
         t.wave = { s.wave with busy := some (.compat (wordOf i) none) }) ∧
     (∀ v, s.wave.busy = some (.compat (wordOf i) (some v)) → Completes i s (s.afterX d v)) ∧
     (s.wave.busy = some (.refused (wordOf i)) →
       ∃ t, exec i s = .next t ∧ t.wave.csrs.mcause = (if t.wave.mode = .m then 54 else s.wave.csrs.mcause) ∧
         (t.wave.mode = .s → t.wave.csrs.scause = 54 ∧ t.wave.csrs.stval = (wordOf i).setWidth 64) ∧
         (t.wave.mode = .m → t.wave.csrs.mtval = (wordOf i).setWidth 64)) ∧
     (∀ u rest, (u.die u.args.a).compat = req :: rest → (u.slotAt req.core req.slot).wave.busy = some (.compat req.word none) →
       (u.cfg.compat = true → ∃ t v, exec .compatRequestService u = .next t ∧ compatRule f.1 req.rs1 req.rs2 req.rd v ∧
         (t.die u.args.a).compat = rest ∧ (t.slotAt req.core req.slot).wave =
           { (u.slotAt req.core req.slot).wave with busy := some (.compat req.word (some v)) }) ∧
       (u.cfg.compat = false → ∃ t, exec .compatRequestService u = .next t ∧
         (t.slotAt req.core req.slot).wave = { (u.slotAt req.core req.slot).wave with busy := some (.refused req.word) }))) ∧
  ((∀ s : State, s.canIssue = true → s.args.a % 128 ≠ 0x57 →
     exec .illegalInstruction s = (Issue.trap 2 (BitVec.ofNat 64 s.args.a) s).finish) ∧
   (∀ (major : Nat) (w : LaneWord) (i : Instr) (s : State), laneInstr major w = some i → s.canIssue = true →
     let profile := if major < 0xE0 then 0 else if major < 0xE8 then 1 else 2
     (laneForm major false w = none ∨
       (∃ ops, laneForm major false w = some ops ∧
         ((s.wave.mode ≠ .m ∧ s.wave.profiles.getLsbD profile = false) ∨
           (∃ o ∈ ops, o.kind = .v ∧ s.wave.budget < o.idx + o.cnt)))) →
     exec i s = (Issue.trap 2 (laneLow major false false w) s).finish) ∧
   (∀ (major : BitVec 8) (w : LaneWord) (all : Bool) (i : Rv) (s : State), s.canIssue = true →
     (pairLegal major w i = false ∨ (s.wave.mode ≠ .m ∧ s.wave.profiles.getLsbD 0 = false) ∨
       (∃ o ∈ (laneForm major.toNat true w).getD [], o.kind = .v ∧ s.wave.budget < o.idx + o.cnt)) →
     exec (.pairedWord major w all i) s = (Issue.trap 2 (laneLow major.toNat true all w) s).finish) ∧
   (∀ (i : Rv) (s : State), s.canIssue = true → (i.wellFormed && rvLegal i s.wave) = false →
     exec (.riscvScalarInstruction i) s = (Issue.trap 2 ((encodeRv i).setWidth 64) s).finish))

/-- R71, R72: a paired word performs its lane part as the lane word alone, whatever its family, then its scalar part where its
guard lets it, with operands read before either part writes, and goes on 16 bytes further as one word: a scalar part that
names no memory leaves its registers' values, one that does its access's bytes and result. A part that traps leaves the state
at issue. A floating-point part whose state is not ready takes cause 2 where it runs: the model's choice (log 81). -/
def Obligations.PairedWords : Prop :=
  (∀ (major : BitVec 8) (w : LaneWord) (all : Bool) (i : Rv) (c : Instr) (s t : State),
    let ops := (laneForm major.toNat true w).getD []
    let pair : Instr := .pairedWord major w all i
    let runs := s.wave.activeLanes w ≠ 0 ∧ (all = true → s.wave.activeLanes w = s.wave.amask &&& s.wave.wm)
    let t' := t.modWave (fun q => { q with pc := s.wave.pc + 16 })
    laneInstr major.toNat (if 0x90 ≤ major.toNat ∧ major.toNat ≤ 0x95 then { w with len := 1 } else w) = some c →
    pairLegal major w i = true → s.canIssue = true → s.wave.profileOn 0 = true → inBudget s.wave.budget ops = true →
    s.windowsAllow (laneLocs w ops ++ liveLocs (rvLocs i)) = true → exec c s = .next t →
    (t.verdict ≠ .issued → exec pair s = .next t) ∧
    (t.verdict = .issued → ¬ runs → exec pair s = .next t') ∧
    (t.verdict = .issued → runs → rvFpReady i s.wave = false →
      exec pair s = (Issue.trap 2 ((encodeRv i).setWidth 64) s).finish) ∧
    (t.verdict = .issued → runs → rvFpReady i s.wave = true →
      (scalarAccess i s.wave = none →
        ∃ upds, scalarRule i s.wave upds ∧ exec pair s = .next ((t'.applyAll upds).modWave id)) ∧
      (∀ k ea n, scalarAccess i s.wave = some (k, ea, n) →
        (ea % n ≠ 0 →
          exec pair s = (Issue.trap (if k = .load then 4 else 6) (BitVec.ofNat 64 ea) s).finish) ∧
        (ea % n = 0 → ea + n ≤ 2 ^ 49 → t'.messagesOut t'.curCore t'.curSlot = false →
          ∀ (u : State) (va : Nat) (g : Target),
            t'.resolve t'.curCore t'.curSlot s.wave .hart k ea n = (u, .ok (.mem va g)) →
            (u.paKind g.pa = .dram ∨ u.paKind g.pa = .host) →
            ∃ (q : State) (out : Option (Loc × Upd)), scalarMemory i s.wave t' q g.pa out ∧
              exec pair s = .next (q.modWave (fun v =>
                match out with
                | none => v
                | some (l, up) =>
                  { v with
                    pending := v.pending ++ [scalarPending s.wave.pc w.la.toNat (v.csrs.turn.toNat + t.lat.l2) l up] })))))) ∧
  ∀ r ∈ integerRules, ∀ (w : LaneWord) (all : Bool) (op : IntOp) (d a b : BitVec 5) (s : State),
    let i : Rv := .op op d a b
    let ops := (laneForm r.major true w).getD []
    let active := s.wave.activeLanes w
    pairLegal (BitVec.ofNat 8 r.major) w i = true → s.laneReady r.major w = true → s.wave.profileOn 0 = true →
    inBudget s.wave.budget ops = true → s.windowsAllow (laneLocs w ops ++ liveLocs (rvLocs i)) = true →
    ∃ t : State, exec (r.con w) s = .next t ∧
      (active ≠ 0 ∧ (all = true → active = s.wave.amask &&& s.wave.wm) →
        ∃ v, intRule op (s.wave.getX a.toNat) (s.wave.getX b.toNat) v ∧
          exec (.pairedWord (BitVec.ofNat 8 r.major) w all i) s =
            .next ((t.modWave (fun q => { q with pc := s.wave.pc + 16 })).modWave (fun q => q.setX d.toNat v))) ∧
      (active = 0 ∨ (all = true ∧ active ≠ s.wave.amask &&& s.wave.wm) →
        exec (.pairedWord (BitVec.ofNat 8 r.major) w all i) s =
          .next (t.modWave (fun q => { q with pc := s.wave.pc + 16 })))

namespace Sys2Proof.Claims

/-! ### Mask stack words -/

/-- What a custom-3 word that went on at `pc` leaves: the new depth and mask, the entries below `kept`, and every other
register of the wave, the lane registers and memory as they were. -/
def maskAfter (s t : State) (pc : Word) (depth : Nat) (amask : Mask) (kept : Nat) : Prop :=
  t.wave.pc = pc ∧ t.wave.depth = depth ∧ t.wave.amask = amask ∧ (∀ i, i < kept → t.wave.entry i = s.wave.entry i) ∧
    t.wave.x = s.wave.x ∧ t.wave.f = s.wave.f ∧ t.wave.p = s.wave.p ∧ t.wave.m = s.wave.m ∧
    t.wave.csrs = { s.wave.csrs with instret := s.wave.csrs.instret + 1, mstkp := t.wave.csrs.mstkp } ∧ t.mem = s.mem

/-- Entry `i` of the stack of `t` holds a kind, a mask and a pc. -/
def entryIs (t : State) (i kind : Nat) (m : Mask) (pc : Word) : Prop :=
  (t.wave.entry i).kind = kind ∧ (t.wave.entry i).mask = m ∧ (t.wave.entry i).pc = (pc &&& 0x1FFFFFFFFFFFC#64)

/-- Guard value of a mask word. -/
def guardOf (s : State) (neg : Bool) (q : BitVec 4) : Mask :=
  if neg then s.wave.wm &&& ~~~(s.wave.getP q.toNat) else s.wave.getP q.toNat

/-- Target of a word with an offset in words. -/
def branchTo (s : State) (off : BitVec 13) : Word := s.wave.pc + BitVec.ofInt 64 (4 * off.toInt)

/-- The lane register a custom-3 word names is present, and each region it touches in `m` is the wave's domain's. -/
def regOpen (s : State) (n : Nat) (wr : Bool) (m : Mask) : Bool :=
  decide (absentItem s [{ kind := .v, idx := n, wr := wr }] = none) &&
    decide (regionViolation (s.core s.curCore) s.wave [{ kind := .v, idx := n, wr := wr }] (fun _ => m) = none)

/-- `m` is the set of lanes below the width that are in `base` and satisfy `q`. -/
def lanesAre (s : State) (m base : Mask) (q : Nat → Prop) : Prop :=
  ∀ l, l < 128 → (m.getLsbD l = true ↔ l < s.wave.width ∧ base.getLsbD l = true ∧ q l)

/-- The trip count of lane `l` after an iteration. -/
def tripOf (s : State) (n l : Nat) : Word32 := if 0 < (s.laneReg n l).toInt then s.laneReg n l - 1 else s.laneReg n l

/-- Lane `l`'s target of a divergent call or jump. -/
def laneGoal (s : State) (b a : BitVec 5) (l : Nat) : Word := s.wave.getX b.toNat + (s.laneReg a.toNat l).signExtend 64

/-- Lane `l` is the lowest active lane. -/
def lowestLane (s : State) (l : Nat) : Prop :=
  l < s.wave.width ∧ s.wave.amask.getLsbD l = true ∧ ∀ k, k < l → s.wave.amask.getLsbD k = false

/-! ### Tiles, segments and rings -/

/-- The tile word whose register x[A] holds `v` names entry `e`, of the wave's own domain. -/
def namesTile (s : State) (v : Word) (e : Nat) : Prop :=
  fld v 63 8 = 0 ∧ s.myEntry (fld v 7 0) = some e ∧ tDom ((s.core s.curCore).tile e).1 = s.wave.dom

/-- Word 0 of entry `e` of the acting core. -/
def tileOf (s : State) (e : Nat) : Word := ((s.core s.curCore).tile e).1

/-- The member of a ring header at its read slot, or the entry itself. -/
def slotOfTile (s : State) (e : Nat) : Nat := if tKind (tileOf s e) = 2 then e + 1 + tRp (tileOf s e) else e

/-- A plain tile's entry holds these fields. -/
def plainIs (w : Word) (first gran team dom state : Nat) (chk : Bool) : Prop :=
  tKind w = 1 ∧ tFirst w = first ∧ tGran w = gran ∧ tTeam w = team ∧ tDom w = dom ∧ tState w = state ∧ tChk w = chk ∧
    tFerr w = 0 ∧ tRo w = false ∧ tSegv w = false

/-- The cluster of the acting core. -/
def here (s : State) : Nat := clusterOf s.curCore

end Sys2Proof.Claims

/-! ## Mask stack, loops, calls -/

/-- R94, R139, R140, R143, R144: `if`, `else`, `endif`, `mpush`, `mpop` and `mpop.d` with the entries they need complete
with the manual's stack and mask; without them they raise cause 24, 25 or 26. -/
def Obligations.MaskStackWords : Prop :=
  (∀ (off : BitVec 13) (neg : Bool) (q : BitVec 4) (s : State), s.wordReady 0 [.p q.toNat] = true →
    (s.wave.depth < 32 →
      let m := s.wave.amask &&& guardOf s neg q &&& s.wave.wm
      ∃ t, exec (.maskIf off neg q) s = .next t ∧
        maskAfter s t (if m = 0 then branchTo s off else s.wave.pc + 4) (s.wave.depth + 1) m s.wave.depth ∧
        entryIs t s.wave.depth 0 (s.wave.amask &&& s.wave.wm) 0) ∧
    (32 ≤ s.wave.depth → exec (.maskIf off neg q) s = (Issue.trap 24 1 s).finish)) ∧
  (∀ (off : BitVec 13) (s : State), s.wordReady 0 [] = true →
    (s.wave.depth = 0 → exec (.maskElse off) s = (Issue.trap 25 0 s).finish) ∧
    (s.wave.depth ≠ 0 → s.wave.top.kind ≠ 0 →
      exec (.maskElse off) s = (Issue.trap 26 (BitVec.ofNat 64 (s.wave.depth - 1)) s).finish) ∧
    (s.wave.depth ≠ 0 → s.wave.top.kind = 0 →
      let m := s.wave.top.mask &&& ~~~s.wave.amask &&& s.wave.wm
      ∃ t, exec (.maskElse off) s = .next t ∧
        maskAfter s t (if m = 0 then branchTo s off else s.wave.pc + 4) s.wave.depth m 32)) ∧
  (∀ s : State, s.wordReady 0 [] = true →
    (s.wave.depth = 0 → exec .maskEndif s = (Issue.trap 25 0 s).finish ∧ exec .mpop s = (Issue.trap 25 0 s).finish ∧
      exec .mpopD s = (Issue.trap 25 0 s).finish) ∧
    (s.wave.depth ≠ 0 → s.wave.top.kind = 0 →
      ∃ t, exec .maskEndif s = .next t ∧
        maskAfter s t (s.wave.pc + 4) (s.wave.depth - 1) (s.wave.top.mask &&& s.wave.wm) 32) ∧
    (s.wave.depth ≠ 0 → s.wave.top.kind = 0 ∨ s.wave.top.kind = 3 →
      ∃ t, exec .mpop s = .next t ∧
        maskAfter s t (if s.wave.top.kind = 0 then s.wave.pc + 4 else s.wave.top.pc) (s.wave.depth - 1)
          (s.wave.top.mask &&& s.wave.wm) 32) ∧
    (s.wave.depth ≠ 0 → s.wave.top.kind = 1 ∨ s.wave.top.kind = 2 →
      exec .mpop s = (Issue.trap 26 (BitVec.ofNat 64 (s.wave.depth - 1)) s).finish) ∧
    (s.wave.depth ≠ 0 →
      ∃ t, exec .mpopD s = .next t ∧ maskAfter s t (s.wave.pc + 4) (s.wave.depth - 1) s.wave.amask 32)) ∧
  (∀ (n : BitVec 5) (s : State), s.wordReady 0 [.m n.toNat] = true → n.toNat < 8 →
    (s.wave.depth < 32 →
      ∃ t, exec (.mpush n) s = .next t ∧
        maskAfter s t (s.wave.pc + 4) (s.wave.depth + 1)
          ((if n = 0 then s.wave.amask else s.wave.amask &&& s.wave.getM n.toNat) &&& s.wave.wm) s.wave.depth ∧
        entryIs t s.wave.depth 0 (s.wave.amask &&& s.wave.wm) 0) ∧
    (32 ≤ s.wave.depth → exec (.mpush n) s = (Issue.trap 24 1 s).finish))

/-- R146, R147: `loop.l` opens a loop over the active lanes whose trip count is positive, iterates it by the same word,
and closes it when no lane goes on; `brk.l` and `cont.l` take lanes out of the innermost loop. -/
def Obligations.LoopWords : Prop :=
  (∀ (off : BitVec 13) (n : BitVec 5) (s : State) (live : Mask), s.wordReady 0 [.v n.toNat] = true →
    regOpen s n.toNat false s.wave.amask = true →
    ¬ (1 ≤ s.wave.depth ∧ s.wave.top.kind = 1 ∧ s.wave.top.pc = s.wave.pc) →
    lanesAre s live s.wave.amask (fun l => 0 < (s.laneReg n.toNat l).toInt) →
    (live = 0 → ∃ t, exec (.loopL off n) s = .next t ∧ maskAfter s t (branchTo s off) s.wave.depth s.wave.amask 32) ∧
    (live ≠ 0 → s.wave.depth ≤ 30 →
      ∃ t, exec (.loopL off n) s = .next t ∧ maskAfter s t (s.wave.pc + 4) (s.wave.depth + 2) live s.wave.depth ∧
        entryIs t s.wave.depth 0 (s.wave.amask &&& s.wave.wm) 0 ∧ entryIs t (s.wave.depth + 1) 1 live s.wave.pc) ∧
    (live ≠ 0 → 30 < s.wave.depth → exec (.loopL off n) s = (Issue.trap 24 2 s).finish)) ∧
  (∀ (off : BitVec 13) (n : BitVec 5) (s : State) (live : Mask), s.wordReady 0 [.v n.toNat] = true →
    let under := s.wave.entry (s.wave.depth - 2)
    regOpen s n.toNat true s.wave.top.mask = true →
    1 ≤ s.wave.depth → s.wave.depth ≤ 32 → s.wave.top.kind = 1 → s.wave.top.pc = s.wave.pc →
    lanesAre s live s.wave.top.mask (fun l => 0 < (tripOf s n.toNat l).toInt) →
    (live ≠ 0 ∨ (2 ≤ s.wave.depth ∧ under.kind = 0) →
      ∃ t, exec (.loopL off n) s = .next t ∧
        (live ≠ 0 → maskAfter s t (s.wave.pc + 4) s.wave.depth live (s.wave.depth - 1) ∧
          entryIs t (s.wave.depth - 1) 1 live s.wave.pc) ∧
        (live = 0 → maskAfter s t (branchTo s off) (s.wave.depth - 2) (under.mask &&& s.wave.wm) 32) ∧
        (∀ l, l < s.wave.width → t.laneReg n.toNat l =
          if s.wave.top.mask.getLsbD l then tripOf s n.toNat l else s.laneReg n.toNat l) ∧
        s.sameLanes t (fun m _ => m = n.toNat)) ∧
    (live = 0 → s.wave.depth = 1 → exec (.loopL off n) s = (Issue.trap 25 0 s).finish) ∧
    (live = 0 → 2 ≤ s.wave.depth → under.kind ≠ 0 →
      exec (.loopL off n) s = (Issue.trap 26 (BitVec.ofNat 64 (s.wave.depth - 2)) s).finish)) ∧
  (∀ (brk : Bool) (off : BitVec 13) (neg : Bool) (q : BitVec 4) (s : State) (i : Nat), s.wordReady 0 [.p q.toNat] = true →
    let con : Instr := if brk then .brkL off neg q else .contL off neg q
    let x := s.wave.amask &&& guardOf s neg q
    let m := s.wave.amask &&& ~~~x &&& s.wave.wm
    s.wave.depth ≤ 32 → i < s.wave.depth →
    (∀ j, i < j → j < s.wave.depth → (s.wave.entry j).kind = 0 ∨ (s.wave.entry j).kind = 3) →
    ((s.wave.entry i).kind = 1 →
      ∃ t, exec con s = .next t ∧
        maskAfter s t (if m = 0 then branchTo s off else s.wave.pc + 4) s.wave.depth m i ∧
        ((t.wave.entry i).mask = if brk then (s.wave.entry i).mask &&& ~~~x &&& s.wave.wm else (s.wave.entry i).mask) ∧
        (∀ j, i ≤ j → j < s.wave.depth → (t.wave.entry j).word = (s.wave.entry j).word) ∧
        (∀ j, i < j → j < s.wave.depth → (t.wave.entry j).mask = (s.wave.entry j).mask &&& ~~~x &&& s.wave.wm)) ∧
    ((s.wave.entry i).kind = 2 → exec con s = (Issue.trap 26 (BitVec.ofNat 64 i) s).finish)) ∧
  (∀ (brk : Bool) (off : BitVec 13) (neg : Bool) (q : BitVec 4) (s : State), s.wordReady 0 [.p q.toNat] = true →
    (∀ j, j < s.wave.depth → (s.wave.entry j).kind = 0 ∨ (s.wave.entry j).kind = 3) →
    exec (if brk then .brkL off neg q else .contL off neg q) s = (Issue.trap 25 0 s).finish)

/-- R148, R149: `call.l` and `jmp.l` run the lanes that share the lowest active lane's target and defer the others on
the stack; `ret.l` resumes the next group or returns every lane. -/
def Obligations.CallWords : Prop :=
  (∀ (call : Bool) (b a : BitVec 5) (s : State), s.wordReady 0 [.x b.toNat, .v a.toNat] = true →
    let con : Instr := if call then .callL b a else .jmpL b a
    let again := 1 ≤ s.wave.depth ∧ s.wave.top.kind = 3 ∧ s.wave.top.pc = s.wave.pc
    let d := s.wave.depth
    regOpen s a.toNat false s.wave.amask = true →
    ((∀ l, l < s.wave.width → s.wave.amask.getLsbD l = false) →
      ∃ t, exec con s = .next t ∧ maskAfter s t (s.wave.pc + 4) d s.wave.amask 32) ∧
    (∀ (l : Nat) (sel : Mask), lowestLane s l → lanesAre s sel s.wave.amask (fun k => laneGoal s b a k = laneGoal s b a l) →
      let goal := laneGoal s b a l
      let r := s.wave.amask &&& ~~~sel &&& s.wave.wm
      (goal.toNat % 4 ≠ 0 → exec con s = (Issue.trap 0 goal s).finish) ∧
      (goal.toNat % 4 = 0 → d ≤ 30 →
        ∃ t, exec con s = .next t ∧
          (call = true → again ∨ r = 0 →
            maskAfter s t goal (d + 1) sel d ∧
              entryIs t d 2 (if again then r else s.wave.amask &&& s.wave.wm) (s.wave.pc + 4)) ∧
          (call = true → ¬ again → r ≠ 0 →
            maskAfter s t goal (d + 2) sel d ∧ entryIs t d 3 (s.wave.amask &&& s.wave.wm) s.wave.pc ∧
              entryIs t (d + 1) 2 r (s.wave.pc + 4)) ∧
          (call = false → r = 0 → maskAfter s t goal d sel 32) ∧
          (call = false → r ≠ 0 → maskAfter s t goal (d + 1) sel d ∧ entryIs t d 3 r s.wave.pc)))) ∧
  (∀ s : State, s.wordReady 0 [] = true →
    let d := s.wave.depth
    let e := s.wave.top
    let below := s.wave.entry (d - 2)
    let paired := 2 ≤ d ∧ below.kind = 3 ∧ below.pc = e.pc - 4
    (d = 0 → exec .retL s = (Issue.trap 25 0 s).finish) ∧
    (d ≠ 0 → e.kind ≠ 2 → exec .retL s = (Issue.trap 26 (BitVec.ofNat 64 (d - 1)) s).finish) ∧
    (d ≠ 0 → e.kind = 2 →
      ∃ t, exec .retL s = .next t ∧
        (paired → e.mask ≠ 0 → maskAfter s t below.pc (d - 1) (e.mask &&& s.wave.wm) 32) ∧
        (paired → e.mask = 0 → maskAfter s t e.pc (d - 2) (below.mask &&& s.wave.wm) 32) ∧
        (¬ paired → maskAfter s t e.pc (d - 1) (e.mask &&& s.wave.wm) 32)))

/-! ## Tiles and segments -/

/-- R311 to R321: the tile words complete with the manual's result and the entry it gives; a tile of a rejected fill
raises cause 56 and one that is not ready makes `tile.await` wait. That the ring tile of an engine's entries counts as named
by it is the model's choice (log 23). -/
def Obligations.TileWords : Prop :=
  (∀ (chk zero : Bool) (a d : BitVec 5) (s : State), s.wordReady 0 (xLocs [a, d]) = true →
    let g := (s.wave.getX a.toNat).toNat
    let t := s.myTeam
    let c := s.core s.curCore
    let vacant (h : Nat) : Prop := tKind (c.tile (t.tbase + h)).1 = 0
    let small := 1 ≤ g ∧ g ≤ 512
    let fits := small ∧ (chk = true → c.checkedKib + g ≤ 64)
    (¬ small → Completes (.tileAlloc chk zero a d) s (s.afterX d (BitVec.ofInt 64 (-3)))) ∧
    (small → ¬ fits → Completes (.tileAlloc chk zero a d) s (s.afterX d (BitVec.ofInt 64 (-4)))) ∧
    (fits → (∀ h, h < t.tcnt → ¬ vacant h) → Completes (.tileAlloc chk zero a d) s (s.afterX d (BitVec.ofInt 64 (-1)))) ∧
    (fits → (∃ h, h < t.tcnt ∧ vacant h) → c.findRun s.wave.dom g = none →
      Completes (.tileAlloc chk zero a d) s (s.afterX d (BitVec.ofInt 64 (-2)))) ∧
    (∀ h f, fits → h < t.tcnt → vacant h → (∀ j, j < h → ¬ vacant j) → c.findRun s.wave.dom g = some f →
      ∃ u : State, Completes (.tileAlloc chk zero a d) s (u.afterX d (BitVec.ofNat 64 h)) ∧ u.wave = s.wave ∧ u.mem = s.mem ∧
        tileOf u (t.tbase + h) = plainTile f g s.wave.cteam s.wave.dom (if zero then 2 else 0) chk ∧
        (s.wave.cteam < 64 →
          plainIs (tileOf u (t.tbase + h)) f g s.wave.cteam s.wave.dom (if zero then 2 else 0) chk) ∧
        (∀ e, e ≠ t.tbase + h → tileOf u e = tileOf s e) ∧
        (∀ b, Bytes.read (u.core s.curCore).spad b =
          if zero = true ∧ 1024 * f ≤ b ∧ b < 1024 * (f + g) then 0 else Bytes.read c.spad b) ∧
        (∀ k, f ≤ k → k < f + g → (Table.get (u.core s.curCore).granules k {}).used = true))) ∧
  (∀ (a d : BitVec 5) (s : State), s.wordReady 0 (xLocs [a, d]) = true →
    Completes (.tileState a d) s (s.afterX d (match s.myEntry (fld (s.wave.getX a.toNat) 7 0) with
      | some e => if fld (s.wave.getX a.toNat) 63 8 = 0 then tileOf s e else 0
      | none => 0))) ∧
  (∀ (wb : Bool) (a d : BitVec 5) (s : State) (e : Nat),
    let v := s.wave.getX a.toNat
    s.wordReady 0 (xLocs [a, d] ++ [.tile (fld v 7 0)]) = true → namesTile s v e →
    let k := slotOfTile s e
    let w := tileOf s k
    let c := s.core s.curCore
    let moving (j : Nat) : Bool := tState (tileOf s j) = 1 || tState (tileOf s j) = 3
    (tKind (tileOf s e) = 3 ∨ tSegv (tileOf s e) = true → Completes (.tileFree a d) s (s.afterX d 2)) ∧
    (tKind (tileOf s e) ≠ 3 → tSegv (tileOf s e) = false →
      ((∃ j ∈ c.withMembers e, moving j = true ∨ s.engineNames s.curCore j = true) →
        Completes (.tileFree a d) s (s.afterX d 1)) ∧
      ((∀ j ∈ c.withMembers e, moving j = false ∧ s.engineNames s.curCore j = false) →
        ∃ u : State, Completes (.tileFree a d) s (u.afterX d 0) ∧ u.wave = s.wave ∧ u.mem = s.mem ∧
          (∀ j ∈ c.withMembers e, (u.core s.curCore).tile j = (0, 0)) ∧
          (∀ j, j ∉ c.withMembers e → (u.core s.curCore).tile j = c.tile j))) ∧
    (tFerr w = 1 → exec (.tileAwait a d) s = (Issue.trap 56 (c.tile k).2 s).finish) ∧
    (tFerr w ≠ 1 → tState w = 2 →
      ∃ u : State, Completes (.tileAwait a d) s (u.afterX d (BitVec.ofNat 64
          (fld v 7 0 + (k - e) + (if tFerr w = 2 then 256 else 0)))) ∧
        u.wave = s.wave ∧ (u.core s.curCore).tiles = c.tiles ∧
        u.phase (here s) s.wave.cteam = s.phase (here s) s.wave.cteam + 1) ∧
    (tFerr w ≠ 1 → tState w ≠ 2 → fld s.wave.csrs.stwlim 31 0 = 0 →
      ∃ t, exec (.tileAwait a d) s = .next t ∧ t.verdict = .notIssued ∧ t.slot.state = .waiting ∧
        (tState w = 0 → tSegv w = true → tState (tileOf t k) = 1)) ∧
    (tKind (tileOf s e) = 3 → Completes (.tileRel wb a d) s (s.afterX d 3)) ∧
    (tKind (tileOf s e) ≠ 3 → tState w = 0 → tFerr w = 0 → Completes (.tileRel wb a d) s (s.afterX d 1)) ∧
    (tKind (tileOf s e) ≠ 3 → tState w = 1 ∨ tState w = 3 → Completes (.tileRel wb a d) s (s.afterX d 2)) ∧
    (tKind (tileOf s e) ≠ 3 → tState w = 2 →
      (tSegv w = true ∧ (wb = false ∨ tRo w = true)) ∨ (tSegv w = false ∧ wb = true) →
      Completes (.tileRel wb a d) s (s.afterX d 3)) ∧
    (tKind (tileOf s e) ≠ 3 → (tState w = 2 ∧ tSegv w = wb ∧ (wb = true → tRo w = false)) ∨ (tState w = 0 ∧ tFerr w ≠ 0) →
      ∃ u : State, Completes (.tileRel wb a d) s (u.afterX d 0) ∧ u.wave = s.wave ∧
        u.phase (here s) s.wave.cteam = s.phase (here s) s.wave.cteam + 1 ∧
        (tState w = 2 → tState (tileOf u k) = if wb then 3 else 0) ∧ (tState w = 0 → tFerr (tileOf u k) = 0) ∧
        (tKind (tileOf s e) = 2 → tState w = 0 ∨ wb = false →
          tRp (tileOf u e) = (tRp (tileOf s e) + 1) % tMembers (tileOf s e))))

/-- R322 to R330: the segment words complete with the manual's status; an attach to a settled segment here records the
team, a detach of a writer counts a generation, and a new name gets an entry. Two clauses are the model's choice, of which
the manual lists no row: status 3 of `seg.name` for set bits 63:11 of x[D] (log 25), and status 4 of `seg.evict` for a
segment that is being refilled or waits (log 25). -/
def Obligations.SegmentWords : Prop :=
  (∀ (m : BitVec 2) (b a d : BitVec 5) (s : State), s.wordReady 0 (xLocs [b, a, d]) = true → s.wave.wait = none →
    let name := s.wave.getX a.toNat
    let v := s.wave.getX b.toNat
    let h := fld v 7 0
    let ro := m.getLsbD 0
    (name = 0 ∨ fld v 63 8 ≠ 0 → Completes (.segAtt m b a d) s (s.afterX d 3)) ∧
    (name ≠ 0 → fld v 63 8 = 0 → s.segLookup (here s) s.wave.dom name = none →
      Completes (.segAtt m b a d) s (s.afterX d 1)) ∧
    (∀ i, name ≠ 0 → fld v 63 8 = 0 → s.segLookup (here s) s.wave.dom name = some i →
      let g := s.seg (here s) i
      (g.attachedBy s.wave.cteam = true → Completes (.segAtt m b a d) s (s.afterX d 4)) ∧
      (g.attachedBy s.wave.cteam = false → g.pend = none →
        handlesFree (s.core s.curCore) s.myTeam h g.tiles.length = false →
        Completes (.segAtt m b a d) s (s.afterX d 3)) ∧
      (g.attachedBy s.wave.cteam = false → g.pend = none →
        handlesFree (s.core s.curCore) s.myTeam h g.tiles.length = true →
        g.res = true → g.sst = 0 → g.core = s.curCore % 96 → g.att = 0 ∨ (g.att = 2 ∧ ro = true) →
        ∃ u : State, Completes (.segAtt m b a d) s (u.afterX d (BitVec.ofNat 64 (g.gen.toNat * 2 ^ 32))) ∧
          u.wave = s.wave ∧ u.seg (here s) i =
            { g with
              att := if ro then 2 else 1, rocnt := if ro then g.rocnt + 1 else 0,
              rwteam := if ro then g.rwteam else s.wave.cteam, teams := g.teams ++ [(s.wave.cteam, h)], failed := false }))) ∧
  (∀ (rel : Bool) (a d : BitVec 5) (s : State), s.wordReady 0 (xLocs [a, d]) = true →
    let con : Instr := if rel then .segDetRel a d else .segDet a d
    (s.segLookup (here s) s.wave.dom (s.wave.getX a.toNat) = none → Completes con s (s.afterX d 1)) ∧
    (∀ i, s.segLookup (here s) s.wave.dom (s.wave.getX a.toNat) = some i →
      let g := s.seg (here s) i
      let base := s.myTeam.tbase + g.handleFor s.wave.cteam
      (g.attachedBy s.wave.cteam = false ∨ g.core ≠ s.curCore % 96 → Completes con s (s.afterX d 1)) ∧
      (g.attachedBy s.wave.cteam = true → g.core = s.curCore % 96 →
        (rel = true → s.messagesOut s.curCore s.curSlot = false) →
        (∀ j, j < g.tiles.length → tState (tileOf s (base + j)) ≠ 1 ∧ tState (tileOf s (base + j)) ≠ 3 ∧
          s.engineNames s.curCore (base + j) = false) →
        ∃ u : State, Completes con s (u.afterX d 0) ∧ u.wave = s.wave ∧
          (∀ j, j < g.tiles.length → tileOf u (base + j) = 0) ∧
          (g.att ≠ 2 → u.seg (here s) i = { g with gen := g.gen + 1, att := 0, teams := [] })))) ∧
  (∀ (b a d : BitVec 5) (s : State), s.wordReady 0 (xLocs [b, a, d]) = true →
    let name := s.wave.getX a.toNat
    let back := s.wave.getX b.toNat
    let v := s.wave.getX d.toNat
    let h := fld v 7 0
    let n := fld v 10 8 + 1
    let good (j : Nat) : Prop := ∃ e, s.myEntry (h + j) = some e ∧ tKind (tileOf s e) = 1 ∧ tState (tileOf s e) = 2 ∧
      tSegv (tileOf s e) = false ∧ tChk (tileOf s e) = false
    let legal := name ≠ 0 ∧ fld v 63 11 = 0 ∧ back.toNat % 1024 = 0 ∧ back.toNat < 2 ^ 49 ∧ ∀ j, j < n → good j
    (¬ legal → Completes (.segName b a d) s (s.afterX d 3)) ∧
    (legal → (s.segLookup (here s) s.wave.dom name).isSome = true → Completes (.segName b a d) s (s.afterX d 1)) ∧
    (legal → s.segLookup (here s) s.wave.dom name = none → s.segVacant (here s) = none →
      Completes (.segName b a d) s (s.afterX d 2)) ∧
    (∀ i, legal → s.segLookup (here s) s.wave.dom name = none → s.segVacant (here s) = some i →
      ∃ u : State, Completes (.segName b a d) s (u.afterX d 0) ∧ u.wave = s.wave ∧ u.mem = s.mem ∧
        let g := u.seg (here s) i
        g.name = name ∧ g.dom = s.wave.dom ∧ g.kind = 2 ∧ g.att = 1 ∧ g.res = true ∧ g.sst = 0 ∧ g.back = back ∧
          g.pasid = s.wave.pasid ∧ g.core = s.curCore % 96 ∧ g.teams = [(s.wave.cteam, h)] ∧ g.tiles.length = n)) ∧
  (∀ (a d : BitVec 5) (s : State), s.wordReady 0 (xLocs [a, d]) = true →
    let find := s.segLookup (here s) s.wave.dom (s.wave.getX a.toNat)
    (find = none → Completes (.segPin a d) s (s.afterX d 1) ∧ Completes (.segUnpin a d) s (s.afterX d 1) ∧
      (s.wave.wait = none → Completes (.segEvict a d) s (s.afterX d 1)) ∧ Completes (.segEvictDrop a d) s (s.afterX d 1)) ∧
    (∀ i, find = some i →
      let g := s.seg (here s) i
      let room := s.pinnedUsed s.wave.dom + g.granules ≤ fld (s.reg (0x20010 + 32 * s.wave.dom)) 23 0
      (g.attachedBy s.wave.cteam = true →
        (g.kind = 3 → Completes (.segPin a d) s (s.afterX d 0)) ∧
        (g.kind ≠ 3 → room → Completes (.segPin a d) s ((s.modSeg (here s) i (fun g => { g with kind := 3 })).afterX d 0)) ∧
        (g.kind ≠ 3 → ¬ room → Completes (.segPin a d) s (s.afterX d 2)) ∧
        Completes (.segUnpin a d) s ((s.modSeg (here s) i (fun g => { g with kind := 2 })).afterX d 0)) ∧
      (s.wave.wait = none → g.att ≠ 0 ∨ g.sst = 2 ∨ g.pend.isSome = true →
        Completes (.segEvict a d) s (s.afterX d 4) ∧ Completes (.segEvictDrop a d) s (s.afterX d 4)) ∧
      (s.wave.wait = none → g.att = 0 → g.sst ≠ 2 → g.pend = none →
        (g.kind = 3 → Completes (.segEvict a d) s (s.afterX d 5) ∧ Completes (.segEvictDrop a d) s (s.afterX d 5)) ∧
        (g.kind ≠ 3 → g.back = 0 → Completes (.segEvict a d) s (s.afterX d 3)) ∧
        (g.kind ≠ 3 → g.back ≠ 0 → g.sst = 0 → g.res = false → Completes (.segEvict a d) s (s.afterX d 0)) ∧
        (g.kind ≠ 3 → g.back ≠ 0 → g.sst = 0 → g.res = true →
          ∃ t, exec (.segEvict a d) s = .next t ∧ t.verdict = .notIssued ∧ t.slot.state = .running ∧
            t.wave.wait = some { kind := .segEvict i, start := s.wave.csrs.turn.toNat } ∧ (t.seg (here s) i).sst = 1) ∧
        (g.kind ≠ 3 → g.sst = 0 →
          ∃ u : State, Completes (.segEvictDrop a d) s (u.afterX d 0) ∧ u.wave = s.wave ∧ u.mem = s.mem ∧
            u.seg (here s) i = {})))) ∧
  (∀ (a d : BitVec 5) (s : State) (i w : Nat), s.wordReady 0 (xLocs [a, d]) = true →
    s.wave.wait = some { kind := .segEvict i, start := w } → (s.seg (here s) i).sst ≠ 1 →
    (s.seg (here s) i).failed = false → Completes (.segEvict a d) s (s.afterX d 0))

/-- R315, R324, R330, R411: an eviction whose write-back succeeds frees the segment's granules and residence, one that
faults keeps them and reports; firmware may start one; a refill makes every tile ready and attaches; a tile's write-back
leaves it empty. The event's form and the delays are the model's choice (logs 2 and 6), and so is that an eviction on a spared
core is tried again (log 55). -/
def Obligations.SegmentEvents : Prop :=
  (∀ s : State,
    let k := s.args.core
    let i := s.args.a
    let g := s.seg k i
    let w := s.writeBackGranules (g.agent (g.home k)) (g.home k) g.backing
    ∃ t, exec .segmentEvictionComplete s = .next t ∧
      (g.sst ≠ 1 → t = s) ∧
      (g.sst = 1 → w.2 = none → g.pend = none →
        t.mem = w.1.mem ∧ t.seg k i = { g with sst := 0, res := false, pend := none } ∧
        ∀ q ∈ g.tiles, ∀ j, q.1 ≤ j → j < q.1 + q.2 → Table.find (t.core (g.home k)).granules j = none) ∧
      (∀ f, g.sst = 1 → w.2 = some f →
        t.seg k i = { g with sst := 0, pend := none, failed := true } ∧
        segRecord g i true f ∈ (t.cluster k).faultWait)) ∧
  (∀ s : State,
    let g := s.seg s.args.core s.args.a
    ∃ t, exec .firmwareSegmentEviction s = .next t ∧
      (g.kind = 2 → g.att = 0 → g.res = true → g.sst = 0 → g.back ≠ 0 →
        t.seg s.args.core s.args.a = { g with sst := 1, pend := none, failed := false } ∧ t.mem = s.mem ∧ t.cores = s.cores) ∧
      (g.kind ≠ 2 ∨ g.back = 0 ∨ (∀ c, (s.core c).fwall.getLsbD 1 = false) →
        g.kind ≠ 2 ∨ g.att ≠ 0 ∨ g.res = false ∨ g.sst ≠ 0 ∨ g.back = 0 → t = s) ∧
      (g.kind = 2 → g.back ≠ 0 → g.res = true → g.sst ≠ 2 → g.att ≠ 0 ∨ g.sst ≠ 0 →
        (s.core (g.home s.args.core)).fwall.getLsbD 1 = true → t = s.schedule 64 .firmwareSegmentEviction s.args)) ∧
  (∀ (s : State) (p : PendAttach),
    let k := s.args.core
    let i := s.args.a
    let g := s.seg k i
    s.args.b = 0 → g.sst = 2 → g.pend = some p →
    ∃ t, exec .segmentRefillComplete s = .next t ∧
      (let q := t.seg k i
       q.sst = 0 ∧ q.res = true ∧ q.pend = none ∧ q.core = p.core % 96 ∧ q.att = (if p.ro then 2 else 1) ∧
        q.rocnt = (if p.ro then 1 else 0) ∧ q.teams = [(p.team, p.handle)] ∧ q.gen = g.gen ∧ q.tiles = g.tiles) ∧
      ∀ j, j < g.tiles.length → tState ((t.core p.core).tile ((s.team k p.team).tbase + p.handle + j)).1 = 2) ∧
  (∀ s : State,
    let c := s.args.core
    let e := s.args.a
    let v := ((s.core c).tile e).1
    let k := clusterOf c
    let g := s.seg k (tSeg v)
    let w := s.writeBackGranules (g.agent c) c (g.tileBacking (tFirst v) (tGran v))
    (s.team k (tTeam v)).over = false →
    ∃ t, exec .tileWritebackComplete s = .next t ∧
      (tState v ≠ 3 → t = s) ∧
      (tState v = 3 → w.2 = none → tState ((t.core c).tile e).1 = 0 ∧ t.mem = w.1.mem) ∧
      (∀ f, tState v = 3 → w.2 = some f → tState ((t.core c).tile e).1 = 2 ∧ segRecord g (tSeg v) true f ∈ (t.cluster k).faultWait))

/-! ## Rings, channels, doorbells -/

/-- R277 to R279, R282, R284: a post to a ring with room whose image is legal completes with 0, its entry stored and WIDX
advanced by one; a tile of another kind, an illegal image and a full ring give 2, 3 and 1; a store to WIDX publishes the
entries it newly covers. How many entries a store that moves WIDX further than the ring posts, and what the release of a post
writes back, are the model's choice (log 24). -/
def Obligations.EnginePosts : Prop :=
  (∀ (dcz : Bool) (b a d : BitVec 5) (s : State) (e : Nat),
    let con : Instr := if dcz then .dczPost b a d else .cpyPost b a d
    let x := (s.wave.getX b.toNat).toNat
    let c := s.core s.curCore
    let img := postImage s.wave a.toNat
    let refused := if dcz then !(DczEntry.ofImage img).legal else copyRefused s img
    let slot := c.entryAddr e (c.ringWidx e)
    s.wordReady 0 (xLocs [b, d] ++ (List.range 4).map (fun k => .x (a.toNat + k))) = true → a.toNat % 4 = 0 → a ≠ 0 →
    (256 ≤ x → exec con s = (Issue.trap 7 (BitVec.ofNat 64 (x % 256 * 2 ^ 32)) s).finish) ∧
    (x < 256 → (tileOwn x 32 1 .store [0] s).isNone = true → (tileReady x 32 .store [0] s).isNone = true →
      s.myEntry x = some e →
      let ring := c.ringKind e = (if dcz then 0x44 else 0x43) ∧ c.ringOk e = true
      (¬ ring → Completes con s (s.afterX d 2)) ∧
      (ring → refused = true → Completes con s (s.afterX d 3)) ∧
      (ring → refused = false → Bytes.read c.spad (slot + 31) ≠ 0 → Completes con s (s.afterX d 1)) ∧
      (ring → refused = false → Bytes.read c.spad (slot + 31) = 0 →
        ∃ u : State, Completes con s (u.afterX d 0) ∧ u.wave = s.wave ∧
          Bytes.readList (u.core s.curCore).spad slot 32 = img.take 31 ++ [1] ∧
          (u.core s.curCore).ringWidx e = (c.ringWidx e + 1) % ringMod (c.ringN e) ∧
          (∀ k, (k < slot ∨ slot + 32 ≤ k) → (k < c.tileBase e ∨ c.tileBase e + 4 ≤ k) →
            Bytes.read (u.core s.curCore).spad k = Bytes.read c.spad k)))) ∧
  (∀ (s : State),
    let core := s.args.b
    let e := s.args.a
    let c := s.core core
    let n := s.newlyPosted core e
    let held := ((s.ringAt core e).map (fun r => r.posters.length)).getD 0
    ∃ t, exec .widxStorePublish s = .next t ∧
      ((ringClass (c.ringKind e)).isNone = true ∨ tileHolds (c.tile e).1 = false ∨ c.ringOk e = false ∨ n = 0 → t = s) ∧
      ((ringClass (c.ringKind e)).isSome = true → tileHolds (c.tile e).1 = true → c.ringOk e = true → n ≠ 0 →
        ∃ r, t.ringAt core e = some r ∧ r.posters.length = held + n ∧ (t.core core).spad = c.spad))

/-- R289 to R295: `ch.send` of a legal message takes a copy into the send unit and answers 0; its illegal forms raise
cause 55; `ch.recv` answers the elements it consumes or waits on an empty ring; the doorbell words send one store. What makes
a tile a receiving ring with a legal SIZE is the model's reading (log 33), and so is that x[A] is an offset with its bits 63:27
in it (log 84). -/
def Obligations.ChannelWords : Prop :=
  (∀ (b a d : BitVec 5) (s : State),
    let src := s.wave.getX a.toNat
    let v := s.wave.getX b.toNat
    let h := fld src 7 0
    let o := fld src 63 8
    let len := fld v 9 0
    let chan := fld v 19 16
    let destCore := 96 * here s + fld v 26 20
    let legal := fld v 63 36 = 0 ∧ fld v 15 10 = 0 ∧ 1 ≤ len ∧ len ≤ 512
    let there := fld v 26 20 < 96 ∧ (s.core destCore).fwall.getLsbD 0 = false
    s.wordReady 0 (xLocs [b, a, d] ++ [.tile h]) = true →
    (¬ legal → exec (.chSend b a d) s = (Issue.trap 55 (BitVec.ofNat 64 (256 + chan)) s).finish) ∧
    (legal → ¬ there → exec (.chSend b a d) s = (Issue.trap 55 (BitVec.ofNat 64 (512 + chan)) s).finish) ∧
    (legal → there → (tileOwn h len 4 .load [o] s).isNone = true → (tileReady h len .load [o] s).isNone = true →
      (s.core s.curCore).send.length < 8 →
      ∃ (u : State) (m : Message), Completes (.chSend b a d) s (u.afterX d 0) ∧ u.wave = s.wave ∧
        (u.core s.curCore).send = (s.core s.curCore).send ++ [m] ∧ m.chan = chan ∧ m.destCore = destCore ∧
        m.tile = fld v 34 27 ∧ m.endBit = v.getLsbD 35 ∧ m.admitted = none ∧ m.dom = s.wave.dom ∧ m.csa = s.wave.csa ∧
        m.bytes = Bytes.readList (s.core s.curCore).spad (1024 * tFirst (s.myTile h) + o) len)) ∧
  (∀ (w : LaneWord) (s : State) (e : Nat),
    let h := w.vb.toNat
    let env := laneEnv s w
    let c := s.core s.curCore
    s.laneReady 0xD5 w = true → s.wave.wait = none → (tileOwn h 32 4 .load [0] s).isNone = true →
    (tileReady h (tLen (s.myTile h)) .load [0] s).isNone = true → s.myEntry h = some e → tRo (s.myTile h) = false →
    (c.recvRing e w.va.toNat = false →
      exec (.chRecv w) s = (Issue.trap 55 (BitVec.ofNat 64 (1024 + w.va.toNat)) s).finish) ∧
    (c.recvRing e w.va.toNat = true →
      let o := recvLoop e env.lanes.length 1024 { s := s, vals := [], last := false, waits := false }
      (c.recvRd e = c.recvWr e → env.lanes ≠ [] →
        exec (.chRecv w) s = .next { s.beginWait (.recv []) with verdict := .notIssued }) ∧
      (o.waits = false →
        ∃ u : State, Completes (.chRecv w) s (u.afterLong (laneBytes w) w.la.toNat u.lat.scratchpad
            (writtenLocs (laneOperands 0xD5 w))
            ((env.lanes.zip o.vals).map (fun q => .v w.vd.toNat q.1 q.2) ++
              [.x (vcOf w) (BitVec.ofNat 64 ((if o.last then 2 ^ 63 else 0) + o.vals.length))])) ∧
          u.mem = (if o.vals = [] then o.s else o.s.acquireAt o.s.curCore o.s.wave.dom true).mem) ∧
      (∀ (l len : Nat) (x : Word32),
        let p := c.recvRd e % c.recvSize e
        let hd := Bytes.readLE c.spad (c.recvByte e p) 4
        env.lanes = [l] → c.recvRd e ≠ c.recvWr e → c.recvCons e = 0 → hd.testBit 31 = false → len = hd % 1024 →
        1 ≤ len → len ≤ 4 → (∀ k, k < 4 → (x >>> (8 * k)).setWidth 8 =
          if k < len then Bytes.read c.spad (c.recvByte e (p + 4 + k)) else 0) →
        o.waits = false ∧ o.vals = [x] ∧ o.last = hd.testBit 30 ∧
          (o.s.core s.curCore).recvRd e = (c.recvRd e + 8) % recvMod (c.recvSize e)))) ∧
  (∀ (cq : Bool) (b a d : BitVec 5) (s : State),
    let con : Instr := if cq then .sqRingCq b a d else .sqRing b a d
    let q := (s.wave.getX a.toNat).toNat
    let v := (s.wave.getX b.toNat).toNat
    let e := leBytes 32 (s.readPhys ((s.reg 0x12000).toNat + 32 * q) 32)
    let known := q < (s.reg 0x12008).toNat ∧ (numAt e 21 1).testBit 0 = true
    let last := numAt e (if cq then 18 else 16) 2
    s.wordReady 0 (xLocs [b, a, d]) = true →
    (¬ known → Completes con s (s.afterX d 1)) ∧
    (known → numAt e 20 1 = s.wave.dom → last < v → Completes con s (s.afterX d 2)) ∧
    (known → numAt e 20 1 = s.wave.dom → v ≤ last → s.messagesOut s.curCore s.curSlot = false →
      Completes con s (((s.wideFence s.curCore s.wave.dom).emit
        (.doorbell (numAt e (if cq then 8 else 0) 8) (v % 2 ^ 32))).afterX d 0)))

/-- R289, R291: the head of a send unit's message is admitted where its ring has room, retried where it has not, refused
where it names none; the tail writes the record and advances WR; an aborted message leaves no record. The events' form and
delays (logs 2 and 6) and the reason of a refusal for an illegal SIZE (log 33) are the model's choice. -/
def Obligations.ChannelEvents : Prop :=
  ∀ (s : State) (m : Message),
    let core := s.args.core
    let chan := s.args.a
    let c := s.core m.destCore
    let n := recordBytes m.bytes.length
    (s.core core).sendHead chan = some m →
    (m.admitted = none → m.held = false → m.due ≤ s.cycle →
      (∀ e, s.teamEntry m.destCore m.team (m.csa / 4096) m.tile = some e → tileHolds (c.tile e).1 = true →
        (c.bankViolation m.dom (c.tileBase e) (tLen (c.tile e).1)).isNone = true → c.recvRing e chan = true →
        n ≤ c.recvSize e →
        let size := c.recvSize e
        let p := c.recvWr e % size
        let free := size - (c.recvWr e + recvMod size - c.recvRd e) % recvMod size
        let pad := if size - p < n then size - p else 0
        (s.receiving m.destCore e = false → pad + n ≤ free →
          (∃ t, exec .messageAdmission s = .next t ∧
            (t.core core).sendHead chan = some { m with admitted := some (e, pad) } ∧ (t.core core).spad = (s.core core).spad) ∧
          (m.retries ≠ 0 → ∃ t, exec .channelSendRetry s = .next t ∧
            (t.core core).sendHead chan = some { m with admitted := some (e, pad) })) ∧
        (s.receiving m.destCore e = true ∨ free < pad + n →
          ∃ t, exec .messageAdmission s = .next t ∧ (t.core core).sendHead chan = some { m with
            retries := m.retries + 1, due := s.cycle + min (64 * 2 ^ m.retries) 4096 })) ∧
      (s.teamEntry m.destCore m.team (m.csa / 4096) m.tile = none → s.boundAt m.csa = none → s.saved.contains m.csa = true →
        ∃ t, exec .messageAdmission s = .next t ∧
          (t.core core).send.length + 1 = (s.core core).send.length ∧
          (m.csa, 55, BitVec.ofNat 64 (1024 + m.chan), 0) ∈ t.lateCauses)) ∧
    (∀ e pad, m.admitted = some (e, pad) → m.aborted = false →
      let size := c.recvSize e
      let p := c.recvWr e % size
      let rec' := leBytes 4 ((if m.endBit then 2 ^ 30 else 0) + m.chan * 2 ^ 23 + core % 96 * 2 ^ 16 + m.bytes.length) ++
        m.bytes ++ List.replicate (n - 4 - m.bytes.length) 0
      pad = (if size - p < n then size - p else 0) → n ≤ size → size % 4 = 0 →
      ∃ t, exec .messageTailFlit s = .next t ∧
        (t.core core).send.length + 1 = (s.core core).send.length ∧
        Bytes.readList (t.core m.destCore).spad (c.tileBase e + 32 + (p + pad) % size) n = rec' ∧
        (t.core m.destCore).recvWr e = (c.recvWr e + pad + n) % recvMod size ∧ t.mem = s.mem) ∧
    (∃ t, exec .messageAbort s = .next t ∧
      (m.aborted = true → (t.core core).send.length + 1 = (s.core core).send.length ∧
        (∀ k, (t.core k).spad = (s.core k).spad) ∧ t.mem = s.mem) ∧
      (m.aborted = false → t = s))

/-! ## Barriers, budgets, gates -/

/-- R356 to R362: the barrier words of a wave in its team's domain complete: `bar.init` sets the count, an arrival counts
or completes the phase and releases the waiters, `bar.wait` waits while the phase is the one named, `bar.inv` revokes. -/
def Obligations.BarrierWords : Prop :=
  (∀ (n a : BitVec 5) (s : State),
    let b := s.myBar n.toNat
    s.wordReady 0 (xLocs [a]) = true → n.toNat < 16 →
    (b.wait ≠ 0 ∨ b.ref ≠ 0 → exec (.barInit n a) s = (Issue.trap 48 (BitVec.ofNat 64 n.toNat) s).finish) ∧
    (b.wait = 0 → b.ref = 0 → s.wave.dom = s.myTeam.dom →
      Completes (.barInit n a) s ((s.modMyBar n.toNat (fun b =>
        { b with exp := (s.wave.getX a.toNat).toNat % 2 ^ 16, cnt := 0, rev := false })).issued 4))) ∧
  (∀ (n d : BitVec 5) (s : State),
    let b := s.myBar n.toNat
    let full := if b.exp % 65536 = 0 then 65536 else b.exp % 65536
    s.wordReady 0 (xLocs [d]) = true → n.toNat < 16 → s.wave.dom = s.myTeam.dom →
    (b.rev = true → exec (.barArrive n d) s = (Issue.trap 49 (BitVec.ofNat 64 n.toNat) s).finish) ∧
    (b.rev = false →
      ∃ u : State, Completes (.barArrive n d) s (u.afterX d (BitVec.ofNat 64 b.ph)) ∧
        (b.cnt + 1 ≠ full → u.bar (here s) s.wave.cteam n.toNat = { b with cnt := b.cnt + 1 } ∧
          u.phase (here s) s.wave.cteam = s.phase (here s) s.wave.cteam) ∧
        (b.cnt + 1 = full →
          u.bar (here s) s.wave.cteam n.toNat = { b with cnt := 0, ph := (b.ph + 1) % 65536, wait := 0 } ∧
          u.phase (here s) s.wave.cteam = s.phase (here s) s.wave.cteam + (if n = 0 then 1 else 0)) ∧
        (∀ q, b.cnt + 1 = full → s.teamSpans = false → s.barWaiters (here s) s.wave.cteam n.toNat = [q] →
          (s.slotAt q.1 q.2).wave.electWord n.toNat = none →
          (u.slotAt q.1 q.2).wave.wait = none ∧
          (u.slotAt q.1 q.2).wave.pc = (s.slotAt q.1 q.2).wave.pc + 4))) ∧
  (∀ (n a : BitVec 5) (s : State),
    let b := s.myBar n.toNat
    let p := (s.wave.getX a.toNat).toNat % 2 ^ 16
    s.wordReady 0 (xLocs [a]) = true → n.toNat < 16 → s.wave.dom = s.myTeam.dom →
    (b.rev = true → exec (.barWait n a) s = (Issue.trap 49 (BitVec.ofNat 64 n.toNat) s).finish) ∧
    (b.rev = false → b.ph ≠ p → ∃ u : State, Completes (.barWait n a) s (u.issued 4) ∧ u.wave = s.wave ∧ u.clusters = s.clusters) ∧
    (b.rev = false → b.ph = p → s.wave.wait = none →
      ∃ t, exec (.barWait n a) s = .next t ∧ t.verdict = .notIssued ∧ t.slot.state = .waiting ∧
        t.bar (here s) s.wave.cteam n.toNat = { b with wait := b.wait + 1 })) ∧
  (∀ (n : BitVec 5) (s : State), s.wordReady 0 [] = true → n.toNat < 16 →
    (s.wave.mode = .u → exec (.barInv n) s = (Issue.trap 2 ((wordOf (.barInv n)).setWidth 64) s).finish) ∧
    (s.wave.mode ≠ .u → s.wave.dom = s.myTeam.dom →
      ∃ u : State, Completes (.barInv n) s (u.issued 4) ∧
        u.bar (here s) s.wave.cteam n.toNat = { s.myBar n.toNat with rev := true, cnt := 0, wait := 0 } ∧
        (∀ q ∈ s.barWaiters (here s) s.wave.cteam n.toNat,
          (u.slotAt q.1 q.2).wave.wait = none ∧
            (u.slotAt q.1 q.2).wave.raised = some (49, BitVec.ofNat 64 n.toNat))))

/-- R75, R373 to R376: `elect` arrives and waits or completes, `chunk` hands out the next range, a budget write adds up to
its cap and 1,024 occupied turns cost one unit. Which word S runs, and that a wait of `elect` ends only by its own condition,
are the model's choice (log 21), and so are the events' form and delays (logs 2 and 6). -/
def Obligations.ElectChunkBudget : Prop :=
  (∀ (n : BitVec 5) (s : State) (v : BitVec 128) (i : Rv),
    let low := v.setWidth 32
    let u := (s.teamRelease.modMyBar n.toNat (fun b => { b with wait := b.wait + 1 })).beginWait
      (.elect n.toNat (BitVec.ofNat 32 (s.myBar n.toNat).ph) low)
    let t := u.arrive (here s) s.wave.cteam n.toNat
    let b := s.myBar n.toNat
    s.canIssue = true → s.wave.profileOn 0 = true → n.toNat < 16 → s.wave.wait = none →
    s.codeAt (s.wave.pc + 4).toNat = some v → v.toNat % 128 ≠ 127 → decodeRv (v.toNat % 2 ^ 32) = some i →
    (electable i = false → exec (.elect n) s = (Issue.trap 2 ((v.setWidth 32).setWidth 64) s).finish) ∧
    (electable i = true → s.windowsAllow (liveLocs (rvLocs i)) = true → s.wave.dom = s.myTeam.dom →
      (s.myBar n.toNat).rev = false →
      (t.slot.state = .waiting → ∃ q, exec (.elect n) s = .next q ∧ q.verdict = .notIssued ∧ q.slot.state = .waiting ∧
        (∃ k, q.wave.wait = some { kind := .elect n.toNat (BitVec.ofNat 32 (s.myBar n.toNat).ph) low, start := k })) ∧
      (t.slot.state ≠ .waiting → Completes (.elect n) s t) ∧
      (b.cnt + 1 = (if b.exp % 65536 = 0 then 65536 else b.exp % 65536) →
        s.teamSlots (here s) s.wave.cteam = [(s.curCore, s.curSlot)] →
        ∃ q, exec (.elect n) s = .next q ∧ q.verdict = .issued ∧ q.slot.state = .running ∧ q.wave.wait = none ∧
          q.wave.pc = s.wave.pc + 8 ∧ (q.myBar n.toNat).cnt = 0 ∧ (q.myBar n.toNat).ph = (b.ph + 1) % 65536 ∧
          (∀ op d x y, i = .op op d x y → intRule op (s.wave.getX x.toNat) (s.wave.getX y.toNat) (q.wave.getX d.toNat)) ∧
          (∀ op d x m, i = .opImm op d x m → immRule op (s.wave.getX x.toNat) (m.signExtend 64) (q.wave.getX d.toNat)) ∧
          (∀ d m, i = .lui d m → q.wave.getX d.toNat = sxw (m.toNat * 2 ^ 12)) ∧
          (∀ d m, i = .auipc d m → q.wave.getX d.toNat = s.wave.pc + 4 + sxw (m.toNat * 2 ^ 12))))) ∧
  (∀ (a d : BitVec 5) (s : State),
    let base := 0x30000 + 32 * ((s.wave.getX a.toNat).toNat % 8)
    let reg (o : Nat) : Nat := (Table.get (s.cluster (here s)).regs (base + o) 0).toNat
    let next := reg 0 % 2 ^ 40
    let left := reg 8 % 2 ^ 40 - next
    let part := max (reg 16 % 2 ^ 16) 1
    let minch := max (reg 16 / 2 ^ 24 % 2 ^ 24) 1
    let len := min (min (max minch ((left + part - 1) / part)) left) (2 ^ 24 - 1)
    s.wordReady 0 (xLocs [a, d]) = true →
    (s.wave.mode = .m ∨ (s.core s.curCore).fwall.getLsbD 0 = true →
      ∃ u : State, Completes (.chunk a d) s (u.afterX d (BitVec.ofNat 64 (next + len * 2 ^ 40))) ∧ u.wave = s.wave ∧
        u.mem = s.mem ∧ (Table.get (u.cluster (here s)).regs base 0).toNat = (next + len) % 2 ^ 40) ∧
    (s.wave.mode ≠ .m → (s.core s.curCore).fwall.getLsbD 0 = false →
      exec (.chunk a d) s = (Issue.trap 2 ((wordOf (.chunk a d)).setWidth 64) s).finish)) ∧
  (∀ s : State, s.args.a < 256 →
    let v := BitVec.ofNat 64 s.args.c
    ∃ t, exec .budgetAdd s = .next t ∧
      t.units s.args.a = min (s.units s.args.a + fld v 31 0) (fld v 63 32) ∧
      (∀ k, k ≠ s.args.a → t.units k = s.units k) ∧ t.cores = s.cores ∧ t.mem = s.mem) ∧
  (∀ s : State,
    let key := (s.core s.args.core).residueKey s.args.a
    let r := Table.get (s.core s.args.core).residue key 0
    ∃ t, exec .coreBudgetCharge s = .next t ∧
      (r < 1024 → t = s) ∧
      (1024 ≤ r → Table.get (t.core s.args.core).residue key 0 = r - 1024 ∧
        t.units s.args.a = s.units s.args.a - 1 ∧ t.mem = s.mem))

/-- R335, R336, R342 to R348: a gate call that meets every condition enters the callee's domain, mode and place and keeps
the caller's in the frame; `gate.ret` comes back to what the frame says; the refused ones raise cause 57; `dom.query`
answers; a write of the partition registers changes what is free and clears what moves. -/
def Obligations.GateWords : Prop :=
  (∀ (b a : BitVec 5) (s s1 s2 s3 : State) (g : Gate) (frame : Dest),
    let v := s.wave.getX a.toNat
    let stash := s.wave.getX b.toNat
    let gi := fld v 15 0
    let ok := g.v = true ∧ g.mode ≤ 1 ∧ g.clean = true
    s.wordReady 3 (xLocs [b, a]) = true → s.wave.pending = [] → s.wave.absentBlocks = [] →
    (fld v 63 25 ≠ 0 → exec (.gateCall b a) s = (Issue.trap 57 4 s).finish) ∧
    (fld v 63 25 = 0 → s.gate gi = none → exec (.gateCall b a) s = (Issue.trap 57 1 s).finish) ∧
    (fld v 63 25 = 0 → s.gate gi = some g →
      (¬ ok → exec (.gateCall b a) s = (Issue.trap 57 1 s).finish) ∧
      (ok → g.permit.testBit s.wave.dom = true →
        (s.wave.gdepth = 4 → exec (.gateCall b a) s = (Issue.trap 57 2 s).finish) ∧
        (s.wave.gdepth ≠ 4 → gi ∈ s.wave.gates → exec (.gateCall b a) s = (Issue.trap 57 3 s).finish) ∧
        (s.wave.gdepth < 4 → gi ∉ s.wave.gates → v.getLsbD 24 = false → stash.toNat % 64 = 0 → stash.toNat < 2 ^ 49 →
          s.gateRoom g = true → s.framePa .store g.tpasid g.tdom (g.frame s.wave) = (s1, some frame) →
          s1.stackTranslates g s.wave = (s2, true) → s2.storeStash stash.toNat = (s3, true) →
          let t := s3.enterGate g gi false (fld v 23 16) frame stash
          Completes (.gateCall b a) s t ∧ t.wave.pc = BitVec.ofNat 64 g.entry ∧ t.wave.dom = g.tdom ∧
            t.wave.pasid = g.tpasid ∧ t.wave.gdepth = s.wave.gdepth + 1 ∧ t.wave.gates = s.wave.gates ++ [gi] ∧
            t.wave.mode = (if g.mode = 0 then .u else .s) ∧ t.wave.amask = s.wave.wm ∧ t.wave.csrs.stvec = g.ctvec ∧
            t.wave.getX 2 = BitVec.ofNat 64 (g.stackTop s.wave) ∧ t.wave.getX 10 = s.wave.getX 10))) ) ∧
  (∀ (s s1 : State) (g : Gate) (d : Dest), s.wordReady 3 [] = true → s.wave.pending = [] → s.wave.absentBlocks = [] →
    (s.wave.gdepth = 0 → exec .gateRet s = (Issue.trap 57 9 s).finish) ∧
    (s.wave.gdepth ≠ 0 → s.gate (fld s.wave.csrs.sgate 31 16) = none → exec .gateRet s = (Issue.trap 57 10 s).finish) ∧
    (s.wave.gdepth ≠ 0 → s.gate (fld s.wave.csrs.sgate 31 16) = some g →
      s.framePa .load s.wave.pasid s.wave.dom (g.frame s.wave) = (s1, some d) →
      let f := (s1.frameBytes d).2
      let w0 := numAt f 40 8
      ∃ t : State, Completes .gateRet s t ∧ t.wave.pc = BitVec.ofNat 64 (numAt f 0 8) ∧
        t.wave.getX 2 = BitVec.ofNat 64 (numAt f 8 8) ∧ t.wave.dom = w0 % 256 ∧ t.wave.gdepth = s.wave.gdepth - 1 ∧
        t.wave.pasid = w0 / 256 % 2 ^ 20 ∧
        t.wave.mode = Mode.ofCode (w0 / 2 ^ 28 % 4) ∧ t.wave.gates = s.wave.gates.dropLast ∧
        t.wave.csrs.stvec = BitVec.ofNat 64 (numAt f 32 8) ∧
        (∀ n, n ≠ 2 → n < 10 ∨ 17 < n → n < 32 → t.wave.getX n = 0) ∧
        (∀ n, 10 ≤ n → n ≤ 17 → t.wave.getX n = s.wave.getX n))) ∧
  (∀ (a d : BitVec 5) (s : State),
    let sel := (s.wave.getX a.toNat).toNat % 256
    s.wordReady 3 (xLocs [a, d]) = true →
    ∃ x : Word, Completes (.domQuery a d) s (s.afterX d x) ∧
      (sel = 0 → x = BitVec.ofNat 64 (s.myTeam.dom * 2 ^ 16 + s.wave.gdepth * 2 ^ 8 + s.wave.dom)) ∧
      (sel = 1 → x = s.reg (0x20000 + 32 * s.wave.dom)) ∧
      (sel = 4 → ∀ k, k < 32 → x.getLsbD k = decide ((s.core s.curCore).bankDom k = some s.wave.dom)) ∧
      (4 < sel → x = 0)) ∧
  (∀ (s : State) (i j : Nat),
    let c := s.args.core
    let k := s.core c
    let v := BitVec.ofNat 64 s.args.c
    let r := 8 * i + j
    let code := if v.toNat / 256 ^ j % 8 < 4 then v.toNat / 256 ^ j % 8 else 4
    s.args.a = 0x500 + 8 * i → i < 16 → j < 8 →
    ∃ t, exec .domainPartitionWrite s = .next t ∧ t.mem = s.mem ∧
      (k.boundWaves.any (fun w => w.regionList.contains r) = true → Table.get (t.core c).dpreg r 4 = Table.get k.dpreg r 4) ∧
      (k.boundWaves.any (fun w => w.regionList.contains r) = false →
        Table.get (t.core c).dpreg r 4 = code ∧
        (k.domainOfCode code ≠ k.regionDom r → ∀ n, n < 512 → Table.get (t.core c).regs (512 * r + n) 0 = 0) ∧
        (k.domainOfCode code = k.regionDom r → ∀ n, n < 512 →
          Table.get (t.core c).regs (512 * r + n) 0 = Table.get k.regs (512 * r + n) 0)))

namespace Sys2Proof.Claims

/-! ### Device events -/

/-- Every slot of the device but slot `i` of core `c` is as it was. -/
def othersKept (s t : State) (c i : Nat) : Prop := ∀ d j, ¬ (d = c ∧ j = i) → t.slotAt d j = s.slotAt d j

/-- Slot `i` of core `c` has no word in the core's sequencer. -/
def noSequencer (s : State) (c i : Nat) : Prop := ∀ q, (s.core c).seq = some q → q.slot ≠ i

/-- The slot an event names, and its wave. -/
def evSlot (s : State) : Slot := s.slotAt s.args.core s.args.slot
def evWave (s : State) : Wave := (evSlot s).wave

/-- The slot that an event of `s` names, in `t`. -/
def slotIn (s t : State) : Slot := t.slotAt s.args.core s.args.slot

/-- The slot runs or waits. -/
def active (k : Slot) : Prop := k.state = .running ∨ k.state = .waiting

/-- A slot in a state in which it acts on a request. -/
def mayLeave (s : State) (k : Slot) : Prop :=
  (k.state = .held ∨ k.state = .running ∨ k.state = .waiting ∨ k.state = .parked) ∧ k.prq = true ∧
    k.wave.graceOver s = true ∧ k.wave.interruptible = true

/-- What the start of a handover leaves: the slot issues nothing, its windows close, its engines are asked to stop, and
its completion is on its way. -/
def leaving (s t : State) : Prop :=
  let c := s.args.core
  let i := s.args.slot
  let w := evWave s
  let k := t.slotAt c i
  k.state = .handingOver ∧ k.wave.pc = w.pc ∧ k.wave.x = w.x ∧ k.wave.csrs = w.csrs ∧ k.wave.reservation = none ∧
    k.wave.wait = none ∧ k.wave.pending = w.pending.map (fun o => { o with la := 0 }) ∧ othersKept s t c i ∧ t.mem = s.mem ∧
    (∀ r ∈ t.rings, r.heldBy w.csa = true → w.csa ∈ r.asked) ∧
    (s.cycle + 64, Instr.handoverComplete, ({ core := c, slot := i } : Args)) ∈ t.agenda

/-- The slot that an event names runs with the wave `w`, and nothing else of any slot, nor memory, has changed. -/
def runsAs (s t : State) (w : Wave) : Prop :=
  (t.slotAt s.args.core s.args.slot).state = .running ∧ (t.slotAt s.args.core s.args.slot).wave = w ∧
    othersKept s t s.args.core s.args.slot ∧ t.mem = s.mem

end Sys2Proof.Claims

/-! ## Waves leaving, own-turn events, binding, parks -/

/-- R165, R172 to R174, R305, R307: pre-emption requests, the start and the end of a handover, retirement, and the stop of
an engine; the save area keeps pc, x and f registers. The delays, among them the 64 cycles to `handoverComplete`, and the
events' form are the model's choice (logs 6 and 2). -/
def Obligations.HandoverEvents : Prop :=
  (∀ s : State,
    let c := s.args.core
    let j := (s.core c).shown s.args.slot
    ∃ t, exec .preemptionRequest s = .next t ∧ t.mem = s.mem ∧ othersKept s t c j ∧
      t.slotAt c j = if (s.slotAt c j).state = .free ∨ s.column.isSome = true then s.slotAt c j
        else { s.slotAt c j with prq := true, retd := false }) ∧
  (∀ s : State, s.args.a < 256 →
    let c := s.args.core
    ∃ t, exec .domainPreemptionRequest s = .next t ∧ t.mem = s.mem ∧ fld (t.core c).prdom 7 0 = s.args.a ∧
      ((t.core c).prdom.getLsbD 8 = true ↔ (s.core c).domSlots s.args.a ≠ [] ∨ (s.core c).prdomSlots ≠ []) ∧
      (∀ i, (s.slotAt c i).state ≠ .free → (s.slotAt c i).wave.dom = s.args.a →
        (s.column = none → (t.slotAt c i).prq = true) ∧ i ∈ (t.core c).prdomSlots) ∧
      (s.column.isSome = true → ∀ i, t.slotAt c i = s.slotAt c i) ∧
      (∀ i, (t.slotAt c i).wave = (s.slotAt c i).wave ∧ (t.slotAt c i).state = (s.slotAt c i).state)) ∧
  (∀ s : State, noSequencer s s.args.core s.args.slot →
    (mayLeave s (evSlot s) → ∃ t, exec .handoverBegin s = .next t ∧ leaving s t) ∧
    (mayLeave s (evSlot s) → (evWave s).graceFrom.isSome = true → ∃ t, exec .reclaimGraceExpiry s = .next t ∧ leaving s t)) ∧
  (∀ s : State, ¬ mayLeave s (evSlot s) →
    exec .handoverBegin s = .next s ∧ exec .reclaimGraceExpiry s = .next s) ∧
  (∀ s : State,
    let c := s.args.core
    let i := s.args.slot
    let w := evWave s
    (s.handoverReady c i = false → exec .handoverComplete s = .next s) ∧
    (s.handoverReady c i = true →
      ∃ t, exec .handoverComplete s = .next t ∧ t.slotAt c i = {} ∧ w.csa ∈ t.saved ∧ t.mem = ((s.refreshCore c).storeWave c i).mem ∧
        (t.team (clusterOf c) w.cteam).bound = (s.team (clusterOf c) w.cteam).bound - 1 ∧
        (∀ e ∈ (t.core c).accHold, ¬ (e.2.team = w.cteam ∧ e.2.twave = w.twave)))) ∧
  (∀ (k : Core) (w place : Wave) (header core slot n : Nat), n < 32 →
    let r := restoredWave (savedPage k w header) core slot place
    r.pc = w.pc ∧ r.getX n = w.getX n ∧ r.getF n = w.getF n) ∧
  (∀ s : State,
    let c := s.args.core
    let i := s.args.slot
    let k := evSlot s
    let j := k.wave.cteam
    let done := k.state = .retiring ∧ k.wave.pending = [] ∧ s.messagesOut c i = false
    (¬ done → exec .waveRetireComplete s = .next s) ∧
    (done →
      ∃ t, exec .waveRetireComplete s = .next t ∧ t.slotAt c i = { retd := k.retd } ∧ othersKept s t c i ∧ t.mem = s.mem ∧
        (t.team (clusterOf c) j).bound = (s.team (clusterOf c) j).bound - 1 ∧
        (t.team (clusterOf c) j).done = ((s.team (clusterOf c) j).done + 1) % 512)) ∧
  (∀ (s : State) (r : Ring), s.ring s.args.a = some r → (evWave s).csa ∈ r.asked →
    ∃ t q, exec .engineStopAck s = .next t ∧ t.ring s.args.a = some q ∧ (evWave s).csa ∉ q.asked ∧
      (evWave s).csa ∈ q.stopped ∧ q.running = r.running ∧ q.posters = r.posters ∧ t.cores = s.cores ∧ t.mem = s.mem)

/-- R19, R20, R97, R107, R138, R159, R161, R245: results that become complete, the slot timer, the tile wait's end, the
interrupt and the deferred cause that a wave takes, the load of an absent item, the arrival of a fetched block, and the
recheck of a `waita`. Which waits an interrupt ends where the manual names them neither way is the model's choice (logs 21
and 38), and so are the events' form and delays (logs 2 and 6). -/
def Obligations.SlotEvents : Prop :=
  (∀ s : State,
    let k := evSlot s
    let w := k.wave
    let ready (o : PendingOp) : Prop := o.due ≤ w.csrs.turn.toNat ∧ o.acks = []
    ∃ t, exec .longLatencyCompletion s = .next t ∧ t.mem = s.mem ∧ (slotIn s t).state = k.state ∧
      (slotIn s t).wave.pc = w.pc ∧ (∀ o, o ∈ (slotIn s t).wave.pending ↔ o ∈ w.pending ∧ ¬ ready o) ∧
      (∀ o n v, w.pending = [o] → ready o → o.upds = [.x n v] → 0 < n → n < 32 → (slotIn s t).wave.getX n = v)) ∧
  (∀ s : State,
    let c := (evWave s).csrs
    ∃ t, exec .slotTimerExpiry s = .next t ∧ othersKept s t s.args.core s.args.slot ∧ t.mem = s.mem ∧
      (∀ n, n < 64 → ((slotIn s t).wave.csrs.mip.getLsbD n =
        if n = 5 then decide (c.sturncmp.toNat ≤ c.turn.toNat) else c.mip.getLsbD n)) ∧
      slotIn s t = { evSlot s with wave := { evWave s with csrs := { c with mip := (slotIn s t).wave.csrs.mip } } }) ∧
  (∀ (s : State) (h n : Nat), (evWave s).wait = some { kind := .tile h, start := n } →
    let w := evWave s
    let limit := fld w.csrs.stwlim 31 0
    (limit ≠ 0 ∧ n + limit + 1 ≤ w.csrs.turn.toNat →
      ∃ t, exec .tileWaitTimeout s = .next t ∧ runsAs s t (w.trapEntry false 52 (BitVec.ofNat 64 h) w.pc)) ∧
    (¬ (limit ≠ 0 ∧ n + limit + 1 ≤ w.csrs.turn.toNat) → exec .tileWaitTimeout s = .next s)) ∧
  (∀ s : State,
    let w := evWave s
    (∀ n, active (evSlot s) → w.interrupt = some n → w.interruptible = true → noSequencer s s.args.core s.args.slot →
      ∃ t, exec .interruptTaken s = .next t ∧ runsAs s t (w.trapEntry true n 0 w.pc)) ∧
    (w.interrupt = none ∨ w.interruptible = false ∨ ¬ active (evSlot s) → exec .interruptTaken s = .next s) ∧
    (∀ cause tval rest, active (evSlot s) → w.deferred = (cause, tval) :: rest → w.interruptible = true →
      noSequencer s s.args.core s.args.slot →
      ∃ t, exec .deferredCauseTaken s = .next t ∧
        runsAs s t { w.trapEntry false cause tval w.pc with deferred := rest }) ∧
    (w.deferred = [] ∨ w.interruptible = false ∨ ¬ active (evSlot s) → exec .deferredCauseTaken s = .next s)) ∧
  (∀ (s : State) (isAcc : Bool) (n due owner : Nat), (evWave s).busy = some (.registerMiss isAcc n due) →
    let c := s.args.core
    let w := evWave s
    let ow := (s.slotAt c owner).wave
    let odom := numAt (s.saveRead ow.csa 8) 4 1
    (if isAcc then (s.core c).absentOwner w.cteam n = some owner else owner = s.args.slot) →
    (odom = ow.csaDom →
      ∃ t, exec .registerMissLoadComplete s = .next t ∧ t.mem = s.mem ∧ (slotIn s t).state = (evSlot s).state ∧
        (slotIn s t).wave.busy = none ∧
        (isAcc = true → n ∉ (t.slotAt c owner).wave.absentAccs) ∧
        (isAcc = false → n ∉ (slotIn s t).wave.absentBlocks ∧
          ∀ k l, k < 32 → l < w.width → (t.core c).lane w (32 * n + k) l =
            BitVec.ofNat 32 (numAt (s.saveRead (w.csa + w.blockAt n) w.blockSize) (4 * (k * w.width + l)) 4))) ∧
    (odom ≠ ow.csaDom → (evSlot s).state ≠ .handingOver →
      ∃ t p, exec .registerMissLoadComplete s = .next t ∧ (slotIn s t).state = .parked ∧
        (slotIn s t).wave.park = some p ∧ p.late = false ∧ p.cause = 29 ∧ p.pc = w.pc ∧ t.mem = s.mem)) ∧
  (∀ (s u : State) (va at' due : Nat) (g : Target), (evWave s).busy = some (.fetch va due) →
    let c := s.args.core
    let i := s.args.slot
    let w := evWave s
    (s.modWaveAt c i (fun w => { w with busy := none })).fetchDest c i va = (u, .ok (.mem at' g)) →
    ∃ t, exec .fetchBlockArrival s = .next t ∧ (slotIn s t).wave.busy = none ∧
      (g.mt = 0 → ∃ l, (t.core c).hit .inst w.dom w.pasid (va / 64) = some l ∧ l.pline = g.pa / 64 ∧
        l.data = BitVec.ofNat 512 (u.readPhys (64 * (g.pa / 64)) 64)) ∧
      (g.mt ≠ 0 → (slotIn s t).wave.fetchBuf = some
        { dom := w.dom, pasid := w.pasid, block := va / 32, data := BitVec.ofNat 256 (u.readPhys (g.pa / 32 * 32) 32) } ∧
        ∀ k, (t.core k).icache = (u.core k).icache)) ∧
  (∀ (s : State) (pa va n m : Nat) (v : Word), (evWave s).wait = some { kind := .waita pa va v n, start := m } →
    ∃ t, exec .waitaRecheck s = .next t ∧ othersKept s t s.args.core s.args.slot ∧ t.mem = s.mem ∧
      slotIn s t = if (evSlot s).state = .waiting then { evSlot s with state := .running, ownFirst := true } else evSlot s)

/-- R301 to R307, R322, R356: a bind record that dispatch refuses changes nothing but its status; one that it accepts puts
the waves into their slots; a save area comes back as a wave; an entry of the team table that becomes live starts afresh. The
model's choices: the one cycle to the event that a change of the bind page's kind schedules (logs 2 and 6), the priority and
command kept in the team table (log 28), and the checks and marks of a restored record beyond the manual's list (log 35). -/
def Obligations.BindEvents : Prop :=
  (∀ s : State,
    let c := s.args.core
    let k := s.core c
    let r := k.record
    let n := numAt r 1 1
    let width := bits (numAt r 2 1) 1 0
    let dom := (s.team (clusterOf c) (numAt r 5 1)).dom
    (k.bindPending = none → exec .newWaveBind s = .next s) ∧
    (k.bindPending = some true → exec .newWaveBind s = .next (s.schedule 1 .restoreBind { core := c })) ∧
    (k.bindPending = some false → s.newRecordOk c r = false →
      ∃ t, exec .newWaveBind s = .next t ∧ (t.core c).bctl = 0x300 ∧ t.mem = s.mem ∧ (∀ d i, t.slotAt d i = s.slotAt d i)) ∧
    (∀ slots, k.bindPending = some false → s.newRecordOk c r = true →
      k.teamBound (numAt r 5 1) + n ≤ (if width = 3 then 8 else 16) →
      placeSlots k.slotTaken (decide (width = 3)) n = some slots →
      k.regionsFree dom (numAt r 3 1) (n * (2 ^ width * numAt r 4 1)) = true →
      ∃ t, exec .newWaveBind s = .next t ∧ (t.core c).bctl = BitVec.ofNat 64 (indexMask slots * 2 ^ 32) ∧
        (∀ p i, slots[p]? = some i → (t.slotAt c i).wave = newWave r c p i dom ∧
          ((t.slotAt c i).state = .held ∨ (t.slotAt c i).state = .running)))) ∧
  (∀ s : State,
    let c := s.args.core
    let k := s.core c
    let r := k.record
    let j := numAt r 5 1
    let csa := numAt r 32 8
    let page := s.saveRead csa 0x1000
    (k.bindPending = none → exec .restoreBind s = .next s) ∧
    (k.bindPending = some false → exec .restoreBind s = .next (s.schedule 1 .newWaveBind { core := c })) ∧
    (k.bindPending = some true → s.restoreRecordOk c r = false →
      ∃ t, exec .restoreBind s = .next t ∧ (t.core c).bctl = 0x300 ∧ t.mem = s.mem ∧ (∀ d i, t.slotAt d i = s.slotAt d i)) ∧
    (∀ (i pa : Nat) (c2 : Core),
      let place : Wave :=
        { regBase := numAt r 3 1, homeGroup := bit (numAt r 2 1) 4, homeHalf := bit (numAt r 2 1) 5, cteam := j,
          tcore := numAt r 6 1, csa := csa, locks := bits (numAt r 112 8) 51 48 }
      let w := restoredWave page c i place
      k.bindPending = some true → s.restoreRecordOk c r = true → bits (numAt page 3 1) 5 4 = 0 →
      savedMatches page r (s.team (clusterOf c) j).dom = true →
      k.teamBound j + 1 ≤ (if numAt page 1 1 = 3 then 8 else 16) →
      placeSlots k.slotTaken (decide (numAt page 1 1 = 3)) 1 = some [i] →
      k.regionsFree (s.team (clusterOf c) j).dom w.regBase w.regions = true →
      (w.dom ≠ w.csaDom → (k.slotOfDom w.dom).isSome = true) →
      (∀ a ∈ w.absentAccs, Table.find k.accHold a = none) → Table.get s.expelled csa 0 = 0 →
      s.rebuildResv page csa (csa + w.accAt + 8192 * w.absentAccs.length) j k = some (c2, pa) →
      ∃ t, exec .restoreBind s = .next t ∧ (t.core c).bctl = BitVec.ofNat 64 (2 ^ i * 2 ^ 32) ∧ csa ∉ t.saved ∧
        (t.slotAt c i).wave.pc = w.pc ∧ (t.slotAt c i).wave.x = w.x ∧ (t.slotAt c i).wave.f = w.f ∧
        (t.slotAt c i).wave.mode = w.mode ∧ (t.slotAt c i).wave.amask = w.amask ∧
        (t.slotAt c i).wave.absentBlocks = List.range (w.budget / 32) ∧
        ((t.slotAt c i).state = .held ∨ (t.slotAt c i).state = .running))) ∧
  (∀ s : State,
    let k := s.args.core
    let j := s.args.a
    let o := s.args.b
    let v := BitVec.ofNat 64 s.args.c
    let u := s.team k j
    (64 ≤ j → exec .teamTableEntryWrite s = .next s) ∧
    (j < 64 → o = 0 → u.live = true →
      ∃ t, exec .teamTableEntryWrite s = .next t ∧ t.team k j = { u with word := setFld u.word 59 53 (fld v 59 53) } ∧
        (∀ i, i ≠ j → t.team k i = s.team k i) ∧ t.mem = s.mem) ∧
    (j < 64 → o = 0 → u.live = false → v.getLsbD 0 = true →
      ∃ t, exec .teamTableEntryWrite s = .next t ∧ fld (t.team k j).word 34 0 = fld v 34 0 ∧ (t.team k j).tcores = fld v 59 53 ∧
        (t.team k j).bound = 0 ∧ (t.team k j).done = 0 ∧ (t.team k j).prio = s.args.d ∧ (t.team k j).cmd = s.args.e ∧
        t.phase k j = 0 ∧ (∀ n, n < 16 → t.bar k j n = { exp := fld v 34 26 }) ∧ (∀ i, i ≠ j → t.team k i = s.team k i) ∧
        t.mem = s.mem) ∧
    (j < 64 → 8 ≤ o → o < 103 →
      ∃ t, exec .teamTableEntryWrite s = .next t ∧ (t.team k j).word = u.word ∧
        (∀ m, m < 8 → Table.get (t.team k j).cmap (o - 8 + m) 0 =
          if o - 8 + m < 95 then fld v (8 * m + 7) (8 * m) else 0) ∧ t.mem = s.mem) ∧
    (103 ≤ o → exec .teamTableEntryWrite s = .next s))

/-- R163, R164, R411, R412: a park record goes to the fault ring where it has room; Resume lets the wave go on at its
word, Deliver makes it take the cause, and Retire retires it. The events' form and delays are the model's choice (logs 2 and
6). -/
def Obligations.ParkEvents : Prop :=
  (∀ s : State,
    let k := s.args.core
    let wr := fld (Table.get (s.cluster k).regs 0x32000 0) 31 0
    let rd := fld (Table.get (s.cluster k).regs 0x32008 0) 31 0
    let full := (wr + 2 ^ 32 - rd) % 2 ^ 32 = 256
    let a := s.cfg.frbase + 8192 * k + 32 * (wr % 256)
    ((s.cluster k).faultWait = [] ∨ full → exec .faultRingAppend s = .next s) ∧
    (∀ r rest, (s.cluster k).faultWait = r :: rest → ¬ full →
      ∃ t, exec .faultRingAppend s = .next t ∧ (t.cluster k).faultWait = rest ∧
        (Table.get (t.cluster k).regs 0x32000 0).toNat = (wr + 1) % 2 ^ 32 ∧
        (s.paKind a = .dram → ∀ b, Bytes.read t.mem b =
          if a ≤ b ∧ b < a + r.length then r.getD (b - a) 0 else Bytes.read s.mem b))) ∧
  (∀ s : State, s.parkOf s.args.core s.args.slot = none →
    exec .parkResume s = .next s ∧ exec .parkDeliver s = .next s ∧ exec .parkRetire s = .next s) ∧
  (∀ s : State, s.recordWaits s.args.core s.args.slot = true → s.parkOf s.args.core s.args.slot = none) ∧
  (∀ (s : State) (p : Park), s.parkOf s.args.core s.args.slot = some p →
    let k := evSlot s
    let w := k.wave
    (p.late = false →
      ∃ t, exec .parkResume s = .next t ∧ runsAs s t { w with park := none, lateResolved := false }) ∧
    (p.late = true → p.held = [] → p.msgs = [] → k.state = .parked →
      ∃ t, exec .parkResume s = .next t ∧ runsAs s t
        { w with
          park := none, lateResolved := false,
          pending := w.pending.map (fun o => if o.due = parkDue then { o with due := 0 } else o) }) ∧
    (p.handsOff = false → p.msgs = [] → k.state = .parked → noSequencer s s.args.core s.args.slot →
      let q : Wave := { w with pending := w.pending.filter (fun o => decide (o.due ≠ parkDue)) }
      ∃ t, exec .parkDeliver s = .next t ∧
        runsAs s t { q.trapEntry false p.cause p.tval w.pc with park := none, lateResolved := false }) ∧
    (k.prq = false → noSequencer s s.args.core s.args.slot → k.state = .parked →
      ∃ t, exec .parkRetire s = .next t ∧ (slotIn s t).state = .retiring ∧ (slotIn s t).wave.park = none ∧
        (slotIn s t).wave.locks = 0 ∧ (slotIn s t).wave.csrs = { w.csrs with mip := 0 } ∧
        othersKept s t s.args.core s.args.slot ∧ t.mem = s.mem ∧
        (s.cycle, Instr.waveRetireComplete, ({ core := s.args.core, slot := s.args.slot } : Args)) ∈ t.agenda))

namespace Sys2Proof.Claims

/-- An event stands on the agenda `delay` cycles after the cycle of `s`. -/
def planned (s t : State) (delay : Nat) (i : Instr) (a : Args) : Prop := (s.cycle + delay, i, a) ∈ t.agenda

/-- Memory from `a` holds the bytes, and every other byte is as it was. -/
def written (s t : State) (a : Nat) (bs : List Byte) : Prop :=
  ∀ b, Bytes.read t.mem b = if a ≤ b ∧ b < a + bs.length then bs.getD (b - a) 0 else Bytes.read s.mem b

/-- A command that has not ended ends: where the journal has room, its COMPLETE record stands there and it has left the
intake list; else its record waits behind those that wait, and the command stays until the record stands (R272, R273). -/
def completed (s t : State) (c : Command) (status : Nat) : Prop :=
  let n := s.journalNext
  let a := fld (s.reg jbase) 51 5 * 32 + 32 * (n % s.journalSize)
  c.ended = false →
    (s.journalFull = false → s.journalWait = [] →
      (∀ d, d ∈ t.commands ↔ d ∈ s.commands ∧ d.seq ≠ c.seq) ∧ t.reg jhead = s.reg jhead + 1 ∧
      (s.paKind a = .dram → pktFlag c.packet 2 = false →
        Bytes.readLE t.mem a 8 = n ∧ Bytes.readLE t.mem (a + 10) 1 = 2 ∧
          Bytes.readLE t.mem (a + 16) 4 = status % 2 ^ 32)) ∧
    (s.journalFull = true ∨ s.journalWait ≠ [] →
      t.commands.length = s.commands.length ∧ (∀ d ∈ t.commands, d.seq = c.seq → d.started = true ∧ d.ended = true) ∧
      ∃ r, t.journalWait = s.journalWait ++ [r] ∧ numAt r 2 1 = 2 ∧ numAt r 16 8 = c.seq % 2 ^ 64)

/-- The command that ring `id` runs. -/
def runOf (s : State) (id : Nat) : Option EngRun := (s.ring id).bind (fun r => r.running)

/-- No line of a core's caches that an invalidation covers is left. -/
def cachesClear (t : State) (v : Inval) (c : Nat) : Prop := ∀ k, ∀ l ∈ (t.core c).lines k, v.coversLine l = false

end Sys2Proof.Claims

/-! ## Translation, messages, drains -/

/-- R28, R188, R191, R195 to R199, R219, R297: requests and walks of a station, the invalidation sequence, the drains of
the release directory, and the two halves of an active message. The delays of 1, 16, 64 and 640 cycles and the events' form are
the model's choice (logs 6 and 2). -/
def Obligations.TranslationAndMessageEvents : Prop :=
  (∀ s : State,
    let k := s.args.a
    let r := s.args.request
    let held := 64 ≤ k ∨ s.stationHolds k r = true
    (held → exec .stationTranslate s = .next s) ∧
    (¬ held → ∃ t, exec .stationTranslate s = .next t ∧
      ((r.key ∈ (t.station k).misses ∧ (t.station k).buffer = (s.station k).buffer ++ [r] ∧
          (s.station k).edge = [] ∧ (s.station k).buffer.length < 4096) ∨
        ((t.station k).misses = (s.station k).misses ∧ (t.station k).buffer = (s.station k).buffer ∧
          (t.station k).edge = (s.station k).edge ++ [r])) ∧
      ((s.station k).misses.length < (t.station k).misses.length → planned s t 640 .stationWalkComplete { a := k }) ∧
      t.cores = s.cores ∧ t.mem = s.mem)) ∧
  (∀ s : State, (s.station s.args.a).misses = [] → exec .stationWalkComplete s = .next s) ∧
  (∀ (s u : State) (rest : List (Nat × Nat)) (r : StationReq) (g : Target),
    (s.station s.args.a).misses = r.key :: rest → (s.station s.args.a).buffer = [r] → (s.station s.args.a).edge = [] →
    (s.modStation s.args.a (fun q => { q with misses := rest, buffer := [] })).translate s.args.a r = (u, .ok g) →
    exec .stationWalkComplete s = .next u) ∧
  (∀ (s u : State) (rest : List (Nat × Nat)) (r : StationReq) (c i : Nat) (f : TFault),
    (s.station s.args.a).misses = r.key :: rest → (s.station s.args.a).buffer = [r] → (s.station s.args.a).edge = [] →
    r.origin = .wave c i →
    (s.modStation s.args.a (fun q => { q with misses := rest, buffer := [] })).translate s.args.a r = (u, .error f) →
    active (u.slotAt c i) → (u.slotAt c i).wave.interruptible = true →
    ∃ t p, exec .stationWalkComplete s = .next t ∧ (t.station s.args.a).misses = rest ∧ (t.slotAt c i).state = .parked ∧
      (t.slotAt c i).wave.park = some p ∧ p.late = true ∧ p.cause = (f.report r).cause ∧ p.tval = (f.report r).tval) ∧
  (∀ (s : State) (e : Nat × Instr),
    e ∈ [(0, Instr.invPageRange), (1, Instr.invWholePasid), (2, Instr.invHostTag), (3, Instr.invEverything)] →
    let d := s.invDescriptor
    let v := invOf d
    let taken := s.inv = none ∧ s.reg trinvh ≠ s.reg trinvt ∧ invValid d = true ∧ v.kind = e.1
    (¬ taken → exec e.2 s = .next s) ∧
    (taken → ∃ t, exec e.2 s = .next t ∧ t.inv = some ([], d) ∧ (t.reg trstat).getLsbD 0 = true ∧ (∀ c, cachesClear t v c) ∧
      (∀ k, ∀ l ∈ (t.station k).leaves, l ∈ (s.station k).leaves ∧ v.covers l.pasid l.vpage l.htag = false) ∧
      (∀ k, k < 64 → planned s t 64 .stationInvAck { a := k }))) ∧
  (∀ s : State, s.inv = none → exec .stationInvAck s = .next s) ∧
  (∀ (s : State) (done : List Nat) (d : List Byte), s.inv = some (done, d) →
    let k := s.args.a
    (64 ≤ k ∨ k ∈ done → exec .stationInvAck s = .next s) ∧
    (k < 64 → k ∉ done → s.messagesOfDie (k / 8) = true →
      exec .stationInvAck s = .next (s.schedule 64 .stationInvAck { a := k })) ∧
    (k < 64 → k ∉ done → s.messagesOfDie (k / 8) = false → done.length ≠ 63 →
      ∃ t, exec .stationInvAck s = .next t ∧ t.inv = some (k :: done, d) ∧
        (∀ l ∈ (t.station k).leaves, (invOf d).covers l.pasid l.vpage l.htag = false) ∧
        (∀ c ∈ s.coresOf (k / 8), cachesClear t (invOf d) c)) ∧
    (k < 64 → k ∉ done → s.messagesOfDie (k / 8) = false → done.length = 63 →
      ∃ t, exec .stationInvAck s = .next t ∧ t.inv = none ∧
        ((invOf d).kind = 3 → t.pctb = (s.reg trpctb).toNat ∧ t.pcount = (s.reg trpctl).toNat) ∧
        ((invOf d).kind ≠ 3 → t.pctb = s.pctb ∧ t.pcount = s.pcount))) ∧
  (∀ (s : State) (e : Nat × Nat),
    let d := s.args.a
    let line := s.args.b
    let c := s.args.core
    ((Table.get (s.die d).reldir line []).find? (fun e => e.1 = c)) = some e →
    ∃ t, exec .releaseDirectoryDrain s = .next t ∧ (c, e.2) ∈ Table.get (t.die d).drains line [] ∧
      (∀ l ∈ (t.core c).laneL1, l.epoch ≤ e.2 → l.dirty = 0) ∧
      planned s t 16 .drainAck { a := d, b := line, core := c }) ∧
  (∀ s : State,
    let d := s.args.a
    let line := s.args.b
    let c := s.args.core
    ((∀ r ∈ Table.get (s.die d).drains line [], r.1 ≠ c) → exec .drainAck s = .next s) ∧
    (∀ r, (Table.get (s.die d).drains line []).find? (fun r => r.1 = c) = some r →
      ∃ t, exec .drainAck s = .next t ∧
        (∀ e, e ∈ Table.get (t.die d).reldir line [] ↔
          e ∈ Table.get (s.die d).reldir line [] ∧ (e.1 ≠ c ∨ r.2 < e.2)) ∧
        (∀ q ∈ Table.get (t.die d).drains line [], q.1 ≠ c) ∧ t.cores = s.cores ∧ t.mem = s.mem)) ∧
  (∀ s : State,
    let c := s.args.core
    let old (b : Nat) : Byte := Bytes.read (s.core c).spad b
    ((s.core c).inbound = [] → exec .activeMessageService s = .next s) ∧
    (s.bankBusy c = true → exec .activeMessageService s = .next (s.schedule 1 .activeMessageService { core := c })) ∧
    (∀ m rest, (s.core c).inbound = m :: rest → s.bankBusy c = false →
      ∃ t a, exec .activeMessageService s = .next t ∧ t.acks = s.acks ++ [a] ∧ a.core = c ∧ a.msg = m ∧
        a.fault = s.messageFault c m ∧ t.mem = s.mem ∧
        planned s t s.lat.activeMessage .activeMessageAck { a := m.tag } ∧
        (a.fault ≠ none ∨ m.kind = .load → ∀ b, Bytes.read (t.core c).spad b = old b) ∧
        (a.fault = none → m.kind ≠ .store → a.value = Bytes.readLE (s.core c).spad m.addr m.size) ∧
        (a.fault = none → m.kind = .store → ∀ b, Bytes.read (t.core c).spad b =
          if m.addr ≤ b ∧ b < m.addr + m.size then BitVec.ofNat 8 (m.operand / 256 ^ (b - m.addr)) else old b))) ∧
  (∀ s : State, (∀ a ∈ s.acks, a.msg.tag ≠ s.args.a) → exec .activeMessageAck s = .next s) ∧
  (∀ (s : State) (a : Ack), s.acks.find? (fun a => a.msg.tag = s.args.a) = some a →
    let m := a.msg
    let k := s.slotAt m.sender m.slot
    (a.fault = none →
      ∃ t, exec .activeMessageAck s = .next t ∧ (∀ b ∈ t.acks, b.msg.tag ≠ m.tag) ∧
        (m.ord = 0 ∨ m.scope = 0 ∨ m.kind = .store → t.mem = s.mem) ∧
        (t.slotAt m.sender m.slot).wave.pending = k.wave.pending.map (fun o => o.receive m.tag a.value)) ∧
    (∀ cause detail, a.fault = some (cause, detail) → active k → k.wave.interruptible = true → k.wave.park = none →
      ∃ t p, exec .activeMessageAck s = .next t ∧ (∀ b ∈ t.acks, b.msg.tag ≠ m.tag) ∧
        (t.slotAt m.sender m.slot).state = .parked ∧ (t.slotAt m.sender m.slot).wave.park = some p ∧ p.late = true ∧
        p.cause = cause ∧ p.tval = BitVec.ofNat 64 m.vaddr ∧ p.msgs = [(a.core, m)]) ∧
    (a.fault.isSome = true → k.state = .parked → k.wave.lateParked = false →
      exec .activeMessageAck s = .next (s.schedule 16 .activeMessageAck { a := m.tag })))

/-! ## Queue interfaces and commands -/

/-- R267 to R269, R351, R352: notify writes and latches, the enabling and disabling of an interface, and the two tables of
queue translation and of vectors. The delays of 4 cycles (log 6), the events' form (log 2) and the vector and function that a
completion raises (log 48) are the model's choice. -/
def Obligations.InterfaceEvents : Prop :=
  (∀ (s u : State) (q : Nat), s.queueOf s.args.a s.args.b = (u, some q) →
    (s.args.c = 0 ∧ s.args.d = 4 →
      ∃ t, exec .notifyWrite s = .next t ∧ t.queueTail q = s.args.e % 2 ^ 32 ∧ t.queuePend q = true ∧
        (u.queueState q = 1 → planned u t 4 .latchTake { a := q })) ∧
    (¬ (s.args.c = 0 ∧ s.args.d = 4) → exec .notifyWrite s = .next u)) ∧
  (∀ (s u : State), s.queueOf s.args.a s.args.b = (u, none) → exec .notifyWrite s = .next u) ∧
  (∀ s : State,
    let q := s.args.a
    let n := (s.queueTail q + 2 ^ 32 - s.queueHead q) % 2 ^ 32
    let may := s.queueState q = 1 ∧ s.queuePend q = true ∧ s.intake = true ∧ Table.find s.takes q = none
    (¬ may → exec .latchTake s = .next s) ∧
    (may → ∃ t, exec .latchTake s = .next t ∧ t.queuePend q = false ∧ t.queueTail q = s.queueTail q ∧
      (2 ^ s.queueLog q < n → t.queueState q = 2 ∧ fld (t.reg (queueReg q 3)) 15 8 = 1) ∧
      (n ≤ 2 ^ s.queueLog q → n ≠ 0 → t.queueState q = 1 ∧ Table.find t.takes q = some (s.queueTail q) ∧
        planned s t 4 .packetAccept { a := q }) ∧
      (n = 0 → t.queueState q = 1 ∧ t.takes = s.takes))) ∧
  (∀ s : State,
    let q := s.args.a
    (2048 ≤ q ∨ s.queueState q ≠ 0 ∨ s.stage ≠ .configured → exec .queueEnable s = .next s) ∧
    (q < 2048 → s.queueState q = 0 → s.stage = .configured →
      ∃ t, exec .queueEnable s = .next t ∧ t.queueState q = 1 ∧ (t.reg (queueReg q 0)).getLsbD 0 = true ∧
        t.queueDom q = s.queueDom q ∧ t.queuePasid q = s.queuePasid q ∧ t.queueHead q = 0 ∧ t.queueTail q = 0 ∧
        t.queuePend q = false) ∧
    (2048 ≤ q ∨ s.queueState q = 0 → exec .queueDisable s = .next s) ∧
    (q < 2048 → s.queueState q ≠ 0 →
      ∃ t, exec .queueDisable s = .next t ∧ t.queueState q = 0 ∧ (t.reg (queueReg q 0)).getLsbD 0 = false ∧
        t.queueDom q = s.queueDom q ∧ Table.find t.takes q = none ∧ t.commands = s.commands)) ∧
  (∀ s : State,
    let f := s.args.a
    (64 ≤ f → exec .stage1Invalidate s = .next s) ∧
    (f < 64 → ∃ t, exec .stage1Invalidate s = .next t ∧ (t.reg (0x15008 + 16 * f)).getLsbD 0 = false ∧
      (∀ k, Table.find t.stage1 k = if k / 32 = f then none else Table.find s.stage1 k) ∧ t.mem = s.mem)) ∧
  (∀ s : State,
    let v := s.args.a
    let e := s.irtEntry v
    let flags := numAt e 12 1
    ((s.reg irtcount).toNat ≤ v → exec .irtMaskClear s = .next s) ∧
    (v < (s.reg irtcount).toNat →
      ∃ t, exec .irtMaskClear s = .next t ∧
        (flags.testBit 0 = true → flags.testBit 2 = true → Out.msi (numAt e 0 8) (numAt e 8 4) ∈ t.outbox) ∧
        (s.paKind (s.irtAddr v + 12) = .dram → written s t (s.irtAddr v + 12) [BitVec.ofNat 8 (flags &&& 0xF9)])))

/-- R207, R220, R269, R271 to R276, R339, R340, R421: acceptance of a packet, and the start and completion of each kind
of command with its record in the journal. The model's choices: the delays of 4, 64 and 1,024 cycles and the events' form
(logs 6 and 2), the domain and interface a command keeps (log 39), what a completion waits for and writes back (log 42), and
the statuses of a launch that the manual leaves to the front end (log 43). -/
def Obligations.CommandEvents : Prop :=
  (∀ (s u : State) (tail : Nat) (p : List Byte),
    let q := s.args.a
    let head := s.queueHead q
    Table.find s.takes q = some tail → s.queueState q = 1 → s.acceptClosed q = false → s.journalFull = false →
    s.journalWait = [] →
    s.engineRead (frontAgent (s.queueDom q) (s.queuePasid q)) (s.queueBase q + 64 * (head % 2 ^ s.queueLog q)) 64 = (u, .ok p) →
    (pktError (u.queuePrioMax q) p = 0 → pktFlag p 3 = false →
      ∃ t, exec .packetAccept s = .next t ∧ t.queueHead q = (head + 1) % 2 ^ 32 ∧ t.reg jhead = u.reg jhead + 1 ∧
        t.commands = u.commands ++ [{ seq := u.journalNext, iface := q, index := head, packet := p, dom := u.queueDom q,
                                      pasid := u.queuePasid q }]) ∧
    (pktError (u.queuePrioMax q) p ≠ 0 →
      ∃ t, exec .packetAccept s = .next t ∧ t.queueState q = 2 ∧ t.queueHead q = (head + 1) % 2 ^ 32 ∧
        fld (t.reg (queueReg q 3)) 15 8 = pktError (u.queuePrioMax q) p ∧ Table.find t.takes q = none ∧
        t.commands = u.commands)) ∧
  (∀ s : State, Table.find s.takes s.args.a = none ∨ s.queueState s.args.a ≠ 1 ∨ s.acceptClosed s.args.a = true →
    exec .packetAccept s = .next s) ∧
  (∀ s : State, s.fatal = true ∨ (∃ h, s.column = some h ∧ h.taken = false) → exec .firmwareIntakeReopen s = .next s) ∧
  (∀ s : State, s.fatal = false → (∀ h, s.column = some h → h.taken = true) →
    ∃ t, exec .firmwareIntakeReopen s = .next t ∧ t.intake = true ∧ t.column = none ∧ t.commands = s.commands ∧ t.mem = s.mem ∧
      (s.column = none → t.cfg = s.cfg) ∧
      (∀ h, s.column = some h → ∀ p ∈ h.pairs, p.2 < s.cfg.colrole.length → t.cfg.colrole[p.2]? = some 8) ∧
      (∀ q tail, Table.find s.takes q = some tail → planned s t 4 .packetAccept { a := q })) ∧
  (∀ (s : State) (c : Command), s.startable 0 = some c → ∃ t, exec .nopPacket s = .next t ∧ completed s t c 0) ∧
  (∀ (s : State) (c : Command), s.startable 2 = some c → ∃ t, exec .signalPacket s = .next t ∧ completed s t c 0) ∧
  (∀ (s u : State) (c : Command) (h : List Byte), s.startable 1 = some c →
    (c.unreadable = true → ∃ t, exec .launchPacket s = .next t ∧ completed s t c 7) ∧
    (c.unreadable = false → s.codeObject c = (u, none) → ∃ t, exec .launchPacket s = .next t ∧ completed u t c 2) ∧
    (c.unreadable = false → s.codeObject c = (u, some h) →
      let need := numAt h 40 4
      let granted := need &&& fld (u.reg (0x20008 + 32 * c.dom)) 2 0 = need
      (¬ granted → ∃ t, exec .launchPacket s = .next t ∧ completed u t c 3) ∧
      (granted → u.unplaceable c h = true → ∃ t, exec .launchPacket s = .next t ∧ completed u t c 1) ∧
      (granted → u.unplaceable c h = false →
        ∃ t, exec .launchPacket s = .next t ∧ t.command c.seq = some { c with started := true } ∧ t.mem = u.mem))) ∧
  (∀ (s : State) (c : Command), s.command s.args.a = some c →
    let waits := ∃ r ∈ s.journalWait, completesCommand r c = true
    (c.ended = false → pktType c.packet = 1 → c.started = true → s.launchLive c.seq = false → s.args.b ∈ [0, 1, 4, 5] →
      ∃ t, exec .commandCompletion s = .next t ∧ completed s t c s.args.b) ∧
    (c.ended = true → waits → exec .commandCompletion s = .next s) ∧
    (c.ended = true → ¬ waits →
      ∃ t, exec .commandCompletion s = .next t ∧ ∀ d, d ∈ t.commands ↔ d ∈ s.commands ∧ d.seq ≠ c.seq)) ∧
  (∀ (s u : State) (c : Command) (first : Bool) (d : Dest),
    (if first then s.startable 3 = some c
      else s.command s.args.a = some c ∧ pktType c.packet = 3 ∧ c.started = true) →
    let s1 := if first then s.startCommand c.seq else s
    let con := if first then Instr.waitPacket else .waitSatisfied
    let g := frontAgent c.dom c.pasid
    s1.engineTarget g .load (pktAddr c.packet) 8 = (u, .ok d) →
    let u1 := match d with
      | .mem _ t => u.drainLine (u.homeDie t.pa) (t.pa / 64)
      | _ => u
    let r := u1.enginePiece g 8 d
    (pktValue c.packet ≤ leValue r.2 → c.ended = false → r.1.journalFull = false → r.1.journalWait = [] →
      ∃ t, exec con s = .next t ∧ ∀ e ∈ t.commands, e.seq ≠ c.seq) ∧
    (leValue r.2 < pktValue c.packet →
      ∃ t, exec con s = .next t ∧ t.commands = r.1.commands ∧ planned r.1 t 1024 .waitSatisfied { a := c.seq })) ∧
  (∀ (s : State) (c : Command), s.startable 4 = some c →
    (s.messagesLeft = true → ∃ t, exec .quiescePacket s = .next t ∧ t.commands = s.commands ∧ t.mem = s.mem ∧
      planned s t 64 .quiescePacket { a := c.seq }) ∧
    (s.messagesLeft = false → ∃ t, exec .quiescePacket s = .next t ∧
      (c.ended = false → s.journalFull = false → s.journalWait = [] → ∀ e ∈ t.commands, e.seq ≠ c.seq))) ∧
  (∀ (s : State) (h n : Nat), Table.find s.forwards s.args.a = some (h, n) →
    (n = 0 → ∃ t, exec .forwardWindowClose s = .next t ∧ Table.find t.forwards s.args.a = none ∧ t.home = s.home ∧ t.mem = s.mem) ∧
    (n ≠ 0 → exec .forwardWindowClose s = .next s))

/-! ## Engines -/

/-- R280 to R285, R287, R288, R315, R396 to R398: an entry starts, runs granules and completes with its record in the ring; a
collective starts once every rank's entry is there. The model's choices: a collective's granule of 64 KiB times the number of
ranks and the matching of entries (log 32), the code of a failed access (log 30), and the delays and the events' form (logs 6
and 2). -/
def Obligations.EngineEvents : Prop :=
  (∀ (s : State) (r : Ring) (p : Poster) (rest : List Poster), s.ring s.args.a = some r → r.running = none →
    r.posters = p :: rest → r.stops p.csa = false → (r.cls = .coll → s.inCut p.dom = false) →
    s.reloading.contains r.engineCode = false → p.aborted = false →
    let i := (s.core r.core).ringRidx r.tile
    s.ringBanks r p.dom i = none →
    ∃ t q n, exec .engineCommandStart s = .next t ∧ t.ring s.args.a = some q ∧ q.posters = rest ∧ q.running = some n ∧
      n.index = i ∧ n.image = (s.core r.core).entryImage r.tile i ∧ n.poster = p) ∧
  (∀ (s u : State) (r : Ring) (q : EngRun), s.rings = [r] → r.id = s.args.a → s.live r = some q →
    let s1 := s.modRun r.id (fun q => { q with waiting := false })
    (r.cls = .coll → q.begun = true →
      let e := CollEntry.ofImage q.image
      let size := if e.op = 1 then 65536 * (((s.group e.group).map (fun g => g.ranks)).getD 1) else 65536
      let part := (q.output.drop q.written).take size
      s1.engineWrite (r.agent q.poster) (e.dst + q.written) part = (u, none) →
      ∃ t n, exec .engineGranuleBoundary s = .next t ∧ runOf t r.id = some n ∧ n.written = q.written + part.length ∧
        (n.finished = true ↔ q.output.length ≤ q.written + part.length) ∧
        t.units q.poster.dom = s.units q.poster.dom - 16) ∧
    (r.cls = .copy → (CopyEntry.ofImage q.image).dir = 2 → q.sealFailed = false →
      let l := Layout.ofBytes q.layout
      let first := q.written / l.esize
      ∀ w f, l.count - first ≤ 4096 / l.esize →
      s1.copyElements r { q with waiting := false } l first (l.count - first) = (u, w, f) →
      ∃ t n, exec .engineGranuleBoundary s = .next t ∧ runOf t r.id = some n ∧ n.written = q.written + w ∧ n.finished = true ∧
        n.failure = (match f with
          | some g => some g.failure
          | none => q.failure) ∧
        t.units q.poster.dom = (if f.isSome then s.units q.poster.dom else s.units q.poster.dom - 1))) ∧
  (∀ (s : State) (r : Ring) (q : EngRun) (e : EngClass × Instr),
    e ∈ [(.copy, Instr.copyCompletion), (.dcz, Instr.decompressionCompletion), (.coll, Instr.collectiveCompletion)] →
    s.ring s.args.a = some r → r.cls = e.1 → r.running = some q → q.finished = true →
    s.ringBanks r q.poster.dom q.index = none →
    let a := (s.core r.core).entryAddr r.tile q.index
    ∃ t, exec e.2 s = .next t ∧ runOf t s.args.a = none ∧
      Bytes.read (t.core r.core).spad (a + 31) = (if q.failure.isSome then 4 else 3) ∧
      Bytes.read (t.core r.core).spad (a + 29) = BitVec.ofNat 8 (q.failure.getD (0, 0, 0, 0)).1 ∧
      (e.1 = .coll → ∀ i ∈ t.insts, i.ring ≠ s.args.a)) ∧
  (∀ (s : State) (r : Ring) (q : EngRun) (g : Group),
    let e := CollEntry.ofImage q.image
    s.ring s.args.a = some r → r.running = some q → s.group e.group = some g → r.cls = .coll → q.finished = false →
    (s.args.b ≠ 0 →
      ∃ t n, exec .collectiveInstanceStart s = .next t ∧ runOf t s.args.a = some n ∧ n.undel = s.args.c % 2 ^ 32 ∧
        n.failure = some (7, 5, 0, 0) ∧ n.finished = true ∧ t.mem = s.mem) ∧
    (s.args.b = 0 → q.begun = false → s.inCut q.poster.dom = true ∨ r.stops q.poster.csa = true →
      exec .collectiveInstanceStart s = .next (s.schedule 64 .collectiveInstanceStart s.args)) ∧
    (s.args.b = 0 → q.begun = false → s.inCut q.poster.dom = false → r.stops q.poster.csa = false →
      (∀ k ∈ g.others, ∃ x y, s.args.peers.find? (fun p => p.1 = k) = some (k, x, y)) →
      (∃ k x y, k ∈ g.others ∧ s.args.peers.find? (fun p => p.1 = k) = some (k, x, y) ∧
        (numAt x 32 1 ≠ g.ranks ∨ (CollEntry.ofImage x).count ≠ e.count)) →
      ∃ t n, exec .collectiveInstanceStart s = .next t ∧ runOf t s.args.a = some n ∧ n.failure = some (6, 0, 0, 0) ∧
        n.finished = true ∧ t.mem = s.mem) ∧
    (∀ (u : State) (mine : List Byte), s.args.b = 0 → q.begun = false → s.inCut q.poster.dom = false →
      r.stops q.poster.csa = false → e.op ≠ 0 →
      (∀ k ∈ g.others, ∃ x y, s.args.peers.find? (fun p => p.1 = k) = some (k, x, y) ∧
        collSame g.ranks e x = true) →
      s.engineRead (r.agent q.poster) e.src (e.srcCount g.ranks * e.esize) = (u, .ok mine) →
      ∃ t n, exec .collectiveInstanceStart s = .next t ∧ runOf t s.args.a = some n ∧ n.begun = true ∧ n.finished = false ∧
        n.output = collResult e g.mine ((List.range g.ranks).map (fun k =>
          if k = g.mine then mine else ((s.args.peers.find? (fun p => p.1 = k)).map (fun p => p.2.2)).getD []))))

/-! ## Host, peers, cuts, links -/

/-- R383, R385, R387 to R391, R394, R399 to R401, R404: what the host and peers read and write, the consistent cut, link
training, expander removal, clock steps and fatal errors. The model's choices: completion codes 0, 1 and 4 (log 50), the window
numbers and the domain of a BAR4 access (log 49), the error counters and what the scrubber does (log 51), the order in which
a cut is made and its 64-cycle step (logs 52 and 6), and the lines the host keeps (log 82). -/
def Obligations.HostEvents : Prop :=
  (∀ s : State,
    let a := s.args.a / 64 * 64
    ∃ t, exec .hostCxlMemRead s = .next t ∧ t.mem = s.mem ∧ (s.args.b ≠ 1 → t.hostCopies = s.hostCopies) ∧
      t.outbox = s.outbox ++ [if s.paKind a = .dram then
          .hostData s.args.d (leBytes 64 (s.readPhys a 64)) (s.poison.contains (a / 64))
        else .hostData s.args.d [] true]) ∧
  (∀ s : State,
    ∃ t, exec .hostCxlMemWrite s = .next t ∧ Out.hostDone s.args.d 0 ∈ t.outbox ∧
      (s.lineThere s.args.a = false → t.mem = s.mem) ∧
      (s.lineThere s.args.a = true → s.paKind s.args.a = .dram → written s t s.args.a s.args.bytes)) ∧
  (∀ s : State,
    let a := s.args.a
    let n := s.args.b
    let u := s.drainLine (s.homeDie a) (a / 64)
    let old := u.readPhys a n
    let legal := (n = 4 ∨ n = 8) ∧ s.args.c ≤ 2
    let there := s.lineThere a = true ∧ s.poisoned a = false ∧ s.args.bytes = []
    let absent := (s.lineThere a = false ∨ s.poisoned a = true) ∧ s.args.bytes = []
    (¬ legal → ∃ t, exec .hostAtomicop s = .next t ∧ Out.hostDone s.args.slot 1 ∈ t.outbox ∧ t.mem = s.mem) ∧
    (legal → absent → ∃ t, exec .hostAtomicop s = .next t ∧ Out.hostDone s.args.slot 4 ∈ t.outbox ∧ t.mem = s.mem) ∧
    (legal → there → s.paKind a = .dram →
      ∃ t, exec .hostAtomicop s = .next t ∧ Out.hostData s.args.slot (leBytes n old) false ∈ t.outbox ∧
        written u t a (leBytes n (match s.args.c with
          | 0 => (old + s.args.d) % 2 ^ (8 * n)
          | 1 => s.args.d % 2 ^ (8 * n)
          | _ => if old = s.args.e % 2 ^ (8 * n) then s.args.d % 2 ^ (8 * n) else old)))) ∧
  (∀ s : State,
    let q := s.args.ioReq
    let reads (v : Nat) : List Out := s.outbox ++ [.hostData q.tag (leBytes q.size v) false]
    (q.window = 0 → q.fn = 0 → q.pasid = none →
      ∃ t, exec .hostCxlioRequest s = .next t ∧ t.mem = s.mem ∧
        (q.write = true → t.outbox = s.outbox ∧ planned s t 0 .registerWrite { a := q.addr, b := q.size, c := q.value }) ∧
        (q.write = false → t.outbox = reads (s.readRegBytes q.addr q.size))) ∧
    (q.window = 2 → q.fn = 0 → q.pasid = none → s.linesThere q.addr q.size = true → s.poisonedIn q.addr q.size = false →
      s.paKind q.addr = .dram →
      ∃ t, exec .hostCxlioRequest s = .next t ∧
        (q.write = true → written s t q.addr (leBytes q.size q.value)) ∧
        (q.write = false → t.mem = s.mem ∧ t.outbox = reads (s.readPhys q.addr q.size))) ∧
    (q.window = 5 → q.fn = 0 → q.pasid = none → q.value = 1 →
      exec .hostCxlioRequest s =
        .next (s.schedule 0 (spdmEvent (numAt s.args.bytes 1 1)) { a := q.addr, bytes := s.args.bytes })) ∧
    (q.window = 5 → q.fn = 0 → q.pasid = none → q.value = 0x80 → numAt s.args.bytes 0 1 = 1 →
      exec .hostCxlioRequest s = .next (s.schedule 0 .domainReset { a := numAt s.args.bytes 4 4 })) ∧
    (5 < q.window ∨ (q.window = 5 ∧ (q.fn ≠ 0 ∨ q.pasid ≠ none)) → ∃ t, exec .hostCxlioRequest s = .next t ∧ t.mem = s.mem ∧
      t.outbox = if q.write then s.outbox else s.outbox ++ [.hostDone q.tag 1])) ∧
  (∀ s : State,
    let a := s.args.a
    let n := s.args.b
    let there := s.peerKnown s.args.core = true ∧ s.lineThere a = true
    (¬ there → ∃ t, exec .peerRequest s = .next t ∧ t.mem = s.mem ∧ Out.hostDone s.args.slot 4 ∈ t.outbox) ∧
    (there → s.args.c = 1 → s.paKind a = .dram →
      ∃ t, exec .peerRequest s = .next t ∧ Out.hostDone s.args.slot 0 ∈ t.outbox ∧
        written (s.drainLine (s.homeDie a) (a / 64)) t a (leBytes n s.args.d)) ∧
    (there → s.args.c = 0 → s.poisoned a = false →
      ∃ t, exec .peerRequest s = .next t ∧ t.mem = (s.drainLine (s.homeDie a) (a / 64)).mem ∧
        Out.hostData s.args.slot (leBytes n ((s.drainLine (s.homeDie a) (a / 64)).readPhys a n)) false ∈ t.outbox)) ∧
  (∀ s : State,
    let l := s.args.a
    let u := s.drainLine (s.homeDie (64 * l)) l
    (s.paKind (64 * l) ≠ .host → exec .hostCxlCacheRequest s = .next s) ∧
    (s.paKind (64 * l) = .host →
      ∃ t, exec .hostCxlCacheRequest s = .next t ∧
        t.outbox = u.outbox ++ (if u.hostLines.contains l then
          [.hostData s.args.d (Bytes.readList u.mem (64 * l) 64) false] else []) ∧
        (s.args.b ≠ 1 → t.hostLines = u.hostLines ∧ t.mem = u.mem) ∧
        (s.args.b = 1 → l ∉ t.hostLines ∧ written u t (64 * l) (s.args.bytes.take 64)))) ∧
  (∀ s : State, s.cutState = 0 → (s.reg 0x19000).getLsbD 32 = true → s.column.isSome = true →
    exec .cutGo s = .next (s.schedule 64 .cutGo {})) ∧
  (∀ s : State, s.cutState = 0 → (s.reg 0x19000).getLsbD 32 = true → s.column = none →
    ∃ t, exec .cutGo s = .next t ∧ t.cutState = 1 ∧ t.cutEpoch = fld (s.reg 0x19000) 31 0 ∧ t.mem = s.mem ∧
      planned s t 64 .cutGo {} ∧
      (∀ c i, (s.slotAt c i).state ≠ .free → s.jobDomain (s.slotAt c i).wave.dom = true → (t.slotAt c i).prq = true)) ∧
  (∀ s : State, (s.reg 0x19000).getLsbD 32 = false → exec .cutGo s = .next s) ∧
  (∀ s : State,
    let p := s.args.a
    let e := s.args.b
    ∃ t, exec .cutMarkerArrival s = .next t ∧ t.mem = s.mem ∧ t.cores = s.cores ∧
      (s.cutState = 0 → (p, e) ∈ t.markers) ∧
      (s.cutState ≠ 0 → e ≠ s.cutEpoch → (t.reg 0x19008).getLsbD 2 = true ∧ t.markers = s.markers) ∧
      (s.cutState = 1 → e = s.cutEpoch → s.markersSent = true → (∀ q ∈ s.jobPeers, q = p ∨ (q, e) ∈ s.markers) →
        t.cutState = 2)) ∧
  (∀ s : State,
    let may := s.cutState = 3 ∧ (s.reg 0x19000).getLsbD 33 = true
    (¬ may → exec .cutResume s = .next s) ∧
    (may → ∃ t, exec .cutResume s = .next t ∧ t.cutState = 0 ∧ (t.reg 0x19000).getLsbD 33 = false ∧ t.markersSent = false ∧
      t.mem = s.mem)) ∧
  (∀ s : State,
    let st := s.args.a
    (4 < st → exec .clockStepChange s = .next s) ∧
    (st ≤ 4 → s.cycle % 16 ≠ 0 ∨ s.mgmtBusy = true → ∃ t, exec .clockStepChange s = .next t ∧ t.reg 0x1A008 = s.reg 0x1A008 ∧
      planned s t (16 - s.cycle % 16) .clockStepChange s.args) ∧
    (st ≤ 4 → s.cycle % 16 = 0 → s.mgmtBusy = false → ∃ t, exec .clockStepChange s = .next t ∧ fld (t.reg 0x1A008) 2 0 = st ∧
      (t.reg 0x1A008).getLsbD 3 = decide (st ≠ 0) ∧ (s.args.b = 1 → (t.reg 0x1A008).getLsbD 4 = true) ∧ t.mem = s.mem)) ∧
  (∀ (s : State) (i : Instr), i ∈ [Instr.criticalTemperatureStop, .dieLinkFatalError] →
    ∃ t, exec i s = .next t ∧ t.fatal = true ∧ t.intake = false ∧ t.outbox = s.outbox ++ [.fatal] ∧ t.mem = s.mem ∧
      t.cores = s.cores ∧ (i = .criticalTemperatureStop → (t.reg 0x1A008).getLsbD 4 = true)) ∧
  (∀ s : State,
    let d := s.args.a
    let i := s.args.b - 1
    ∃ t, exec .scrubCorrection s = .next t ∧
      (s.args.b = 0 ∨ s.args.c = 0 ∨ i ≠ 7 → t.mem = s.mem ∧ t.cores = s.cores) ∧
      (s.args.b = 0 → Table.get (t.die d).ecc 15 0 = min (2 ^ 64 - 1) (Table.get (s.die d).ecc 15 0 + 1)) ∧
      (s.args.b ≠ 0 → i < 12 → s.args.c = 0 →
        Table.get (t.die d).ecc i 0 = min (2 ^ 64 - 1) (Table.get (s.die d).ecc i 0 + 1) ∧ t.poison = s.poison) ∧
      (s.args.b ≠ 0 → i < 12 → s.args.c ≠ 0 →
        Table.get (t.die d).eccBad i 0 = min (2 ^ 64 - 1) (Table.get (s.die d).eccBad i 0 + 1) ∧
        (i ∈ [5, 6, 7, 8, 9, 11] ∨ (i = 1 ∧ 0xE000000000000 ≤ 64 * s.args.d ∧ 64 * s.args.d < 0xE000030000000) →
          s.args.d ∈ t.poison) ∧
        (i = 7 → ∀ c ∈ s.coresOf d, ∀ l ∈ (t.core c).icache, l.pline ≠ s.args.d))) ∧
  (∀ (s : State) (r : Nat × Nat), s.populated[s.args.a]? = some r →
    let lpddr := s.pkg.form = 2 ∧ s.args.a = 0
    (lpddr → exec .memoryExpanderRemoval s = .next s) ∧
    (¬ lpddr → ∃ t, exec .memoryExpanderRemoval s = .next t ∧ t.mem = s.mem ∧
      (∀ pa, r.1 ≤ pa → pa < r.1 + r.2 → t.secondTier pa = false))) ∧
  (∀ s : State,
    let o := 0x18000 + 8 * s.args.a
    (8 ≤ s.args.a ∨ s.spdmUp = false → exec .linkTraining s = .next s) ∧
    (s.args.a < 8 → s.spdmUp = true → s.args.b = 8 ∨ s.args.b = 16 → s.args.c = 5 ∨ s.args.c = 6 →
      ∃ t, exec .linkTraining s = .next t ∧ fld (t.reg o) 12 8 = s.args.b ∧ fld (t.reg o) 7 4 = s.args.c ∧
        fld (t.reg o) 3 0 = fld (s.reg o) 3 0 ∧ t.mem = s.mem))

/-! ## Boot, management, registers -/

namespace Sys2Proof.Claims

/-- The boot chain and the SPDM answers (R405 to R409). -/
def bootAndAnswers : Prop :=
  (∀ s : State,
    (s.stage ≠ .reset ∨ s.pickSlot 1 (fun _ => true) = none → exec .bootRomStage s = .next s) ∧
    (∀ i, s.stage = .reset → s.pickSlot 1 (fun _ => true) = some i →
      ∃ t, exec .bootRomStage s = .next t ∧ t.stage = .firstStage ∧
        t.measOf 0 = shake256 64 (s.measOf 0 ++ imageDigest (s.image 1 i)) ∧ Table.get t.slotInUse 1 0 = i ∧
        planned s t 1000 .firstStageBoot {})) ∧
  (∀ s : State,
    let found (k : Nat) : Bool := (s.pickSlot k (fun _ => true)).isSome
    (s.stage ≠ .firstStage → exec .firstStageBoot s = .next s) ∧
    (s.stage = .firstStage →
      ∃ t, exec .firstStageBoot s = .next t ∧ t.mem = s.mem ∧
        t.stage = (if found 2 && found 3 && found 4 then .configured else .failed) ∧
        t.cfg = (match s.pickSlot 5 tableOk with
          | some i => cfgOf (imageBody (s.image 5 i))
          | none => {}))) ∧
  (∀ (s : State) (e : Nat × Instr),
    e ∈ [(0x04, Instr.getVersion), (0x61, .getCapabilities), (0x63, .negotiateAlgorithms), (0x01, .getDigests),
      (0x02, .getCertificate), (0x03, .challenge), (0x60, .getMeasurements), (0x7F, .spdmUnsupportedRequest)] →
    let q := s.args.bytes
    let legal := (e.1 = 2 → numAt q 2 1 % 16 = 0 ∧ numAt q 4 2 < certChain.length) ∧ (e.1 = 3 → numAt q 2 1 = 0) ∧
      (e.1 = 0x60 → numAt q 3 1 = 0xFF ∨ (1 ≤ numAt q 3 1 ∧ numAt q 3 1 ≤ 8))
    let port := s.args.a
    let up := s.spdmUp = true ∧ s.pkg.hostPorts.testBit port = true
    (¬ up → exec e.2 s = .next s) ∧
    (up → s.mgmtBusy = true →
      ∃ t, exec e.2 s = .next t ∧ t.outbox = s.outbox ++ [.answer port 0x7F [0x13, 0x7F, 3, 0]] ∧ t.transcripts = s.transcripts) ∧
    (up → s.mgmtBusy = false → legal →
      ∃ t msg, exec e.2 s = .next t ∧ t.outbox = s.outbox ++ [.answer port e.1 msg] ∧ msg.getD 1 0 = BitVec.ofNat 8 e.1 ∧
        (∀ k, k ≠ port → Table.find t.transcripts k = Table.find s.transcripts k) ∧ t.mem = s.mem ∧ t.cores = s.cores))

/-- Domain and queue reset, image writes and activations, refused while the management core restarts (R413 to R417). -/
def serviceRequests : Prop :=
  (∀ (s : State) (i : Instr), i ∈ [Instr.domainReset, .queueReset, .imageWrite, .activateColumnFirmware, .spare, .replay] →
    s.args.b = 0 ∨ i ≠ .activateColumnFirmware →
    (s.mgmtUp = false → exec i s = .next s) ∧
    (s.mgmtUp = true → s.mgmtBusy = true →
      ∃ t, exec i s = .next t ∧ t.outbox = s.outbox ++ [.managed 2] ∧ t.mem = s.mem ∧ t.cores = s.cores)) ∧
  (∀ s : State, s.mgmtUp = true → s.mgmtBusy = false →
    let d := s.args.a
    (256 ≤ d → ∃ t, exec .domainReset s = .next t ∧ t.outbox = s.outbox ++ [.managed 1] ∧ t.mem = s.mem) ∧
    (d < 256 → ∃ t, exec .domainReset s = .next t ∧ Out.managed 0 ∈ t.outbox ∧ t.units d = 0 ∧
      (∀ k, k < 8 → ∀ e ∈ (t.die k).l2, e.2.1 ≠ d) ∧ (∀ c k, ∀ l ∈ (t.core c).lines k, l.dom ≠ d))) ∧
  (∀ s : State, s.mgmtUp = true → s.mgmtBusy = false → s.args.a = 0 →
    (s.args.b < 2048 → ∃ t, exec .queueReset s = .next t ∧ Out.managed 0 ∈ t.outbox ∧ t.queueState s.args.b = 0) ∧
    (2048 ≤ s.args.b → ∃ t, exec .queueReset s = .next t ∧ t.outbox = s.outbox ++ [.managed 1] ∧ t.mem = s.mem)) ∧
  (∀ s : State, s.mgmtUp = true → s.mgmtBusy = false →
    let k := s.args.a
    let o := s.args.b
    let n := s.args.bytes.length
    (k = 0 ∨ 5 < k → ∃ t, exec .imageWrite s = .next t ∧ t.outbox = s.outbox ++ [.managed 1] ∧ t.flash = s.flash) ∧
    (1 ≤ k → k ≤ 5 → o + n ≤ 256 + 2 ^ 24 →
      ∃ t, exec .imageWrite s = .next t ∧ t.outbox = s.outbox ++ [.managed 0] ∧ t.mem = s.mem ∧
        (∀ b, b < n → (t.image k (s.spareSlot k)).getD (o + b) 0 = s.args.bytes.getD b 0) ∧
        (∀ b, b < (s.image k (s.spareSlot k)).length → b < o ∨ o + n ≤ b →
          (t.image k (s.spareSlot k)).getD b 0 = (s.image k (s.spareSlot k)).getD b 0))) ∧
  (∀ s : State, s.mgmtUp = true → s.mgmtBusy = false → s.args.b = 0 →
    let ok (k : Nat) : Bool := s.imageValid k (s.image k (s.spareSlot k))
    (ok 2 = true → ∃ t, exec .activateManagementFirmware s = .next t ∧ t.mgmtBusy = true ∧
      Table.get t.slotInUse 2 0 = s.spareSlot 2 ∧ Out.managed 0 ∈ t.outbox) ∧
    (ok 2 = false → ∃ t, exec .activateManagementFirmware s = .next t ∧ t.slotInUse = s.slotInUse ∧
      t.outbox = s.outbox ++ [.managed 3]) ∧
    (ok 3 = true → s.column = none → s.cfg.colrole.any (fun r => bit r 3) = true →
      ∃ t, exec .activateColumnFirmware s = .next t ∧ t.intake = false ∧ Table.get t.slotInUse 3 0 = s.spareSlot 3 ∧
        t.column = some { pairs := handoverPairs s.cfg.colrole } ∧
        Out.managed 0 ∈ t.outbox ∧ planned s t 50000 .activateColumnFirmware { b := 1 }) ∧
    (s.column.isSome = true → exec .activateColumnFirmware s = .next (s.managed 2)) ∧
    (s.reloadsEngines = true → exec .activateEngineMicrocode s = .next (s.managed 2)) ∧
    (ok 4 = true → s.reloadsEngines = false → ∃ t, exec .activateEngineMicrocode s = .next t ∧ Table.get t.slotInUse 4 0 = s.spareSlot 4 ∧
      Out.managed 0 ∈ t.outbox ∧ planned s t 64 .activateEngineMicrocode { b := 1 })) ∧
  (∀ (s : State) (h : ColHandover), s.column = some h →
    (s.args.b = 1 → (∀ e ∈ s.cores, e.2.bctl.getLsbD 0 = false) →
      ∃ t, exec .activateColumnFirmware s = .next t ∧
        t.column = some { h with stored := some (s.commands.map (fun c => c.seq)) } ∧ t.mem = s.mem ∧
        planned s t 25000 .activateColumnFirmware { b := 2 }) ∧
    (∀ seqs, s.args.b = 2 → h.stored = some seqs →
      ∃ t, exec .activateColumnFirmware s = .next t ∧ (∃ g, t.column = some g ∧ g.pairs = h.pairs ∧ g.taken = true) ∧
        (∀ c, c ∈ t.commands ↔ c ∈ s.commands ∧ c.seq ∈ seqs) ∧ planned s t 25000 .firmwareIntakeReopen {} ∧
        (∀ new old, h.pairs = [(new, old)] →
          t.cfg.colrole = s.cfg.colrole.set new (s.cfg.colrole.getD old 0) ∧
          ∀ k, k < 16 →
            (t.core (96 * k + s.cfg.colmap.getD new 0)).fwall.getLsbD 0 =
                (s.core (96 * k + s.cfg.colmap.getD old 0)).fwall.getLsbD 0 ∨
              96 ≤ s.cfg.colmap.getD new 0 ∨ 96 ≤ s.cfg.colmap.getD old 0))) ∧
  (∀ s : State, s.args.b = 1 → ∃ t, exec .activateManagementFirmware s = .next t ∧ t.mgmtBusy = false ∧ t.outbox = s.outbox ∧
    t.mem = s.mem ∧ t.cores = s.cores)

/-- The requests that spare a core and replay a command (R418 to R420). -/
def sparingAndReplay : Prop :=
  (∀ s : State, s.mgmtUp = true → s.mgmtBusy = false →
    let c := s.args.core
    let refused := 1536 ≤ c ∨ (s.core c).fwall.getLsbD 0 = true
    (refused → ∃ t, exec .spare s = .next t ∧ t.outbox = s.outbox ++ [.managed 1] ∧ t.cores = s.cores) ∧
    (¬ refused → s.column.isSome = true → exec .spare s = .next (s.managed 2)) ∧
    (¬ refused → s.column = none → ∃ t, exec .spare s = .next t ∧ t.outbox = s.outbox ++ [.managed 0] ∧ t.mem = s.mem ∧
      (t.core c).fwall.getLsbD 1 = true ∧ (∀ i, i < 16 → (s.slotAt c i).state ≠ .free → (t.slotAt c i).prq = true))) ∧
  (∀ (s : State), s.mgmtUp = true → s.mgmtBusy = false → s.column.isSome = true → exec .replay s = .next (s.managed 2)) ∧
  (∀ (s u : State), s.mgmtUp = true → s.mgmtBusy = false → s.column = none →
    let a := s.cfg.recbase + 2048 * (s.args.a % 2 ^ s.cfg.rlog)
    let slot := s.saveRead a 2048
    let wrong := s.cfg.recbase = 0 ∨ 256 ≤ s.args.b ∨ numAt slot 0 8 ≠ s.args.a ∨ s.args.c % 8 ≠ 0
    (wrong → ∃ t, exec .replay s = .next t ∧ t.outbox = s.outbox ++ [.managed 1] ∧ t.commands = s.commands) ∧
    (¬ wrong → s.replayDomain s.args.b = false →
      ∃ t, exec .replay s = .next t ∧ t.outbox = s.outbox ++ [.managed 3] ∧ t.commands = s.commands) ∧
    (¬ wrong → s.replayDomain s.args.b = true → s.replayMatches (frontAgent s.args.b s.args.d) slot s.args.pairs = (u, true) →
      ∃ t c, exec .replay s = .next t ∧ Out.managed 0 ∈ t.outbox ∧ t.commands = u.commands ++ [c] ∧ c.dom = s.args.b ∧
        c.pasid = s.args.d ∧ c.started = false ∧ planned u t 4 .launchPacket { a := c.seq }))

/-- Core reset, device reset and register writes (R267, R383). -/
def resetsAndWrites : Prop :=
  (∀ s : State, ∃ t, exec .coreReset s = .next t ∧ (t.core s.args.core).resetAt = s.cycle ∧
    (t.core s.args.core).fwall = (s.core s.args.core).fwall ∧
    (∀ m ∈ (t.core s.args.core).send, m.admitted.isSome = true ∧ m.aborted = true)) ∧
  (∀ s : State, ∃ t, exec .deviceReset s = .next t ∧ t.cores = [] ∧ t.clusters = [] ∧ t.regs = [] ∧ t.commands = [] ∧
    t.stage = .reset ∧ t.cycle = 0 ∧ t.fatal = false ∧ t.flash = s.flash ∧ t.rootDigest = s.rootDigest ∧ t.minSvn = s.minSvn ∧
    t.pkg.form = s.pkg.form ∧ t.agenda = [(1000, .bootRomStage, {})]) ∧
  (∀ (s : State) (v : Nat), s.args.b = 8 → s.args.c = v → v < 2 ^ 64 →
    ∃ t, exec .registerWrite s = .next t ∧
      (∀ q, q < 2048 → s.args.a = queueReg q 1 → s.queueState q = 0 →
        t.reg (queueReg q 1) = BitVec.ofNat 64 v &&& 0x1FFFFFFFFFFC0 ∧ t.mem = s.mem ∧ t.cores = s.cores) ∧
      (∀ d, d < 256 → s.args.a = 0x20008 + 32 * d → (t.reg (0x20008 + 32 * d)).toNat = v % 8) ∧
      (∀ c, c < 1536 → s.args.a = 0x1000000 + 0x2000 * c + 0x280 →
        (t.core c).fwall = if s.args.d = 1 then BitVec.ofNat 64 (v % 4) else (s.core c).fwall) ∧
      (∀ c, c < 1536 → s.args.a = 0x1000000 + 0x2000 * c + 0x80 → (s.core c).bctl.getLsbD 0 = false → v % 2 = 1 →
        s.column = none → (t.core c).bctl.getLsbD 0 = true ∧
        planned s t 8 (if numAt (s.core c).record 0 1 = 2 then .restoreBind else .newWaveBind) { core := c }) ∧
      (s.args.a = 0x19000 → s.cutState = 2 → v.testBit 33 = true → v.testBit 32 = false →
        t.cutState = 3 ∧ (t.reg 0x19000).getLsbD 33 = true ∧ planned s t 0 .cutResume {}))

end Sys2Proof.Claims

/-- R405 to R408, R413 to R420: the boot chain, SPDM answers, and the requests of live service. The model's choices: when the
boot chain starts and the delays of 4, 8, 64, 1,000, 25,000, 50,000 and 100,000 cycles (logs 4 and 6), what a reset leaves (log
45), the order of a domain's and a device's reset, of a column's handover and of a microcode reload (logs 53 to 56), sequence
numbers and replays (log 57), who may write the firewall (log 58), and the SPDM codes, layouts and transcripts (log 62). -/
def Obligations.ManagementEvents : Prop :=
  bootAndAnswers ∧ serviceRequests ∧ sparingAndReplay ∧ resetsAndWrites

namespace Sys2Proof.Claims

/-! ### The machine as a whole -/

/-- Words written out from the encodings of the manual, as the number of their bits, with what each stands for. -/
def specWords : List (Nat × Instr) := [
  (0x00000013, .riscvScalarInstruction (.opImm .addi 0 0 0)),
  (0x04038393, .riscvScalarInstruction (.opImm .addi 7 7 64)),
  (0x00000073, .ecall),
  (0x0000602B, .waveEnd),
  (0x1000602B, .yield),
  (0x0600102B, .fenceScope 3),
  (0x1030102B, .pfence 3),
  (0x06C5A52B, .waita 3 12 11 10),
  (0x0800000C0400007F, .vadd { len := 0, la := 0, guard := 0, gneg := false, vd := 1, va := 3, vb := 0, func := 0, ty := 2, imm := 0 }),
  (0x04038393 * 2 ^ 96 + 0x880018141000417F,
    .pairedWord 0 { len := 2, la := 0, guard := 2, gneg := false, vd := 4, va := 5, vb := 6, func := 0, ty := 2, imm := 0 }
      false (.opImm .addi 7 7 64))]

/-- The running wave that acts may fetch and run its own word now: no cause, interrupt or request comes first (R165). -/
def mayRun (u : State) : Prop :=
  u.slot.state = .running ∧ u.wave.raised = none ∧ u.wave.deferred = [] ∧ u.slot.prq = false ∧ u.interrupts = false

/-- No device event is due, nothing has stopped the cores, and core `c` acts next. -/
def coreActs (s : State) (c : Nat) : Prop :=
  (∀ e, s.agenda.head? = some e → s.cycle < e.1) ∧ s.fatal = false ∧ s.half = false ∧ s.nextCore = some c

end Sys2Proof.Claims

/-! ## Encodings, steps, reset, memory -/

/-- R59, R61, R63, R65, R68, R71, R76: a few words, written out from the manual's encodings, decode to what they stand for. -/
def Obligations.DecodeOfSpecWords : Prop := ∀ q ∈ specWords, decode (BitVec.ofNat 128 q.1) = .ok q.2

/-- R59 to R63, R65 to R69, R71, R72: decoding the encoding of a well-formed instruction gives it back, with its length; and
every word that decodes is a well-formed instruction whose encoding is the bits it was read from. -/
def Obligations.DecodeEncode : Prop :=
  (∀ (i : Instr) (e : BitVec 128) (n : Nat), i.wellFormed = true → encode i = some (e, n) →
    decode e = .ok i ∧ wordBytes e.toNat = some n) ∧
  (∀ (b : BitVec 128) (i : Instr), decode b = .ok i →
    i.wellFormed = true ∧
      ∃ e n, encode i = some (e, n) ∧ wordBytes b.toNat = some n ∧ b.toNat % 2 ^ (8 * n) = e.toNat)

/-- R18, R59, R73, R165: the step of a core whose wave may run its word fetches at the wave's pc and is `exec` of the decoded
instruction, at the state in which the turn has been counted; a word that issues nothing may lend the turn where the wave was
waiting, and the narrowing flags that became complete at the turn are added after a word that writes `nround` as a CSR. A
device event that is due is `exec` of it with its operands; where every core has acted, the next cycle begins. That due
events come first, that the cores of a cycle act in rising number and that then the next cycle begins are the model's choice
(logs 2 and 3), and so is how a turn is lent (log 18). -/
def Obligations.StepRunsDecodedWord : Prop :=
  (∀ (s : State) (c n : Nat) (b : BitVec 128) (i : Instr),
    let u := (s.turnOf c).beginTurn
    let pc := u.wave.pc.toNat
    coreActs s c → (s.turnOf c).slot.state = .running → (s.turnOf c).unopened = none → mayRun u →
    pc % 4 = 0 → u.codeAt pc = some b → wordBytes b.toNat = some n → pc % 32 + n ≤ 32 → (n = 16 → pc % 16 = 0) →
    decode b = .ok i →
    step s = (match exec i u with
      | .next t => .next ((endTurn u.wave.wait.isSome { t with half := u.halfTurn && t.verdict = .issued }).orFlags c
          (s.coreCycle c % 16) (s.turnOf c).lateFlags)
      | o => o)) ∧
  (∀ (s : State) (c : Nat), (s.turnOf c).slot.state = .running →
    let u := (s.turnOf c).beginTurn
    u.wave.pc = (s.turnOf c).wave.pc ∧ u.wave.csrs.turn = (s.turnOf c).wave.csrs.turn + 1 ∧ u.curCore = c ∧
      u.curSlot = s.coreCycle c % 16 ∧ u.mem = s.mem) ∧
  (∀ (b : Bool) (t : State), t.verdict = .issued → endTurn b t = t) ∧
  (∀ (s : State) (n : Nat) (i : Instr) (a : Args) (rest : List (Nat × Instr × Args)),
    s.agenda = (n, i, a) :: rest → n ≤ s.cycle → step s = exec i { s with agenda := rest, args := a }) ∧
  (∀ s : State, (∀ e, s.agenda.head? = some e → s.cycle < e.1) → s.fatal = false → s.half = false → s.nextCore = none →
    step s = .next s.nextCycle)

/-- R18, R87, R178, R406, R407: after reset the core clocks stand at 0, every slot is free, every measurement register is
zero, no queue interface is enabled, no command is in flight and the memory lists nothing. That a byte of memory then reads
as zero is the model's choice (DESIGN CHOICE, log 1), and so is the cycle at which the boot ROM runs (DESIGN CHOICE, log 4). -/
def Obligations.ResetState : Prop :=
  State.reset.cycle = 0 ∧ (∀ c, State.reset.coreCycle c = 0) ∧ (∀ c i, (State.reset.slotAt c i).state = .free) ∧
    (∀ k, k < 8 → State.reset.measOf k = List.replicate 64 0) ∧ (∀ q, q < 2048 → State.reset.queueState q = 0) ∧
    State.reset.commands = [] ∧ State.reset.fatal = false ∧ State.reset.stage = .reset ∧
    Memory.wf State.reset.mem = true ∧ (∀ a, Bytes.read State.reset.mem a = 0) ∧
    State.reset.agenda = [(1000, .bootRomStage, {})]

/-- R2, R178, R189: every step that gives a next state keeps the memory in its canonical form: addresses strictly rising,
and no entry equal to what an unlisted address reads as. -/
def Obligations.MemoryCanonicalStep : Prop :=
  ∀ s t : State, Memory.wf s.mem = true → step s = .next t → Memory.wf t.mem = true
end

