-- ==== Sys2Proof/Laws/Tables.lean ====
section
/-! SUPPORT. Laws of the sparse tables and of byte stores: read after write, and the canonical form every memory
operation keeps. -/

namespace Sys2Proof.Machine

variable {β : Type}

@[simp] theorem Table.find_nil (k : Nat) : Table.find ([] : Table β) k = none := rfl

@[simp] theorem Table.find_put_same (t : Table β) (k : Nat) (v : β) : Table.find (Table.put t k v) k = some v := by
  induction t with
  | nil => simp [Table.put, Table.find]
  | cons e t ih =>
    obtain ⟨a, b⟩ := e
    simp only [Table.put]
    split
    · simp [Table.find]
    · split
      · simp [Table.find]
      · simp [Table.find, *]

@[simp] theorem Table.find_put_other (t : Table β) {k j : Nat} (v : β) (h : j ≠ k) :
    Table.find (Table.put t k v) j = Table.find t j := by
  induction t with
  | nil => simp [Table.put, Table.find, Ne.symm h]
  | cons e t ih =>
    obtain ⟨a, b⟩ := e
    simp only [Table.put]
    split
    · simp [Table.find, Ne.symm h]
    · split
      · subst a; simp [Table.find, Ne.symm h]
      · simp [Table.find, ih]

@[simp] theorem Table.get_put_same (t : Table β) (k : Nat) (v d : β) : Table.get (Table.put t k v) k d = v := by
  simp [Table.get]

@[simp] theorem Table.get_put_other (t : Table β) {k j : Nat} (v d : β) (h : j ≠ k) :
    Table.get (Table.put t k v) j d = Table.get t j d := by
  simp [Table.get, h]

@[simp] theorem Table.find_erase_same (t : Table β) (k : Nat) : Table.find (Table.erase t k) k = none := by
  induction t with
  | nil => rfl
  | cons e t ih =>
    obtain ⟨a, b⟩ := e
    simp only [Table.erase]
    split
    · exact ih
    · simp [Table.find, *]

@[simp] theorem Table.find_erase_other (t : Table β) {k j : Nat} (h : j ≠ k) :
    Table.find (Table.erase t k) j = Table.find t j := by
  induction t with
  | nil => rfl
  | cons e t ih =>
    obtain ⟨a, b⟩ := e
    simp only [Table.erase]
    split
    · subst a; simp [Table.find, Ne.symm h, ih]
    · simp [Table.find, ih]

/-! ### Canonical form -/

/-- Every key of a table is above `k`. -/
def Table.above (k : Nat) (t : Table β) : Bool := t.all (fun e => decide (k < e.1))

theorem Table.rising_cons (a : Nat) (b : β) (t : Table β) :
    Table.rising ((a, b) :: t) = (Table.above a t && Table.rising t) := by
  induction t generalizing a b with
  | nil => rfl
  | cons e t ih =>
    obtain ⟨c, d⟩ := e
    have key : Table.above c t = true → a < c → Table.above a t = true := by
      intro h hlt
      simp only [Table.above, List.all_eq_true, decide_eq_true_eq] at *
      exact fun x hx => Nat.lt_trans hlt (h x hx)
    simp only [Table.rising, ih, Table.above, List.all_cons]
    cases hac : decide (a < c)
    · simp
    · cases hct : Table.above c t
      · simp [Table.above] at hct; simp [hct]
      · have := key hct (by simpa using hac)
        simp only [Table.above] at this hct
        simp [this, hct]

theorem Table.above_put {k a : Nat} (v : β) {t : Table β} (h : Table.above k t = true) (hk : k < a) :
    Table.above k (Table.put t a v) = true := by
  induction t with
  | nil => simp [Table.put, Table.above, hk]
  | cons e t ih =>
    obtain ⟨c, d⟩ := e
    simp only [Table.above, List.all_cons, Bool.and_eq_true, decide_eq_true_eq] at h
    have := ih h.2
    simp only [Table.above] at this
    simp only [Table.put]
    split
    · simp [Table.above, hk, h.1, h.2]
    · split
      · simp [Table.above, hk, h.2]
      · simp [Table.above, h.1, this]

theorem Table.rising_put (t : Table β) (k : Nat) (v : β) (h : Table.rising t = true) :
    Table.rising (Table.put t k v) = true := by
  induction t with
  | nil => rfl
  | cons e t ih =>
    obtain ⟨a, b⟩ := e
    have h' := h
    rw [rising_cons, Bool.and_eq_true] at h'
    simp only [Table.put]
    split
    · rename_i hlt
      rw [rising_cons, h, Bool.and_true]
      simp only [Table.above, List.all_cons, Bool.and_eq_true, decide_eq_true_eq, List.all_eq_true] at *
      exact ⟨hlt, fun x hx => Nat.lt_trans hlt (h'.1 x hx)⟩
    · split
      · subst a
        rw [rising_cons, h'.1, h'.2]; rfl
      · rw [rising_cons, ih h'.2, above_put v h'.1 (by omega)]; rfl

theorem Table.erase_eq_filter (t : Table β) (k : Nat) :
    Table.erase t k = t.filter (fun e => decide (e.1 ≠ k)) := by
  induction t with
  | nil => rfl
  | cons e t ih =>
    obtain ⟨a, b⟩ := e
    simp only [Table.erase]
    split <;> simp_all

theorem Table.rising_erase (t : Table β) (k : Nat) (h : Table.rising t = true) :
    Table.rising (Table.erase t k) = true := by
  induction t with
  | nil => rfl
  | cons e t ih =>
    obtain ⟨a, b⟩ := e
    rw [rising_cons, Bool.and_eq_true] at h
    simp only [Table.erase]
    split
    · exact ih h.2
    · rw [rising_cons, ih h.2, Bool.and_true]
      simp only [Table.above, erase_eq_filter, List.all_eq_true, List.mem_filter] at *
      exact fun x hx => h.1 x hx.1

theorem Table.all_put {q : Nat × β → Bool} (t : Table β) (k : Nat) (v : β) (h : t.all q = true) (hv : q (k, v) = true) :
    (Table.put t k v).all q = true := by
  induction t with
  | nil => simp [Table.put, hv]
  | cons e t ih =>
    obtain ⟨a, b⟩ := e
    simp only [List.all_cons, Bool.and_eq_true] at h
    simp only [Table.put]
    split
    · simp [hv, h.1, h.2]
    · split
      · simp [hv, h.2]
      · simp [h.1, ih h.2]

/-- Writing a byte keeps the canonical form. -/
theorem Bytes.wf_write (m : Table Byte) (a : Nat) (v : Byte) (h : Bytes.wf m = true) :
    Bytes.wf (Bytes.write m a v) = true := by
  simp only [Bytes.wf, Bool.and_eq_true] at *
  unfold Bytes.write
  split
  · refine ⟨Table.rising_erase _ _ h.1, ?_⟩
    rw [Table.erase_eq_filter]
    simp only [List.all_eq_true, List.mem_filter] at *
    exact fun x hx => h.2 x hx.1
  · exact ⟨Table.rising_put _ _ _ h.1, Table.all_put _ _ _ h.2 (by simpa using ‹¬v = 0›)⟩

/-- Writing a list of bytes keeps the canonical form. -/
theorem Bytes.wf_writeList (m : Table Byte) (a : Nat) (bs : List Byte) (h : Bytes.wf m = true) :
    Bytes.wf (Bytes.writeList m a bs) = true := by
  induction bs generalizing m a with
  | nil => exact h
  | cons v vs ih => exact ih _ _ (wf_write _ _ _ h)

/-- Writing a little-endian number keeps the canonical form. -/
theorem Bytes.wf_writeLE (m : Table Byte) (a n v : Nat) (h : Bytes.wf m = true) :
    Bytes.wf (Bytes.writeLE m a n v) = true := by
  induction n generalizing m a v with
  | zero => exact h
  | succ n ih => exact ih _ _ _ (wf_write _ _ _ h)

/-- A byte reads as it was last written. -/
@[simp] theorem Bytes.read_write_same (m : Table Byte) (a : Nat) (v : Byte) : Bytes.read (Bytes.write m a v) a = v := by
  unfold Bytes.read Bytes.write
  split
  · simp [Table.get, *]
  · simp

/-- A write leaves every other byte alone. -/
@[simp] theorem Bytes.read_write_other (m : Table Byte) {a b : Nat} (v : Byte) (h : b ≠ a) :
    Bytes.read (Bytes.write m a v) b = Bytes.read m b := by
  unfold Bytes.read Bytes.write
  split <;> simp [Table.get, h]

/-- A list of bytes written leaves every byte outside it alone. -/
theorem Bytes.read_writeList_other (m : Table Byte) (a b : Nat) (bs : List Byte) (h : b < a ∨ a + bs.length ≤ b) :
    Bytes.read (Bytes.writeList m a bs) b = Bytes.read m b := by
  induction bs generalizing m a with
  | nil => rfl
  | cons v vs ih =>
    simp only [List.length_cons] at h
    rw [Bytes.writeList, ih _ _ (by omega), read_write_other _ _ (by omega)]

/-- Each byte of a list reads back where it was written. -/
theorem Bytes.read_writeList_same (m : Table Byte) (a : Nat) (bs : List Byte) (k : Nat) (h : k < bs.length) :
    Bytes.read (Bytes.writeList m a bs) (a + k) = bs[k] := by
  induction bs generalizing m a k with
  | nil => simp at h
  | cons v vs ih =>
    cases k with
    | zero => rw [Bytes.writeList, Nat.add_zero, read_writeList_other _ _ _ _ (by omega)]; simp
    | succ k =>
      have := ih (Bytes.write m a v) (a + 1) k (by simpa using h)
      rw [Bytes.writeList, show a + (k + 1) = a + 1 + k by omega, this]; rfl

/-- The memory of a state after a write to its map keeps the canonical form. -/
theorem Memory.wf_writeList (m : List Host.Cell) (a : Nat) (bs : List Byte) (h : Memory.wf m = true) :
    Memory.wf (Bytes.writeList m a bs) = true := Bytes.wf_writeList _ _ _ h

theorem Memory.wf_writeLE (m : List Host.Cell) (a n v : Nat) (h : Memory.wf m = true) :
    Memory.wf (Bytes.writeLE m a n v) = true := Bytes.wf_writeLE _ _ _ _ h

theorem Memory.wf_reset : Memory.wf State.reset.mem = true := rfl

end Sys2Proof.Machine
end

