-- ==== Sys2Proof/Laws/State.lean ====
section
/-! SUPPORT. One law per field per update of the state, its cores, slots and waves: what an update leaves as it was,
and what reading the updated part gives. -/

namespace Sys2Proof.Machine

@[simp] theorem State.modCore_cycle (s : State) (c : Nat) (f : Core → Core) : (s.modCore c f).cycle = s.cycle := rfl
@[simp] theorem State.modCore_coreIdx (s : State) (c : Nat) (f : Core → Core) : (s.modCore c f).coreIdx = s.coreIdx := rfl
@[simp] theorem State.modCore_curCore (s : State) (c : Nat) (f : Core → Core) : (s.modCore c f).curCore = s.curCore := rfl
@[simp] theorem State.modCore_curSlot (s : State) (c : Nat) (f : Core → Core) : (s.modCore c f).curSlot = s.curSlot := rfl
@[simp] theorem State.modCore_half (s : State) (c : Nat) (f : Core → Core) : (s.modCore c f).half = s.half := rfl
@[simp] theorem State.modCore_agenda (s : State) (c : Nat) (f : Core → Core) : (s.modCore c f).agenda = s.agenda := rfl
@[simp] theorem State.modCore_args (s : State) (c : Nat) (f : Core → Core) : (s.modCore c f).args = s.args := rfl
@[simp] theorem State.modCore_freeCount (s : State) (c : Nat) (f : Core → Core) : (s.modCore c f).freeCount = s.freeCount := rfl
@[simp] theorem State.modCore_verdict (s : State) (c : Nat) (f : Core → Core) : (s.modCore c f).verdict = s.verdict := rfl
@[simp] theorem State.modCore_lat (s : State) (c : Nat) (f : Core → Core) : (s.modCore c f).lat = s.lat := rfl
@[simp] theorem State.modCore_clusters (s : State) (c : Nat) (f : Core → Core) : (s.modCore c f).clusters = s.clusters := rfl
@[simp] theorem State.modCore_dies (s : State) (c : Nat) (f : Core → Core) : (s.modCore c f).dies = s.dies := rfl
@[simp] theorem State.modCore_stations (s : State) (c : Nat) (f : Core → Core) : (s.modCore c f).stations = s.stations := rfl
@[simp] theorem State.modCore_mem (s : State) (c : Nat) (f : Core → Core) : (s.modCore c f).mem = s.mem := rfl
@[simp] theorem State.modCore_regs (s : State) (c : Nat) (f : Core → Core) : (s.modCore c f).regs = s.regs := rfl
@[simp] theorem State.modCore_pctb (s : State) (c : Nat) (f : Core → Core) : (s.modCore c f).pctb = s.pctb := rfl
@[simp] theorem State.modCore_pcount (s : State) (c : Nat) (f : Core → Core) : (s.modCore c f).pcount = s.pcount := rfl
@[simp] theorem State.modCore_inv (s : State) (c : Nat) (f : Core → Core) : (s.modCore c f).inv = s.inv := rfl
@[simp] theorem State.modCore_home (s : State) (c : Nat) (f : Core → Core) : (s.modCore c f).home = s.home := rfl
@[simp] theorem State.modCore_hostBias (s : State) (c : Nat) (f : Core → Core) : (s.modCore c f).hostBias = s.hostBias := rfl
@[simp] theorem State.modCore_forwards (s : State) (c : Nat) (f : Core → Core) : (s.modCore c f).forwards = s.forwards := rfl
@[simp] theorem State.modCore_poison (s : State) (c : Nat) (f : Core → Core) : (s.modCore c f).poison = s.poison := rfl
@[simp] theorem State.modCore_populated (s : State) (c : Nat) (f : Core → Core) : (s.modCore c f).populated = s.populated := rfl
@[simp] theorem State.modCore_removed (s : State) (c : Nat) (f : Core → Core) : (s.modCore c f).removed = s.removed := rfl
@[simp] theorem State.modCore_acks (s : State) (c : Nat) (f : Core → Core) : (s.modCore c f).acks = s.acks := rfl
@[simp] theorem State.modCore_nextTag (s : State) (c : Nat) (f : Core → Core) : (s.modCore c f).nextTag = s.nextTag := rfl
@[simp] theorem State.modCore_intake (s : State) (c : Nat) (f : Core → Core) : (s.modCore c f).intake = s.intake := rfl
@[simp] theorem State.modCore_commands (s : State) (c : Nat) (f : Core → Core) : (s.modCore c f).commands = s.commands := rfl
@[simp] theorem State.modCore_journalWait (s : State) (c : Nat) (f : Core → Core) : (s.modCore c f).journalWait = s.journalWait := rfl
@[simp] theorem State.modCore_takes (s : State) (c : Nat) (f : Core → Core) : (s.modCore c f).takes = s.takes := rfl
@[simp] theorem State.modCore_rings (s : State) (c : Nat) (f : Core → Core) : (s.modCore c f).rings = s.rings := rfl
@[simp] theorem State.modCore_nextRing (s : State) (c : Nat) (f : Core → Core) : (s.modCore c f).nextRing = s.nextRing := rfl
@[simp] theorem State.modCore_groupCount (s : State) (c : Nat) (f : Core → Core) : (s.modCore c f).groupCount = s.groupCount := rfl
@[simp] theorem State.modCore_insts (s : State) (c : Nat) (f : Core → Core) : (s.modCore c f).insts = s.insts := rfl
@[simp] theorem State.modCore_saved (s : State) (c : Nat) (f : Core → Core) : (s.modCore c f).saved = s.saved := rfl
@[simp] theorem State.modCore_lateCauses (s : State) (c : Nat) (f : Core → Core) : (s.modCore c f).lateCauses = s.lateCauses := rfl
@[simp] theorem State.modCore_stage1 (s : State) (c : Nat) (f : Core → Core) : (s.modCore c f).stage1 = s.stage1 := rfl
@[simp] theorem State.modCore_hostLines (s : State) (c : Nat) (f : Core → Core) : (s.modCore c f).hostLines = s.hostLines := rfl
@[simp] theorem State.modCore_markers (s : State) (c : Nat) (f : Core → Core) : (s.modCore c f).markers = s.markers := rfl
@[simp] theorem State.modCore_markersSent (s : State) (c : Nat) (f : Core → Core) : (s.modCore c f).markersSent = s.markersSent := rfl
@[simp] theorem State.modCore_outbox (s : State) (c : Nat) (f : Core → Core) : (s.modCore c f).outbox = s.outbox := rfl
@[simp] theorem State.modCore_meas (s : State) (c : Nat) (f : Core → Core) : (s.modCore c f).meas = s.meas := rfl
@[simp] theorem State.modCore_flash (s : State) (c : Nat) (f : Core → Core) : (s.modCore c f).flash = s.flash := rfl
@[simp] theorem State.modCore_slotInUse (s : State) (c : Nat) (f : Core → Core) : (s.modCore c f).slotInUse = s.slotInUse := rfl
@[simp] theorem State.modCore_rootDigest (s : State) (c : Nat) (f : Core → Core) : (s.modCore c f).rootDigest = s.rootDigest := rfl
@[simp] theorem State.modCore_minSvn (s : State) (c : Nat) (f : Core → Core) : (s.modCore c f).minSvn = s.minSvn := rfl
@[simp] theorem State.modCore_stage (s : State) (c : Nat) (f : Core → Core) : (s.modCore c f).stage = s.stage := rfl
@[simp] theorem State.modCore_cfg (s : State) (c : Nat) (f : Core → Core) : (s.modCore c f).cfg = s.cfg := rfl
@[simp] theorem State.modCore_mgmtBusy (s : State) (c : Nat) (f : Core → Core) : (s.modCore c f).mgmtBusy = s.mgmtBusy := rfl
@[simp] theorem State.modCore_reloading (s : State) (c : Nat) (f : Core → Core) : (s.modCore c f).reloading = s.reloading := rfl
@[simp] theorem State.modCore_fatal (s : State) (c : Nat) (f : Core → Core) : (s.modCore c f).fatal = s.fatal := rfl
@[simp] theorem State.modCore_hostCopies (s : State) (c : Nat) (f : Core → Core) : (s.modCore c f).hostCopies = s.hostCopies := rfl
@[simp] theorem State.modCore_pkg (s : State) (c : Nat) (f : Core → Core) : (s.modCore c f).pkg = s.pkg := rfl
@[simp] theorem State.modCore_expelled (s : State) (c : Nat) (f : Core → Core) : (s.modCore c f).expelled = s.expelled := rfl
@[simp] theorem State.modCore_freshHalves (s : State) (c : Nat) (f : Core → Core) : (s.modCore c f).freshHalves = s.freshHalves := rfl
@[simp] theorem State.modCore_transcripts (s : State) (c : Nat) (f : Core → Core) : (s.modCore c f).transcripts = s.transcripts := rfl
@[simp] theorem State.modCore_column (s : State) (c : Nat) (f : Core → Core) : (s.modCore c f).column = s.column := rfl

@[simp] theorem State.modSlotAt_cycle (s : State) (c i : Nat) (f : Slot → Slot) : (s.modSlotAt c i f).cycle = s.cycle := rfl
@[simp] theorem State.modSlotAt_coreIdx (s : State) (c i : Nat) (f : Slot → Slot) : (s.modSlotAt c i f).coreIdx = s.coreIdx := rfl
@[simp] theorem State.modSlotAt_curCore (s : State) (c i : Nat) (f : Slot → Slot) : (s.modSlotAt c i f).curCore = s.curCore := rfl
@[simp] theorem State.modSlotAt_curSlot (s : State) (c i : Nat) (f : Slot → Slot) : (s.modSlotAt c i f).curSlot = s.curSlot := rfl
@[simp] theorem State.modSlotAt_half (s : State) (c i : Nat) (f : Slot → Slot) : (s.modSlotAt c i f).half = s.half := rfl
@[simp] theorem State.modSlotAt_agenda (s : State) (c i : Nat) (f : Slot → Slot) : (s.modSlotAt c i f).agenda = s.agenda := rfl
@[simp] theorem State.modSlotAt_args (s : State) (c i : Nat) (f : Slot → Slot) : (s.modSlotAt c i f).args = s.args := rfl
@[simp] theorem State.modSlotAt_freeCount (s : State) (c i : Nat) (f : Slot → Slot) : (s.modSlotAt c i f).freeCount = s.freeCount := rfl
@[simp] theorem State.modSlotAt_verdict (s : State) (c i : Nat) (f : Slot → Slot) : (s.modSlotAt c i f).verdict = s.verdict := rfl
@[simp] theorem State.modSlotAt_lat (s : State) (c i : Nat) (f : Slot → Slot) : (s.modSlotAt c i f).lat = s.lat := rfl
@[simp] theorem State.modSlotAt_clusters (s : State) (c i : Nat) (f : Slot → Slot) : (s.modSlotAt c i f).clusters = s.clusters := rfl
@[simp] theorem State.modSlotAt_dies (s : State) (c i : Nat) (f : Slot → Slot) : (s.modSlotAt c i f).dies = s.dies := rfl
@[simp] theorem State.modSlotAt_stations (s : State) (c i : Nat) (f : Slot → Slot) : (s.modSlotAt c i f).stations = s.stations := rfl
@[simp] theorem State.modSlotAt_mem (s : State) (c i : Nat) (f : Slot → Slot) : (s.modSlotAt c i f).mem = s.mem := rfl
@[simp] theorem State.modSlotAt_regs (s : State) (c i : Nat) (f : Slot → Slot) : (s.modSlotAt c i f).regs = s.regs := rfl
@[simp] theorem State.modSlotAt_pctb (s : State) (c i : Nat) (f : Slot → Slot) : (s.modSlotAt c i f).pctb = s.pctb := rfl
@[simp] theorem State.modSlotAt_pcount (s : State) (c i : Nat) (f : Slot → Slot) : (s.modSlotAt c i f).pcount = s.pcount := rfl
@[simp] theorem State.modSlotAt_inv (s : State) (c i : Nat) (f : Slot → Slot) : (s.modSlotAt c i f).inv = s.inv := rfl
@[simp] theorem State.modSlotAt_home (s : State) (c i : Nat) (f : Slot → Slot) : (s.modSlotAt c i f).home = s.home := rfl
@[simp] theorem State.modSlotAt_hostBias (s : State) (c i : Nat) (f : Slot → Slot) : (s.modSlotAt c i f).hostBias = s.hostBias := rfl
@[simp] theorem State.modSlotAt_forwards (s : State) (c i : Nat) (f : Slot → Slot) : (s.modSlotAt c i f).forwards = s.forwards := rfl
@[simp] theorem State.modSlotAt_poison (s : State) (c i : Nat) (f : Slot → Slot) : (s.modSlotAt c i f).poison = s.poison := rfl
@[simp] theorem State.modSlotAt_populated (s : State) (c i : Nat) (f : Slot → Slot) : (s.modSlotAt c i f).populated = s.populated := rfl
@[simp] theorem State.modSlotAt_removed (s : State) (c i : Nat) (f : Slot → Slot) : (s.modSlotAt c i f).removed = s.removed := rfl
@[simp] theorem State.modSlotAt_acks (s : State) (c i : Nat) (f : Slot → Slot) : (s.modSlotAt c i f).acks = s.acks := rfl
@[simp] theorem State.modSlotAt_nextTag (s : State) (c i : Nat) (f : Slot → Slot) : (s.modSlotAt c i f).nextTag = s.nextTag := rfl
@[simp] theorem State.modSlotAt_intake (s : State) (c i : Nat) (f : Slot → Slot) : (s.modSlotAt c i f).intake = s.intake := rfl
@[simp] theorem State.modSlotAt_commands (s : State) (c i : Nat) (f : Slot → Slot) : (s.modSlotAt c i f).commands = s.commands := rfl
@[simp] theorem State.modSlotAt_journalWait (s : State) (c i : Nat) (f : Slot → Slot) : (s.modSlotAt c i f).journalWait = s.journalWait := rfl
@[simp] theorem State.modSlotAt_takes (s : State) (c i : Nat) (f : Slot → Slot) : (s.modSlotAt c i f).takes = s.takes := rfl
@[simp] theorem State.modSlotAt_rings (s : State) (c i : Nat) (f : Slot → Slot) : (s.modSlotAt c i f).rings = s.rings := rfl
@[simp] theorem State.modSlotAt_nextRing (s : State) (c i : Nat) (f : Slot → Slot) : (s.modSlotAt c i f).nextRing = s.nextRing := rfl
@[simp] theorem State.modSlotAt_groupCount (s : State) (c i : Nat) (f : Slot → Slot) : (s.modSlotAt c i f).groupCount = s.groupCount := rfl
@[simp] theorem State.modSlotAt_insts (s : State) (c i : Nat) (f : Slot → Slot) : (s.modSlotAt c i f).insts = s.insts := rfl
@[simp] theorem State.modSlotAt_saved (s : State) (c i : Nat) (f : Slot → Slot) : (s.modSlotAt c i f).saved = s.saved := rfl
@[simp] theorem State.modSlotAt_lateCauses (s : State) (c i : Nat) (f : Slot → Slot) : (s.modSlotAt c i f).lateCauses = s.lateCauses := rfl
@[simp] theorem State.modSlotAt_stage1 (s : State) (c i : Nat) (f : Slot → Slot) : (s.modSlotAt c i f).stage1 = s.stage1 := rfl
@[simp] theorem State.modSlotAt_hostLines (s : State) (c i : Nat) (f : Slot → Slot) : (s.modSlotAt c i f).hostLines = s.hostLines := rfl
@[simp] theorem State.modSlotAt_markers (s : State) (c i : Nat) (f : Slot → Slot) : (s.modSlotAt c i f).markers = s.markers := rfl
@[simp] theorem State.modSlotAt_markersSent (s : State) (c i : Nat) (f : Slot → Slot) : (s.modSlotAt c i f).markersSent = s.markersSent := rfl
@[simp] theorem State.modSlotAt_outbox (s : State) (c i : Nat) (f : Slot → Slot) : (s.modSlotAt c i f).outbox = s.outbox := rfl
@[simp] theorem State.modSlotAt_meas (s : State) (c i : Nat) (f : Slot → Slot) : (s.modSlotAt c i f).meas = s.meas := rfl
@[simp] theorem State.modSlotAt_flash (s : State) (c i : Nat) (f : Slot → Slot) : (s.modSlotAt c i f).flash = s.flash := rfl
@[simp] theorem State.modSlotAt_slotInUse (s : State) (c i : Nat) (f : Slot → Slot) : (s.modSlotAt c i f).slotInUse = s.slotInUse := rfl
@[simp] theorem State.modSlotAt_rootDigest (s : State) (c i : Nat) (f : Slot → Slot) : (s.modSlotAt c i f).rootDigest = s.rootDigest := rfl
@[simp] theorem State.modSlotAt_minSvn (s : State) (c i : Nat) (f : Slot → Slot) : (s.modSlotAt c i f).minSvn = s.minSvn := rfl
@[simp] theorem State.modSlotAt_stage (s : State) (c i : Nat) (f : Slot → Slot) : (s.modSlotAt c i f).stage = s.stage := rfl
@[simp] theorem State.modSlotAt_cfg (s : State) (c i : Nat) (f : Slot → Slot) : (s.modSlotAt c i f).cfg = s.cfg := rfl
@[simp] theorem State.modSlotAt_mgmtBusy (s : State) (c i : Nat) (f : Slot → Slot) : (s.modSlotAt c i f).mgmtBusy = s.mgmtBusy := rfl
@[simp] theorem State.modSlotAt_reloading (s : State) (c i : Nat) (f : Slot → Slot) : (s.modSlotAt c i f).reloading = s.reloading := rfl
@[simp] theorem State.modSlotAt_fatal (s : State) (c i : Nat) (f : Slot → Slot) : (s.modSlotAt c i f).fatal = s.fatal := rfl
@[simp] theorem State.modSlotAt_hostCopies (s : State) (c i : Nat) (f : Slot → Slot) : (s.modSlotAt c i f).hostCopies = s.hostCopies := rfl
@[simp] theorem State.modSlotAt_pkg (s : State) (c i : Nat) (f : Slot → Slot) : (s.modSlotAt c i f).pkg = s.pkg := rfl
@[simp] theorem State.modSlotAt_expelled (s : State) (c i : Nat) (f : Slot → Slot) : (s.modSlotAt c i f).expelled = s.expelled := rfl
@[simp] theorem State.modSlotAt_freshHalves (s : State) (c i : Nat) (f : Slot → Slot) : (s.modSlotAt c i f).freshHalves = s.freshHalves := rfl
@[simp] theorem State.modSlotAt_transcripts (s : State) (c i : Nat) (f : Slot → Slot) : (s.modSlotAt c i f).transcripts = s.transcripts := rfl
@[simp] theorem State.modSlotAt_column (s : State) (c i : Nat) (f : Slot → Slot) : (s.modSlotAt c i f).column = s.column := rfl

@[simp] theorem State.modWaveAt_cycle (s : State) (c i : Nat) (f : Wave → Wave) : (s.modWaveAt c i f).cycle = s.cycle := rfl
@[simp] theorem State.modWaveAt_coreIdx (s : State) (c i : Nat) (f : Wave → Wave) : (s.modWaveAt c i f).coreIdx = s.coreIdx := rfl
@[simp] theorem State.modWaveAt_curCore (s : State) (c i : Nat) (f : Wave → Wave) : (s.modWaveAt c i f).curCore = s.curCore := rfl
@[simp] theorem State.modWaveAt_curSlot (s : State) (c i : Nat) (f : Wave → Wave) : (s.modWaveAt c i f).curSlot = s.curSlot := rfl
@[simp] theorem State.modWaveAt_half (s : State) (c i : Nat) (f : Wave → Wave) : (s.modWaveAt c i f).half = s.half := rfl
@[simp] theorem State.modWaveAt_agenda (s : State) (c i : Nat) (f : Wave → Wave) : (s.modWaveAt c i f).agenda = s.agenda := rfl
@[simp] theorem State.modWaveAt_args (s : State) (c i : Nat) (f : Wave → Wave) : (s.modWaveAt c i f).args = s.args := rfl
@[simp] theorem State.modWaveAt_freeCount (s : State) (c i : Nat) (f : Wave → Wave) : (s.modWaveAt c i f).freeCount = s.freeCount := rfl
@[simp] theorem State.modWaveAt_verdict (s : State) (c i : Nat) (f : Wave → Wave) : (s.modWaveAt c i f).verdict = s.verdict := rfl
@[simp] theorem State.modWaveAt_lat (s : State) (c i : Nat) (f : Wave → Wave) : (s.modWaveAt c i f).lat = s.lat := rfl
@[simp] theorem State.modWaveAt_clusters (s : State) (c i : Nat) (f : Wave → Wave) : (s.modWaveAt c i f).clusters = s.clusters := rfl
@[simp] theorem State.modWaveAt_dies (s : State) (c i : Nat) (f : Wave → Wave) : (s.modWaveAt c i f).dies = s.dies := rfl
@[simp] theorem State.modWaveAt_stations (s : State) (c i : Nat) (f : Wave → Wave) : (s.modWaveAt c i f).stations = s.stations := rfl
@[simp] theorem State.modWaveAt_mem (s : State) (c i : Nat) (f : Wave → Wave) : (s.modWaveAt c i f).mem = s.mem := rfl
@[simp] theorem State.modWaveAt_regs (s : State) (c i : Nat) (f : Wave → Wave) : (s.modWaveAt c i f).regs = s.regs := rfl
@[simp] theorem State.modWaveAt_pctb (s : State) (c i : Nat) (f : Wave → Wave) : (s.modWaveAt c i f).pctb = s.pctb := rfl
@[simp] theorem State.modWaveAt_pcount (s : State) (c i : Nat) (f : Wave → Wave) : (s.modWaveAt c i f).pcount = s.pcount := rfl
@[simp] theorem State.modWaveAt_inv (s : State) (c i : Nat) (f : Wave → Wave) : (s.modWaveAt c i f).inv = s.inv := rfl
@[simp] theorem State.modWaveAt_home (s : State) (c i : Nat) (f : Wave → Wave) : (s.modWaveAt c i f).home = s.home := rfl
@[simp] theorem State.modWaveAt_hostBias (s : State) (c i : Nat) (f : Wave → Wave) : (s.modWaveAt c i f).hostBias = s.hostBias := rfl
@[simp] theorem State.modWaveAt_forwards (s : State) (c i : Nat) (f : Wave → Wave) : (s.modWaveAt c i f).forwards = s.forwards := rfl
@[simp] theorem State.modWaveAt_poison (s : State) (c i : Nat) (f : Wave → Wave) : (s.modWaveAt c i f).poison = s.poison := rfl
@[simp] theorem State.modWaveAt_populated (s : State) (c i : Nat) (f : Wave → Wave) : (s.modWaveAt c i f).populated = s.populated := rfl
@[simp] theorem State.modWaveAt_removed (s : State) (c i : Nat) (f : Wave → Wave) : (s.modWaveAt c i f).removed = s.removed := rfl
@[simp] theorem State.modWaveAt_acks (s : State) (c i : Nat) (f : Wave → Wave) : (s.modWaveAt c i f).acks = s.acks := rfl
@[simp] theorem State.modWaveAt_nextTag (s : State) (c i : Nat) (f : Wave → Wave) : (s.modWaveAt c i f).nextTag = s.nextTag := rfl
@[simp] theorem State.modWaveAt_intake (s : State) (c i : Nat) (f : Wave → Wave) : (s.modWaveAt c i f).intake = s.intake := rfl
@[simp] theorem State.modWaveAt_commands (s : State) (c i : Nat) (f : Wave → Wave) : (s.modWaveAt c i f).commands = s.commands := rfl
@[simp] theorem State.modWaveAt_journalWait (s : State) (c i : Nat) (f : Wave → Wave) : (s.modWaveAt c i f).journalWait = s.journalWait := rfl
@[simp] theorem State.modWaveAt_takes (s : State) (c i : Nat) (f : Wave → Wave) : (s.modWaveAt c i f).takes = s.takes := rfl
@[simp] theorem State.modWaveAt_rings (s : State) (c i : Nat) (f : Wave → Wave) : (s.modWaveAt c i f).rings = s.rings := rfl
@[simp] theorem State.modWaveAt_nextRing (s : State) (c i : Nat) (f : Wave → Wave) : (s.modWaveAt c i f).nextRing = s.nextRing := rfl
@[simp] theorem State.modWaveAt_groupCount (s : State) (c i : Nat) (f : Wave → Wave) : (s.modWaveAt c i f).groupCount = s.groupCount := rfl
@[simp] theorem State.modWaveAt_insts (s : State) (c i : Nat) (f : Wave → Wave) : (s.modWaveAt c i f).insts = s.insts := rfl
@[simp] theorem State.modWaveAt_saved (s : State) (c i : Nat) (f : Wave → Wave) : (s.modWaveAt c i f).saved = s.saved := rfl
@[simp] theorem State.modWaveAt_lateCauses (s : State) (c i : Nat) (f : Wave → Wave) : (s.modWaveAt c i f).lateCauses = s.lateCauses := rfl
@[simp] theorem State.modWaveAt_stage1 (s : State) (c i : Nat) (f : Wave → Wave) : (s.modWaveAt c i f).stage1 = s.stage1 := rfl
@[simp] theorem State.modWaveAt_hostLines (s : State) (c i : Nat) (f : Wave → Wave) : (s.modWaveAt c i f).hostLines = s.hostLines := rfl
@[simp] theorem State.modWaveAt_markers (s : State) (c i : Nat) (f : Wave → Wave) : (s.modWaveAt c i f).markers = s.markers := rfl
@[simp] theorem State.modWaveAt_markersSent (s : State) (c i : Nat) (f : Wave → Wave) : (s.modWaveAt c i f).markersSent = s.markersSent := rfl
@[simp] theorem State.modWaveAt_outbox (s : State) (c i : Nat) (f : Wave → Wave) : (s.modWaveAt c i f).outbox = s.outbox := rfl
@[simp] theorem State.modWaveAt_meas (s : State) (c i : Nat) (f : Wave → Wave) : (s.modWaveAt c i f).meas = s.meas := rfl
@[simp] theorem State.modWaveAt_flash (s : State) (c i : Nat) (f : Wave → Wave) : (s.modWaveAt c i f).flash = s.flash := rfl
@[simp] theorem State.modWaveAt_slotInUse (s : State) (c i : Nat) (f : Wave → Wave) : (s.modWaveAt c i f).slotInUse = s.slotInUse := rfl
@[simp] theorem State.modWaveAt_rootDigest (s : State) (c i : Nat) (f : Wave → Wave) : (s.modWaveAt c i f).rootDigest = s.rootDigest := rfl
@[simp] theorem State.modWaveAt_minSvn (s : State) (c i : Nat) (f : Wave → Wave) : (s.modWaveAt c i f).minSvn = s.minSvn := rfl
@[simp] theorem State.modWaveAt_stage (s : State) (c i : Nat) (f : Wave → Wave) : (s.modWaveAt c i f).stage = s.stage := rfl
@[simp] theorem State.modWaveAt_cfg (s : State) (c i : Nat) (f : Wave → Wave) : (s.modWaveAt c i f).cfg = s.cfg := rfl
@[simp] theorem State.modWaveAt_mgmtBusy (s : State) (c i : Nat) (f : Wave → Wave) : (s.modWaveAt c i f).mgmtBusy = s.mgmtBusy := rfl
@[simp] theorem State.modWaveAt_reloading (s : State) (c i : Nat) (f : Wave → Wave) : (s.modWaveAt c i f).reloading = s.reloading := rfl
@[simp] theorem State.modWaveAt_fatal (s : State) (c i : Nat) (f : Wave → Wave) : (s.modWaveAt c i f).fatal = s.fatal := rfl
@[simp] theorem State.modWaveAt_hostCopies (s : State) (c i : Nat) (f : Wave → Wave) : (s.modWaveAt c i f).hostCopies = s.hostCopies := rfl
@[simp] theorem State.modWaveAt_pkg (s : State) (c i : Nat) (f : Wave → Wave) : (s.modWaveAt c i f).pkg = s.pkg := rfl
@[simp] theorem State.modWaveAt_expelled (s : State) (c i : Nat) (f : Wave → Wave) : (s.modWaveAt c i f).expelled = s.expelled := rfl
@[simp] theorem State.modWaveAt_freshHalves (s : State) (c i : Nat) (f : Wave → Wave) : (s.modWaveAt c i f).freshHalves = s.freshHalves := rfl
@[simp] theorem State.modWaveAt_transcripts (s : State) (c i : Nat) (f : Wave → Wave) : (s.modWaveAt c i f).transcripts = s.transcripts := rfl
@[simp] theorem State.modWaveAt_column (s : State) (c i : Nat) (f : Wave → Wave) : (s.modWaveAt c i f).column = s.column := rfl

@[simp] theorem State.modSlot_cycle (s : State) (f : Slot → Slot) : (s.modSlot f).cycle = s.cycle := rfl
@[simp] theorem State.modSlot_coreIdx (s : State) (f : Slot → Slot) : (s.modSlot f).coreIdx = s.coreIdx := rfl
@[simp] theorem State.modSlot_curCore (s : State) (f : Slot → Slot) : (s.modSlot f).curCore = s.curCore := rfl
@[simp] theorem State.modSlot_curSlot (s : State) (f : Slot → Slot) : (s.modSlot f).curSlot = s.curSlot := rfl
@[simp] theorem State.modSlot_half (s : State) (f : Slot → Slot) : (s.modSlot f).half = s.half := rfl
@[simp] theorem State.modSlot_agenda (s : State) (f : Slot → Slot) : (s.modSlot f).agenda = s.agenda := rfl
@[simp] theorem State.modSlot_args (s : State) (f : Slot → Slot) : (s.modSlot f).args = s.args := rfl
@[simp] theorem State.modSlot_freeCount (s : State) (f : Slot → Slot) : (s.modSlot f).freeCount = s.freeCount := rfl
@[simp] theorem State.modSlot_verdict (s : State) (f : Slot → Slot) : (s.modSlot f).verdict = s.verdict := rfl
@[simp] theorem State.modSlot_lat (s : State) (f : Slot → Slot) : (s.modSlot f).lat = s.lat := rfl
@[simp] theorem State.modSlot_clusters (s : State) (f : Slot → Slot) : (s.modSlot f).clusters = s.clusters := rfl
@[simp] theorem State.modSlot_dies (s : State) (f : Slot → Slot) : (s.modSlot f).dies = s.dies := rfl
@[simp] theorem State.modSlot_stations (s : State) (f : Slot → Slot) : (s.modSlot f).stations = s.stations := rfl
@[simp] theorem State.modSlot_mem (s : State) (f : Slot → Slot) : (s.modSlot f).mem = s.mem := rfl
@[simp] theorem State.modSlot_regs (s : State) (f : Slot → Slot) : (s.modSlot f).regs = s.regs := rfl
@[simp] theorem State.modSlot_pctb (s : State) (f : Slot → Slot) : (s.modSlot f).pctb = s.pctb := rfl
@[simp] theorem State.modSlot_pcount (s : State) (f : Slot → Slot) : (s.modSlot f).pcount = s.pcount := rfl
@[simp] theorem State.modSlot_inv (s : State) (f : Slot → Slot) : (s.modSlot f).inv = s.inv := rfl
@[simp] theorem State.modSlot_home (s : State) (f : Slot → Slot) : (s.modSlot f).home = s.home := rfl
@[simp] theorem State.modSlot_hostBias (s : State) (f : Slot → Slot) : (s.modSlot f).hostBias = s.hostBias := rfl
@[simp] theorem State.modSlot_forwards (s : State) (f : Slot → Slot) : (s.modSlot f).forwards = s.forwards := rfl
@[simp] theorem State.modSlot_poison (s : State) (f : Slot → Slot) : (s.modSlot f).poison = s.poison := rfl
@[simp] theorem State.modSlot_populated (s : State) (f : Slot → Slot) : (s.modSlot f).populated = s.populated := rfl
@[simp] theorem State.modSlot_removed (s : State) (f : Slot → Slot) : (s.modSlot f).removed = s.removed := rfl
@[simp] theorem State.modSlot_acks (s : State) (f : Slot → Slot) : (s.modSlot f).acks = s.acks := rfl
@[simp] theorem State.modSlot_nextTag (s : State) (f : Slot → Slot) : (s.modSlot f).nextTag = s.nextTag := rfl
@[simp] theorem State.modSlot_intake (s : State) (f : Slot → Slot) : (s.modSlot f).intake = s.intake := rfl
@[simp] theorem State.modSlot_commands (s : State) (f : Slot → Slot) : (s.modSlot f).commands = s.commands := rfl
@[simp] theorem State.modSlot_journalWait (s : State) (f : Slot → Slot) : (s.modSlot f).journalWait = s.journalWait := rfl
@[simp] theorem State.modSlot_takes (s : State) (f : Slot → Slot) : (s.modSlot f).takes = s.takes := rfl
@[simp] theorem State.modSlot_rings (s : State) (f : Slot → Slot) : (s.modSlot f).rings = s.rings := rfl
@[simp] theorem State.modSlot_nextRing (s : State) (f : Slot → Slot) : (s.modSlot f).nextRing = s.nextRing := rfl
@[simp] theorem State.modSlot_groupCount (s : State) (f : Slot → Slot) : (s.modSlot f).groupCount = s.groupCount := rfl
@[simp] theorem State.modSlot_insts (s : State) (f : Slot → Slot) : (s.modSlot f).insts = s.insts := rfl
@[simp] theorem State.modSlot_saved (s : State) (f : Slot → Slot) : (s.modSlot f).saved = s.saved := rfl
@[simp] theorem State.modSlot_lateCauses (s : State) (f : Slot → Slot) : (s.modSlot f).lateCauses = s.lateCauses := rfl
@[simp] theorem State.modSlot_stage1 (s : State) (f : Slot → Slot) : (s.modSlot f).stage1 = s.stage1 := rfl
@[simp] theorem State.modSlot_hostLines (s : State) (f : Slot → Slot) : (s.modSlot f).hostLines = s.hostLines := rfl
@[simp] theorem State.modSlot_markers (s : State) (f : Slot → Slot) : (s.modSlot f).markers = s.markers := rfl
@[simp] theorem State.modSlot_markersSent (s : State) (f : Slot → Slot) : (s.modSlot f).markersSent = s.markersSent := rfl
@[simp] theorem State.modSlot_outbox (s : State) (f : Slot → Slot) : (s.modSlot f).outbox = s.outbox := rfl
@[simp] theorem State.modSlot_meas (s : State) (f : Slot → Slot) : (s.modSlot f).meas = s.meas := rfl
@[simp] theorem State.modSlot_flash (s : State) (f : Slot → Slot) : (s.modSlot f).flash = s.flash := rfl
@[simp] theorem State.modSlot_slotInUse (s : State) (f : Slot → Slot) : (s.modSlot f).slotInUse = s.slotInUse := rfl
@[simp] theorem State.modSlot_rootDigest (s : State) (f : Slot → Slot) : (s.modSlot f).rootDigest = s.rootDigest := rfl
@[simp] theorem State.modSlot_minSvn (s : State) (f : Slot → Slot) : (s.modSlot f).minSvn = s.minSvn := rfl
@[simp] theorem State.modSlot_stage (s : State) (f : Slot → Slot) : (s.modSlot f).stage = s.stage := rfl
@[simp] theorem State.modSlot_cfg (s : State) (f : Slot → Slot) : (s.modSlot f).cfg = s.cfg := rfl
@[simp] theorem State.modSlot_mgmtBusy (s : State) (f : Slot → Slot) : (s.modSlot f).mgmtBusy = s.mgmtBusy := rfl
@[simp] theorem State.modSlot_reloading (s : State) (f : Slot → Slot) : (s.modSlot f).reloading = s.reloading := rfl
@[simp] theorem State.modSlot_fatal (s : State) (f : Slot → Slot) : (s.modSlot f).fatal = s.fatal := rfl
@[simp] theorem State.modSlot_hostCopies (s : State) (f : Slot → Slot) : (s.modSlot f).hostCopies = s.hostCopies := rfl
@[simp] theorem State.modSlot_pkg (s : State) (f : Slot → Slot) : (s.modSlot f).pkg = s.pkg := rfl
@[simp] theorem State.modSlot_expelled (s : State) (f : Slot → Slot) : (s.modSlot f).expelled = s.expelled := rfl
@[simp] theorem State.modSlot_freshHalves (s : State) (f : Slot → Slot) : (s.modSlot f).freshHalves = s.freshHalves := rfl
@[simp] theorem State.modSlot_transcripts (s : State) (f : Slot → Slot) : (s.modSlot f).transcripts = s.transcripts := rfl
@[simp] theorem State.modSlot_column (s : State) (f : Slot → Slot) : (s.modSlot f).column = s.column := rfl

@[simp] theorem State.modWave_cycle (s : State) (f : Wave → Wave) : (s.modWave f).cycle = s.cycle := rfl
@[simp] theorem State.modWave_coreIdx (s : State) (f : Wave → Wave) : (s.modWave f).coreIdx = s.coreIdx := rfl
@[simp] theorem State.modWave_curCore (s : State) (f : Wave → Wave) : (s.modWave f).curCore = s.curCore := rfl
@[simp] theorem State.modWave_curSlot (s : State) (f : Wave → Wave) : (s.modWave f).curSlot = s.curSlot := rfl
@[simp] theorem State.modWave_half (s : State) (f : Wave → Wave) : (s.modWave f).half = s.half := rfl
@[simp] theorem State.modWave_agenda (s : State) (f : Wave → Wave) : (s.modWave f).agenda = s.agenda := rfl
@[simp] theorem State.modWave_args (s : State) (f : Wave → Wave) : (s.modWave f).args = s.args := rfl
@[simp] theorem State.modWave_freeCount (s : State) (f : Wave → Wave) : (s.modWave f).freeCount = s.freeCount := rfl
@[simp] theorem State.modWave_verdict (s : State) (f : Wave → Wave) : (s.modWave f).verdict = s.verdict := rfl
@[simp] theorem State.modWave_lat (s : State) (f : Wave → Wave) : (s.modWave f).lat = s.lat := rfl
@[simp] theorem State.modWave_clusters (s : State) (f : Wave → Wave) : (s.modWave f).clusters = s.clusters := rfl
@[simp] theorem State.modWave_dies (s : State) (f : Wave → Wave) : (s.modWave f).dies = s.dies := rfl
@[simp] theorem State.modWave_stations (s : State) (f : Wave → Wave) : (s.modWave f).stations = s.stations := rfl
@[simp] theorem State.modWave_mem (s : State) (f : Wave → Wave) : (s.modWave f).mem = s.mem := rfl
@[simp] theorem State.modWave_regs (s : State) (f : Wave → Wave) : (s.modWave f).regs = s.regs := rfl
@[simp] theorem State.modWave_pctb (s : State) (f : Wave → Wave) : (s.modWave f).pctb = s.pctb := rfl
@[simp] theorem State.modWave_pcount (s : State) (f : Wave → Wave) : (s.modWave f).pcount = s.pcount := rfl
@[simp] theorem State.modWave_inv (s : State) (f : Wave → Wave) : (s.modWave f).inv = s.inv := rfl
@[simp] theorem State.modWave_home (s : State) (f : Wave → Wave) : (s.modWave f).home = s.home := rfl
@[simp] theorem State.modWave_hostBias (s : State) (f : Wave → Wave) : (s.modWave f).hostBias = s.hostBias := rfl
@[simp] theorem State.modWave_forwards (s : State) (f : Wave → Wave) : (s.modWave f).forwards = s.forwards := rfl
@[simp] theorem State.modWave_poison (s : State) (f : Wave → Wave) : (s.modWave f).poison = s.poison := rfl
@[simp] theorem State.modWave_populated (s : State) (f : Wave → Wave) : (s.modWave f).populated = s.populated := rfl
@[simp] theorem State.modWave_removed (s : State) (f : Wave → Wave) : (s.modWave f).removed = s.removed := rfl
@[simp] theorem State.modWave_acks (s : State) (f : Wave → Wave) : (s.modWave f).acks = s.acks := rfl
@[simp] theorem State.modWave_nextTag (s : State) (f : Wave → Wave) : (s.modWave f).nextTag = s.nextTag := rfl
@[simp] theorem State.modWave_intake (s : State) (f : Wave → Wave) : (s.modWave f).intake = s.intake := rfl
@[simp] theorem State.modWave_commands (s : State) (f : Wave → Wave) : (s.modWave f).commands = s.commands := rfl
@[simp] theorem State.modWave_journalWait (s : State) (f : Wave → Wave) : (s.modWave f).journalWait = s.journalWait := rfl
@[simp] theorem State.modWave_takes (s : State) (f : Wave → Wave) : (s.modWave f).takes = s.takes := rfl
@[simp] theorem State.modWave_rings (s : State) (f : Wave → Wave) : (s.modWave f).rings = s.rings := rfl
@[simp] theorem State.modWave_nextRing (s : State) (f : Wave → Wave) : (s.modWave f).nextRing = s.nextRing := rfl
@[simp] theorem State.modWave_groupCount (s : State) (f : Wave → Wave) : (s.modWave f).groupCount = s.groupCount := rfl
@[simp] theorem State.modWave_insts (s : State) (f : Wave → Wave) : (s.modWave f).insts = s.insts := rfl
@[simp] theorem State.modWave_saved (s : State) (f : Wave → Wave) : (s.modWave f).saved = s.saved := rfl
@[simp] theorem State.modWave_lateCauses (s : State) (f : Wave → Wave) : (s.modWave f).lateCauses = s.lateCauses := rfl
@[simp] theorem State.modWave_stage1 (s : State) (f : Wave → Wave) : (s.modWave f).stage1 = s.stage1 := rfl
@[simp] theorem State.modWave_hostLines (s : State) (f : Wave → Wave) : (s.modWave f).hostLines = s.hostLines := rfl
@[simp] theorem State.modWave_markers (s : State) (f : Wave → Wave) : (s.modWave f).markers = s.markers := rfl
@[simp] theorem State.modWave_markersSent (s : State) (f : Wave → Wave) : (s.modWave f).markersSent = s.markersSent := rfl
@[simp] theorem State.modWave_outbox (s : State) (f : Wave → Wave) : (s.modWave f).outbox = s.outbox := rfl
@[simp] theorem State.modWave_meas (s : State) (f : Wave → Wave) : (s.modWave f).meas = s.meas := rfl
@[simp] theorem State.modWave_flash (s : State) (f : Wave → Wave) : (s.modWave f).flash = s.flash := rfl
@[simp] theorem State.modWave_slotInUse (s : State) (f : Wave → Wave) : (s.modWave f).slotInUse = s.slotInUse := rfl
@[simp] theorem State.modWave_rootDigest (s : State) (f : Wave → Wave) : (s.modWave f).rootDigest = s.rootDigest := rfl
@[simp] theorem State.modWave_minSvn (s : State) (f : Wave → Wave) : (s.modWave f).minSvn = s.minSvn := rfl
@[simp] theorem State.modWave_stage (s : State) (f : Wave → Wave) : (s.modWave f).stage = s.stage := rfl
@[simp] theorem State.modWave_cfg (s : State) (f : Wave → Wave) : (s.modWave f).cfg = s.cfg := rfl
@[simp] theorem State.modWave_mgmtBusy (s : State) (f : Wave → Wave) : (s.modWave f).mgmtBusy = s.mgmtBusy := rfl
@[simp] theorem State.modWave_reloading (s : State) (f : Wave → Wave) : (s.modWave f).reloading = s.reloading := rfl
@[simp] theorem State.modWave_fatal (s : State) (f : Wave → Wave) : (s.modWave f).fatal = s.fatal := rfl
@[simp] theorem State.modWave_hostCopies (s : State) (f : Wave → Wave) : (s.modWave f).hostCopies = s.hostCopies := rfl
@[simp] theorem State.modWave_pkg (s : State) (f : Wave → Wave) : (s.modWave f).pkg = s.pkg := rfl
@[simp] theorem State.modWave_expelled (s : State) (f : Wave → Wave) : (s.modWave f).expelled = s.expelled := rfl
@[simp] theorem State.modWave_freshHalves (s : State) (f : Wave → Wave) : (s.modWave f).freshHalves = s.freshHalves := rfl
@[simp] theorem State.modWave_transcripts (s : State) (f : Wave → Wave) : (s.modWave f).transcripts = s.transcripts := rfl
@[simp] theorem State.modWave_column (s : State) (f : Wave → Wave) : (s.modWave f).column = s.column := rfl

@[simp] theorem State.modCsrs_cycle (s : State) (f : Csrs → Csrs) : (s.modCsrs f).cycle = s.cycle := rfl
@[simp] theorem State.modCsrs_coreIdx (s : State) (f : Csrs → Csrs) : (s.modCsrs f).coreIdx = s.coreIdx := rfl
@[simp] theorem State.modCsrs_curCore (s : State) (f : Csrs → Csrs) : (s.modCsrs f).curCore = s.curCore := rfl
@[simp] theorem State.modCsrs_curSlot (s : State) (f : Csrs → Csrs) : (s.modCsrs f).curSlot = s.curSlot := rfl
@[simp] theorem State.modCsrs_half (s : State) (f : Csrs → Csrs) : (s.modCsrs f).half = s.half := rfl
@[simp] theorem State.modCsrs_agenda (s : State) (f : Csrs → Csrs) : (s.modCsrs f).agenda = s.agenda := rfl
@[simp] theorem State.modCsrs_args (s : State) (f : Csrs → Csrs) : (s.modCsrs f).args = s.args := rfl
@[simp] theorem State.modCsrs_freeCount (s : State) (f : Csrs → Csrs) : (s.modCsrs f).freeCount = s.freeCount := rfl
@[simp] theorem State.modCsrs_verdict (s : State) (f : Csrs → Csrs) : (s.modCsrs f).verdict = s.verdict := rfl
@[simp] theorem State.modCsrs_lat (s : State) (f : Csrs → Csrs) : (s.modCsrs f).lat = s.lat := rfl
@[simp] theorem State.modCsrs_clusters (s : State) (f : Csrs → Csrs) : (s.modCsrs f).clusters = s.clusters := rfl
@[simp] theorem State.modCsrs_dies (s : State) (f : Csrs → Csrs) : (s.modCsrs f).dies = s.dies := rfl
@[simp] theorem State.modCsrs_stations (s : State) (f : Csrs → Csrs) : (s.modCsrs f).stations = s.stations := rfl
@[simp] theorem State.modCsrs_mem (s : State) (f : Csrs → Csrs) : (s.modCsrs f).mem = s.mem := rfl
@[simp] theorem State.modCsrs_regs (s : State) (f : Csrs → Csrs) : (s.modCsrs f).regs = s.regs := rfl
@[simp] theorem State.modCsrs_pctb (s : State) (f : Csrs → Csrs) : (s.modCsrs f).pctb = s.pctb := rfl
@[simp] theorem State.modCsrs_pcount (s : State) (f : Csrs → Csrs) : (s.modCsrs f).pcount = s.pcount := rfl
@[simp] theorem State.modCsrs_inv (s : State) (f : Csrs → Csrs) : (s.modCsrs f).inv = s.inv := rfl
@[simp] theorem State.modCsrs_home (s : State) (f : Csrs → Csrs) : (s.modCsrs f).home = s.home := rfl
@[simp] theorem State.modCsrs_hostBias (s : State) (f : Csrs → Csrs) : (s.modCsrs f).hostBias = s.hostBias := rfl
@[simp] theorem State.modCsrs_forwards (s : State) (f : Csrs → Csrs) : (s.modCsrs f).forwards = s.forwards := rfl
@[simp] theorem State.modCsrs_poison (s : State) (f : Csrs → Csrs) : (s.modCsrs f).poison = s.poison := rfl
@[simp] theorem State.modCsrs_populated (s : State) (f : Csrs → Csrs) : (s.modCsrs f).populated = s.populated := rfl
@[simp] theorem State.modCsrs_removed (s : State) (f : Csrs → Csrs) : (s.modCsrs f).removed = s.removed := rfl
@[simp] theorem State.modCsrs_acks (s : State) (f : Csrs → Csrs) : (s.modCsrs f).acks = s.acks := rfl
@[simp] theorem State.modCsrs_nextTag (s : State) (f : Csrs → Csrs) : (s.modCsrs f).nextTag = s.nextTag := rfl
@[simp] theorem State.modCsrs_intake (s : State) (f : Csrs → Csrs) : (s.modCsrs f).intake = s.intake := rfl
@[simp] theorem State.modCsrs_commands (s : State) (f : Csrs → Csrs) : (s.modCsrs f).commands = s.commands := rfl
@[simp] theorem State.modCsrs_journalWait (s : State) (f : Csrs → Csrs) : (s.modCsrs f).journalWait = s.journalWait := rfl
@[simp] theorem State.modCsrs_takes (s : State) (f : Csrs → Csrs) : (s.modCsrs f).takes = s.takes := rfl
@[simp] theorem State.modCsrs_rings (s : State) (f : Csrs → Csrs) : (s.modCsrs f).rings = s.rings := rfl
@[simp] theorem State.modCsrs_nextRing (s : State) (f : Csrs → Csrs) : (s.modCsrs f).nextRing = s.nextRing := rfl
@[simp] theorem State.modCsrs_groupCount (s : State) (f : Csrs → Csrs) : (s.modCsrs f).groupCount = s.groupCount := rfl
@[simp] theorem State.modCsrs_insts (s : State) (f : Csrs → Csrs) : (s.modCsrs f).insts = s.insts := rfl
@[simp] theorem State.modCsrs_saved (s : State) (f : Csrs → Csrs) : (s.modCsrs f).saved = s.saved := rfl
@[simp] theorem State.modCsrs_lateCauses (s : State) (f : Csrs → Csrs) : (s.modCsrs f).lateCauses = s.lateCauses := rfl
@[simp] theorem State.modCsrs_stage1 (s : State) (f : Csrs → Csrs) : (s.modCsrs f).stage1 = s.stage1 := rfl
@[simp] theorem State.modCsrs_hostLines (s : State) (f : Csrs → Csrs) : (s.modCsrs f).hostLines = s.hostLines := rfl
@[simp] theorem State.modCsrs_markers (s : State) (f : Csrs → Csrs) : (s.modCsrs f).markers = s.markers := rfl
@[simp] theorem State.modCsrs_markersSent (s : State) (f : Csrs → Csrs) : (s.modCsrs f).markersSent = s.markersSent := rfl
@[simp] theorem State.modCsrs_outbox (s : State) (f : Csrs → Csrs) : (s.modCsrs f).outbox = s.outbox := rfl
@[simp] theorem State.modCsrs_meas (s : State) (f : Csrs → Csrs) : (s.modCsrs f).meas = s.meas := rfl
@[simp] theorem State.modCsrs_flash (s : State) (f : Csrs → Csrs) : (s.modCsrs f).flash = s.flash := rfl
@[simp] theorem State.modCsrs_slotInUse (s : State) (f : Csrs → Csrs) : (s.modCsrs f).slotInUse = s.slotInUse := rfl
@[simp] theorem State.modCsrs_rootDigest (s : State) (f : Csrs → Csrs) : (s.modCsrs f).rootDigest = s.rootDigest := rfl
@[simp] theorem State.modCsrs_minSvn (s : State) (f : Csrs → Csrs) : (s.modCsrs f).minSvn = s.minSvn := rfl
@[simp] theorem State.modCsrs_stage (s : State) (f : Csrs → Csrs) : (s.modCsrs f).stage = s.stage := rfl
@[simp] theorem State.modCsrs_cfg (s : State) (f : Csrs → Csrs) : (s.modCsrs f).cfg = s.cfg := rfl
@[simp] theorem State.modCsrs_mgmtBusy (s : State) (f : Csrs → Csrs) : (s.modCsrs f).mgmtBusy = s.mgmtBusy := rfl
@[simp] theorem State.modCsrs_reloading (s : State) (f : Csrs → Csrs) : (s.modCsrs f).reloading = s.reloading := rfl
@[simp] theorem State.modCsrs_fatal (s : State) (f : Csrs → Csrs) : (s.modCsrs f).fatal = s.fatal := rfl
@[simp] theorem State.modCsrs_hostCopies (s : State) (f : Csrs → Csrs) : (s.modCsrs f).hostCopies = s.hostCopies := rfl
@[simp] theorem State.modCsrs_pkg (s : State) (f : Csrs → Csrs) : (s.modCsrs f).pkg = s.pkg := rfl
@[simp] theorem State.modCsrs_expelled (s : State) (f : Csrs → Csrs) : (s.modCsrs f).expelled = s.expelled := rfl
@[simp] theorem State.modCsrs_freshHalves (s : State) (f : Csrs → Csrs) : (s.modCsrs f).freshHalves = s.freshHalves := rfl
@[simp] theorem State.modCsrs_transcripts (s : State) (f : Csrs → Csrs) : (s.modCsrs f).transcripts = s.transcripts := rfl
@[simp] theorem State.modCsrs_column (s : State) (f : Csrs → Csrs) : (s.modCsrs f).column = s.column := rfl

@[simp] theorem State.modCur_cycle (s : State) (f : Core → Core) : (s.modCur f).cycle = s.cycle := rfl
@[simp] theorem State.modCur_coreIdx (s : State) (f : Core → Core) : (s.modCur f).coreIdx = s.coreIdx := rfl
@[simp] theorem State.modCur_curCore (s : State) (f : Core → Core) : (s.modCur f).curCore = s.curCore := rfl
@[simp] theorem State.modCur_curSlot (s : State) (f : Core → Core) : (s.modCur f).curSlot = s.curSlot := rfl
@[simp] theorem State.modCur_half (s : State) (f : Core → Core) : (s.modCur f).half = s.half := rfl
@[simp] theorem State.modCur_agenda (s : State) (f : Core → Core) : (s.modCur f).agenda = s.agenda := rfl
@[simp] theorem State.modCur_args (s : State) (f : Core → Core) : (s.modCur f).args = s.args := rfl
@[simp] theorem State.modCur_freeCount (s : State) (f : Core → Core) : (s.modCur f).freeCount = s.freeCount := rfl
@[simp] theorem State.modCur_verdict (s : State) (f : Core → Core) : (s.modCur f).verdict = s.verdict := rfl
@[simp] theorem State.modCur_lat (s : State) (f : Core → Core) : (s.modCur f).lat = s.lat := rfl
@[simp] theorem State.modCur_clusters (s : State) (f : Core → Core) : (s.modCur f).clusters = s.clusters := rfl
@[simp] theorem State.modCur_dies (s : State) (f : Core → Core) : (s.modCur f).dies = s.dies := rfl
@[simp] theorem State.modCur_stations (s : State) (f : Core → Core) : (s.modCur f).stations = s.stations := rfl
@[simp] theorem State.modCur_mem (s : State) (f : Core → Core) : (s.modCur f).mem = s.mem := rfl
@[simp] theorem State.modCur_regs (s : State) (f : Core → Core) : (s.modCur f).regs = s.regs := rfl
@[simp] theorem State.modCur_pctb (s : State) (f : Core → Core) : (s.modCur f).pctb = s.pctb := rfl
@[simp] theorem State.modCur_pcount (s : State) (f : Core → Core) : (s.modCur f).pcount = s.pcount := rfl
@[simp] theorem State.modCur_inv (s : State) (f : Core → Core) : (s.modCur f).inv = s.inv := rfl
@[simp] theorem State.modCur_home (s : State) (f : Core → Core) : (s.modCur f).home = s.home := rfl
@[simp] theorem State.modCur_hostBias (s : State) (f : Core → Core) : (s.modCur f).hostBias = s.hostBias := rfl
@[simp] theorem State.modCur_forwards (s : State) (f : Core → Core) : (s.modCur f).forwards = s.forwards := rfl
@[simp] theorem State.modCur_poison (s : State) (f : Core → Core) : (s.modCur f).poison = s.poison := rfl
@[simp] theorem State.modCur_populated (s : State) (f : Core → Core) : (s.modCur f).populated = s.populated := rfl
@[simp] theorem State.modCur_removed (s : State) (f : Core → Core) : (s.modCur f).removed = s.removed := rfl
@[simp] theorem State.modCur_acks (s : State) (f : Core → Core) : (s.modCur f).acks = s.acks := rfl
@[simp] theorem State.modCur_nextTag (s : State) (f : Core → Core) : (s.modCur f).nextTag = s.nextTag := rfl
@[simp] theorem State.modCur_intake (s : State) (f : Core → Core) : (s.modCur f).intake = s.intake := rfl
@[simp] theorem State.modCur_commands (s : State) (f : Core → Core) : (s.modCur f).commands = s.commands := rfl
@[simp] theorem State.modCur_journalWait (s : State) (f : Core → Core) : (s.modCur f).journalWait = s.journalWait := rfl
@[simp] theorem State.modCur_takes (s : State) (f : Core → Core) : (s.modCur f).takes = s.takes := rfl
@[simp] theorem State.modCur_rings (s : State) (f : Core → Core) : (s.modCur f).rings = s.rings := rfl
@[simp] theorem State.modCur_nextRing (s : State) (f : Core → Core) : (s.modCur f).nextRing = s.nextRing := rfl
@[simp] theorem State.modCur_groupCount (s : State) (f : Core → Core) : (s.modCur f).groupCount = s.groupCount := rfl
@[simp] theorem State.modCur_insts (s : State) (f : Core → Core) : (s.modCur f).insts = s.insts := rfl
@[simp] theorem State.modCur_saved (s : State) (f : Core → Core) : (s.modCur f).saved = s.saved := rfl
@[simp] theorem State.modCur_lateCauses (s : State) (f : Core → Core) : (s.modCur f).lateCauses = s.lateCauses := rfl
@[simp] theorem State.modCur_stage1 (s : State) (f : Core → Core) : (s.modCur f).stage1 = s.stage1 := rfl
@[simp] theorem State.modCur_hostLines (s : State) (f : Core → Core) : (s.modCur f).hostLines = s.hostLines := rfl
@[simp] theorem State.modCur_markers (s : State) (f : Core → Core) : (s.modCur f).markers = s.markers := rfl
@[simp] theorem State.modCur_markersSent (s : State) (f : Core → Core) : (s.modCur f).markersSent = s.markersSent := rfl
@[simp] theorem State.modCur_outbox (s : State) (f : Core → Core) : (s.modCur f).outbox = s.outbox := rfl
@[simp] theorem State.modCur_meas (s : State) (f : Core → Core) : (s.modCur f).meas = s.meas := rfl
@[simp] theorem State.modCur_flash (s : State) (f : Core → Core) : (s.modCur f).flash = s.flash := rfl
@[simp] theorem State.modCur_slotInUse (s : State) (f : Core → Core) : (s.modCur f).slotInUse = s.slotInUse := rfl
@[simp] theorem State.modCur_rootDigest (s : State) (f : Core → Core) : (s.modCur f).rootDigest = s.rootDigest := rfl
@[simp] theorem State.modCur_minSvn (s : State) (f : Core → Core) : (s.modCur f).minSvn = s.minSvn := rfl
@[simp] theorem State.modCur_stage (s : State) (f : Core → Core) : (s.modCur f).stage = s.stage := rfl
@[simp] theorem State.modCur_cfg (s : State) (f : Core → Core) : (s.modCur f).cfg = s.cfg := rfl
@[simp] theorem State.modCur_mgmtBusy (s : State) (f : Core → Core) : (s.modCur f).mgmtBusy = s.mgmtBusy := rfl
@[simp] theorem State.modCur_reloading (s : State) (f : Core → Core) : (s.modCur f).reloading = s.reloading := rfl
@[simp] theorem State.modCur_fatal (s : State) (f : Core → Core) : (s.modCur f).fatal = s.fatal := rfl
@[simp] theorem State.modCur_hostCopies (s : State) (f : Core → Core) : (s.modCur f).hostCopies = s.hostCopies := rfl
@[simp] theorem State.modCur_pkg (s : State) (f : Core → Core) : (s.modCur f).pkg = s.pkg := rfl
@[simp] theorem State.modCur_expelled (s : State) (f : Core → Core) : (s.modCur f).expelled = s.expelled := rfl
@[simp] theorem State.modCur_freshHalves (s : State) (f : Core → Core) : (s.modCur f).freshHalves = s.freshHalves := rfl
@[simp] theorem State.modCur_transcripts (s : State) (f : Core → Core) : (s.modCur f).transcripts = s.transcripts := rfl
@[simp] theorem State.modCur_column (s : State) (f : Core → Core) : (s.modCur f).column = s.column := rfl

@[simp] theorem State.count_cycle (s : State) (c k n : Nat) : (s.count c k n).cycle = s.cycle := rfl
@[simp] theorem State.count_coreIdx (s : State) (c k n : Nat) : (s.count c k n).coreIdx = s.coreIdx := rfl
@[simp] theorem State.count_curCore (s : State) (c k n : Nat) : (s.count c k n).curCore = s.curCore := rfl
@[simp] theorem State.count_curSlot (s : State) (c k n : Nat) : (s.count c k n).curSlot = s.curSlot := rfl
@[simp] theorem State.count_half (s : State) (c k n : Nat) : (s.count c k n).half = s.half := rfl
@[simp] theorem State.count_agenda (s : State) (c k n : Nat) : (s.count c k n).agenda = s.agenda := rfl
@[simp] theorem State.count_args (s : State) (c k n : Nat) : (s.count c k n).args = s.args := rfl
@[simp] theorem State.count_freeCount (s : State) (c k n : Nat) : (s.count c k n).freeCount = s.freeCount := rfl
@[simp] theorem State.count_verdict (s : State) (c k n : Nat) : (s.count c k n).verdict = s.verdict := rfl
@[simp] theorem State.count_lat (s : State) (c k n : Nat) : (s.count c k n).lat = s.lat := rfl
@[simp] theorem State.count_clusters (s : State) (c k n : Nat) : (s.count c k n).clusters = s.clusters := rfl
@[simp] theorem State.count_dies (s : State) (c k n : Nat) : (s.count c k n).dies = s.dies := rfl
@[simp] theorem State.count_stations (s : State) (c k n : Nat) : (s.count c k n).stations = s.stations := rfl
@[simp] theorem State.count_mem (s : State) (c k n : Nat) : (s.count c k n).mem = s.mem := rfl
@[simp] theorem State.count_regs (s : State) (c k n : Nat) : (s.count c k n).regs = s.regs := rfl
@[simp] theorem State.count_pctb (s : State) (c k n : Nat) : (s.count c k n).pctb = s.pctb := rfl
@[simp] theorem State.count_pcount (s : State) (c k n : Nat) : (s.count c k n).pcount = s.pcount := rfl
@[simp] theorem State.count_inv (s : State) (c k n : Nat) : (s.count c k n).inv = s.inv := rfl
@[simp] theorem State.count_home (s : State) (c k n : Nat) : (s.count c k n).home = s.home := rfl
@[simp] theorem State.count_hostBias (s : State) (c k n : Nat) : (s.count c k n).hostBias = s.hostBias := rfl
@[simp] theorem State.count_forwards (s : State) (c k n : Nat) : (s.count c k n).forwards = s.forwards := rfl
@[simp] theorem State.count_poison (s : State) (c k n : Nat) : (s.count c k n).poison = s.poison := rfl
@[simp] theorem State.count_populated (s : State) (c k n : Nat) : (s.count c k n).populated = s.populated := rfl
@[simp] theorem State.count_removed (s : State) (c k n : Nat) : (s.count c k n).removed = s.removed := rfl
@[simp] theorem State.count_acks (s : State) (c k n : Nat) : (s.count c k n).acks = s.acks := rfl
@[simp] theorem State.count_nextTag (s : State) (c k n : Nat) : (s.count c k n).nextTag = s.nextTag := rfl
@[simp] theorem State.count_intake (s : State) (c k n : Nat) : (s.count c k n).intake = s.intake := rfl
@[simp] theorem State.count_commands (s : State) (c k n : Nat) : (s.count c k n).commands = s.commands := rfl
@[simp] theorem State.count_journalWait (s : State) (c k n : Nat) : (s.count c k n).journalWait = s.journalWait := rfl
@[simp] theorem State.count_takes (s : State) (c k n : Nat) : (s.count c k n).takes = s.takes := rfl
@[simp] theorem State.count_rings (s : State) (c k n : Nat) : (s.count c k n).rings = s.rings := rfl
@[simp] theorem State.count_nextRing (s : State) (c k n : Nat) : (s.count c k n).nextRing = s.nextRing := rfl
@[simp] theorem State.count_groupCount (s : State) (c k n : Nat) : (s.count c k n).groupCount = s.groupCount := rfl
@[simp] theorem State.count_insts (s : State) (c k n : Nat) : (s.count c k n).insts = s.insts := rfl
@[simp] theorem State.count_saved (s : State) (c k n : Nat) : (s.count c k n).saved = s.saved := rfl
@[simp] theorem State.count_lateCauses (s : State) (c k n : Nat) : (s.count c k n).lateCauses = s.lateCauses := rfl
@[simp] theorem State.count_stage1 (s : State) (c k n : Nat) : (s.count c k n).stage1 = s.stage1 := rfl
@[simp] theorem State.count_hostLines (s : State) (c k n : Nat) : (s.count c k n).hostLines = s.hostLines := rfl
@[simp] theorem State.count_markers (s : State) (c k n : Nat) : (s.count c k n).markers = s.markers := rfl
@[simp] theorem State.count_markersSent (s : State) (c k n : Nat) : (s.count c k n).markersSent = s.markersSent := rfl
@[simp] theorem State.count_outbox (s : State) (c k n : Nat) : (s.count c k n).outbox = s.outbox := rfl
@[simp] theorem State.count_meas (s : State) (c k n : Nat) : (s.count c k n).meas = s.meas := rfl
@[simp] theorem State.count_flash (s : State) (c k n : Nat) : (s.count c k n).flash = s.flash := rfl
@[simp] theorem State.count_slotInUse (s : State) (c k n : Nat) : (s.count c k n).slotInUse = s.slotInUse := rfl
@[simp] theorem State.count_rootDigest (s : State) (c k n : Nat) : (s.count c k n).rootDigest = s.rootDigest := rfl
@[simp] theorem State.count_minSvn (s : State) (c k n : Nat) : (s.count c k n).minSvn = s.minSvn := rfl
@[simp] theorem State.count_stage (s : State) (c k n : Nat) : (s.count c k n).stage = s.stage := rfl
@[simp] theorem State.count_cfg (s : State) (c k n : Nat) : (s.count c k n).cfg = s.cfg := rfl
@[simp] theorem State.count_mgmtBusy (s : State) (c k n : Nat) : (s.count c k n).mgmtBusy = s.mgmtBusy := rfl
@[simp] theorem State.count_reloading (s : State) (c k n : Nat) : (s.count c k n).reloading = s.reloading := rfl
@[simp] theorem State.count_fatal (s : State) (c k n : Nat) : (s.count c k n).fatal = s.fatal := rfl
@[simp] theorem State.count_hostCopies (s : State) (c k n : Nat) : (s.count c k n).hostCopies = s.hostCopies := rfl
@[simp] theorem State.count_pkg (s : State) (c k n : Nat) : (s.count c k n).pkg = s.pkg := rfl
@[simp] theorem State.count_expelled (s : State) (c k n : Nat) : (s.count c k n).expelled = s.expelled := rfl
@[simp] theorem State.count_freshHalves (s : State) (c k n : Nat) : (s.count c k n).freshHalves = s.freshHalves := rfl
@[simp] theorem State.count_transcripts (s : State) (c k n : Nat) : (s.count c k n).transcripts = s.transcripts := rfl
@[simp] theorem State.count_column (s : State) (c k n : Nat) : (s.count c k n).column = s.column := rfl

@[simp] theorem State.modCluster_cycle (s : State) (k : Nat) (f : Cluster → Cluster) : (s.modCluster k f).cycle = s.cycle := rfl
@[simp] theorem State.modCluster_coreIdx (s : State) (k : Nat) (f : Cluster → Cluster) : (s.modCluster k f).coreIdx = s.coreIdx := rfl
@[simp] theorem State.modCluster_curCore (s : State) (k : Nat) (f : Cluster → Cluster) : (s.modCluster k f).curCore = s.curCore := rfl
@[simp] theorem State.modCluster_curSlot (s : State) (k : Nat) (f : Cluster → Cluster) : (s.modCluster k f).curSlot = s.curSlot := rfl
@[simp] theorem State.modCluster_half (s : State) (k : Nat) (f : Cluster → Cluster) : (s.modCluster k f).half = s.half := rfl
@[simp] theorem State.modCluster_agenda (s : State) (k : Nat) (f : Cluster → Cluster) : (s.modCluster k f).agenda = s.agenda := rfl
@[simp] theorem State.modCluster_args (s : State) (k : Nat) (f : Cluster → Cluster) : (s.modCluster k f).args = s.args := rfl
@[simp] theorem State.modCluster_freeCount (s : State) (k : Nat) (f : Cluster → Cluster) : (s.modCluster k f).freeCount = s.freeCount := rfl
@[simp] theorem State.modCluster_verdict (s : State) (k : Nat) (f : Cluster → Cluster) : (s.modCluster k f).verdict = s.verdict := rfl
@[simp] theorem State.modCluster_lat (s : State) (k : Nat) (f : Cluster → Cluster) : (s.modCluster k f).lat = s.lat := rfl
@[simp] theorem State.modCluster_cores (s : State) (k : Nat) (f : Cluster → Cluster) : (s.modCluster k f).cores = s.cores := rfl
@[simp] theorem State.modCluster_dies (s : State) (k : Nat) (f : Cluster → Cluster) : (s.modCluster k f).dies = s.dies := rfl
@[simp] theorem State.modCluster_stations (s : State) (k : Nat) (f : Cluster → Cluster) : (s.modCluster k f).stations = s.stations := rfl
@[simp] theorem State.modCluster_mem (s : State) (k : Nat) (f : Cluster → Cluster) : (s.modCluster k f).mem = s.mem := rfl
@[simp] theorem State.modCluster_regs (s : State) (k : Nat) (f : Cluster → Cluster) : (s.modCluster k f).regs = s.regs := rfl
@[simp] theorem State.modCluster_pctb (s : State) (k : Nat) (f : Cluster → Cluster) : (s.modCluster k f).pctb = s.pctb := rfl
@[simp] theorem State.modCluster_pcount (s : State) (k : Nat) (f : Cluster → Cluster) : (s.modCluster k f).pcount = s.pcount := rfl
@[simp] theorem State.modCluster_inv (s : State) (k : Nat) (f : Cluster → Cluster) : (s.modCluster k f).inv = s.inv := rfl
@[simp] theorem State.modCluster_home (s : State) (k : Nat) (f : Cluster → Cluster) : (s.modCluster k f).home = s.home := rfl
@[simp] theorem State.modCluster_hostBias (s : State) (k : Nat) (f : Cluster → Cluster) : (s.modCluster k f).hostBias = s.hostBias := rfl
@[simp] theorem State.modCluster_forwards (s : State) (k : Nat) (f : Cluster → Cluster) : (s.modCluster k f).forwards = s.forwards := rfl
@[simp] theorem State.modCluster_poison (s : State) (k : Nat) (f : Cluster → Cluster) : (s.modCluster k f).poison = s.poison := rfl
@[simp] theorem State.modCluster_populated (s : State) (k : Nat) (f : Cluster → Cluster) : (s.modCluster k f).populated = s.populated := rfl
@[simp] theorem State.modCluster_removed (s : State) (k : Nat) (f : Cluster → Cluster) : (s.modCluster k f).removed = s.removed := rfl
@[simp] theorem State.modCluster_acks (s : State) (k : Nat) (f : Cluster → Cluster) : (s.modCluster k f).acks = s.acks := rfl
@[simp] theorem State.modCluster_nextTag (s : State) (k : Nat) (f : Cluster → Cluster) : (s.modCluster k f).nextTag = s.nextTag := rfl
@[simp] theorem State.modCluster_intake (s : State) (k : Nat) (f : Cluster → Cluster) : (s.modCluster k f).intake = s.intake := rfl
@[simp] theorem State.modCluster_commands (s : State) (k : Nat) (f : Cluster → Cluster) : (s.modCluster k f).commands = s.commands := rfl
@[simp] theorem State.modCluster_journalWait (s : State) (k : Nat) (f : Cluster → Cluster) : (s.modCluster k f).journalWait = s.journalWait := rfl
@[simp] theorem State.modCluster_takes (s : State) (k : Nat) (f : Cluster → Cluster) : (s.modCluster k f).takes = s.takes := rfl
@[simp] theorem State.modCluster_rings (s : State) (k : Nat) (f : Cluster → Cluster) : (s.modCluster k f).rings = s.rings := rfl
@[simp] theorem State.modCluster_nextRing (s : State) (k : Nat) (f : Cluster → Cluster) : (s.modCluster k f).nextRing = s.nextRing := rfl
@[simp] theorem State.modCluster_groupCount (s : State) (k : Nat) (f : Cluster → Cluster) : (s.modCluster k f).groupCount = s.groupCount := rfl
@[simp] theorem State.modCluster_insts (s : State) (k : Nat) (f : Cluster → Cluster) : (s.modCluster k f).insts = s.insts := rfl
@[simp] theorem State.modCluster_saved (s : State) (k : Nat) (f : Cluster → Cluster) : (s.modCluster k f).saved = s.saved := rfl
@[simp] theorem State.modCluster_lateCauses (s : State) (k : Nat) (f : Cluster → Cluster) : (s.modCluster k f).lateCauses = s.lateCauses := rfl
@[simp] theorem State.modCluster_stage1 (s : State) (k : Nat) (f : Cluster → Cluster) : (s.modCluster k f).stage1 = s.stage1 := rfl
@[simp] theorem State.modCluster_hostLines (s : State) (k : Nat) (f : Cluster → Cluster) : (s.modCluster k f).hostLines = s.hostLines := rfl
@[simp] theorem State.modCluster_markers (s : State) (k : Nat) (f : Cluster → Cluster) : (s.modCluster k f).markers = s.markers := rfl
@[simp] theorem State.modCluster_markersSent (s : State) (k : Nat) (f : Cluster → Cluster) : (s.modCluster k f).markersSent = s.markersSent := rfl
@[simp] theorem State.modCluster_outbox (s : State) (k : Nat) (f : Cluster → Cluster) : (s.modCluster k f).outbox = s.outbox := rfl
@[simp] theorem State.modCluster_meas (s : State) (k : Nat) (f : Cluster → Cluster) : (s.modCluster k f).meas = s.meas := rfl
@[simp] theorem State.modCluster_flash (s : State) (k : Nat) (f : Cluster → Cluster) : (s.modCluster k f).flash = s.flash := rfl
@[simp] theorem State.modCluster_slotInUse (s : State) (k : Nat) (f : Cluster → Cluster) : (s.modCluster k f).slotInUse = s.slotInUse := rfl
@[simp] theorem State.modCluster_rootDigest (s : State) (k : Nat) (f : Cluster → Cluster) : (s.modCluster k f).rootDigest = s.rootDigest := rfl
@[simp] theorem State.modCluster_minSvn (s : State) (k : Nat) (f : Cluster → Cluster) : (s.modCluster k f).minSvn = s.minSvn := rfl
@[simp] theorem State.modCluster_stage (s : State) (k : Nat) (f : Cluster → Cluster) : (s.modCluster k f).stage = s.stage := rfl
@[simp] theorem State.modCluster_cfg (s : State) (k : Nat) (f : Cluster → Cluster) : (s.modCluster k f).cfg = s.cfg := rfl
@[simp] theorem State.modCluster_mgmtBusy (s : State) (k : Nat) (f : Cluster → Cluster) : (s.modCluster k f).mgmtBusy = s.mgmtBusy := rfl
@[simp] theorem State.modCluster_reloading (s : State) (k : Nat) (f : Cluster → Cluster) : (s.modCluster k f).reloading = s.reloading := rfl
@[simp] theorem State.modCluster_fatal (s : State) (k : Nat) (f : Cluster → Cluster) : (s.modCluster k f).fatal = s.fatal := rfl
@[simp] theorem State.modCluster_hostCopies (s : State) (k : Nat) (f : Cluster → Cluster) : (s.modCluster k f).hostCopies = s.hostCopies := rfl
@[simp] theorem State.modCluster_pkg (s : State) (k : Nat) (f : Cluster → Cluster) : (s.modCluster k f).pkg = s.pkg := rfl
@[simp] theorem State.modCluster_expelled (s : State) (k : Nat) (f : Cluster → Cluster) : (s.modCluster k f).expelled = s.expelled := rfl
@[simp] theorem State.modCluster_freshHalves (s : State) (k : Nat) (f : Cluster → Cluster) : (s.modCluster k f).freshHalves = s.freshHalves := rfl
@[simp] theorem State.modCluster_transcripts (s : State) (k : Nat) (f : Cluster → Cluster) : (s.modCluster k f).transcripts = s.transcripts := rfl
@[simp] theorem State.modCluster_column (s : State) (k : Nat) (f : Cluster → Cluster) : (s.modCluster k f).column = s.column := rfl

@[simp] theorem State.modDie_cycle (s : State) (d : Nat) (f : Die → Die) : (s.modDie d f).cycle = s.cycle := rfl
@[simp] theorem State.modDie_coreIdx (s : State) (d : Nat) (f : Die → Die) : (s.modDie d f).coreIdx = s.coreIdx := rfl
@[simp] theorem State.modDie_curCore (s : State) (d : Nat) (f : Die → Die) : (s.modDie d f).curCore = s.curCore := rfl
@[simp] theorem State.modDie_curSlot (s : State) (d : Nat) (f : Die → Die) : (s.modDie d f).curSlot = s.curSlot := rfl
@[simp] theorem State.modDie_half (s : State) (d : Nat) (f : Die → Die) : (s.modDie d f).half = s.half := rfl
@[simp] theorem State.modDie_agenda (s : State) (d : Nat) (f : Die → Die) : (s.modDie d f).agenda = s.agenda := rfl
@[simp] theorem State.modDie_args (s : State) (d : Nat) (f : Die → Die) : (s.modDie d f).args = s.args := rfl
@[simp] theorem State.modDie_freeCount (s : State) (d : Nat) (f : Die → Die) : (s.modDie d f).freeCount = s.freeCount := rfl
@[simp] theorem State.modDie_verdict (s : State) (d : Nat) (f : Die → Die) : (s.modDie d f).verdict = s.verdict := rfl
@[simp] theorem State.modDie_lat (s : State) (d : Nat) (f : Die → Die) : (s.modDie d f).lat = s.lat := rfl
@[simp] theorem State.modDie_cores (s : State) (d : Nat) (f : Die → Die) : (s.modDie d f).cores = s.cores := rfl
@[simp] theorem State.modDie_clusters (s : State) (d : Nat) (f : Die → Die) : (s.modDie d f).clusters = s.clusters := rfl
@[simp] theorem State.modDie_stations (s : State) (d : Nat) (f : Die → Die) : (s.modDie d f).stations = s.stations := rfl
@[simp] theorem State.modDie_mem (s : State) (d : Nat) (f : Die → Die) : (s.modDie d f).mem = s.mem := rfl
@[simp] theorem State.modDie_regs (s : State) (d : Nat) (f : Die → Die) : (s.modDie d f).regs = s.regs := rfl
@[simp] theorem State.modDie_pctb (s : State) (d : Nat) (f : Die → Die) : (s.modDie d f).pctb = s.pctb := rfl
@[simp] theorem State.modDie_pcount (s : State) (d : Nat) (f : Die → Die) : (s.modDie d f).pcount = s.pcount := rfl
@[simp] theorem State.modDie_inv (s : State) (d : Nat) (f : Die → Die) : (s.modDie d f).inv = s.inv := rfl
@[simp] theorem State.modDie_home (s : State) (d : Nat) (f : Die → Die) : (s.modDie d f).home = s.home := rfl
@[simp] theorem State.modDie_hostBias (s : State) (d : Nat) (f : Die → Die) : (s.modDie d f).hostBias = s.hostBias := rfl
@[simp] theorem State.modDie_forwards (s : State) (d : Nat) (f : Die → Die) : (s.modDie d f).forwards = s.forwards := rfl
@[simp] theorem State.modDie_poison (s : State) (d : Nat) (f : Die → Die) : (s.modDie d f).poison = s.poison := rfl
@[simp] theorem State.modDie_populated (s : State) (d : Nat) (f : Die → Die) : (s.modDie d f).populated = s.populated := rfl
@[simp] theorem State.modDie_removed (s : State) (d : Nat) (f : Die → Die) : (s.modDie d f).removed = s.removed := rfl
@[simp] theorem State.modDie_acks (s : State) (d : Nat) (f : Die → Die) : (s.modDie d f).acks = s.acks := rfl
@[simp] theorem State.modDie_nextTag (s : State) (d : Nat) (f : Die → Die) : (s.modDie d f).nextTag = s.nextTag := rfl
@[simp] theorem State.modDie_intake (s : State) (d : Nat) (f : Die → Die) : (s.modDie d f).intake = s.intake := rfl
@[simp] theorem State.modDie_commands (s : State) (d : Nat) (f : Die → Die) : (s.modDie d f).commands = s.commands := rfl
@[simp] theorem State.modDie_journalWait (s : State) (d : Nat) (f : Die → Die) : (s.modDie d f).journalWait = s.journalWait := rfl
@[simp] theorem State.modDie_takes (s : State) (d : Nat) (f : Die → Die) : (s.modDie d f).takes = s.takes := rfl
@[simp] theorem State.modDie_rings (s : State) (d : Nat) (f : Die → Die) : (s.modDie d f).rings = s.rings := rfl
@[simp] theorem State.modDie_nextRing (s : State) (d : Nat) (f : Die → Die) : (s.modDie d f).nextRing = s.nextRing := rfl
@[simp] theorem State.modDie_groupCount (s : State) (d : Nat) (f : Die → Die) : (s.modDie d f).groupCount = s.groupCount := rfl
@[simp] theorem State.modDie_insts (s : State) (d : Nat) (f : Die → Die) : (s.modDie d f).insts = s.insts := rfl
@[simp] theorem State.modDie_saved (s : State) (d : Nat) (f : Die → Die) : (s.modDie d f).saved = s.saved := rfl
@[simp] theorem State.modDie_lateCauses (s : State) (d : Nat) (f : Die → Die) : (s.modDie d f).lateCauses = s.lateCauses := rfl
@[simp] theorem State.modDie_stage1 (s : State) (d : Nat) (f : Die → Die) : (s.modDie d f).stage1 = s.stage1 := rfl
@[simp] theorem State.modDie_hostLines (s : State) (d : Nat) (f : Die → Die) : (s.modDie d f).hostLines = s.hostLines := rfl
@[simp] theorem State.modDie_markers (s : State) (d : Nat) (f : Die → Die) : (s.modDie d f).markers = s.markers := rfl
@[simp] theorem State.modDie_markersSent (s : State) (d : Nat) (f : Die → Die) : (s.modDie d f).markersSent = s.markersSent := rfl
@[simp] theorem State.modDie_outbox (s : State) (d : Nat) (f : Die → Die) : (s.modDie d f).outbox = s.outbox := rfl
@[simp] theorem State.modDie_meas (s : State) (d : Nat) (f : Die → Die) : (s.modDie d f).meas = s.meas := rfl
@[simp] theorem State.modDie_flash (s : State) (d : Nat) (f : Die → Die) : (s.modDie d f).flash = s.flash := rfl
@[simp] theorem State.modDie_slotInUse (s : State) (d : Nat) (f : Die → Die) : (s.modDie d f).slotInUse = s.slotInUse := rfl
@[simp] theorem State.modDie_rootDigest (s : State) (d : Nat) (f : Die → Die) : (s.modDie d f).rootDigest = s.rootDigest := rfl
@[simp] theorem State.modDie_minSvn (s : State) (d : Nat) (f : Die → Die) : (s.modDie d f).minSvn = s.minSvn := rfl
@[simp] theorem State.modDie_stage (s : State) (d : Nat) (f : Die → Die) : (s.modDie d f).stage = s.stage := rfl
@[simp] theorem State.modDie_cfg (s : State) (d : Nat) (f : Die → Die) : (s.modDie d f).cfg = s.cfg := rfl
@[simp] theorem State.modDie_mgmtBusy (s : State) (d : Nat) (f : Die → Die) : (s.modDie d f).mgmtBusy = s.mgmtBusy := rfl
@[simp] theorem State.modDie_reloading (s : State) (d : Nat) (f : Die → Die) : (s.modDie d f).reloading = s.reloading := rfl
@[simp] theorem State.modDie_fatal (s : State) (d : Nat) (f : Die → Die) : (s.modDie d f).fatal = s.fatal := rfl
@[simp] theorem State.modDie_hostCopies (s : State) (d : Nat) (f : Die → Die) : (s.modDie d f).hostCopies = s.hostCopies := rfl
@[simp] theorem State.modDie_pkg (s : State) (d : Nat) (f : Die → Die) : (s.modDie d f).pkg = s.pkg := rfl
@[simp] theorem State.modDie_expelled (s : State) (d : Nat) (f : Die → Die) : (s.modDie d f).expelled = s.expelled := rfl
@[simp] theorem State.modDie_freshHalves (s : State) (d : Nat) (f : Die → Die) : (s.modDie d f).freshHalves = s.freshHalves := rfl
@[simp] theorem State.modDie_transcripts (s : State) (d : Nat) (f : Die → Die) : (s.modDie d f).transcripts = s.transcripts := rfl
@[simp] theorem State.modDie_column (s : State) (d : Nat) (f : Die → Die) : (s.modDie d f).column = s.column := rfl

@[simp] theorem State.setReg_cycle (s : State) (off : Nat) (v : Word) : (s.setReg off v).cycle = s.cycle := rfl
@[simp] theorem State.setReg_coreIdx (s : State) (off : Nat) (v : Word) : (s.setReg off v).coreIdx = s.coreIdx := rfl
@[simp] theorem State.setReg_curCore (s : State) (off : Nat) (v : Word) : (s.setReg off v).curCore = s.curCore := rfl
@[simp] theorem State.setReg_curSlot (s : State) (off : Nat) (v : Word) : (s.setReg off v).curSlot = s.curSlot := rfl
@[simp] theorem State.setReg_half (s : State) (off : Nat) (v : Word) : (s.setReg off v).half = s.half := rfl
@[simp] theorem State.setReg_agenda (s : State) (off : Nat) (v : Word) : (s.setReg off v).agenda = s.agenda := rfl
@[simp] theorem State.setReg_args (s : State) (off : Nat) (v : Word) : (s.setReg off v).args = s.args := rfl
@[simp] theorem State.setReg_freeCount (s : State) (off : Nat) (v : Word) : (s.setReg off v).freeCount = s.freeCount := rfl
@[simp] theorem State.setReg_verdict (s : State) (off : Nat) (v : Word) : (s.setReg off v).verdict = s.verdict := rfl
@[simp] theorem State.setReg_lat (s : State) (off : Nat) (v : Word) : (s.setReg off v).lat = s.lat := rfl
@[simp] theorem State.setReg_cores (s : State) (off : Nat) (v : Word) : (s.setReg off v).cores = s.cores := rfl
@[simp] theorem State.setReg_clusters (s : State) (off : Nat) (v : Word) : (s.setReg off v).clusters = s.clusters := rfl
@[simp] theorem State.setReg_dies (s : State) (off : Nat) (v : Word) : (s.setReg off v).dies = s.dies := rfl
@[simp] theorem State.setReg_stations (s : State) (off : Nat) (v : Word) : (s.setReg off v).stations = s.stations := rfl
@[simp] theorem State.setReg_mem (s : State) (off : Nat) (v : Word) : (s.setReg off v).mem = s.mem := rfl
@[simp] theorem State.setReg_pctb (s : State) (off : Nat) (v : Word) : (s.setReg off v).pctb = s.pctb := rfl
@[simp] theorem State.setReg_pcount (s : State) (off : Nat) (v : Word) : (s.setReg off v).pcount = s.pcount := rfl
@[simp] theorem State.setReg_inv (s : State) (off : Nat) (v : Word) : (s.setReg off v).inv = s.inv := rfl
@[simp] theorem State.setReg_home (s : State) (off : Nat) (v : Word) : (s.setReg off v).home = s.home := rfl
@[simp] theorem State.setReg_hostBias (s : State) (off : Nat) (v : Word) : (s.setReg off v).hostBias = s.hostBias := rfl
@[simp] theorem State.setReg_forwards (s : State) (off : Nat) (v : Word) : (s.setReg off v).forwards = s.forwards := rfl
@[simp] theorem State.setReg_poison (s : State) (off : Nat) (v : Word) : (s.setReg off v).poison = s.poison := rfl
@[simp] theorem State.setReg_populated (s : State) (off : Nat) (v : Word) : (s.setReg off v).populated = s.populated := rfl
@[simp] theorem State.setReg_removed (s : State) (off : Nat) (v : Word) : (s.setReg off v).removed = s.removed := rfl
@[simp] theorem State.setReg_acks (s : State) (off : Nat) (v : Word) : (s.setReg off v).acks = s.acks := rfl
@[simp] theorem State.setReg_nextTag (s : State) (off : Nat) (v : Word) : (s.setReg off v).nextTag = s.nextTag := rfl
@[simp] theorem State.setReg_intake (s : State) (off : Nat) (v : Word) : (s.setReg off v).intake = s.intake := rfl
@[simp] theorem State.setReg_commands (s : State) (off : Nat) (v : Word) : (s.setReg off v).commands = s.commands := rfl
@[simp] theorem State.setReg_journalWait (s : State) (off : Nat) (v : Word) : (s.setReg off v).journalWait = s.journalWait := rfl
@[simp] theorem State.setReg_takes (s : State) (off : Nat) (v : Word) : (s.setReg off v).takes = s.takes := rfl
@[simp] theorem State.setReg_rings (s : State) (off : Nat) (v : Word) : (s.setReg off v).rings = s.rings := rfl
@[simp] theorem State.setReg_nextRing (s : State) (off : Nat) (v : Word) : (s.setReg off v).nextRing = s.nextRing := rfl
@[simp] theorem State.setReg_groupCount (s : State) (off : Nat) (v : Word) : (s.setReg off v).groupCount = s.groupCount := rfl
@[simp] theorem State.setReg_insts (s : State) (off : Nat) (v : Word) : (s.setReg off v).insts = s.insts := rfl
@[simp] theorem State.setReg_saved (s : State) (off : Nat) (v : Word) : (s.setReg off v).saved = s.saved := rfl
@[simp] theorem State.setReg_lateCauses (s : State) (off : Nat) (v : Word) : (s.setReg off v).lateCauses = s.lateCauses := rfl
@[simp] theorem State.setReg_stage1 (s : State) (off : Nat) (v : Word) : (s.setReg off v).stage1 = s.stage1 := rfl
@[simp] theorem State.setReg_hostLines (s : State) (off : Nat) (v : Word) : (s.setReg off v).hostLines = s.hostLines := rfl
@[simp] theorem State.setReg_markers (s : State) (off : Nat) (v : Word) : (s.setReg off v).markers = s.markers := rfl
@[simp] theorem State.setReg_markersSent (s : State) (off : Nat) (v : Word) : (s.setReg off v).markersSent = s.markersSent := rfl
@[simp] theorem State.setReg_outbox (s : State) (off : Nat) (v : Word) : (s.setReg off v).outbox = s.outbox := rfl
@[simp] theorem State.setReg_meas (s : State) (off : Nat) (v : Word) : (s.setReg off v).meas = s.meas := rfl
@[simp] theorem State.setReg_flash (s : State) (off : Nat) (v : Word) : (s.setReg off v).flash = s.flash := rfl
@[simp] theorem State.setReg_slotInUse (s : State) (off : Nat) (v : Word) : (s.setReg off v).slotInUse = s.slotInUse := rfl
@[simp] theorem State.setReg_rootDigest (s : State) (off : Nat) (v : Word) : (s.setReg off v).rootDigest = s.rootDigest := rfl
@[simp] theorem State.setReg_minSvn (s : State) (off : Nat) (v : Word) : (s.setReg off v).minSvn = s.minSvn := rfl
@[simp] theorem State.setReg_stage (s : State) (off : Nat) (v : Word) : (s.setReg off v).stage = s.stage := rfl
@[simp] theorem State.setReg_cfg (s : State) (off : Nat) (v : Word) : (s.setReg off v).cfg = s.cfg := rfl
@[simp] theorem State.setReg_mgmtBusy (s : State) (off : Nat) (v : Word) : (s.setReg off v).mgmtBusy = s.mgmtBusy := rfl
@[simp] theorem State.setReg_reloading (s : State) (off : Nat) (v : Word) : (s.setReg off v).reloading = s.reloading := rfl
@[simp] theorem State.setReg_fatal (s : State) (off : Nat) (v : Word) : (s.setReg off v).fatal = s.fatal := rfl
@[simp] theorem State.setReg_hostCopies (s : State) (off : Nat) (v : Word) : (s.setReg off v).hostCopies = s.hostCopies := rfl
@[simp] theorem State.setReg_pkg (s : State) (off : Nat) (v : Word) : (s.setReg off v).pkg = s.pkg := rfl
@[simp] theorem State.setReg_expelled (s : State) (off : Nat) (v : Word) : (s.setReg off v).expelled = s.expelled := rfl
@[simp] theorem State.setReg_freshHalves (s : State) (off : Nat) (v : Word) : (s.setReg off v).freshHalves = s.freshHalves := rfl
@[simp] theorem State.setReg_transcripts (s : State) (off : Nat) (v : Word) : (s.setReg off v).transcripts = s.transcripts := rfl
@[simp] theorem State.setReg_column (s : State) (off : Nat) (v : Word) : (s.setReg off v).column = s.column := rfl

@[simp] theorem State.schedule_cycle (s : State) (d : Nat) (i : Instr) (a : Args) : (s.schedule d i a).cycle = s.cycle := rfl
@[simp] theorem State.schedule_coreIdx (s : State) (d : Nat) (i : Instr) (a : Args) : (s.schedule d i a).coreIdx = s.coreIdx := rfl
@[simp] theorem State.schedule_curCore (s : State) (d : Nat) (i : Instr) (a : Args) : (s.schedule d i a).curCore = s.curCore := rfl
@[simp] theorem State.schedule_curSlot (s : State) (d : Nat) (i : Instr) (a : Args) : (s.schedule d i a).curSlot = s.curSlot := rfl
@[simp] theorem State.schedule_half (s : State) (d : Nat) (i : Instr) (a : Args) : (s.schedule d i a).half = s.half := rfl
@[simp] theorem State.schedule_args (s : State) (d : Nat) (i : Instr) (a : Args) : (s.schedule d i a).args = s.args := rfl
@[simp] theorem State.schedule_freeCount (s : State) (d : Nat) (i : Instr) (a : Args) : (s.schedule d i a).freeCount = s.freeCount := rfl
@[simp] theorem State.schedule_verdict (s : State) (d : Nat) (i : Instr) (a : Args) : (s.schedule d i a).verdict = s.verdict := rfl
@[simp] theorem State.schedule_lat (s : State) (d : Nat) (i : Instr) (a : Args) : (s.schedule d i a).lat = s.lat := rfl
@[simp] theorem State.schedule_cores (s : State) (d : Nat) (i : Instr) (a : Args) : (s.schedule d i a).cores = s.cores := rfl
@[simp] theorem State.schedule_clusters (s : State) (d : Nat) (i : Instr) (a : Args) : (s.schedule d i a).clusters = s.clusters := rfl
@[simp] theorem State.schedule_dies (s : State) (d : Nat) (i : Instr) (a : Args) : (s.schedule d i a).dies = s.dies := rfl
@[simp] theorem State.schedule_stations (s : State) (d : Nat) (i : Instr) (a : Args) : (s.schedule d i a).stations = s.stations := rfl
@[simp] theorem State.schedule_mem (s : State) (d : Nat) (i : Instr) (a : Args) : (s.schedule d i a).mem = s.mem := rfl
@[simp] theorem State.schedule_regs (s : State) (d : Nat) (i : Instr) (a : Args) : (s.schedule d i a).regs = s.regs := rfl
@[simp] theorem State.schedule_pctb (s : State) (d : Nat) (i : Instr) (a : Args) : (s.schedule d i a).pctb = s.pctb := rfl
@[simp] theorem State.schedule_pcount (s : State) (d : Nat) (i : Instr) (a : Args) : (s.schedule d i a).pcount = s.pcount := rfl
@[simp] theorem State.schedule_inv (s : State) (d : Nat) (i : Instr) (a : Args) : (s.schedule d i a).inv = s.inv := rfl
@[simp] theorem State.schedule_home (s : State) (d : Nat) (i : Instr) (a : Args) : (s.schedule d i a).home = s.home := rfl
@[simp] theorem State.schedule_hostBias (s : State) (d : Nat) (i : Instr) (a : Args) : (s.schedule d i a).hostBias = s.hostBias := rfl
@[simp] theorem State.schedule_forwards (s : State) (d : Nat) (i : Instr) (a : Args) : (s.schedule d i a).forwards = s.forwards := rfl
@[simp] theorem State.schedule_poison (s : State) (d : Nat) (i : Instr) (a : Args) : (s.schedule d i a).poison = s.poison := rfl
@[simp] theorem State.schedule_populated (s : State) (d : Nat) (i : Instr) (a : Args) : (s.schedule d i a).populated = s.populated := rfl
@[simp] theorem State.schedule_removed (s : State) (d : Nat) (i : Instr) (a : Args) : (s.schedule d i a).removed = s.removed := rfl
@[simp] theorem State.schedule_acks (s : State) (d : Nat) (i : Instr) (a : Args) : (s.schedule d i a).acks = s.acks := rfl
@[simp] theorem State.schedule_nextTag (s : State) (d : Nat) (i : Instr) (a : Args) : (s.schedule d i a).nextTag = s.nextTag := rfl
@[simp] theorem State.schedule_intake (s : State) (d : Nat) (i : Instr) (a : Args) : (s.schedule d i a).intake = s.intake := rfl
@[simp] theorem State.schedule_commands (s : State) (d : Nat) (i : Instr) (a : Args) : (s.schedule d i a).commands = s.commands := rfl
@[simp] theorem State.schedule_journalWait (s : State) (d : Nat) (i : Instr) (a : Args) : (s.schedule d i a).journalWait = s.journalWait := rfl
@[simp] theorem State.schedule_takes (s : State) (d : Nat) (i : Instr) (a : Args) : (s.schedule d i a).takes = s.takes := rfl
@[simp] theorem State.schedule_rings (s : State) (d : Nat) (i : Instr) (a : Args) : (s.schedule d i a).rings = s.rings := rfl
@[simp] theorem State.schedule_nextRing (s : State) (d : Nat) (i : Instr) (a : Args) : (s.schedule d i a).nextRing = s.nextRing := rfl
@[simp] theorem State.schedule_groupCount (s : State) (d : Nat) (i : Instr) (a : Args) : (s.schedule d i a).groupCount = s.groupCount := rfl
@[simp] theorem State.schedule_insts (s : State) (d : Nat) (i : Instr) (a : Args) : (s.schedule d i a).insts = s.insts := rfl
@[simp] theorem State.schedule_saved (s : State) (d : Nat) (i : Instr) (a : Args) : (s.schedule d i a).saved = s.saved := rfl
@[simp] theorem State.schedule_lateCauses (s : State) (d : Nat) (i : Instr) (a : Args) : (s.schedule d i a).lateCauses = s.lateCauses := rfl
@[simp] theorem State.schedule_stage1 (s : State) (d : Nat) (i : Instr) (a : Args) : (s.schedule d i a).stage1 = s.stage1 := rfl
@[simp] theorem State.schedule_hostLines (s : State) (d : Nat) (i : Instr) (a : Args) : (s.schedule d i a).hostLines = s.hostLines := rfl
@[simp] theorem State.schedule_markers (s : State) (d : Nat) (i : Instr) (a : Args) : (s.schedule d i a).markers = s.markers := rfl
@[simp] theorem State.schedule_markersSent (s : State) (d : Nat) (i : Instr) (a : Args) : (s.schedule d i a).markersSent = s.markersSent := rfl
@[simp] theorem State.schedule_outbox (s : State) (d : Nat) (i : Instr) (a : Args) : (s.schedule d i a).outbox = s.outbox := rfl
@[simp] theorem State.schedule_meas (s : State) (d : Nat) (i : Instr) (a : Args) : (s.schedule d i a).meas = s.meas := rfl
@[simp] theorem State.schedule_flash (s : State) (d : Nat) (i : Instr) (a : Args) : (s.schedule d i a).flash = s.flash := rfl
@[simp] theorem State.schedule_slotInUse (s : State) (d : Nat) (i : Instr) (a : Args) : (s.schedule d i a).slotInUse = s.slotInUse := rfl
@[simp] theorem State.schedule_rootDigest (s : State) (d : Nat) (i : Instr) (a : Args) : (s.schedule d i a).rootDigest = s.rootDigest := rfl
@[simp] theorem State.schedule_minSvn (s : State) (d : Nat) (i : Instr) (a : Args) : (s.schedule d i a).minSvn = s.minSvn := rfl
@[simp] theorem State.schedule_stage (s : State) (d : Nat) (i : Instr) (a : Args) : (s.schedule d i a).stage = s.stage := rfl
@[simp] theorem State.schedule_cfg (s : State) (d : Nat) (i : Instr) (a : Args) : (s.schedule d i a).cfg = s.cfg := rfl
@[simp] theorem State.schedule_mgmtBusy (s : State) (d : Nat) (i : Instr) (a : Args) : (s.schedule d i a).mgmtBusy = s.mgmtBusy := rfl
@[simp] theorem State.schedule_reloading (s : State) (d : Nat) (i : Instr) (a : Args) : (s.schedule d i a).reloading = s.reloading := rfl
@[simp] theorem State.schedule_fatal (s : State) (d : Nat) (i : Instr) (a : Args) : (s.schedule d i a).fatal = s.fatal := rfl
@[simp] theorem State.schedule_hostCopies (s : State) (d : Nat) (i : Instr) (a : Args) : (s.schedule d i a).hostCopies = s.hostCopies := rfl
@[simp] theorem State.schedule_pkg (s : State) (d : Nat) (i : Instr) (a : Args) : (s.schedule d i a).pkg = s.pkg := rfl
@[simp] theorem State.schedule_expelled (s : State) (d : Nat) (i : Instr) (a : Args) : (s.schedule d i a).expelled = s.expelled := rfl
@[simp] theorem State.schedule_freshHalves (s : State) (d : Nat) (i : Instr) (a : Args) : (s.schedule d i a).freshHalves = s.freshHalves := rfl
@[simp] theorem State.schedule_transcripts (s : State) (d : Nat) (i : Instr) (a : Args) : (s.schedule d i a).transcripts = s.transcripts := rfl
@[simp] theorem State.schedule_column (s : State) (d : Nat) (i : Instr) (a : Args) : (s.schedule d i a).column = s.column := rfl

@[simp] theorem State.emit_cycle (s : State) (o : Out) : (s.emit o).cycle = s.cycle := rfl
@[simp] theorem State.emit_coreIdx (s : State) (o : Out) : (s.emit o).coreIdx = s.coreIdx := rfl
@[simp] theorem State.emit_curCore (s : State) (o : Out) : (s.emit o).curCore = s.curCore := rfl
@[simp] theorem State.emit_curSlot (s : State) (o : Out) : (s.emit o).curSlot = s.curSlot := rfl
@[simp] theorem State.emit_half (s : State) (o : Out) : (s.emit o).half = s.half := rfl
@[simp] theorem State.emit_agenda (s : State) (o : Out) : (s.emit o).agenda = s.agenda := rfl
@[simp] theorem State.emit_args (s : State) (o : Out) : (s.emit o).args = s.args := rfl
@[simp] theorem State.emit_freeCount (s : State) (o : Out) : (s.emit o).freeCount = s.freeCount := rfl
@[simp] theorem State.emit_verdict (s : State) (o : Out) : (s.emit o).verdict = s.verdict := rfl
@[simp] theorem State.emit_lat (s : State) (o : Out) : (s.emit o).lat = s.lat := rfl
@[simp] theorem State.emit_cores (s : State) (o : Out) : (s.emit o).cores = s.cores := rfl
@[simp] theorem State.emit_clusters (s : State) (o : Out) : (s.emit o).clusters = s.clusters := rfl
@[simp] theorem State.emit_dies (s : State) (o : Out) : (s.emit o).dies = s.dies := rfl
@[simp] theorem State.emit_stations (s : State) (o : Out) : (s.emit o).stations = s.stations := rfl
@[simp] theorem State.emit_mem (s : State) (o : Out) : (s.emit o).mem = s.mem := rfl
@[simp] theorem State.emit_regs (s : State) (o : Out) : (s.emit o).regs = s.regs := rfl
@[simp] theorem State.emit_pctb (s : State) (o : Out) : (s.emit o).pctb = s.pctb := rfl
@[simp] theorem State.emit_pcount (s : State) (o : Out) : (s.emit o).pcount = s.pcount := rfl
@[simp] theorem State.emit_inv (s : State) (o : Out) : (s.emit o).inv = s.inv := rfl
@[simp] theorem State.emit_home (s : State) (o : Out) : (s.emit o).home = s.home := rfl
@[simp] theorem State.emit_hostBias (s : State) (o : Out) : (s.emit o).hostBias = s.hostBias := rfl
@[simp] theorem State.emit_forwards (s : State) (o : Out) : (s.emit o).forwards = s.forwards := rfl
@[simp] theorem State.emit_poison (s : State) (o : Out) : (s.emit o).poison = s.poison := rfl
@[simp] theorem State.emit_populated (s : State) (o : Out) : (s.emit o).populated = s.populated := rfl
@[simp] theorem State.emit_removed (s : State) (o : Out) : (s.emit o).removed = s.removed := rfl
@[simp] theorem State.emit_acks (s : State) (o : Out) : (s.emit o).acks = s.acks := rfl
@[simp] theorem State.emit_nextTag (s : State) (o : Out) : (s.emit o).nextTag = s.nextTag := rfl
@[simp] theorem State.emit_intake (s : State) (o : Out) : (s.emit o).intake = s.intake := rfl
@[simp] theorem State.emit_commands (s : State) (o : Out) : (s.emit o).commands = s.commands := rfl
@[simp] theorem State.emit_journalWait (s : State) (o : Out) : (s.emit o).journalWait = s.journalWait := rfl
@[simp] theorem State.emit_takes (s : State) (o : Out) : (s.emit o).takes = s.takes := rfl
@[simp] theorem State.emit_rings (s : State) (o : Out) : (s.emit o).rings = s.rings := rfl
@[simp] theorem State.emit_nextRing (s : State) (o : Out) : (s.emit o).nextRing = s.nextRing := rfl
@[simp] theorem State.emit_groupCount (s : State) (o : Out) : (s.emit o).groupCount = s.groupCount := rfl
@[simp] theorem State.emit_insts (s : State) (o : Out) : (s.emit o).insts = s.insts := rfl
@[simp] theorem State.emit_saved (s : State) (o : Out) : (s.emit o).saved = s.saved := rfl
@[simp] theorem State.emit_lateCauses (s : State) (o : Out) : (s.emit o).lateCauses = s.lateCauses := rfl
@[simp] theorem State.emit_stage1 (s : State) (o : Out) : (s.emit o).stage1 = s.stage1 := rfl
@[simp] theorem State.emit_hostLines (s : State) (o : Out) : (s.emit o).hostLines = s.hostLines := rfl
@[simp] theorem State.emit_markers (s : State) (o : Out) : (s.emit o).markers = s.markers := rfl
@[simp] theorem State.emit_markersSent (s : State) (o : Out) : (s.emit o).markersSent = s.markersSent := rfl
@[simp] theorem State.emit_meas (s : State) (o : Out) : (s.emit o).meas = s.meas := rfl
@[simp] theorem State.emit_flash (s : State) (o : Out) : (s.emit o).flash = s.flash := rfl
@[simp] theorem State.emit_slotInUse (s : State) (o : Out) : (s.emit o).slotInUse = s.slotInUse := rfl
@[simp] theorem State.emit_rootDigest (s : State) (o : Out) : (s.emit o).rootDigest = s.rootDigest := rfl
@[simp] theorem State.emit_minSvn (s : State) (o : Out) : (s.emit o).minSvn = s.minSvn := rfl
@[simp] theorem State.emit_stage (s : State) (o : Out) : (s.emit o).stage = s.stage := rfl
@[simp] theorem State.emit_cfg (s : State) (o : Out) : (s.emit o).cfg = s.cfg := rfl
@[simp] theorem State.emit_mgmtBusy (s : State) (o : Out) : (s.emit o).mgmtBusy = s.mgmtBusy := rfl
@[simp] theorem State.emit_reloading (s : State) (o : Out) : (s.emit o).reloading = s.reloading := rfl
@[simp] theorem State.emit_fatal (s : State) (o : Out) : (s.emit o).fatal = s.fatal := rfl
@[simp] theorem State.emit_hostCopies (s : State) (o : Out) : (s.emit o).hostCopies = s.hostCopies := rfl
@[simp] theorem State.emit_pkg (s : State) (o : Out) : (s.emit o).pkg = s.pkg := rfl
@[simp] theorem State.emit_expelled (s : State) (o : Out) : (s.emit o).expelled = s.expelled := rfl
@[simp] theorem State.emit_freshHalves (s : State) (o : Out) : (s.emit o).freshHalves = s.freshHalves := rfl
@[simp] theorem State.emit_transcripts (s : State) (o : Out) : (s.emit o).transcripts = s.transcripts := rfl
@[simp] theorem State.emit_column (s : State) (o : Out) : (s.emit o).column = s.column := rfl

@[simp] theorem Core.modSlot_regs (k : Core) (i : Nat) (f : Slot → Slot) : (k.modSlot i f).regs = k.regs := rfl
@[simp] theorem Core.modSlot_spad (k : Core) (i : Nat) (f : Slot → Slot) : (k.modSlot i f).spad = k.spad := rfl
@[simp] theorem Core.modSlot_acc (k : Core) (i : Nat) (f : Slot → Slot) : (k.modSlot i f).acc = k.acc := rfl
@[simp] theorem Core.modSlot_accHold (k : Core) (i : Nat) (f : Slot → Slot) : (k.modSlot i f).accHold = k.accHold := rfl
@[simp] theorem Core.modSlot_obuf (k : Core) (i : Nat) (f : Slot → Slot) : (k.modSlot i f).obuf = k.obuf := rfl
@[simp] theorem Core.modSlot_resv (k : Core) (i : Nat) (f : Slot → Slot) : (k.modSlot i f).resv = k.resv := rfl
@[simp] theorem Core.modSlot_seq (k : Core) (i : Nat) (f : Slot → Slot) : (k.modSlot i f).seq = k.seq := rfl
@[simp] theorem Core.modSlot_bank (k : Core) (i : Nat) (f : Slot → Slot) : (k.modSlot i f).bank = k.bank := rfl
@[simp] theorem Core.modSlot_cellFlag (k : Core) (i : Nat) (f : Slot → Slot) : (k.modSlot i f).cellFlag = k.cellFlag := rfl
@[simp] theorem Core.modSlot_cntRec (k : Core) (i : Nat) (f : Slot → Slot) : (k.modSlot i f).cntRec = k.cntRec := rfl
@[simp] theorem Core.modSlot_tiles (k : Core) (i : Nat) (f : Slot → Slot) : (k.modSlot i f).tiles = k.tiles := rfl
@[simp] theorem Core.modSlot_granules (k : Core) (i : Nat) (f : Slot → Slot) : (k.modSlot i f).granules = k.granules := rfl
@[simp] theorem Core.modSlot_gateTiles (k : Core) (i : Nat) (f : Slot → Slot) : (k.modSlot i f).gateTiles = k.gateTiles := rfl
@[simp] theorem Core.modSlot_gateFree (k : Core) (i : Nat) (f : Slot → Slot) : (k.modSlot i f).gateFree = k.gateFree := rfl
@[simp] theorem Core.modSlot_race (k : Core) (i : Nat) (f : Slot → Slot) : (k.modSlot i f).race = k.race := rfl
@[simp] theorem Core.modSlot_send (k : Core) (i : Nat) (f : Slot → Slot) : (k.modSlot i f).send = k.send := rfl
@[simp] theorem Core.modSlot_inbound (k : Core) (i : Nat) (f : Slot → Slot) : (k.modSlot i f).inbound = k.inbound := rfl
@[simp] theorem Core.modSlot_network (k : Core) (i : Nat) (f : Slot → Slot) : (k.modSlot i f).network = k.network := rfl
@[simp] theorem Core.modSlot_laneL1 (k : Core) (i : Nat) (f : Slot → Slot) : (k.modSlot i f).laneL1 = k.laneL1 := rfl
@[simp] theorem Core.modSlot_hartData (k : Core) (i : Nat) (f : Slot → Slot) : (k.modSlot i f).hartData = k.hartData := rfl
@[simp] theorem Core.modSlot_icache (k : Core) (i : Nat) (f : Slot → Slot) : (k.modSlot i f).icache = k.icache := rfl
@[simp] theorem Core.modSlot_constCache (k : Core) (i : Nat) (f : Slot → Slot) : (k.modSlot i f).constCache = k.constCache := rfl
@[simp] theorem Core.modSlot_samplerCache (k : Core) (i : Nat) (f : Slot → Slot) : (k.modSlot i f).samplerCache = k.samplerCache := rfl
@[simp] theorem Core.modSlot_epoch (k : Core) (i : Nat) (f : Slot → Slot) : (k.modSlot i f).epoch = k.epoch := rfl
@[simp] theorem Core.modSlot_dslot (k : Core) (i : Nat) (f : Slot → Slot) : (k.modSlot i f).dslot = k.dslot := rfl
@[simp] theorem Core.modSlot_dpbank (k : Core) (i : Nat) (f : Slot → Slot) : (k.modSlot i f).dpbank = k.dpbank := rfl
@[simp] theorem Core.modSlot_dpreg (k : Core) (i : Nat) (f : Slot → Slot) : (k.modSlot i f).dpreg = k.dpreg := rfl
@[simp] theorem Core.modSlot_resetAt (k : Core) (i : Nat) (f : Slot → Slot) : (k.modSlot i f).resetAt = k.resetAt := rfl
@[simp] theorem Core.modSlot_bindArea (k : Core) (i : Nat) (f : Slot → Slot) : (k.modSlot i f).bindArea = k.bindArea := rfl
@[simp] theorem Core.modSlot_bctl (k : Core) (i : Nat) (f : Slot → Slot) : (k.modSlot i f).bctl = k.bctl := rfl
@[simp] theorem Core.modSlot_prdom (k : Core) (i : Nat) (f : Slot → Slot) : (k.modSlot i f).prdom = k.prdom := rfl
@[simp] theorem Core.modSlot_fwall (k : Core) (i : Nat) (f : Slot → Slot) : (k.modSlot i f).fwall = k.fwall := rfl
@[simp] theorem Core.modSlot_residue (k : Core) (i : Nat) (f : Slot → Slot) : (k.modSlot i f).residue = k.residue := rfl
@[simp] theorem Core.modSlot_ev (k : Core) (i : Nat) (f : Slot → Slot) : (k.modSlot i f).ev = k.ev := rfl
@[simp] theorem Core.modSlot_prdomSlots (k : Core) (i : Nat) (f : Slot → Slot) : (k.modSlot i f).prdomSlots = k.prdomSlots := rfl
@[simp] theorem Core.modSlot_laneCycle (k : Core) (i : Nat) (f : Slot → Slot) : (k.modSlot i f).laneCycle = k.laneCycle := rfl
@[simp] theorem Core.modSlot_laneBanks (k : Core) (i : Nat) (f : Slot → Slot) : (k.modSlot i f).laneBanks = k.laneBanks := rfl

@[simp] theorem Core.setLane_slots (k : Core) (w : Wave) (n l : Nat) (v : Word32) : (k.setLane w n l v).slots = k.slots := rfl
@[simp] theorem Core.setLane_spad (k : Core) (w : Wave) (n l : Nat) (v : Word32) : (k.setLane w n l v).spad = k.spad := rfl
@[simp] theorem Core.setLane_acc (k : Core) (w : Wave) (n l : Nat) (v : Word32) : (k.setLane w n l v).acc = k.acc := rfl
@[simp] theorem Core.setLane_accHold (k : Core) (w : Wave) (n l : Nat) (v : Word32) : (k.setLane w n l v).accHold = k.accHold := rfl
@[simp] theorem Core.setLane_obuf (k : Core) (w : Wave) (n l : Nat) (v : Word32) : (k.setLane w n l v).obuf = k.obuf := rfl
@[simp] theorem Core.setLane_resv (k : Core) (w : Wave) (n l : Nat) (v : Word32) : (k.setLane w n l v).resv = k.resv := rfl
@[simp] theorem Core.setLane_seq (k : Core) (w : Wave) (n l : Nat) (v : Word32) : (k.setLane w n l v).seq = k.seq := rfl
@[simp] theorem Core.setLane_bank (k : Core) (w : Wave) (n l : Nat) (v : Word32) : (k.setLane w n l v).bank = k.bank := rfl
@[simp] theorem Core.setLane_cellFlag (k : Core) (w : Wave) (n l : Nat) (v : Word32) : (k.setLane w n l v).cellFlag = k.cellFlag := rfl
@[simp] theorem Core.setLane_cntRec (k : Core) (w : Wave) (n l : Nat) (v : Word32) : (k.setLane w n l v).cntRec = k.cntRec := rfl
@[simp] theorem Core.setLane_tiles (k : Core) (w : Wave) (n l : Nat) (v : Word32) : (k.setLane w n l v).tiles = k.tiles := rfl
@[simp] theorem Core.setLane_granules (k : Core) (w : Wave) (n l : Nat) (v : Word32) : (k.setLane w n l v).granules = k.granules := rfl
@[simp] theorem Core.setLane_gateTiles (k : Core) (w : Wave) (n l : Nat) (v : Word32) : (k.setLane w n l v).gateTiles = k.gateTiles := rfl
@[simp] theorem Core.setLane_gateFree (k : Core) (w : Wave) (n l : Nat) (v : Word32) : (k.setLane w n l v).gateFree = k.gateFree := rfl
@[simp] theorem Core.setLane_race (k : Core) (w : Wave) (n l : Nat) (v : Word32) : (k.setLane w n l v).race = k.race := rfl
@[simp] theorem Core.setLane_send (k : Core) (w : Wave) (n l : Nat) (v : Word32) : (k.setLane w n l v).send = k.send := rfl
@[simp] theorem Core.setLane_inbound (k : Core) (w : Wave) (n l : Nat) (v : Word32) : (k.setLane w n l v).inbound = k.inbound := rfl
@[simp] theorem Core.setLane_network (k : Core) (w : Wave) (n l : Nat) (v : Word32) : (k.setLane w n l v).network = k.network := rfl
@[simp] theorem Core.setLane_laneL1 (k : Core) (w : Wave) (n l : Nat) (v : Word32) : (k.setLane w n l v).laneL1 = k.laneL1 := rfl
@[simp] theorem Core.setLane_hartData (k : Core) (w : Wave) (n l : Nat) (v : Word32) : (k.setLane w n l v).hartData = k.hartData := rfl
@[simp] theorem Core.setLane_icache (k : Core) (w : Wave) (n l : Nat) (v : Word32) : (k.setLane w n l v).icache = k.icache := rfl
@[simp] theorem Core.setLane_constCache (k : Core) (w : Wave) (n l : Nat) (v : Word32) : (k.setLane w n l v).constCache = k.constCache := rfl
@[simp] theorem Core.setLane_samplerCache (k : Core) (w : Wave) (n l : Nat) (v : Word32) : (k.setLane w n l v).samplerCache = k.samplerCache := rfl
@[simp] theorem Core.setLane_epoch (k : Core) (w : Wave) (n l : Nat) (v : Word32) : (k.setLane w n l v).epoch = k.epoch := rfl
@[simp] theorem Core.setLane_dslot (k : Core) (w : Wave) (n l : Nat) (v : Word32) : (k.setLane w n l v).dslot = k.dslot := rfl
@[simp] theorem Core.setLane_dpbank (k : Core) (w : Wave) (n l : Nat) (v : Word32) : (k.setLane w n l v).dpbank = k.dpbank := rfl
@[simp] theorem Core.setLane_dpreg (k : Core) (w : Wave) (n l : Nat) (v : Word32) : (k.setLane w n l v).dpreg = k.dpreg := rfl
@[simp] theorem Core.setLane_resetAt (k : Core) (w : Wave) (n l : Nat) (v : Word32) : (k.setLane w n l v).resetAt = k.resetAt := rfl
@[simp] theorem Core.setLane_bindArea (k : Core) (w : Wave) (n l : Nat) (v : Word32) : (k.setLane w n l v).bindArea = k.bindArea := rfl
@[simp] theorem Core.setLane_bctl (k : Core) (w : Wave) (n l : Nat) (v : Word32) : (k.setLane w n l v).bctl = k.bctl := rfl
@[simp] theorem Core.setLane_prdom (k : Core) (w : Wave) (n l : Nat) (v : Word32) : (k.setLane w n l v).prdom = k.prdom := rfl
@[simp] theorem Core.setLane_fwall (k : Core) (w : Wave) (n l : Nat) (v : Word32) : (k.setLane w n l v).fwall = k.fwall := rfl
@[simp] theorem Core.setLane_residue (k : Core) (w : Wave) (n l : Nat) (v : Word32) : (k.setLane w n l v).residue = k.residue := rfl
@[simp] theorem Core.setLane_ev (k : Core) (w : Wave) (n l : Nat) (v : Word32) : (k.setLane w n l v).ev = k.ev := rfl
@[simp] theorem Core.setLane_prdomSlots (k : Core) (w : Wave) (n l : Nat) (v : Word32) : (k.setLane w n l v).prdomSlots = k.prdomSlots := rfl
@[simp] theorem Core.setLane_laneCycle (k : Core) (w : Wave) (n l : Nat) (v : Word32) : (k.setLane w n l v).laneCycle = k.laneCycle := rfl
@[simp] theorem Core.setLane_laneBanks (k : Core) (w : Wave) (n l : Nat) (v : Word32) : (k.setLane w n l v).laneBanks = k.laneBanks := rfl

@[simp] theorem Wave.setX_pc (w : Wave) (n : Nat) (v : Word) : (w.setX n v).pc = w.pc := by unfold Wave.setX; split <;> rfl
@[simp] theorem Wave.setX_mode (w : Wave) (n : Nat) (v : Word) : (w.setX n v).mode = w.mode := by unfold Wave.setX; split <;> rfl
@[simp] theorem Wave.setX_f (w : Wave) (n : Nat) (v : Word) : (w.setX n v).f = w.f := by unfold Wave.setX; split <;> rfl
@[simp] theorem Wave.setX_p (w : Wave) (n : Nat) (v : Word) : (w.setX n v).p = w.p := by unfold Wave.setX; split <;> rfl
@[simp] theorem Wave.setX_m (w : Wave) (n : Nat) (v : Word) : (w.setX n v).m = w.m := by unfold Wave.setX; split <;> rfl
@[simp] theorem Wave.setX_amask (w : Wave) (n : Nat) (v : Word) : (w.setX n v).amask = w.amask := by unfold Wave.setX; split <;> rfl
@[simp] theorem Wave.setX_stack (w : Wave) (n : Nat) (v : Word) : (w.setX n v).stack = w.stack := by unfold Wave.setX; split <;> rfl
@[simp] theorem Wave.setX_csrs (w : Wave) (n : Nat) (v : Word) : (w.setX n v).csrs = w.csrs := by unfold Wave.setX; split <;> rfl
@[simp] theorem Wave.setX_profiles (w : Wave) (n : Nat) (v : Word) : (w.setX n v).profiles = w.profiles := by unfold Wave.setX; split <;> rfl
@[simp] theorem Wave.setX_budget (w : Wave) (n : Nat) (v : Word) : (w.setX n v).budget = w.budget := by unfold Wave.setX; split <;> rfl
@[simp] theorem Wave.setX_regBase (w : Wave) (n : Nat) (v : Word) : (w.setX n v).regBase = w.regBase := by unfold Wave.setX; split <;> rfl
@[simp] theorem Wave.setX_homeGroup (w : Wave) (n : Nat) (v : Word) : (w.setX n v).homeGroup = w.homeGroup := by unfold Wave.setX; split <;> rfl
@[simp] theorem Wave.setX_homeHalf (w : Wave) (n : Nat) (v : Word) : (w.setX n v).homeHalf = w.homeHalf := by unfold Wave.setX; split <;> rfl
@[simp] theorem Wave.setX_cteam (w : Wave) (n : Nat) (v : Word) : (w.setX n v).cteam = w.cteam := by unfold Wave.setX; split <;> rfl
@[simp] theorem Wave.setX_tcore (w : Wave) (n : Nat) (v : Word) : (w.setX n v).tcore = w.tcore := by unfold Wave.setX; split <;> rfl
@[simp] theorem Wave.setX_csa (w : Wave) (n : Nat) (v : Word) : (w.setX n v).csa = w.csa := by unfold Wave.setX; split <;> rfl
@[simp] theorem Wave.setX_csaDom (w : Wave) (n : Nat) (v : Word) : (w.setX n v).csaDom = w.csaDom := by unfold Wave.setX; split <;> rfl
@[simp] theorem Wave.setX_accMask (w : Wave) (n : Nat) (v : Word) : (w.setX n v).accMask = w.accMask := by unfold Wave.setX; split <;> rfl
@[simp] theorem Wave.setX_gates (w : Wave) (n : Nat) (v : Word) : (w.setX n v).gates = w.gates := by unfold Wave.setX; split <;> rfl
@[simp] theorem Wave.setX_locks (w : Wave) (n : Nat) (v : Word) : (w.setX n v).locks = w.locks := by unfold Wave.setX; split <;> rfl
@[simp] theorem Wave.setX_reservation (w : Wave) (n : Nat) (v : Word) : (w.setX n v).reservation = w.reservation := by unfold Wave.setX; split <;> rfl
@[simp] theorem Wave.setX_absentBlocks (w : Wave) (n : Nat) (v : Word) : (w.setX n v).absentBlocks = w.absentBlocks := by unfold Wave.setX; split <;> rfl
@[simp] theorem Wave.setX_absentAccs (w : Wave) (n : Nat) (v : Word) : (w.setX n v).absentAccs = w.absentAccs := by unfold Wave.setX; split <;> rfl
@[simp] theorem Wave.setX_pending (w : Wave) (n : Nat) (v : Word) : (w.setX n v).pending = w.pending := by unfold Wave.setX; split <;> rfl
@[simp] theorem Wave.setX_raised (w : Wave) (n : Nat) (v : Word) : (w.setX n v).raised = w.raised := by unfold Wave.setX; split <;> rfl
@[simp] theorem Wave.setX_fetchBuf (w : Wave) (n : Nat) (v : Word) : (w.setX n v).fetchBuf = w.fetchBuf := by unfold Wave.setX; split <;> rfl
@[simp] theorem Wave.setX_wait (w : Wave) (n : Nat) (v : Word) : (w.setX n v).wait = w.wait := by unfold Wave.setX; split <;> rfl
@[simp] theorem Wave.setX_park (w : Wave) (n : Nat) (v : Word) : (w.setX n v).park = w.park := by unfold Wave.setX; split <;> rfl
@[simp] theorem Wave.setX_busy (w : Wave) (n : Nat) (v : Word) : (w.setX n v).busy = w.busy := by unfold Wave.setX; split <;> rfl
@[simp] theorem Wave.setX_deferred (w : Wave) (n : Nat) (v : Word) : (w.setX n v).deferred = w.deferred := by unfold Wave.setX; split <;> rfl
@[simp] theorem Wave.setX_graceFrom (w : Wave) (n : Nat) (v : Word) : (w.setX n v).graceFrom = w.graceFrom := by unfold Wave.setX; split <;> rfl
@[simp] theorem Wave.setX_lateResolved (w : Wave) (n : Nat) (v : Word) : (w.setX n v).lateResolved = w.lateResolved := by unfold Wave.setX; split <;> rfl

@[simp] theorem Wave.setP_pc (w : Wave) (n : Nat) (mask v : Mask) : (w.setP n mask v).pc = w.pc := by unfold Wave.setP; split <;> rfl
@[simp] theorem Wave.setP_mode (w : Wave) (n : Nat) (mask v : Mask) : (w.setP n mask v).mode = w.mode := by unfold Wave.setP; split <;> rfl
@[simp] theorem Wave.setP_x (w : Wave) (n : Nat) (mask v : Mask) : (w.setP n mask v).x = w.x := by unfold Wave.setP; split <;> rfl
@[simp] theorem Wave.setP_f (w : Wave) (n : Nat) (mask v : Mask) : (w.setP n mask v).f = w.f := by unfold Wave.setP; split <;> rfl
@[simp] theorem Wave.setP_m (w : Wave) (n : Nat) (mask v : Mask) : (w.setP n mask v).m = w.m := by unfold Wave.setP; split <;> rfl
@[simp] theorem Wave.setP_amask (w : Wave) (n : Nat) (mask v : Mask) : (w.setP n mask v).amask = w.amask := by unfold Wave.setP; split <;> rfl
@[simp] theorem Wave.setP_stack (w : Wave) (n : Nat) (mask v : Mask) : (w.setP n mask v).stack = w.stack := by unfold Wave.setP; split <;> rfl
@[simp] theorem Wave.setP_csrs (w : Wave) (n : Nat) (mask v : Mask) : (w.setP n mask v).csrs = w.csrs := by unfold Wave.setP; split <;> rfl
@[simp] theorem Wave.setP_profiles (w : Wave) (n : Nat) (mask v : Mask) : (w.setP n mask v).profiles = w.profiles := by unfold Wave.setP; split <;> rfl
@[simp] theorem Wave.setP_budget (w : Wave) (n : Nat) (mask v : Mask) : (w.setP n mask v).budget = w.budget := by unfold Wave.setP; split <;> rfl
@[simp] theorem Wave.setP_regBase (w : Wave) (n : Nat) (mask v : Mask) : (w.setP n mask v).regBase = w.regBase := by unfold Wave.setP; split <;> rfl
@[simp] theorem Wave.setP_homeGroup (w : Wave) (n : Nat) (mask v : Mask) : (w.setP n mask v).homeGroup = w.homeGroup := by unfold Wave.setP; split <;> rfl
@[simp] theorem Wave.setP_homeHalf (w : Wave) (n : Nat) (mask v : Mask) : (w.setP n mask v).homeHalf = w.homeHalf := by unfold Wave.setP; split <;> rfl
@[simp] theorem Wave.setP_cteam (w : Wave) (n : Nat) (mask v : Mask) : (w.setP n mask v).cteam = w.cteam := by unfold Wave.setP; split <;> rfl
@[simp] theorem Wave.setP_tcore (w : Wave) (n : Nat) (mask v : Mask) : (w.setP n mask v).tcore = w.tcore := by unfold Wave.setP; split <;> rfl
@[simp] theorem Wave.setP_csa (w : Wave) (n : Nat) (mask v : Mask) : (w.setP n mask v).csa = w.csa := by unfold Wave.setP; split <;> rfl
@[simp] theorem Wave.setP_csaDom (w : Wave) (n : Nat) (mask v : Mask) : (w.setP n mask v).csaDom = w.csaDom := by unfold Wave.setP; split <;> rfl
@[simp] theorem Wave.setP_accMask (w : Wave) (n : Nat) (mask v : Mask) : (w.setP n mask v).accMask = w.accMask := by unfold Wave.setP; split <;> rfl
@[simp] theorem Wave.setP_gates (w : Wave) (n : Nat) (mask v : Mask) : (w.setP n mask v).gates = w.gates := by unfold Wave.setP; split <;> rfl
@[simp] theorem Wave.setP_locks (w : Wave) (n : Nat) (mask v : Mask) : (w.setP n mask v).locks = w.locks := by unfold Wave.setP; split <;> rfl
@[simp] theorem Wave.setP_reservation (w : Wave) (n : Nat) (mask v : Mask) : (w.setP n mask v).reservation = w.reservation := by unfold Wave.setP; split <;> rfl
@[simp] theorem Wave.setP_absentBlocks (w : Wave) (n : Nat) (mask v : Mask) : (w.setP n mask v).absentBlocks = w.absentBlocks := by unfold Wave.setP; split <;> rfl
@[simp] theorem Wave.setP_absentAccs (w : Wave) (n : Nat) (mask v : Mask) : (w.setP n mask v).absentAccs = w.absentAccs := by unfold Wave.setP; split <;> rfl
@[simp] theorem Wave.setP_pending (w : Wave) (n : Nat) (mask v : Mask) : (w.setP n mask v).pending = w.pending := by unfold Wave.setP; split <;> rfl
@[simp] theorem Wave.setP_raised (w : Wave) (n : Nat) (mask v : Mask) : (w.setP n mask v).raised = w.raised := by unfold Wave.setP; split <;> rfl
@[simp] theorem Wave.setP_fetchBuf (w : Wave) (n : Nat) (mask v : Mask) : (w.setP n mask v).fetchBuf = w.fetchBuf := by unfold Wave.setP; split <;> rfl
@[simp] theorem Wave.setP_wait (w : Wave) (n : Nat) (mask v : Mask) : (w.setP n mask v).wait = w.wait := by unfold Wave.setP; split <;> rfl
@[simp] theorem Wave.setP_park (w : Wave) (n : Nat) (mask v : Mask) : (w.setP n mask v).park = w.park := by unfold Wave.setP; split <;> rfl
@[simp] theorem Wave.setP_busy (w : Wave) (n : Nat) (mask v : Mask) : (w.setP n mask v).busy = w.busy := by unfold Wave.setP; split <;> rfl
@[simp] theorem Wave.setP_deferred (w : Wave) (n : Nat) (mask v : Mask) : (w.setP n mask v).deferred = w.deferred := by unfold Wave.setP; split <;> rfl
@[simp] theorem Wave.setP_graceFrom (w : Wave) (n : Nat) (mask v : Mask) : (w.setP n mask v).graceFrom = w.graceFrom := by unfold Wave.setP; split <;> rfl
@[simp] theorem Wave.setP_lateResolved (w : Wave) (n : Nat) (mask v : Mask) : (w.setP n mask v).lateResolved = w.lateResolved := by unfold Wave.setP; split <;> rfl

@[simp] theorem Wave.setF_pc (w : Wave) (n : Nat) (v : Word) : (w.setF n v).pc = w.pc := rfl
@[simp] theorem Wave.setF_mode (w : Wave) (n : Nat) (v : Word) : (w.setF n v).mode = w.mode := rfl
@[simp] theorem Wave.setF_x (w : Wave) (n : Nat) (v : Word) : (w.setF n v).x = w.x := rfl
@[simp] theorem Wave.setF_p (w : Wave) (n : Nat) (v : Word) : (w.setF n v).p = w.p := rfl
@[simp] theorem Wave.setF_m (w : Wave) (n : Nat) (v : Word) : (w.setF n v).m = w.m := rfl
@[simp] theorem Wave.setF_amask (w : Wave) (n : Nat) (v : Word) : (w.setF n v).amask = w.amask := rfl
@[simp] theorem Wave.setF_stack (w : Wave) (n : Nat) (v : Word) : (w.setF n v).stack = w.stack := rfl
@[simp] theorem Wave.setF_csrs (w : Wave) (n : Nat) (v : Word) : (w.setF n v).csrs = w.csrs := rfl
@[simp] theorem Wave.setF_profiles (w : Wave) (n : Nat) (v : Word) : (w.setF n v).profiles = w.profiles := rfl
@[simp] theorem Wave.setF_budget (w : Wave) (n : Nat) (v : Word) : (w.setF n v).budget = w.budget := rfl
@[simp] theorem Wave.setF_regBase (w : Wave) (n : Nat) (v : Word) : (w.setF n v).regBase = w.regBase := rfl
@[simp] theorem Wave.setF_homeGroup (w : Wave) (n : Nat) (v : Word) : (w.setF n v).homeGroup = w.homeGroup := rfl
@[simp] theorem Wave.setF_homeHalf (w : Wave) (n : Nat) (v : Word) : (w.setF n v).homeHalf = w.homeHalf := rfl
@[simp] theorem Wave.setF_cteam (w : Wave) (n : Nat) (v : Word) : (w.setF n v).cteam = w.cteam := rfl
@[simp] theorem Wave.setF_tcore (w : Wave) (n : Nat) (v : Word) : (w.setF n v).tcore = w.tcore := rfl
@[simp] theorem Wave.setF_csa (w : Wave) (n : Nat) (v : Word) : (w.setF n v).csa = w.csa := rfl
@[simp] theorem Wave.setF_csaDom (w : Wave) (n : Nat) (v : Word) : (w.setF n v).csaDom = w.csaDom := rfl
@[simp] theorem Wave.setF_accMask (w : Wave) (n : Nat) (v : Word) : (w.setF n v).accMask = w.accMask := rfl
@[simp] theorem Wave.setF_gates (w : Wave) (n : Nat) (v : Word) : (w.setF n v).gates = w.gates := rfl
@[simp] theorem Wave.setF_locks (w : Wave) (n : Nat) (v : Word) : (w.setF n v).locks = w.locks := rfl
@[simp] theorem Wave.setF_reservation (w : Wave) (n : Nat) (v : Word) : (w.setF n v).reservation = w.reservation := rfl
@[simp] theorem Wave.setF_absentBlocks (w : Wave) (n : Nat) (v : Word) : (w.setF n v).absentBlocks = w.absentBlocks := rfl
@[simp] theorem Wave.setF_absentAccs (w : Wave) (n : Nat) (v : Word) : (w.setF n v).absentAccs = w.absentAccs := rfl
@[simp] theorem Wave.setF_pending (w : Wave) (n : Nat) (v : Word) : (w.setF n v).pending = w.pending := rfl
@[simp] theorem Wave.setF_wait (w : Wave) (n : Nat) (v : Word) : (w.setF n v).wait = w.wait := rfl
@[simp] theorem Wave.setF_park (w : Wave) (n : Nat) (v : Word) : (w.setF n v).park = w.park := rfl
@[simp] theorem Wave.setF_busy (w : Wave) (n : Nat) (v : Word) : (w.setF n v).busy = w.busy := rfl
@[simp] theorem Wave.setF_deferred (w : Wave) (n : Nat) (v : Word) : (w.setF n v).deferred = w.deferred := rfl
@[simp] theorem Wave.setF_graceFrom (w : Wave) (n : Nat) (v : Word) : (w.setF n v).graceFrom = w.graceFrom := rfl
@[simp] theorem Wave.setF_lateResolved (w : Wave) (n : Nat) (v : Word) : (w.setF n v).lateResolved = w.lateResolved := rfl
@[simp] theorem Wave.setF_raised (w : Wave) (n : Nat) (v : Word) : (w.setF n v).raised = w.raised := rfl
@[simp] theorem Wave.setF_fetchBuf (w : Wave) (n : Nat) (v : Word) : (w.setF n v).fetchBuf = w.fetchBuf := rfl

@[simp] theorem Wave.setM_pc (w : Wave) (n : Nat) (mask v : Mask) : (w.setM n mask v).pc = w.pc := rfl
@[simp] theorem Wave.setM_mode (w : Wave) (n : Nat) (mask v : Mask) : (w.setM n mask v).mode = w.mode := rfl
@[simp] theorem Wave.setM_x (w : Wave) (n : Nat) (mask v : Mask) : (w.setM n mask v).x = w.x := rfl
@[simp] theorem Wave.setM_f (w : Wave) (n : Nat) (mask v : Mask) : (w.setM n mask v).f = w.f := rfl
@[simp] theorem Wave.setM_p (w : Wave) (n : Nat) (mask v : Mask) : (w.setM n mask v).p = w.p := rfl
@[simp] theorem Wave.setM_amask (w : Wave) (n : Nat) (mask v : Mask) : (w.setM n mask v).amask = w.amask := rfl
@[simp] theorem Wave.setM_stack (w : Wave) (n : Nat) (mask v : Mask) : (w.setM n mask v).stack = w.stack := rfl
@[simp] theorem Wave.setM_csrs (w : Wave) (n : Nat) (mask v : Mask) : (w.setM n mask v).csrs = w.csrs := rfl
@[simp] theorem Wave.setM_profiles (w : Wave) (n : Nat) (mask v : Mask) : (w.setM n mask v).profiles = w.profiles := rfl
@[simp] theorem Wave.setM_budget (w : Wave) (n : Nat) (mask v : Mask) : (w.setM n mask v).budget = w.budget := rfl
@[simp] theorem Wave.setM_regBase (w : Wave) (n : Nat) (mask v : Mask) : (w.setM n mask v).regBase = w.regBase := rfl
@[simp] theorem Wave.setM_homeGroup (w : Wave) (n : Nat) (mask v : Mask) : (w.setM n mask v).homeGroup = w.homeGroup := rfl
@[simp] theorem Wave.setM_homeHalf (w : Wave) (n : Nat) (mask v : Mask) : (w.setM n mask v).homeHalf = w.homeHalf := rfl
@[simp] theorem Wave.setM_cteam (w : Wave) (n : Nat) (mask v : Mask) : (w.setM n mask v).cteam = w.cteam := rfl
@[simp] theorem Wave.setM_tcore (w : Wave) (n : Nat) (mask v : Mask) : (w.setM n mask v).tcore = w.tcore := rfl
@[simp] theorem Wave.setM_csa (w : Wave) (n : Nat) (mask v : Mask) : (w.setM n mask v).csa = w.csa := rfl
@[simp] theorem Wave.setM_csaDom (w : Wave) (n : Nat) (mask v : Mask) : (w.setM n mask v).csaDom = w.csaDom := rfl
@[simp] theorem Wave.setM_accMask (w : Wave) (n : Nat) (mask v : Mask) : (w.setM n mask v).accMask = w.accMask := rfl
@[simp] theorem Wave.setM_gates (w : Wave) (n : Nat) (mask v : Mask) : (w.setM n mask v).gates = w.gates := rfl
@[simp] theorem Wave.setM_locks (w : Wave) (n : Nat) (mask v : Mask) : (w.setM n mask v).locks = w.locks := rfl
@[simp] theorem Wave.setM_reservation (w : Wave) (n : Nat) (mask v : Mask) : (w.setM n mask v).reservation = w.reservation := rfl
@[simp] theorem Wave.setM_absentBlocks (w : Wave) (n : Nat) (mask v : Mask) : (w.setM n mask v).absentBlocks = w.absentBlocks := rfl
@[simp] theorem Wave.setM_absentAccs (w : Wave) (n : Nat) (mask v : Mask) : (w.setM n mask v).absentAccs = w.absentAccs := rfl
@[simp] theorem Wave.setM_pending (w : Wave) (n : Nat) (mask v : Mask) : (w.setM n mask v).pending = w.pending := rfl
@[simp] theorem Wave.setM_wait (w : Wave) (n : Nat) (mask v : Mask) : (w.setM n mask v).wait = w.wait := rfl
@[simp] theorem Wave.setM_park (w : Wave) (n : Nat) (mask v : Mask) : (w.setM n mask v).park = w.park := rfl
@[simp] theorem Wave.setM_busy (w : Wave) (n : Nat) (mask v : Mask) : (w.setM n mask v).busy = w.busy := rfl
@[simp] theorem Wave.setM_deferred (w : Wave) (n : Nat) (mask v : Mask) : (w.setM n mask v).deferred = w.deferred := rfl
@[simp] theorem Wave.setM_graceFrom (w : Wave) (n : Nat) (mask v : Mask) : (w.setM n mask v).graceFrom = w.graceFrom := rfl
@[simp] theorem Wave.setM_lateResolved (w : Wave) (n : Nat) (mask v : Mask) : (w.setM n mask v).lateResolved = w.lateResolved := rfl
@[simp] theorem Wave.setM_raised (w : Wave) (n : Nat) (mask v : Mask) : (w.setM n mask v).raised = w.raised := rfl
@[simp] theorem Wave.setM_fetchBuf (w : Wave) (n : Nat) (mask v : Mask) : (w.setM n mask v).fetchBuf = w.fetchBuf := rfl

@[simp] theorem Wave.setAmask_pc (w : Wave) (v : Mask) : (w.setAmask v).pc = w.pc := rfl
@[simp] theorem Wave.setAmask_mode (w : Wave) (v : Mask) : (w.setAmask v).mode = w.mode := rfl
@[simp] theorem Wave.setAmask_x (w : Wave) (v : Mask) : (w.setAmask v).x = w.x := rfl
@[simp] theorem Wave.setAmask_f (w : Wave) (v : Mask) : (w.setAmask v).f = w.f := rfl
@[simp] theorem Wave.setAmask_p (w : Wave) (v : Mask) : (w.setAmask v).p = w.p := rfl
@[simp] theorem Wave.setAmask_m (w : Wave) (v : Mask) : (w.setAmask v).m = w.m := rfl
@[simp] theorem Wave.setAmask_stack (w : Wave) (v : Mask) : (w.setAmask v).stack = w.stack := rfl
@[simp] theorem Wave.setAmask_csrs (w : Wave) (v : Mask) : (w.setAmask v).csrs = w.csrs := rfl
@[simp] theorem Wave.setAmask_profiles (w : Wave) (v : Mask) : (w.setAmask v).profiles = w.profiles := rfl
@[simp] theorem Wave.setAmask_budget (w : Wave) (v : Mask) : (w.setAmask v).budget = w.budget := rfl
@[simp] theorem Wave.setAmask_regBase (w : Wave) (v : Mask) : (w.setAmask v).regBase = w.regBase := rfl
@[simp] theorem Wave.setAmask_homeGroup (w : Wave) (v : Mask) : (w.setAmask v).homeGroup = w.homeGroup := rfl
@[simp] theorem Wave.setAmask_homeHalf (w : Wave) (v : Mask) : (w.setAmask v).homeHalf = w.homeHalf := rfl
@[simp] theorem Wave.setAmask_cteam (w : Wave) (v : Mask) : (w.setAmask v).cteam = w.cteam := rfl
@[simp] theorem Wave.setAmask_tcore (w : Wave) (v : Mask) : (w.setAmask v).tcore = w.tcore := rfl
@[simp] theorem Wave.setAmask_csa (w : Wave) (v : Mask) : (w.setAmask v).csa = w.csa := rfl
@[simp] theorem Wave.setAmask_csaDom (w : Wave) (v : Mask) : (w.setAmask v).csaDom = w.csaDom := rfl
@[simp] theorem Wave.setAmask_accMask (w : Wave) (v : Mask) : (w.setAmask v).accMask = w.accMask := rfl
@[simp] theorem Wave.setAmask_gates (w : Wave) (v : Mask) : (w.setAmask v).gates = w.gates := rfl
@[simp] theorem Wave.setAmask_locks (w : Wave) (v : Mask) : (w.setAmask v).locks = w.locks := rfl
@[simp] theorem Wave.setAmask_reservation (w : Wave) (v : Mask) : (w.setAmask v).reservation = w.reservation := rfl
@[simp] theorem Wave.setAmask_absentBlocks (w : Wave) (v : Mask) : (w.setAmask v).absentBlocks = w.absentBlocks := rfl
@[simp] theorem Wave.setAmask_absentAccs (w : Wave) (v : Mask) : (w.setAmask v).absentAccs = w.absentAccs := rfl
@[simp] theorem Wave.setAmask_pending (w : Wave) (v : Mask) : (w.setAmask v).pending = w.pending := rfl
@[simp] theorem Wave.setAmask_wait (w : Wave) (v : Mask) : (w.setAmask v).wait = w.wait := rfl
@[simp] theorem Wave.setAmask_park (w : Wave) (v : Mask) : (w.setAmask v).park = w.park := rfl
@[simp] theorem Wave.setAmask_busy (w : Wave) (v : Mask) : (w.setAmask v).busy = w.busy := rfl
@[simp] theorem Wave.setAmask_deferred (w : Wave) (v : Mask) : (w.setAmask v).deferred = w.deferred := rfl
@[simp] theorem Wave.setAmask_graceFrom (w : Wave) (v : Mask) : (w.setAmask v).graceFrom = w.graceFrom := rfl
@[simp] theorem Wave.setAmask_lateResolved (w : Wave) (v : Mask) : (w.setAmask v).lateResolved = w.lateResolved := rfl
@[simp] theorem Wave.setAmask_raised (w : Wave) (v : Mask) : (w.setAmask v).raised = w.raised := rfl
@[simp] theorem Wave.setAmask_fetchBuf (w : Wave) (v : Mask) : (w.setAmask v).fetchBuf = w.fetchBuf := rfl

@[simp] theorem Wave.fpDirty_pc (w : Wave) : (w.fpDirty).pc = w.pc := by
  cases w; rfl
@[simp] theorem Wave.fpDirty_mode (w : Wave) : (w.fpDirty).mode = w.mode := by
  cases w; rfl
@[simp] theorem Wave.fpDirty_x (w : Wave) : (w.fpDirty).x = w.x := by
  cases w; rfl
@[simp] theorem Wave.fpDirty_f (w : Wave) : (w.fpDirty).f = w.f := by
  cases w; rfl
@[simp] theorem Wave.fpDirty_p (w : Wave) : (w.fpDirty).p = w.p := by
  cases w; rfl
@[simp] theorem Wave.fpDirty_m (w : Wave) : (w.fpDirty).m = w.m := by
  cases w; rfl
@[simp] theorem Wave.fpDirty_amask (w : Wave) : (w.fpDirty).amask = w.amask := by
  cases w; rfl
@[simp] theorem Wave.fpDirty_stack (w : Wave) : (w.fpDirty).stack = w.stack := by
  cases w; rfl
@[simp] theorem Wave.fpDirty_profiles (w : Wave) : (w.fpDirty).profiles = w.profiles := by
  cases w; rfl
@[simp] theorem Wave.fpDirty_budget (w : Wave) : (w.fpDirty).budget = w.budget := by
  cases w; rfl
@[simp] theorem Wave.fpDirty_regBase (w : Wave) : (w.fpDirty).regBase = w.regBase := by
  cases w; rfl
@[simp] theorem Wave.fpDirty_homeGroup (w : Wave) : (w.fpDirty).homeGroup = w.homeGroup := by
  cases w; rfl
@[simp] theorem Wave.fpDirty_homeHalf (w : Wave) : (w.fpDirty).homeHalf = w.homeHalf := by
  cases w; rfl
@[simp] theorem Wave.fpDirty_cteam (w : Wave) : (w.fpDirty).cteam = w.cteam := by
  cases w; rfl
@[simp] theorem Wave.fpDirty_tcore (w : Wave) : (w.fpDirty).tcore = w.tcore := by
  cases w; rfl
@[simp] theorem Wave.fpDirty_csa (w : Wave) : (w.fpDirty).csa = w.csa := by
  cases w; rfl
@[simp] theorem Wave.fpDirty_csaDom (w : Wave) : (w.fpDirty).csaDom = w.csaDom := by
  cases w; rfl
@[simp] theorem Wave.fpDirty_accMask (w : Wave) : (w.fpDirty).accMask = w.accMask := by
  cases w; rfl
@[simp] theorem Wave.fpDirty_gates (w : Wave) : (w.fpDirty).gates = w.gates := by
  cases w; rfl
@[simp] theorem Wave.fpDirty_locks (w : Wave) : (w.fpDirty).locks = w.locks := by
  cases w; rfl
@[simp] theorem Wave.fpDirty_reservation (w : Wave) : (w.fpDirty).reservation = w.reservation := by
  cases w; rfl
@[simp] theorem Wave.fpDirty_absentBlocks (w : Wave) : (w.fpDirty).absentBlocks = w.absentBlocks := by
  cases w; rfl
@[simp] theorem Wave.fpDirty_absentAccs (w : Wave) : (w.fpDirty).absentAccs = w.absentAccs := by
  cases w; rfl
@[simp] theorem Wave.fpDirty_pending (w : Wave) : (w.fpDirty).pending = w.pending := by
  cases w; rfl
@[simp] theorem Wave.fpDirty_wait (w : Wave) : (w.fpDirty).wait = w.wait := by
  cases w; rfl
@[simp] theorem Wave.fpDirty_park (w : Wave) : (w.fpDirty).park = w.park := by
  cases w; rfl
@[simp] theorem Wave.fpDirty_busy (w : Wave) : (w.fpDirty).busy = w.busy := by
  cases w; rfl
@[simp] theorem Wave.fpDirty_deferred (w : Wave) : (w.fpDirty).deferred = w.deferred := by
  cases w; rfl
@[simp] theorem Wave.fpDirty_graceFrom (w : Wave) : (w.fpDirty).graceFrom = w.graceFrom := by
  cases w; rfl
@[simp] theorem Wave.fpDirty_lateResolved (w : Wave) : (w.fpDirty).lateResolved = w.lateResolved := by
  cases w; rfl

@[simp] theorem Wave.closeWindows_pc (w : Wave) : (w.closeWindows).pc = w.pc := rfl
@[simp] theorem Wave.closeWindows_mode (w : Wave) : (w.closeWindows).mode = w.mode := rfl
@[simp] theorem Wave.closeWindows_x (w : Wave) : (w.closeWindows).x = w.x := rfl
@[simp] theorem Wave.closeWindows_f (w : Wave) : (w.closeWindows).f = w.f := rfl
@[simp] theorem Wave.closeWindows_p (w : Wave) : (w.closeWindows).p = w.p := rfl
@[simp] theorem Wave.closeWindows_m (w : Wave) : (w.closeWindows).m = w.m := rfl
@[simp] theorem Wave.closeWindows_amask (w : Wave) : (w.closeWindows).amask = w.amask := rfl
@[simp] theorem Wave.closeWindows_stack (w : Wave) : (w.closeWindows).stack = w.stack := rfl
@[simp] theorem Wave.closeWindows_csrs (w : Wave) : (w.closeWindows).csrs = w.csrs := rfl
@[simp] theorem Wave.closeWindows_profiles (w : Wave) : (w.closeWindows).profiles = w.profiles := rfl
@[simp] theorem Wave.closeWindows_budget (w : Wave) : (w.closeWindows).budget = w.budget := rfl
@[simp] theorem Wave.closeWindows_regBase (w : Wave) : (w.closeWindows).regBase = w.regBase := rfl
@[simp] theorem Wave.closeWindows_homeGroup (w : Wave) : (w.closeWindows).homeGroup = w.homeGroup := rfl
@[simp] theorem Wave.closeWindows_homeHalf (w : Wave) : (w.closeWindows).homeHalf = w.homeHalf := rfl
@[simp] theorem Wave.closeWindows_cteam (w : Wave) : (w.closeWindows).cteam = w.cteam := rfl
@[simp] theorem Wave.closeWindows_tcore (w : Wave) : (w.closeWindows).tcore = w.tcore := rfl
@[simp] theorem Wave.closeWindows_csa (w : Wave) : (w.closeWindows).csa = w.csa := rfl
@[simp] theorem Wave.closeWindows_csaDom (w : Wave) : (w.closeWindows).csaDom = w.csaDom := rfl
@[simp] theorem Wave.closeWindows_accMask (w : Wave) : (w.closeWindows).accMask = w.accMask := rfl
@[simp] theorem Wave.closeWindows_gates (w : Wave) : (w.closeWindows).gates = w.gates := rfl
@[simp] theorem Wave.closeWindows_locks (w : Wave) : (w.closeWindows).locks = w.locks := rfl
@[simp] theorem Wave.closeWindows_reservation (w : Wave) : (w.closeWindows).reservation = w.reservation := rfl
@[simp] theorem Wave.closeWindows_absentBlocks (w : Wave) : (w.closeWindows).absentBlocks = w.absentBlocks := rfl
@[simp] theorem Wave.closeWindows_absentAccs (w : Wave) : (w.closeWindows).absentAccs = w.absentAccs := rfl
@[simp] theorem Wave.closeWindows_wait (w : Wave) : (w.closeWindows).wait = w.wait := rfl
@[simp] theorem Wave.closeWindows_park (w : Wave) : (w.closeWindows).park = w.park := rfl
@[simp] theorem Wave.closeWindows_busy (w : Wave) : (w.closeWindows).busy = w.busy := rfl
@[simp] theorem Wave.closeWindows_deferred (w : Wave) : (w.closeWindows).deferred = w.deferred := rfl
@[simp] theorem Wave.closeWindows_graceFrom (w : Wave) : (w.closeWindows).graceFrom = w.graceFrom := rfl
@[simp] theorem Wave.closeWindows_lateResolved (w : Wave) : (w.closeWindows).lateResolved = w.lateResolved := rfl
@[simp] theorem Wave.closeWindows_raised (w : Wave) : (w.closeWindows).raised = w.raised := rfl
@[simp] theorem Wave.closeWindows_fetchBuf (w : Wave) : (w.closeWindows).fetchBuf = w.fetchBuf := rfl

/-! ### Reading back -/

@[simp] theorem State.core_modCore_same (s : State) (c : Nat) (f : Core → Core) :
    (s.modCore c f).core c = f (s.core c) := by simp [State.core, State.modCore]

@[simp] theorem State.core_modCore_other (s : State) {c d : Nat} (f : Core → Core) (h : d ≠ c) :
    (s.modCore c f).core d = s.core d := by
  simp only [State.core, State.modCore, State.idleCore]
  exact Table.get_put_other _ _ _ h

@[simp] theorem Core.slot_modSlot_same (k : Core) (i : Nat) (f : Slot → Slot) :
    (k.modSlot i f).slot i = f (k.slot i) := by simp [Core.slot, Core.modSlot]

@[simp] theorem Core.slot_modSlot_other (k : Core) {i j : Nat} (f : Slot → Slot) (h : j ≠ i) :
    (k.modSlot i f).slot j = k.slot j := by simp [Core.slot, Core.modSlot, h]

@[simp] theorem Core.slot_setLane (k : Core) (w : Wave) (n l i : Nat) (v : Word32) :
    (k.setLane w n l v).slot i = k.slot i := rfl

@[simp] theorem State.slotAt_modSlotAt_same (s : State) (c i : Nat) (f : Slot → Slot) :
    (s.modSlotAt c i f).slotAt c i = f (s.slotAt c i) := by simp [State.slotAt, State.modSlotAt]

@[simp] theorem State.slotAt_modWaveAt_same (s : State) (c i : Nat) (f : Wave → Wave) :
    (s.modWaveAt c i f).slotAt c i = { s.slotAt c i with wave := f (s.slotAt c i).wave } := by
  simp [State.modWaveAt]

@[simp] theorem State.slot_modSlot (s : State) (f : Slot → Slot) : (s.modSlot f).slot = f s.slot := by
  simp [State.slot, State.modSlot]

@[simp] theorem State.wave_modWave (s : State) (f : Wave → Wave) : (s.modWave f).wave = f s.wave := by
  simp [State.wave, State.slot, State.modWave]

@[simp] theorem State.wave_modCsrs (s : State) (f : Csrs → Csrs) :
    (s.modCsrs f).wave = { s.wave with csrs := f s.wave.csrs } := by simp [State.modCsrs]

@[simp] theorem State.slotAt_count (s : State) (c d k n i : Nat) : (s.count c k n).slotAt d i = s.slotAt d i := by
  by_cases h : d = c
  · subst h; simp [State.slotAt, State.count]; rfl
  · simp [State.slotAt, State.count, h]

@[simp] theorem State.slot_count (s : State) (c k n : Nat) : (s.count c k n).slot = s.slot :=
  State.slotAt_count ..

@[simp] theorem State.wave_count (s : State) (c k n : Nat) : (s.count c k n).wave = s.wave :=
  congrArg Slot.wave (State.slotAt_count ..)

@[simp] theorem State.cluster_modCluster_same (s : State) (k : Nat) (f : Cluster → Cluster) :
    (s.modCluster k f).cluster k = f (s.cluster k) := by simp [State.cluster, State.modCluster]

@[simp] theorem State.cluster_modCluster_other (s : State) {k j : Nat} (f : Cluster → Cluster) (h : j ≠ k) :
    (s.modCluster k f).cluster j = s.cluster j := by simp [State.cluster, State.modCluster, h]

@[simp] theorem State.die_modDie_same (s : State) (d : Nat) (f : Die → Die) :
    (s.modDie d f).die d = f (s.die d) := by simp [State.die, State.modDie]

@[simp] theorem State.reg_setReg_same (s : State) (off : Nat) (v : Word) : (s.setReg off v).reg off = v := by
  simp [State.reg, State.setReg]

@[simp] theorem State.reg_setReg_other (s : State) {off o : Nat} (v : Word) (h : o ≠ off) :
    (s.setReg off v).reg o = s.reg o := by simp [State.reg, State.setReg, h]

@[simp] theorem Wave.getX_zero (w : Wave) : w.getX 0 = 0 := rfl

@[simp] theorem Wave.getX_setX_same (w : Wave) (n : Nat) (v : Word) (h0 : n ≠ 0) (h : n < 32) :
    (w.setX n v).getX n = v := by simp [Wave.getX, Wave.setX, h0, h]

@[simp] theorem Wave.getX_setX_other (w : Wave) {n k : Nat} (v : Word) (h : k ≠ n) :
    (w.setX n v).getX k = w.getX k := by
  unfold Wave.getX Wave.setX
  by_cases hn : n = 0
  · simp [hn]
  · by_cases hk : k = 0
    · simp [hk]
    · simp [hn, hk, List.getElem?_set_ne (Ne.symm h)]

theorem Wave.setX_zero (w : Wave) (v : Word) : w.setX 0 v = w := rfl

theorem Wave.setP_zero (w : Wave) (mask v : Mask) : w.setP 0 mask v = w := rfl

end Sys2Proof.Machine
end

