-- ==== Sys2Proof/Laws/Ops.lean ====
section
/-! SUPPORT. One law per shared operation of the machine: what it comes to where its word may issue, and that the
memory keeps its canonical form. -/

namespace Sys2Proof.Machine

/-! ### Outcomes -/

@[simp] theorem Issue.finish_done (s : State) : (Issue.done s).finish = .next { s with verdict := .issued } := rfl
@[simp] theorem Issue.finish_stop (r : Fault) : (Issue.stop r).finish = .fault r := rfl
@[simp] theorem Issue.finish_hold (s : State) : (Issue.hold s).finish = .next { s.endWait with verdict := .notIssued } := rfl

/-- A word that does not stop the machine gives a next state. -/
theorem Issue.finish_next (i : Issue) (h : ∀ r, i ≠ .stop r) : ∃ t, i.finish = .next t := by
  cases i <;> simp_all [Issue.finish]

/-- No word's outcome is a refusal. -/
theorem Issue.finish_not_refused (i : Issue) (r : Refusal) : i.finish ≠ .refused r := by
  cases i <;> simp [Issue.finish]

/-! ### Words that may issue -/

/-- Where no window forbids the word, the lookahead rules let it go on (R21). -/
theorem lookahead_none_of_windowsAllow (s : State) (locs : List Loc) (h : s.windowsAllow locs = true) :
    lookahead s locs = none := by
  obtain ⟨hv, hw⟩ : s.wave.violations locs = [] ∧ s.wave.windowClosed = false := by
    simpa [State.windowsAllow] using h
  simp [lookahead, hv, hw]

/-- The lookahead rules never stop the machine. -/
theorem lookahead_not_stop (s : State) (locs : List Loc) (r : Fault) : lookahead s locs ≠ some (.stop r) := by
  unfold lookahead
  split
  · dsimp only; split <;> simp
  · split <;> simp

/-- A legal scalar device word that may issue is its effect. -/
theorem scalarWord_of_ready (s : State) (k : Nat) (enc : BitVec 32) (locs : List Loc) (body : State → Issue)
    (h : s.wordReady k locs = true) : scalarWord s k enc locs true body = (body s).finish := by
  obtain ⟨⟨hc, hp⟩, hl⟩ : (s.canIssue = true ∧ s.wave.profileOn k = true) ∧ s.windowsAllow (liveLocs locs) = true := by
    simpa [State.wordReady] using h
  simp [scalarWord, hc, hp, lookahead_none_of_windowsAllow s _ hl]

/-- A scalar device word that is illegal, or whose profile is off, raises illegal instruction with the word (R60, R77). -/
theorem scalarWord_of_illegal (s : State) (k : Nat) (enc : BitVec 32) (locs : List Loc) (legal : Bool)
    (body : State → Issue) (hc : s.canIssue = true) (h : (s.wave.profileOn k && legal) = false) :
    scalarWord s k enc locs legal body = (Issue.trap 2 (enc.setWidth 64) s).finish := by
  simp only [scalarWord, hc, h]
  rfl

/-- A legal device word that may issue is its effect. -/
theorem deviceIssue_of_ready (i : Instr) (s : State) (k : Nat) (locs : List Loc) (body : State → Issue)
    (hl : i.scalarLegal = true) (h : s.wordReady k locs = true) :
    deviceIssue i k locs body s = (body s).finish := by
  rw [deviceIssue, hl, scalarWord_of_ready s k _ locs body h]

/-- What readiness of a lane word says, piece by piece. -/
theorem State.laneReady_cases (s : State) (major : Nat) (w : LaneWord) (touch : LaneEnv → Operand → Mask)
    (h : s.laneReady major w touch = true) :
    ∃ ops, laneForm major false w = some ops ∧ s.canIssue = true ∧
      (s.wave.profileOn (majorProfile major) && inBudget s.wave.budget ops) = true ∧
      s.windowsAllow (laneLocs w ops) = true ∧ absentItem s ops = none ∧
      regionViolation (s.core s.curCore) s.wave ops (touch (laneEnv s w)) = none := by
  unfold State.laneReady at h
  cases hf : laneForm major false w with
  | none => simp [hf] at h
  | some ops =>
    simp only [hf, Bool.and_eq_true, decide_eq_true_eq] at h
    exact ⟨ops, rfl, h.1, by simp [h.2.1.1.1.1, h.2.1.1.1.2], h.2.1.1.2, h.2.1.2, h.2.2⟩

/-- A lane word that may issue, and whose own causes find nothing, is its effect. -/
theorem laneIssueWith_of_ready (s : State) (major : Nat) (w : LaneWord) (touch : LaneEnv → Operand → Mask)
    (own : LaneEnv → State → Option Issue) (body : LaneEnv → List Operand → State → Issue)
    (h : s.laneReady major w touch = true) (hown : own (laneEnv s w) s = none) :
    laneIssueWith major (laneForm major false w) w touch own body s = body (laneEnv s w) (laneOperands major w) s := by
  obtain ⟨ops, hf, hc, hp, hl, ha, hr⟩ := s.laneReady_cases major w touch h
  simp [laneIssueWith, laneOperands, laneChecks, hf, hc, hp, lookahead_none_of_windowsAllow s _ hl, ha, hown, hr]

/-- A lane word with no causes of its own that may issue is its effect. -/
theorem laneIssue_of_ready (s : State) (major : Nat) (w : LaneWord) (touch : LaneEnv → Operand → Mask)
    (body : LaneEnv → List Operand → State → Issue) (h : s.laneReady major w touch = true) :
    laneIssue major (laneForm major false w) w touch body s = body (laneEnv s w) (laneOperands major w) s :=
  laneIssueWith_of_ready s major w touch _ body h rfl

/-- An ordinary lane word that may issue leaves `afterWord` of its results. -/
theorem ordinaryLane_of_ready (s : State) (major : Nat) (w : LaneWord) (f : LaneEnv → List Upd)
    (h : s.laneReady major w = true) :
    ordinaryLane major (laneForm major false w) w f s =
      .next { s.afterWord (laneBytes w) (f (laneEnv s w)) with verdict := .issued } := by
  rw [ordinaryLane, laneIssue_of_ready s major w touchActive _ h]
  rfl

/-- An illegal lane word raises illegal instruction with its low bits (R60, R67). -/
theorem laneIssueWith_of_illegal (s : State) (major : Nat) (w : LaneWord) (touch : LaneEnv → Operand → Mask)
    (own : LaneEnv → State → Option Issue) (body : LaneEnv → List Operand → State → Issue) (hc : s.canIssue = true) :
    laneIssueWith major none w touch own body s = .trap 2 (laneLow major false false w) s := by
  simp [laneIssueWith, hc, illegal]

/-! ### What the accounts of a word leave -/

@[simp] theorem State.issuedAt_mem (s : State) (c i : Nat) (pc : Word) : (s.issuedAt c i pc).mem = s.mem := rfl
@[simp] theorem State.issued_mem (s : State) (n : Nat) : (s.issued n).mem = s.mem := rfl

theorem State.applyAt_mem (s : State) (c i : Nat) (u : Upd) : (s.applyAt c i u).mem = s.mem := by
  cases u <;> simp only [State.applyAt] <;> first | rfl | (split <;> rfl)

@[simp] theorem State.applyAllAt_mem (s : State) (c i : Nat) (us : List Upd) : (s.applyAllAt c i us).mem = s.mem := by
  induction us generalizing s with
  | nil => rfl
  | cons u us ih => exact (ih _).trans (s.applyAt_mem c i u)

@[simp] theorem State.afterWord_mem (s : State) (n : Nat) (us : List Upd) : (s.afterWord n us).mem = s.mem :=
  State.applyAllAt_mem _ _ _ _

@[simp] theorem State.afterX_mem (s : State) (d : BitVec 5) (v : Word) : (s.afterX d v).mem = s.mem := rfl
@[simp] theorem State.trapAt_mem (s : State) (c i : Nat) (b : Bool) (n : Nat) (tval epc : Word) :
    (s.trapAt c i b n tval epc).mem = s.mem := rfl
@[simp] theorem State.parkAt_mem (s : State) (c i : Nat) (p : Park) : (s.parkAt c i p).mem = s.mem := rfl
/-- A wave after one of its words has issued and goes on at `pc` (R21, R90). -/
theorem State.wave_issuedTo (s : State) (pc : Word) : (s.issuedTo pc).wave =
    { s.wave with
      pc := pc, wait := none, busy := none,
      pending := s.wave.pending.map (fun o => { o with since := o.since + 1 }),
      csrs := { s.wave.csrs with instret := s.wave.csrs.instret + 1 } } :=
  (State.wave_count _ _ _ _).trans (congrArg Slot.wave (s.slotAt_modSlotAt_same s.curCore s.curSlot _))

/-- The wave after a word that goes on at `pc` and changes only its wave. -/
theorem wave_goTo (s : State) (pc : Word) (f : Wave → Wave) : (goTo pc f s).wave = f (s.issuedTo pc).wave :=
  State.wave_modWave _ f

@[simp] theorem mem_goTo (s : State) (pc : Word) (f : Wave → Wave) : (goTo pc f s).mem = s.mem := rfl

/-- A custom-3 word that may issue, and names no absent register and no other domain's region, is its fault or its effect
(R140, R142, R160). -/
theorem controlWord_of_ready (i : Instr) (locs : List Loc) (ops : List Operand) (fault : Wave → Core → StackFault)
    (touch : Wave → Mask) (effect : State → State) (s : State) (hl : i.scalarLegal = true) (h : s.wordReady 0 locs = true)
    (ha : absentItem s ops = none) (hr : regionViolation (s.core s.curCore) s.wave ops (fun _ => touch s.wave) = none) :
    controlWord i locs ops fault touch effect s =
      (match fault s.wave (s.core s.curCore) with
        | some q => Issue.trap q.1 (BitVec.ofNat 64 q.2) s
        | none => .done (effect s)).finish := by
  rw [controlWord, deviceIssue_of_ready i s 0 locs _ hl h]
  cases hf : fault s.wave (s.core s.curCore) <;> simp [hf, ha, hr]

/-- A word's outcome holds the memory of the state that its meaning ends with. -/
theorem Issue.finish_mem (i : Issue) (t : State) (q : List Host.Cell → Prop) (h : i.finish = .next t)
    (hi : match i with
      | .done s => q s.mem
      | .trap _ _ s => q s.mem
      | .park _ _ s => q s.mem
      | .latePark _ _ _ _ _ s => q s.mem
      | .wait _ s => q s.mem
      | .hold s => q s.endWait.mem
      | .stop _ => True) : q t.mem := by
  cases i <;> simp only [Issue.finish, Host.Outcome.next.injEq, reduceCtorEq] at h <;> subst h <;> exact hi

/-! ### Memory -/

/-- A fold of steps that each keep the memory keeps it. -/
theorem foldl_mem {α : Type} (f : State → α → State) (hf : ∀ s a, (f s a).mem = s.mem) (l : List α) (s : State) :
    (l.foldl f s).mem = s.mem := by
  induction l generalizing s with
  | nil => rfl
  | cons a l ih => exact (ih _).trans (hf s a)

@[simp] theorem State.wake_mem (s : State) (pa n : Nat) (o : Option Nat) : (s.wake pa n o).mem = s.mem := by
  unfold State.wake
  refine foldl_mem _ (fun s c => foldl_mem _ (fun s k => ?_) _ _) _ _
  split
  · split <;> rfl
  · rfl

@[simp] theorem State.breakBlock_mem (s : State) (pa n : Nat) (o : Option (Nat × Nat)) : (s.breakBlock pa n o).mem = s.mem := by
  unfold State.breakBlock
  refine foldl_mem _ (fun s c => foldl_mem _ (fun s k => ?_) _ _) _ _
  split <;> rfl

@[simp] theorem State.unmasked_mem (s : State) (pa n : Nat) : (s.unmasked pa n).mem = s.mem := by
  unfold State.unmasked
  dsimp only
  split
  · rfl
  · refine foldl_mem _ (fun s k => ?_) _ _
    split <;> rfl

@[simp] theorem State.touchL2_mem (s : State) (pa dom : Nat) (w : Bool) : (s.touchL2 pa dom w).mem = s.mem := by
  unfold State.touchL2
  split
  · rfl
  · split <;> rfl

@[simp] theorem State.touchRange_mem (s : State) (pa n dom : Nat) (w : Bool) : (s.touchRange pa n dom w).mem = s.mem := by
  unfold State.touchRange
  split
  · rfl
  · exact foldl_mem _ (fun s k => s.touchL2_mem _ _ _) _ _

@[simp] theorem State.unpoison_mem (s : State) (pa n : Nat) : (s.unpoison pa n).mem = s.mem := rfl
@[simp] theorem State.endWait_mem (s : State) : s.endWait.mem = s.mem := by
  unfold State.endWait
  repeat' split
  all_goals rfl

/-- A write of physical bytes puts them into memory, but for a peer's and a drive's, which leave the device. -/
theorem State.mem_writePhys (s : State) (pa : Nat) (bs : List Byte) : (s.writePhys pa bs).mem =
    if s.paKind pa = .peer ∨ s.paKind pa = .drive then s.mem else Bytes.writeList s.mem pa bs := by
  unfold State.writePhys
  split <;> simp_all

/-- A write of physical bytes keeps the canonical form of memory. -/
theorem State.wf_writePhys (s : State) (pa : Nat) (bs : List Byte) (h : Memory.wf s.mem = true) :
    Memory.wf (s.writePhys pa bs).mem = true := by
  rw [State.mem_writePhys]
  split
  · exact h
  · exact Memory.wf_writeList s.mem pa bs h

@[simp] theorem State.spadWrite_mem (s : State) (core a : Nat) (bs : List Byte) (o : Option (Nat × Nat)) :
    (s.spadWrite core a bs o).mem = s.mem := by simp [State.spadWrite]

/-- A write of an agent keeps the canonical form of memory. -/
theorem State.wf_agentWriteAs (s : State) (dom pa : Nat) (bs : List Byte) (h : Memory.wf s.mem = true) :
    Memory.wf (s.agentWriteAs dom pa bs).mem = true := by
  unfold State.agentWriteAs
  split
  · exact h
  · simpa using h
  · exact h
  · exact State.wf_writePhys _ pa bs (by simpa using h)

/-- What a write of physical bytes to memory that is no peer's leaves at every address. -/
theorem State.read_writePhys_other (s : State) (pa a : Nat) (bs : List Byte) (h : a < pa ∨ pa + bs.length ≤ a) :
    Bytes.read (s.writePhys pa bs).mem a = Bytes.read s.mem a := by
  rw [State.mem_writePhys]
  split
  · rfl
  · exact Bytes.read_writeList_other s.mem pa a bs h

end Sys2Proof.Machine
end

