-- ==== Sys2Proof/Laws/PerInstr.lean ====
section
/-! SUPPORT. A family of facts about every instruction as syntax: how long its word is. -/

namespace Sys2Proof.Laws.encodedSize

/-- An instruction that has a word has one of 4 to 20 bytes, a multiple of four (R59; 20 only for the illegal length
code 3). -/
def Statement (i : Instr) : Prop := ∀ b n, encode i = some (b, n) → 4 ≤ n ∧ n ≤ 20 ∧ n % 4 = 0

theorem laneBytes_bounds (w : LaneWord) :
    4 ≤ Machine.laneBytes w ∧ Machine.laneBytes w ≤ 20 ∧ Machine.laneBytes w % 4 = 0 := by
  have h := w.len.isLt
  simp only [Machine.laneBytes]
  omega

theorem of_encode (i : Instr) : Statement i := by
  intro b n h
  unfold encode at h
  split at h
  · simp only [Option.some.injEq, Prod.mk.injEq] at h
    exact h.2 ▸ laneBytes_bounds _
  · split at h
    · simp only [Option.some.injEq, Prod.mk.injEq] at h
      omega
    · simp only [Option.map_eq_some_iff, Prod.mk.injEq] at h
      obtain ⟨_, _, _, h⟩ := h
      omega

theorem vadd (w : LaneWord) : Statement (.vadd w) := of_encode _
theorem vsub (w : LaneWord) : Statement (.vsub w) := of_encode _
theorem vadds (w : LaneWord) : Statement (.vadds w) := of_encode _
theorem vsubs (w : LaneWord) : Statement (.vsubs w) := of_encode _
theorem vmul (w : LaneWord) : Statement (.vmul w) := of_encode _
theorem vmulh (w : LaneWord) : Statement (.vmulh w) := of_encode _
theorem vmulw (w : LaneWord) : Statement (.vmulw w) := of_encode _
theorem vmad (w : LaneWord) : Statement (.vmad w) := of_encode _
theorem vmadw (w : LaneWord) : Statement (.vmadw w) := of_encode _
theorem vmin (w : LaneWord) : Statement (.vmin w) := of_encode _
theorem vmax (w : LaneWord) : Statement (.vmax w) := of_encode _
theorem vabs (w : LaneWord) : Statement (.vabs w) := of_encode _
theorem vneg (w : LaneWord) : Statement (.vneg w) := of_encode _
theorem vabsd (w : LaneWord) : Statement (.vabsd w) := of_encode _
theorem vclamp (w : LaneWord) : Statement (.vclamp w) := of_encode _
theorem vand (w : LaneWord) : Statement (.vand w) := of_encode _
theorem vor (w : LaneWord) : Statement (.vor w) := of_encode _
theorem vxor (w : LaneWord) : Statement (.vxor w) := of_encode _
theorem vandn (w : LaneWord) : Statement (.vandn w) := of_encode _
theorem vnot (w : LaneWord) : Statement (.vnot w) := of_encode _
theorem vbmux (w : LaneWord) : Statement (.vbmux w) := of_encode _
theorem vsll (w : LaneWord) : Statement (.vsll w) := of_encode _
theorem vsrl (w : LaneWord) : Statement (.vsrl w) := of_encode _
theorem vsra (w : LaneWord) : Statement (.vsra w) := of_encode _
theorem vrol (w : LaneWord) : Statement (.vrol w) := of_encode _
theorem vror (w : LaneWord) : Statement (.vror w) := of_encode _
theorem vshf (w : LaneWord) : Statement (.vshf w) := of_encode _
theorem vshadd (w : LaneWord) : Statement (.vshadd w) := of_encode _
theorem vpopc (w : LaneWord) : Statement (.vpopc w) := of_encode _
theorem vclz (w : LaneWord) : Statement (.vclz w) := of_encode _
theorem vctz (w : LaneWord) : Statement (.vctz w) := of_encode _
theorem vbrev (w : LaneWord) : Statement (.vbrev w) := of_encode _
theorem vbswap (w : LaneWord) : Statement (.vbswap w) := of_encode _
theorem vbext (w : LaneWord) : Statement (.vbext w) := of_encode _
theorem vbins (w : LaneWord) : Statement (.vbins w) := of_encode _
theorem vsel (w : LaneWord) : Statement (.vsel w) := of_encode _
theorem vmov (w : LaneWord) : Statement (.vmov w) := of_encode _
theorem vcmpeq (w : LaneWord) : Statement (.vcmpeq w) := of_encode _
theorem vcmpne (w : LaneWord) : Statement (.vcmpne w) := of_encode _
theorem vcmplt (w : LaneWord) : Statement (.vcmplt w) := of_encode _
theorem vcmple (w : LaneWord) : Statement (.vcmple w) := of_encode _
theorem vcmpgt (w : LaneWord) : Statement (.vcmpgt w) := of_encode _
theorem vcmpge (w : LaneWord) : Statement (.vcmpge w) := of_encode _
theorem vtst (w : LaneWord) : Statement (.vtst w) := of_encode _
theorem vsext (w : LaneWord) : Statement (.vsext w) := of_encode _
theorem vzext (w : LaneWord) : Statement (.vzext w) := of_encode _
theorem vilog2 (w : LaneWord) : Statement (.vilog2 w) := of_encode _
theorem vperm (w : LaneWord) : Statement (.vperm w) := of_encode _
theorem vaddc (w : LaneWord) : Statement (.vaddc w) := of_encode _
theorem vsubc (w : LaneWord) : Statement (.vsubc w) := of_encode _
theorem vmuls (w : LaneWord) : Statement (.vmuls w) := of_encode _
theorem vdot4 (w : LaneWord) : Statement (.vdot4 w) := of_encode _
theorem hadd (w : LaneWord) : Statement (.hadd w) := of_encode _
theorem hadds (w : LaneWord) : Statement (.hadds w) := of_encode _
theorem hsub (w : LaneWord) : Statement (.hsub w) := of_encode _
theorem hsubs (w : LaneWord) : Statement (.hsubs w) := of_encode _
theorem hmin (w : LaneWord) : Statement (.hmin w) := of_encode _
theorem hmax (w : LaneWord) : Statement (.hmax w) := of_encode _
theorem havg (w : LaneWord) : Statement (.havg w) := of_encode _
theorem habsd (w : LaneWord) : Statement (.habsd w) := of_encode _
theorem habsds (w : LaneWord) : Statement (.habsds w) := of_encode _
theorem hmul (w : LaneWord) : Statement (.hmul w) := of_encode _
theorem hmuls (w : LaneWord) : Statement (.hmuls w) := of_encode _
theorem hshl (w : LaneWord) : Statement (.hshl w) := of_encode _
theorem hshr (w : LaneWord) : Statement (.hshr w) := of_encode _
theorem hdot2 (w : LaneWord) : Statement (.hdot2 w) := of_encode _
theorem hdot2s (w : LaneWord) : Statement (.hdot2s w) := of_encode _
theorem hsad (w : LaneWord) : Statement (.hsad w) := of_encode _
theorem hpack (w : LaneWord) : Statement (.hpack w) := of_encode _
theorem hpacks (w : LaneWord) : Statement (.hpacks w) := of_encode _
theorem hunpk (w : LaneWord) : Statement (.hunpk w) := of_encode _
theorem hpk8 (w : LaneWord) : Statement (.hpk8 w) := of_encode _
theorem sunpk (w : LaneWord) : Statement (.sunpk w) := of_encode _
theorem spack (w : LaneWord) : Statement (.spack w) := of_encode _
theorem vfadd (w : LaneWord) : Statement (.vfadd w) := of_encode _
theorem vfsub (w : LaneWord) : Statement (.vfsub w) := of_encode _
theorem vfmul (w : LaneWord) : Statement (.vfmul w) := of_encode _
theorem vffma (w : LaneWord) : Statement (.vffma w) := of_encode _
theorem vffms (w : LaneWord) : Statement (.vffms w) := of_encode _
theorem vffnma (w : LaneWord) : Statement (.vffnma w) := of_encode _
theorem vffnms (w : LaneWord) : Statement (.vffnms w) := of_encode _
theorem vfmin (w : LaneWord) : Statement (.vfmin w) := of_encode _
theorem vfmax (w : LaneWord) : Statement (.vfmax w) := of_encode _
theorem vfminx (w : LaneWord) : Statement (.vfminx w) := of_encode _
theorem vfmaxx (w : LaneWord) : Statement (.vfmaxx w) := of_encode _
theorem vfabs (w : LaneWord) : Statement (.vfabs w) := of_encode _
theorem vfneg (w : LaneWord) : Statement (.vfneg w) := of_encode _
theorem vfsgnj (w : LaneWord) : Statement (.vfsgnj w) := of_encode _
theorem vfsgnjn (w : LaneWord) : Statement (.vfsgnjn w) := of_encode _
theorem vfsgnjx (w : LaneWord) : Statement (.vfsgnjx w) := of_encode _
theorem vfcmpeq (w : LaneWord) : Statement (.vfcmpeq w) := of_encode _
theorem vfcmpne (w : LaneWord) : Statement (.vfcmpne w) := of_encode _
theorem vfcmplt (w : LaneWord) : Statement (.vfcmplt w) := of_encode _
theorem vfcmple (w : LaneWord) : Statement (.vfcmple w) := of_encode _
theorem vfcmpgt (w : LaneWord) : Statement (.vfcmpgt w) := of_encode _
theorem vfcmpge (w : LaneWord) : Statement (.vfcmpge w) := of_encode _
theorem vfcmpun (w : LaneWord) : Statement (.vfcmpun w) := of_encode _
theorem vfclass (w : LaneWord) : Statement (.vfclass w) := of_encode _
theorem vfrcp (w : LaneWord) : Statement (.vfrcp w) := of_encode _
theorem vfrsq (w : LaneWord) : Statement (.vfrsq w) := of_encode _
theorem vfsqrt (w : LaneWord) : Statement (.vfsqrt w) := of_encode _
theorem vfdiv (w : LaneWord) : Statement (.vfdiv w) := of_encode _
theorem vfexp2 (w : LaneWord) : Statement (.vfexp2 w) := of_encode _
theorem vflog2 (w : LaneWord) : Statement (.vflog2 w) := of_encode _
theorem vfsin (w : LaneWord) : Statement (.vfsin w) := of_encode _
theorem vfcos (w : LaneWord) : Statement (.vfcos w) := of_encode _
theorem vfscale (w : LaneWord) : Statement (.vfscale w) := of_encode _
theorem vfrint (w : LaneWord) : Statement (.vfrint w) := of_encode _
theorem vcvtf (w : LaneWord) : Statement (.vcvtf w) := of_encode _
theorem vcvtfi (w : LaneWord) : Statement (.vcvtfi w) := of_encode _
theorem vcvtif (w : LaneWord) : Statement (.vcvtif w) := of_encode _
theorem vcvtii (w : LaneWord) : Statement (.vcvtii w) := of_encode _
theorem vunpk4 (w : LaneWord) : Statement (.vunpk4 w) := of_encode _
theorem vpk4 (w : LaneWord) : Statement (.vpk4 w) := of_encode _
theorem vpk2 (w : LaneWord) : Statement (.vpk2 w) := of_encode _
theorem vunp2 (w : LaneWord) : Statement (.vunp2 w) := of_encode _
theorem vpk8 (w : LaneWord) : Statement (.vpk8 w) := of_encode _
theorem vunp8 (w : LaneWord) : Statement (.vunp8 w) := of_encode _
theorem vcvtxf (w : LaneWord) : Statement (.vcvtxf w) := of_encode _
theorem vcvtfx (w : LaneWord) : Statement (.vcvtfx w) := of_encode _
theorem pand (w : LaneWord) : Statement (.pand w) := of_encode _
theorem por (w : LaneWord) : Statement (.por w) := of_encode _
theorem pxor (w : LaneWord) : Statement (.pxor w) := of_encode _
theorem pandn (w : LaneWord) : Statement (.pandn w) := of_encode _
theorem pnot (w : LaneWord) : Statement (.pnot w) := of_encode _
theorem pfirst (w : LaneWord) : Statement (.pfirst w) := of_encode _
theorem mfromp (w : LaneWord) : Statement (.mfromp w) := of_encode _
theorem pfromm (w : LaneWord) : Statement (.pfromm w) := of_encode _
theorem mgeta (w : LaneWord) : Statement (.mgeta w) := of_encode _
theorem mseta (w : LaneWord) : Statement (.mseta w) := of_encode _
theorem vballot (w : LaneWord) : Statement (.vballot w) := of_encode _
theorem pfromx (w : LaneWord) : Statement (.pfromx w) := of_encode _
theorem vvote (w : LaneWord) : Statement (.vvote w) := of_encode _
theorem vrdlane (w : LaneWord) : Statement (.vrdlane w) := of_encode _
theorem vbcast (w : LaneWord) : Statement (.vbcast w) := of_encode _
theorem vlperm (w : LaneWord) : Statement (.vlperm w) := of_encode _
theorem vred (w : LaneWord) : Statement (.vred w) := of_encode _
theorem vredx (w : LaneWord) : Statement (.vredx w) := of_encode _
theorem vscan (w : LaneWord) : Statement (.vscan w) := of_encode _
theorem vmatch (w : LaneWord) : Statement (.vmatch w) := of_encode _
theorem vlaneid (w : LaneWord) : Statement (.vlaneid w) := of_encode _
theorem vprank (w : LaneWord) : Statement (.vprank w) := of_encode _
theorem vldGlobal (w : LaneWord) : Statement (.vldGlobal w) := of_encode _
theorem vstGlobal (w : LaneWord) : Statement (.vstGlobal w) := of_encode _
theorem vldScratchpad (w : LaneWord) : Statement (.vldScratchpad w) := of_encode _
theorem vstScratchpad (w : LaneWord) : Statement (.vstScratchpad w) := of_encode _
theorem vldWindow (w : LaneWord) : Statement (.vldWindow w) := of_encode _
theorem vstWindow (w : LaneWord) : Statement (.vstWindow w) := of_encode _
theorem vldc (w : LaneWord) : Statement (.vldc w) := of_encode _
theorem vsmp (w : LaneWord) : Statement (.vsmp w) := of_encode _
theorem vpf (w : LaneWord) : Statement (.vpf w) := of_encode _
theorem vamoGlobal (w : LaneWord) : Statement (.vamoGlobal w) := of_encode _
theorem vamoScratchpad (w : LaneWord) : Statement (.vamoScratchpad w) := of_encode _
theorem vamoWindow (w : LaneWord) : Statement (.vamoWindow w) := of_encode _
theorem vcasGlobal (w : LaneWord) : Statement (.vcasGlobal w) := of_encode _
theorem vcasScratchpad (w : LaneWord) : Statement (.vcasScratchpad w) := of_encode _
theorem vcasWindow (w : LaneWord) : Statement (.vcasWindow w) := of_encode _
theorem amoLock (w : LaneWord) : Statement (.amoLock w) := of_encode _
theorem amoUnlk (w : LaneWord) : Statement (.amoUnlk w) := of_encode _
theorem xld (w : LaneWord) : Statement (.xld w) := of_encode _
theorem xst (w : LaneWord) : Statement (.xst w) := of_encode _
theorem vldAccumulator (w : LaneWord) : Statement (.vldAccumulator w) := of_encode _
theorem vstAccumulator (w : LaneWord) : Statement (.vstAccumulator w) := of_encode _
theorem chRecv (w : LaneWord) : Statement (.chRecv w) := of_encode _
theorem mld (w : LaneWord) : Statement (.mld w) := of_encode _
theorem mma (w : LaneWord) : Statement (.mma w) := of_encode _
theorem mmac (w : LaneWord) : Statement (.mmac w) := of_encode _
theorem accSt (w : LaneWord) : Statement (.accSt w) := of_encode _
theorem accTake (w : LaneWord) : Statement (.accTake w) := of_encode _
theorem accRel (w : LaneWord) : Statement (.accRel w) := of_encode _
theorem accClr (w : LaneWord) : Statement (.accClr w) := of_encode _
theorem accLd (w : LaneWord) : Statement (.accLd w) := of_encode _
theorem accCvt (w : LaneWord) : Statement (.accCvt w) := of_encode _
theorem cntAcc (w : LaneWord) : Statement (.cntAcc w) := of_encode _
theorem cntMrg (w : LaneWord) : Statement (.cntMrg w) := of_encode _
theorem cntDrn (w : LaneWord) : Statement (.cntDrn w) := of_encode _
theorem cntSpl (w : LaneWord) : Statement (.cntSpl w) := of_encode _
theorem cntFil (w : LaneWord) : Statement (.cntFil w) := of_encode _
theorem pairedWord (major : BitVec 8) (w : LaneWord) (all : Bool) (scalar : Rv) : Statement (.pairedWord major w all scalar) := of_encode _
theorem tileAlloc (checked zero : Bool) (a d : BitVec 5) : Statement (.tileAlloc checked zero a d) := of_encode _
theorem tileFree (a d : BitVec 5) : Statement (.tileFree a d) := of_encode _
theorem tileAwait (a d : BitVec 5) : Statement (.tileAwait a d) := of_encode _
theorem tileRel (writeBack : Bool) (a d : BitVec 5) : Statement (.tileRel writeBack a d) := of_encode _
theorem tileState (a d : BitVec 5) : Statement (.tileState a d) := of_encode _
theorem segAtt (m : BitVec 2) (b a d : BitVec 5) : Statement (.segAtt m b a d) := of_encode _
theorem segDet (a d : BitVec 5) : Statement (.segDet a d) := of_encode _
theorem segDetRel (a d : BitVec 5) : Statement (.segDetRel a d) := of_encode _
theorem segName (b a d : BitVec 5) : Statement (.segName b a d) := of_encode _
theorem segPin (a d : BitVec 5) : Statement (.segPin a d) := of_encode _
theorem segUnpin (a d : BitVec 5) : Statement (.segUnpin a d) := of_encode _
theorem segEvict (a d : BitVec 5) : Statement (.segEvict a d) := of_encode _
theorem segEvictDrop (a d : BitVec 5) : Statement (.segEvictDrop a d) := of_encode _
theorem cpyPost (b a d : BitVec 5) : Statement (.cpyPost b a d) := of_encode _
theorem dczPost (b a d : BitVec 5) : Statement (.dczPost b a d) := of_encode _
theorem chSend (b a d : BitVec 5) : Statement (.chSend b a d) := of_encode _
theorem sqRing (b a d : BitVec 5) : Statement (.sqRing b a d) := of_encode _
theorem sqRingCq (b a d : BitVec 5) : Statement (.sqRingCq b a d) := of_encode _
theorem barInit (n a : BitVec 5) : Statement (.barInit n a) := of_encode _
theorem barArrive (n d : BitVec 5) : Statement (.barArrive n d) := of_encode _
theorem barWait (n a : BitVec 5) : Statement (.barWait n a) := of_encode _
theorem barInv (n : BitVec 5) : Statement (.barInv n) := of_encode _
theorem fenceScope (s : BitVec 3) : Statement (.fenceScope s) := of_encode _
theorem pfence (p : BitVec 5) : Statement (.pfence p) := of_encode _
theorem waita (s : BitVec 3) (b a d : BitVec 5) : Statement (.waita s b a d) := of_encode _
theorem chunk (a d : BitVec 5) : Statement (.chunk a d) := of_encode _
theorem elect (n : BitVec 5) : Statement (.elect n) := of_encode _
theorem gateCall (b a : BitVec 5) : Statement (.gateCall b a) := of_encode _
theorem gateRet : Statement (.gateRet) := of_encode _
theorem domQuery (a d : BitVec 5) : Statement (.domQuery a d) := of_encode _
theorem waveEnd : Statement (.waveEnd) := of_encode _
theorem yield : Statement (.yield) := of_encode _
theorem obRsv (n : BitVec 3) (b a d : BitVec 5) : Statement (.obRsv n b a d) := of_encode _
theorem obRel (n : BitVec 3) (d : BitVec 5) : Statement (.obRel n d) := of_encode _
theorem cntRsv (a d : BitVec 5) : Statement (.cntRsv a d) := of_encode _
theorem cntRsvRel (d : BitVec 5) : Statement (.cntRsvRel d) := of_encode _
theorem cntClr (k : BitVec 3) : Statement (.cntClr k) := of_encode _
theorem maskIf (off : BitVec 13) (neg : Bool) (q : BitVec 4) : Statement (.maskIf off neg q) := of_encode _
theorem maskElse (off : BitVec 13) : Statement (.maskElse off) := of_encode _
theorem maskEndif : Statement (.maskEndif) := of_encode _
theorem mpush (n : BitVec 5) : Statement (.mpush n) := of_encode _
theorem mpop : Statement (.mpop) := of_encode _
theorem mpopD : Statement (.mpopD) := of_encode _
theorem loopL (off : BitVec 13) (n : BitVec 5) : Statement (.loopL off n) := of_encode _
theorem brkL (off : BitVec 13) (neg : Bool) (q : BitVec 4) : Statement (.brkL off neg q) := of_encode _
theorem contL (off : BitVec 13) (neg : Bool) (q : BitVec 4) : Statement (.contL off neg q) := of_encode _
theorem callL (b a : BitVec 5) : Statement (.callL b a) := of_encode _
theorem jmpL (b a : BitVec 5) : Statement (.jmpL b a) := of_encode _
theorem retL : Statement (.retL) := of_encode _
theorem lmulhh (b a d : BitVec 5) : Statement (.lmulhh b a d) := of_encode _
theorem lsumh (b a d : BitVec 5) : Statement (.lsumh b a d) := of_encode _
theorem linrng (b a d : BitVec 5) : Statement (.linrng b a d) := of_encode _
theorem lsatw (b a d : BitVec 5) : Statement (.lsatw b a d) := of_encode _
theorem lrevh (a d : BitVec 5) : Statement (.lrevh a d) := of_encode _
theorem linsb (b a d : BitVec 5) : Statement (.linsb b a d) := of_encode _
theorem ecall : Statement (.ecall) := of_encode _
theorem mret : Statement (.mret) := of_encode _
theorem sret : Statement (.sret) := of_encode _
theorem fenceI (rd rs1 : BitVec 5) (imm : BitVec 12) : Statement (.fenceI rd rs1 imm) := of_encode _
theorem wfi : Statement (.wfi) := of_encode _
theorem riscvScalarInstruction (i : Rv) : Statement (.riscvScalarInstruction i) := of_encode _
theorem longLatencyCompletion : Statement (.longLatencyCompletion) := of_encode _
theorem fetchBlockArrival : Statement (.fetchBlockArrival) := of_encode _
theorem slotTimerExpiry : Statement (.slotTimerExpiry) := of_encode _
theorem tileWaitTimeout : Statement (.tileWaitTimeout) := of_encode _
theorem interruptTaken : Statement (.interruptTaken) := of_encode _
theorem deferredCauseTaken : Statement (.deferredCauseTaken) := of_encode _
theorem registerMissLoadComplete : Statement (.registerMissLoadComplete) := of_encode _
theorem preemptionRequest : Statement (.preemptionRequest) := of_encode _
theorem domainPreemptionRequest : Statement (.domainPreemptionRequest) := of_encode _
theorem handoverBegin : Statement (.handoverBegin) := of_encode _
theorem reclaimGraceExpiry : Statement (.reclaimGraceExpiry) := of_encode _
theorem engineStopAck : Statement (.engineStopAck) := of_encode _
theorem handoverComplete : Statement (.handoverComplete) := of_encode _
theorem waveRetireComplete : Statement (.waveRetireComplete) := of_encode _
theorem newWaveBind : Statement (.newWaveBind) := of_encode _
theorem restoreBind : Statement (.restoreBind) := of_encode _
theorem teamTableEntryWrite : Statement (.teamTableEntryWrite) := of_encode _
theorem domainPartitionWrite : Statement (.domainPartitionWrite) := of_encode _
theorem stationTranslate : Statement (.stationTranslate) := of_encode _
theorem stationWalkComplete : Statement (.stationWalkComplete) := of_encode _
theorem faultRingAppend : Statement (.faultRingAppend) := of_encode _
theorem parkResume : Statement (.parkResume) := of_encode _
theorem parkDeliver : Statement (.parkDeliver) := of_encode _
theorem parkRetire : Statement (.parkRetire) := of_encode _
theorem invPageRange : Statement (.invPageRange) := of_encode _
theorem invWholePasid : Statement (.invWholePasid) := of_encode _
theorem invHostTag : Statement (.invHostTag) := of_encode _
theorem invEverything : Statement (.invEverything) := of_encode _
theorem stationInvAck : Statement (.stationInvAck) := of_encode _
theorem releaseDirectoryDrain : Statement (.releaseDirectoryDrain) := of_encode _
theorem drainAck : Statement (.drainAck) := of_encode _
theorem activeMessageService : Statement (.activeMessageService) := of_encode _
theorem activeMessageAck : Statement (.activeMessageAck) := of_encode _
theorem notifyWrite : Statement (.notifyWrite) := of_encode _
theorem latchTake : Statement (.latchTake) := of_encode _
theorem packetAccept : Statement (.packetAccept) := of_encode _
theorem launchPacket : Statement (.launchPacket) := of_encode _
theorem signalPacket : Statement (.signalPacket) := of_encode _
theorem waitPacket : Statement (.waitPacket) := of_encode _
theorem waitSatisfied : Statement (.waitSatisfied) := of_encode _
theorem quiescePacket : Statement (.quiescePacket) := of_encode _
theorem nopPacket : Statement (.nopPacket) := of_encode _
theorem commandCompletion : Statement (.commandCompletion) := of_encode _
theorem queueEnable : Statement (.queueEnable) := of_encode _
theorem queueDisable : Statement (.queueDisable) := of_encode _
theorem firmwareIntakeReopen : Statement (.firmwareIntakeReopen) := of_encode _
theorem forwardWindowClose : Statement (.forwardWindowClose) := of_encode _
theorem widxStorePublish : Statement (.widxStorePublish) := of_encode _
theorem engineCommandStart : Statement (.engineCommandStart) := of_encode _
theorem engineGranuleBoundary : Statement (.engineGranuleBoundary) := of_encode _
theorem copyCompletion : Statement (.copyCompletion) := of_encode _
theorem decompressionCompletion : Statement (.decompressionCompletion) := of_encode _
theorem tileWritebackComplete : Statement (.tileWritebackComplete) := of_encode _
theorem segmentRefillComplete : Statement (.segmentRefillComplete) := of_encode _
theorem segmentEvictionComplete : Statement (.segmentEvictionComplete) := of_encode _
theorem firmwareSegmentEviction : Statement (.firmwareSegmentEviction) := of_encode _
theorem messageAdmission : Statement (.messageAdmission) := of_encode _
theorem messageTailFlit : Statement (.messageTailFlit) := of_encode _
theorem channelSendRetry : Statement (.channelSendRetry) := of_encode _
theorem messageAbort : Statement (.messageAbort) := of_encode _
theorem compatRequestService : Statement (.compatRequestService) := of_encode _
theorem sequencerKblockComplete : Statement (.sequencerKblockComplete) := of_encode _
theorem cascadeArrival : Statement (.cascadeArrival) := of_encode _
theorem cascadeSwap : Statement (.cascadeSwap) := of_encode _
theorem waitaRecheck : Statement (.waitaRecheck) := of_encode _
theorem budgetAdd : Statement (.budgetAdd) := of_encode _
theorem coreBudgetCharge : Statement (.coreBudgetCharge) := of_encode _
theorem stage1Invalidate : Statement (.stage1Invalidate) := of_encode _
theorem irtMaskClear : Statement (.irtMaskClear) := of_encode _
theorem hostCxlMemRead : Statement (.hostCxlMemRead) := of_encode _
theorem hostCxlMemWrite : Statement (.hostCxlMemWrite) := of_encode _
theorem hostAtomicop : Statement (.hostAtomicop) := of_encode _
theorem hostCxlioRequest : Statement (.hostCxlioRequest) := of_encode _
theorem peerRequest : Statement (.peerRequest) := of_encode _
theorem collectiveInstanceStart : Statement (.collectiveInstanceStart) := of_encode _
theorem collectiveCompletion : Statement (.collectiveCompletion) := of_encode _
theorem cutGo : Statement (.cutGo) := of_encode _
theorem cutMarkerArrival : Statement (.cutMarkerArrival) := of_encode _
theorem cutResume : Statement (.cutResume) := of_encode _
theorem clockStepChange : Statement (.clockStepChange) := of_encode _
theorem criticalTemperatureStop : Statement (.criticalTemperatureStop) := of_encode _
theorem dieLinkFatalError : Statement (.dieLinkFatalError) := of_encode _
theorem deviceReset : Statement (.deviceReset) := of_encode _
theorem bootRomStage : Statement (.bootRomStage) := of_encode _
theorem firstStageBoot : Statement (.firstStageBoot) := of_encode _
theorem scrubCorrection : Statement (.scrubCorrection) := of_encode _
theorem getVersion : Statement (.getVersion) := of_encode _
theorem getCapabilities : Statement (.getCapabilities) := of_encode _
theorem negotiateAlgorithms : Statement (.negotiateAlgorithms) := of_encode _
theorem getDigests : Statement (.getDigests) := of_encode _
theorem getCertificate : Statement (.getCertificate) := of_encode _
theorem challenge : Statement (.challenge) := of_encode _
theorem getMeasurements : Statement (.getMeasurements) := of_encode _
theorem spdmUnsupportedRequest : Statement (.spdmUnsupportedRequest) := of_encode _
theorem domainReset : Statement (.domainReset) := of_encode _
theorem queueReset : Statement (.queueReset) := of_encode _
theorem imageWrite : Statement (.imageWrite) := of_encode _
theorem activateManagementFirmware : Statement (.activateManagementFirmware) := of_encode _
theorem activateColumnFirmware : Statement (.activateColumnFirmware) := of_encode _
theorem activateEngineMicrocode : Statement (.activateEngineMicrocode) := of_encode _
theorem spare : Statement (.spare) := of_encode _
theorem replay : Statement (.replay) := of_encode _
theorem registerWrite : Statement (.registerWrite) := of_encode _
theorem illegalInstruction : Statement (.illegalInstruction) := of_encode _
theorem coreReset : Statement (.coreReset) := of_encode _
theorem memoryExpanderRemoval : Statement (.memoryExpanderRemoval) := of_encode _
theorem hostCxlCacheRequest : Statement (.hostCxlCacheRequest) := of_encode _
theorem linkTraining : Statement (.linkTraining) := of_encode _

end Sys2Proof.Laws.encodedSize
end

