-- ==== Sys2Proof/Tests/Slice0.lean ====
section
/-! SUPPORT. Tests of the model: ill-formed terms that the checks refuse, words written out from the manual's encodings,
one-step results worked out by hand from the rules, and for every statement a state that meets its hypotheses. -/

namespace Sys2Proof.Tests

open Sys2Proof.Machine Sys2Proof.Claims

set_option Elab.async false

/-! ### A small machine -/

/-- A wave of width 16 in domain 1, in M-mode, with every profile and 256 lane registers. -/
def wave0 : Wave :=
  { pc := 0x2000, mode := .m, amask := 0xFFFF, profiles := 15, budget := 256, csa := 0x100000, csaDom := 1,
    csrs := { did := 1, mstatus := 0x2000, sturncmp := BitVec.allOnes 64 } }

/-- Tile 0: plain, ready, 256 granules from granule 0, of team 0 and domain 1 (R311). -/
def tile0 : Word := 0x000000010019FE00

/-- A core whose slot 0 runs `wave0`, with regions, banks and tile 0 in domain 1. -/
def core0 : Core :=
  { slots := [(0, { state := .running, wave := wave0 })], dslot := [(0, 1)],
    dpreg := (List.range 16).map (fun r => (r, 0)), dpbank := (List.range 32).map (fun b => (b, 0)),
    tiles := [(0, (tile0, 0))], accHold := [(0, ⟨0, 0, 1⟩), (1, ⟨0, 0, 1⟩)] }

/-- A machine whose core 0 runs that wave in team 0; domain 1 has PASID 0, with no translation (R193, R306). -/
def m0 : State :=
  { pcount := 1, pctb := 0x1000, mem := [(0x1000, 1), (0x1001, 1)], cores := [(0, core0)],
    clusters := [(0, { teams := [(0, { word := 0x0020000804002003 })] })] }

/-- `m0` with its wave changed. -/
def withWave (f : Wave → Wave) : State := m0.modWave f

/-- A lane word on registers 4, 8 and 12 with a type and a function code. -/
def lane (ty func : Nat) : LaneWord :=
  { len := 0, la := 0, guard := 0, gneg := false, vd := 4, va := 8, vb := 12, func := BitVec.ofNat 8 func,
    ty := BitVec.ofNat 4 ty, imm := 0 }

/-- The same with an immediate field. -/
def laneI (ty func imm : Nat) : LaneWord := { lane ty func with len := 1, imm := BitVec.ofNat 32 imm }

/-- Shapes of lane words, as legal operands differ from format to format. -/
def shapes : List LaneWord :=
  let one (w : LaneWord) : LaneWord := { w with vb := 0 }
  let none' (w : LaneWord) : LaneWord := { w with va := 0, vb := 0 }
  [lane 2 0, laneI 2 0 0, one (lane 2 0), lane 3 0, one (lane 3 0), laneI 3 0 0, laneI 15 0 0, lane 6 0, lane 0 0, lane 1 0,
    lane 15 0, one (lane 1 0), lane 10 0, laneI 10 0 0, one (lane 10 0), one (laneI 10 0 0), one (laneI 2 0 0),
    one (laneI 14 0 0), lane 8 0, one (lane 8 0), one (lane 12 1), one (lane 15 0), none' (lane 15 0), none' (laneI 2 0 0),
    lane 2 4, { one (lane 15 0) with vd := 0 }, { one (lane 2 0) with vd := 0 }, { one (laneI 2 0 0) with vd := 0 },
    { one (laneI 2 4 0) with vd := 0 }, laneI 2 4 0, { one (laneI 14 0 0) with vd := 0 },
    { one (lane 15 0) with vd := 1, va := 1 }, { one (lane 2 0) with vd := 1, va := 1 },
    { laneI 2 0 0 with vd := 0, va := 0, vb := 0 }]

/-- A shape of a lane word of a major that `s` may issue and that satisfies `q`. -/
def some' (s : State) (major : Nat) (q : LaneWord → Bool := fun _ => true) : Bool :=
  shapes.any (fun w => s.laneReady major w && q w)

/-! ### Lane words: states that meet the hypotheses -/

theorem witness_LaneIntegerResults : integerRules.all (fun r => some' m0 r.major) = true := by decide +kernel

theorem witness_LaneCountAndCompareResults :
    (countRules.all (fun r => some' m0 r.major) && compareRules.all (fun r => some' m0 r.major)) = true := by decide +kernel

theorem witness_LaneFieldResults : fieldRules.all (fun r => some' m0 r.major) = true := by decide +kernel

theorem witness_PackedResults :
    (halfRules.all (fun r => some' m0 r.major) && packedRules.all (fun r => some' m0 r.major) && some' m0 0x52 &&
      shapes.any (fun w => m0.laneReady 0x54 w (touchStream w)) &&
      shapes.any (fun w => m0.laneReady 0x55 w (touchStream w))) = true := by decide +kernel

theorem witness_FloatArithmetic :
    (floatRules.all (fun r => some' m0 r.major) && some' m0 0x80) = true := by decide +kernel

theorem witness_FloatMinMax : minMaxRules.all (fun r => some' m0 r.major) = true := by decide +kernel

theorem witness_FloatSigns : signRules.all (fun r => some' m0 r.major) = true := by decide +kernel

theorem witness_FloatCompareClassFaithful :
    (floatCompareRules.all (fun r => some' m0 r.major) && some' m0 0x77 && faithfulRules.all (fun r => some' m0 r.major)) =
      true := by decide +kernel

/-- `vcvtf.f32.f16`, `vcvtfi.i32.f32` and `vunpk4.f32.i4`: the source type stands in bits 95:92 (R133). -/
def convertShapes : List LaneWord :=
  [{ laneI 10 0 0x80000000 with vb := 0 }, { laneI 2 0 0xA0000000 with vb := 0 },
    { laneI 2 0 0xE0000000 with vd := 8, va := 4, vb := 0 }]

theorem witness_ConversionResults :
    (convertRules.all (fun r => some' m0 r.major || convertShapes.any (fun w => m0.laneReady r.major w)) &&
      convertShapes.any (fun w => m0.laneReady 0x94 w) && some' m0 0x95) = true := by decide +kernel

theorem witness_PredicateResults : predicateRules.all (fun r => some' m0 r.major) = true := by decide +kernel

/-- `mseta m1`. -/
def msetaShape : LaneWord := { lane 15 0 with vd := 0, va := 1, vb := 0 }

theorem witness_CrossLaneResults :
    (crossRules.all (fun r => some' m0 r.major || m0.laneReady r.major msetaShape) &&
      shapes.any (fun w => m0.laneReady 0xAD w (touchRdLane w)) &&
      shapes.any (fun w => m0.laneReady 0xAF w (touchPerm w))) = true := by decide +kernel

/-! ### Memory words -/

/-- The machine with 0x4000 in x8, where nothing is mapped but memory. -/
def mMem : State := withWave (fun w => w.setX 8 0x4000)

/-- Where the accesses of a global or window word of `s` go, and the state once they are translated. -/
def leads (m : MemWord) (e : LaneEnv) (w : LaneWord) : List Nat → State → Option (State × List (Nat × Dest))
  | [], s => some (s, [])
  | l :: ls, s =>
    let a := e.address w m.window m.isAtomic l
    if m.window then
      match s.windowAs m.kind a (m.size w) with
      | .ok (c, p) => (leads m e w ls s).map (fun r => (r.1, (l, .spad c p) :: r.2))
      | .error _ => none
    else
      match s.resolve s.curCore s.curSlot e.wave (cacheOf m) m.kind a (m.size w) with
      | (v, .ok d) => (leads m e w ls v).map (fun r => (r.1, (l, d) :: r.2))
      | (_, .error _) => none

theorem goesTo_of_leads (m : MemWord) (e : LaneEnv) (w : LaneWord) (ls : List Nat) (s u : State) (ds : List (Nat × Dest))
    (h : leads m e w ls s = some (u, ds)) : goesTo m e w ls s u ds := by
  induction ls generalizing s u ds with
  | nil => simpa [leads, goesTo, eq_comm] using h
  | cons l ls ih =>
    simp only [leads] at h
    split at h
    · rename_i hw
      split at h
      · rename_i c p hp
        obtain ⟨r, hr, he⟩ := Option.map_eq_some_iff.1 h
        cases he
        exact ⟨.spad c p, s, r.2, rfl, ih s r.1 r.2 hr, by rw [if_pos hw]; exact ⟨rfl, c, p, rfl, hp⟩⟩
      · cases h
    · rename_i hw
      split at h
      · rename_i v d hp
        obtain ⟨r, hr, he⟩ := Option.map_eq_some_iff.1 h
        cases he
        exact ⟨d, v, r.2, rfl, ih v r.1 r.2 hr, by rw [if_neg hw]; exact hp⟩
      · cases h

/-- `placed`, as a check. -/
def placedB (s : State) (ds : List (Nat × Dest)) : Bool :=
  let mem (d : Dest) : Option (Nat × Target) := match d with
    | .mem va t => some (va, t)
    | _ => none
  ds.all (fun d => match d.2 with
    | .spad _ _ => true
    | .mem va t => (s.paKind t.pa = .dram || s.paKind t.pa = .host) && t.pa % 64 = va % 64
    | _ => false) &&
  ds.all (fun d => ds.all (fun q => match mem d.2, mem q.2 with
    | some x, some y => x.1 / 64 ≠ y.1 / 64 || (x.2.pa / 64 = y.2.pa / 64 && x.2.mt = y.2.mt)
    | _, _ => true)) &&
  s.pkg.drives.all (fun r => r.1 % 64 = 0 && r.2 % 64 = 0)

theorem placed_of_placedB (s : State) (ds : List (Nat × Dest)) (h : placedB s ds = true) : placed s ds := by
  simp only [placedB, Bool.and_eq_true, List.all_eq_true] at h
  obtain ⟨⟨h1, h2⟩, h3⟩ := h
  refine ⟨fun d hd => ?_, fun d hd q hq va t vb g hx hy hv => ?_, fun r hr => ?_⟩
  · have := h1 d hd
    split at this
    · rename_i c a hc
      exact .inl ⟨c, a, hc⟩
    · rename_i va t hc
      simp only [Bool.and_eq_true, Bool.or_eq_true, decide_eq_true_eq] at this
      exact .inr ⟨va, t, hc, this.1, this.2⟩
    · cases this
  · have := h2 d hd q hq
    simp only [hx, hy, Bool.or_eq_true, Bool.and_eq_true, decide_eq_true_eq] at this
    exact this.resolve_left (fun n => n hv)
  · have := h3 r hr
    simpa using this

/-- What `GlobalWordsComplete` asks of a word of `s`, whose accesses lead where `q` says. -/
def globalOpen (r : LaneRule MemWord) (w : LaneWord) (s : State) (q : List (Nat × Dest) → Bool) : Bool :=
  let e := laneEnv s w
  let m := r.value
  s.laneReady r.major w &&
    accessOpen m.window m.kind (m.size w) (m.kind.writes && decide (ordOf w ≠ 0)) (scopeOf w)
      (e.lanes.map (e.address w m.window m.isAtomic)) s &&
    (match leads m e w e.lanes s with
      | some r => q r.2
      | none => false)

/-- `mMem` with only lane 0 active, and page 0 of domain 1 mapped to the physical page at `pa` in station 0 (R192, R195). -/
def mPage (pa : Nat) : State :=
  { (mMem.modWave (fun w => { w with amask := 1 })) with
    stations := [(0, { leaves := [{ pasid := 0, vpage := 0, ppage := pa / 2 ^ 19, guest := some 0x00100000000000CF, host := none,
                                    htag := 0 }] })] }

theorem cold_mMem : cold mMem := ⟨rfl, rfl, rfl, rfl, rfl, fun _ => rfl⟩

/-- Scratchpad words on tile 0. -/
def tileShapes : List LaneWord := shapes.map (fun w => { w with va := 0 })

/-- What the scratchpad statements ask of a word of `s`. -/
def spadOpen (major : Nat) (m : MemWord) (w : LaneWord) (s : State) : Bool :=
  let e := laneEnv s w
  let n := m.size w
  s.laneReady major w &&
    tileOpen w.va.toNat n n m.kind (decide (ordOf w = 0) && !m.isAtomic)
      (match m with
        | .load _ _ => false
        | _ => decide (ordOf w ≠ 0)) (scopeOf w) (e.lanes.map (e.offset w m.isAtomic)) s

theorem witness_GlobalWordsComplete :
    globalRules.all (fun r => shapes.any (fun w => globalOpen r w mMem (placedB mMem))) = true := by decide +kernel

/-- A word of one lane that leads to the scratchpad of a core of cluster 1, and one that leads to a register. -/
theorem witness_GlobalWordsComplete_far :
    (globalRules.all (fun r => r.value.window || shapes.any (fun w => globalOpen r w (mPage (spadPa 96 0)) (fun ds => match ds with
        | [(0, .remote 96 0x4000 0x4000)] => true
        | _ => false))) &&
      globalRules.any (fun r => r.value.kind = .store && shapes.any (fun w => globalOpen r w (mPage 0xF000000000000) (fun ds => match ds with
        | [(0, .reg 0x4000)] => true
        | _ => false)))) = true := by decide +kernel

theorem witness_ScratchpadLoadAndStore :
    (tileShapes.any (fun w => spadOpen 0xC2 (.load false .lane) w m0) &&
      tileShapes.any (fun w => spadOpen 0xC3 (.store false) w m0 && ordOf w = 0)) = true := by decide +kernel

theorem witness_ScratchpadOrderedAndAtomic :
    (tileShapes.any (fun w => spadOpen 0xC3 (.store false) w m0) &&
      tileShapes.any (fun w => spadOpen 0xCA (.atomic false false) w m0) &&
      tileShapes.any (fun w => spadOpen 0xCD (.atomic false true) w m0)) = true := by decide +kernel

/-- A wave with no active lane. -/
def mIdle : State := withWave (fun w => { w with amask := 0 })

/-- `mMem` with one active lane at texel (1, 0) of the image of 4 by 2 elements `.i16` that the descriptor at 0x4000 names
(R235). -/
def mImage : State :=
  let s := mMem.modWave (fun w => { w with amask := 1 })
  let s := s.modCore 0 (fun c => (c.setLane wave0 12 0 0x3FC00000).setLane wave0 13 0 0x3F000000)
  { s with mem := s.mem ++ [(0x4001, 0x80), (0x4008, 4), (0x400C, 2), (0x4010, 8), (0x4014, 1)] }

theorem cold_mImage : cold mImage := ⟨rfl, rfl, rfl, rfl, rfl, fun _ => rfl⟩

theorem witness_LocksWindowsSampler_locks :
    let ls (w : LaneWord) : Bool := (laneEnv mMem w).lanes ≠ []
    let a (w : LaneWord) : Nat := (mMem.wave.getX w.va.toNat).toNat
    let leads (w : LaneWord) : Bool := match mMem.resolve 0 0 mMem.wave .lane .amo (a w) 8 with
      | (_, .ok d) => placedB mMem [(0, d)]
      | _ => false
    (some' mMem 0xCF (fun w => ls w && accessOpen false .amo 8 false 0 [a w] mMem && leads w) &&
      some' mMem 0xD0 (fun w => ls w && accessOpen false .amo 8 true 3 [a w] mMem && leads w)) = true := by decide +kernel

theorem witness_LocksWindowsSampler_windows :
    let ls (w : LaneWord) : Bool := (laneEnv m0 w).lanes ≠ []
    let at' (k : AccKind) (w : LaneWord) : Bool := match m0.windowAs k (windowX w m0.wave) (memSize w) with
      | .ok _ => true
      | .error _ => false
    (tileShapes.any (fun w => m0.laneReady 0xD1 w && ls w && accessOpen true .load (memSize w) false 0 [windowX w m0.wave] m0 &&
        at' .load w) &&
      tileShapes.any (fun w => m0.laneReady 0xD2 w && ls w &&
        accessOpen true .store (memSize w) (decide (ordOf w ≠ 0)) (scopeOf w) [windowX w m0.wave] m0 && at' .store w) &&
      [0xCF, 0xD0, 0xD1, 0xD2, 0xC7].all (fun m => some' mIdle m (fun w => (laneEnv mIdle w).lanes = [])) &&
      some' m0 0xC8) = true := by decide +kernel

/-- A sample through a descriptor of zeros, which is not valid, and one of texel (1, 0) of an image. -/
theorem witness_LocksWindowsSampler_sampler :
    let a (s : State) (w : LaneWord) : Nat := (s.wave.getX w.va.toNat).toNat
    let ready (s : State) (w : LaneWord) : Bool := (laneEnv s w).lanes ≠ [] && accessOpen false .load 32 false 0 [a s w] s
    let found (s : State) (q : Nat → State → Dest → Bool) (w : LaneWord) : Bool :=
      match s.resolve 0 0 s.wave .sampler .load (a s w) 32 with
      | (u, .ok d) => placedB s [(0, d)] && q (valueIn (placeByte s 0) d 32) (u.readDest 0 s.wave .sampler false 32 d).1 d
      | _ => false
    (some' mMem 0xC7 (fun w => ready mMem w && (vsmpOutside (laneEnv mMem w) w mMem).isNone &&
        (vsmpPerform (laneEnv mMem w) w (laneEnv mMem w).lanes mMem).fault.isNone &&
        found mMem (fun desc _ _ => !(Image.ofBytes desc).valid) w) &&
      some' mImage 0xC7 (fun w => ready mImage w && w.vb.toNat = 12 && (laneEnv mImage w).lanes = [0] &&
        found mImage (fun desc u d =>
          (Image.ofBytes desc).valid && desc / 2 ^ 176 % 2 ^ 8 = 0 &&
          (coordOf (Fmt.f32.decode (mImage.laneReg 12 0).toNat)).any (fun x => x / 2 ^ 256 = 1) &&
          (coordOf (Fmt.f32.decode (mImage.laneReg 13 0).toNat)).any (fun y => y / 2 ^ 256 = 0) &&
          decide (1 < desc / 2 ^ 64 % 2 ^ 32 ∧ 0 < desc / 2 ^ 96 % 2 ^ 32) &&
          (match u.resolve 0 0 mImage.wave .sampler .load 0x8002 2 with
            | (_, .ok g) => placedB mImage [(0, d), (0, g)]
            | _ => false)) w)) = true := by decide +kernel

/-- An element of accumulator tile 0, which the team holds. -/
def accOpen (major : Nat) (w : LaneWord) (s : State) : Bool :=
  let e := laneEnv s w
  s.laneReady major w && e.lanes.all (fun l => e.offset w false l % memSize w = 0 && e.offset w false l + memSize w ≤ 8192) &&
    (match s.accHolder w.va.toNat with
      | some h => h.team = s.wave.cteam && h.dom = s.wave.dom
      | none => false)

theorem witness_AccumulatorElements :
    (tileShapes.any (fun w => accOpen 0xD3 w m0) && tileShapes.any (fun w => accOpen 0xD4 w m0)) = true := by
  decide +kernel

/-! ### Matrix and counting words -/

/-- Records of an FP32 reservation of 64 elements: A in 8 granules, B in 16 (R251). -/
def recA : Word := 0x004008000000000A
def recB : Word := 0x004010010000000A

/-- `m0` with x5 and x6 set. -/
def mRegs (a b : Word) : State := withWave (fun w => (w.setX 5 a).setX 6 b)

/-- `m0` with the reservations o0 and o1 held by its wave, of these records. -/
def mResv (a b : Word) : State :=
  m0.modCore 0 (fun c =>
    { c with resv := [(0, { w0 := a, w2 := 0x10040 }), (1, { w0 := b, w2 := 0x10048 })] })

theorem witness_OperandBufferReservations_new :
    let s := mRegs recA 0
    let r : Reserv := { w0 := s.wave.getX 5, w1 := s.wave.getX 6 }
    (s.wordReady 1 (xLocs [5, 6, 7] ++ [.resv 0, .half 0]) && (s.core 0).resvOf 0 = none && r.valid &&
      (s.core 0).findGrans r.gran = some 0) = true := by decide +kernel

/-- A record that is not valid, and one that finds no room beside a reservation of 57 granules. -/
theorem witness_OperandBufferReservations_refused :
    let bad := mRegs 0 0
    let full := (mRegs recA 0).modCore 0 (fun c => { c with resv := [(3, { w0 := 0x0000390000000000, w2 := 0x10040 })] })
    let r : Reserv := { w0 := recA }
    (bad.wordReady 1 (xLocs [5, 6, 7] ++ [.resv 0, .half 0]) && !({ w0 := 0 } : Reserv).valid &&
      (mResv recA recB).wordReady 1 (xLocs [5, 6, 7] ++ [.resv 0, .half 0]) &&
      (((mResv recA recB).core 0).resvOf 0).any (fun q => q.dom = 1 && q.ofWave (mResv recA recB).wave) &&
      full.wordReady 1 (xLocs [5, 6, 7] ++ [.resv 0, .half 0]) && r.valid && (full.core 0).resvOf 0 = none &&
      (full.core 0).findGrans r.gran = none) = true := by decide +kernel

theorem witness_OperandBufferReservations_release :
    let s := mResv recA recB
    let other := s.modWave (fun w => { w with cteam := 1 })
    (m0.wordReady 1 (xLocs [5] ++ [.resv 0, .half 0]) && (m0.core 0).resvOf 0 = none &&
      s.wordReady 1 (xLocs [5] ++ [.resv 0, .half 0]) &&
      ((s.core 0).resvOf 0).any (fun q => q.ofWave s.wave) && !(s.core 0).inUse (.resv 0) &&
      other.wordReady 1 (xLocs [5] ++ [.resv 0, .half 0]) &&
      ((other.core 0).resvOf 0).any (fun q => q.dom = 1 && !q.ofWave other.wave)) = true := by decide +kernel

/-- A shape on accumulator tile 0 and scratchpad tile 0. -/
def accShape (ty func : Nat) : LaneWord := { lane ty func with vd := 0, va := 0, vb := 0 }

theorem witness_AccumulatorWords :
    let open' (m : Nat) (w : LaneWord) : Bool := m0.laneReady m w && fullMask m0
    (open' 0xE4 (accShape 15 0) && (accRangeCheck (accRange (accShape 15 0)) m0).isNone &&
      open' 0xE4 (accShape 15 1) && (accRangeCheck (accRange (accShape 15 1)) m0).isNone &&
      (accRange (accShape 15 1)).all (fun k => !(m0.core 0).inUse (.acc k)) &&
      open' 0xE4 (accShape 15 2) && (accCheck true (accRange (accShape 15 2)) m0).isNone &&
      open' 0xE3 (accShape 15 0) && (accCheck false [0] m0).isNone && sideOpen 0 8192 .store 0 m0 &&
      open' 0xE5 (accShape 15 0) && (accCheck true [0] m0).isNone && sideOpen 0 8192 .load 0 m0 &&
      open' 0xE6 (accShape 2 0) && sideOpen 0 (2048 * 4) .store 0 m0) = true := by decide +kernel

/-- `mld o0` of one granule of tile 0, and the multiply words on acc0, o0 and o1. -/
def mldShape : LaneWord := { laneI 15 0 0x01000000 with vd := 0, va := 0, vb := 0 }
def mmaShape (x : Nat) : LaneWord := { laneI 10 0 (0xA0000000 + x) with vd := 0, va := 0, vb := 1 }

/-- The record of o1 of a cascade: 32 granules in two halves (R251). -/
def recC : Word := 0x004020210000000A

/-- `mResv` with o1 of a cascade whose current half is valid. -/
def mCascade : State :=
  m0.modCore 0 (fun c =>
    { c with resv := [(0, { w0 := recA, w2 := 0x10040 }), (1, { w0 := recC, w2 := 0x10148 })] })

/-- What `MatrixWordsAndSequencer` asks of a multiply word. -/
def mmaOpen (major : Nat) (w : LaneWord) (s : State) : Bool :=
  let ra := resvAt s w.va.toNat
  let rb := resvAt s w.vb.toNat
  s.laneReady major w && fullMask s && (accCheck true [w.vd.toNat] s).isNone && (resvCheck false [w.va.toNat, w.vb.toNat] s).isNone &&
    ra.role = 0 && rb.role = 1 && ra.fmt = w.ty.toNat && ra.p = 0 && rb.fmt = mmaTb w && rb.p = 0 &&
    ra.kext = rb.kext && ra.blk = rb.blk && (!rb.cas || rb.cvalid) && (s.core s.curCore).seq = none

theorem witness_MatrixWordsAndSequencer_words :
    let s := mResv recA recB
    let x := mCascade.modWave (fun w => w.setX 5 0x80)
    (s.laneReady 0xE0 mldShape && fullMask s && (resvCheck true [0] s).isNone &&
      (tileOwn 0 1024 1 .load [0] s).isNone && decide (0 + 1 ≤ (resvAt s 0).half) && (tileReady 0 1024 .load [0] s).isNone &&
      (s.core 0).seq = none && mmaOpen 0xE1 (mmaShape 0) s && mmaOpen 0xE2 (mmaShape 5) x && (resvAt x 1).cas &&
      (x.wave.getX 5).getLsbD 7) = true := by decide +kernel

/-- A sequencer that has taken `n` of one K-block of a word. -/
def mSeq (cascade last sending : Bool) (n : Nat) (dst : Option Reserv) : State :=
  let s := mCascade.modCore 0 (fun c =>
    { c with seq := some { slot := 0, pc := 0, cascade := cascade, word := mmaShape 0, next := n, last := last, step := 1,
                           nb := 2, sending := sending } })
  let s := { s with clusters := [(0, { teams := [(0, { word := 0x0020000804002003, cmap := [(0, 0), (1, 1)] })] })] }
  match dst with
  | some r => s.modCore 1 (fun c => { c with resv := [(1, r)] })
  | none => s

theorem witness_MatrixWordsAndSequencer_sequencer :
    let on (s : State) (q : SeqRun → Bool) : Bool := ((s.core s.args.core).seq).any q
    let sent := mSeq true false true 2 (some { w0 := recC, w2 := 0x10048 })
    (on (mSeq false false false 0 none) (fun q => !q.sending && decide (q.next + 1 < q.nb)) &&
      on (mSeq false false false 1 none) (fun q => !q.sending && decide (q.next + 1 = q.nb) && !q.cascade) &&
      on (mSeq true false false 1 none) (fun q => !q.sending && decide (q.next + 1 = q.nb) && q.cascade && !q.last) &&
      on sent (fun q => q.sending && q.step = 1 && q.word.vb = 1) && (sent.slotAt 0 0).wave.park = none &&
      Table.get (sent.team 0 0).cmap 1 0 = 1 &&
      ((sent.core 0).resvOf 1).any (fun rs => ((sent.core 1).resvOf 1).any (fun rd =>
        rd.team = 0 && rd.w0 = rs.w0 && rd.w1 = rs.w1 && !rd.ivalid && !rd.fresh && rd.dom = (sent.slotAt 0 0).wave.dom))) = true := by
  decide +kernel

theorem witness_MatrixWordsAndSequencer_swap :
    let s : State := { (m0.modCore 0 (fun c => { c with resv := [(1, { w0 := recC, w2 := 0x10248 })] })) with args := { a := 1 } }
    (((s.core s.args.core).resvOf s.args.a).any (fun r => r.cas && !r.cvalid && r.ivalid) &&
      (s.core s.args.core).slots.all (fun e => e.2.wave.pending.all (fun o => !o.upds.contains (.cvalid s.args.a)))) = true := by
  decide +kernel

/-- `m0` with the counting array held by its wave under word 0 `v`, and x5. -/
def mCount (v x : Word) : State :=
  (mRegs x 0).modCore 0 (fun c => { c with cntRec := { w0 := v, w2 := 0x10040 } })

theorem witness_CountingReservation :
    let free := mRegs 4 0
    let bad := mRegs 5 0
    let held := mCount 0 0
    let other := held.modWave (fun w => { w with cteam := 1 })
    let locs := xLocs [5, 6] ++ cntLocs [0, 1]
    (free.wordReady 2 locs && !(free.core 0).cntHeld && bad.wordReady 2 locs && !(bad.core 0).cntHeld &&
      held.wordReady 2 locs && (held.core 0).cntHeld && (held.core 0).cntDom = 1 && held.wordReady 2 (xLocs [5]) &&
      (cntDomain held true).isNone && (held.core 0).cntOfWave held.wave && !(held.core 0).cntBusy &&
      other.wordReady 2 (xLocs [5]) && (cntDomain other true).isNone && !(other.core 0).cntOfWave other.wave &&
      held.wordReady 2 (.bank 3 :: cntLocs [0, 1])) = true := by decide +kernel

/-- `cnt.acc` on bank 0, tiles 0 and 0. -/
def cntShape : LaneWord := { laneI 14 0 0 with vd := 0, va := 0, vb := 0 }

theorem witness_CountingAccumulate :
    let s := mCount 0 0
    (s.laneReady 0xE8 cntShape && countOpen s false && accPair cntShape = (s.core 0).cntPair && !(s.core 0).cntWide &&
      tileOpen 0 (8 * accK cntShape) 1 .load false false 0 [accOffA cntShape] s &&
      tileOpen 0 (16 * accK cntShape) 1 .load false false 0 [accOffB cntShape] s) = true := by decide +kernel

/-- `m0` with the array held as WIDE. -/
def mWide : State := m0.modCore 0 (fun c => { c with cntRec := { w0 := 1, w2 := 0x100C0 } })

theorem witness_CountingMerge :
    ((mCount 0 0).laneReady 0xE9 (accShape 15 0) &&
      countOpen (mCount 0 0) false && !((mCount 0 0).core 0).cntWide && mWide.laneReady 0xE9 (accShape 15 0) &&
      countOpen mWide false && (mWide.core 0).cntWide) = true := by decide +kernel

/-- A scaled drain to acc0 of view 0, with its scales at byte 0 of tile 0. -/
def drainShape (func : Nat) : LaneWord := { lane 10 func with vd := 0, va := 0, vb := 0 }

theorem witness_CountingDrainAndImages :
    let s := mCount 0 0
    let image (s : State) (k : AccKind) : Bool := sideOpen 0 (512 * (s.core 0).blockBytes) k 0 s
    (s.laneReady 0xEA (drainShape 0) && countOpen s false && (accCheck true [0] s).isNone &&
      s.laneReady 0xEA (drainShape 2) && tileOpen 0 96 2 .load false false 0 [0] s &&
      mWide.laneReady 0xEA (drainShape 0) && countOpen mWide false &&
      s.laneReady 0xEB (accShape 15 0) && countOpen s true && image s .store &&
      mWide.laneReady 0xEB (accShape 15 0) && countOpen mWide true && image mWide .store &&
      s.laneReady 0xEC (accShape 15 0) && image s .load && mWide.laneReady 0xEC (accShape 15 0) &&
      image mWide .load) = true := by decide +kernel

/-! ### Scalar words -/

theorem witness_ScalarResultsAndJumps :
    let on (i : Rv) : Bool := rvOpen i m0
    (on (.op .add 1 2 3) && on (.op32 .addw 1 2 3) && on (.opImm .addi 1 2 3) && on (.addiw 1 2 3) && on (.shiftImm .slli 1 2 63) &&
      on (.shiftImm32 .slliw 1 2 31) && on (.unary .clz 1 2) && on (.lui 1 5) && on (.auipc 1 5) && on (.jal 1 2) && on (.jal 1 1) &&
      on (.jalr 1 0 4) && on (.jalr 1 0 2) && on (.branch .beq 0 0 2) && on (.branch .beq 0 0 1) && on (.branch .bne 0 0 2) &&
      decide ((m0.wave.pc + 4).toNat % 4 = 0) && decide ((m0.wave.pc + 2).toNat % 4 ≠ 0)) = true := by decide +kernel

theorem witness_ScalarFloatResults :
    let off := withWave (fun w => { w with csrs := { w.csrs with mstatus := 0 } })
    let i : Rv := .farith .add .s 0 1 2 3
    (rvOpen i m0 && (floatUpds i m0.wave).isSome &&
      ((floatUpds i m0.wave).getD []).any (fun u => match u with
        | .f _ _ => true
        | _ => false) &&
      off.canIssue && decide (fld off.wave.csrs.mstatus 14 13 = 0) && (floatUpds i off.wave).isSome) = true := by decide +kernel

/-- Domain 1's page 0 is uncached in station 0 (R192, R195). -/
def mUncached : State :=
  { mMem with stations := [(0, { leaves := [{ pasid := 0, vpage := 0, ppage := 0, guest := some 0x00100000000000CF, host := none, htag := 0 }] })] }

/-- An aligned hart access of `s` leads to device memory, to a place that `q` holds of. -/
def hartOpen (s : State) (k : AccKind) (a n : Nat) (q : Target → Bool := fun _ => true) : Bool :=
  a % n = 0 && a + n ≤ 2 ^ 49 &&
    (match s.resolve s.curCore s.curSlot s.wave .hart k a n with
      | (u, .ok (.mem _ t)) => decide (u.paKind t.pa = .dram) && q t
      | _ => false)

theorem settled_mMem : settled mMem := ⟨(show ∀ l ∈ ([] : List CacheLine), l.dirty = 0 from by simp), rfl, fun _ => rfl⟩

theorem witness_ScalarLoadsStores :
    let plain (s : State) (k : AccKind) (q : Target → Bool) : Bool := hartOpen s k 0x4000 8 q
    (rvOpen (.load .ld 1 8 0) mMem && rvOpen (.store .sd 8 1 0) mMem && rvOpen (.fload .d 1 8 0) mMem && rvOpen (.fstore .d 8 1 0) mMem &&
      decide (effective mMem 8 1 % 8 ≠ 0) && decide (effective mMem 8 0 = 0x4000) &&
      rvOpen (.load .ld 1 8 1) mMem && rvOpen (.store .sd 8 1 1) mMem && rvOpen (.fload .s 1 8 1) mMem && rvOpen (.fstore .s 8 1 1) mMem &&
      plain mMem .load (fun t => t.mt = 0) && plain mMem .store (fun t => t.mt = 0) &&
      rvOpen (.load .ld 1 8 0) mUncached && rvOpen (.store .sd 8 1 0) mUncached && rvOpen (.fstore .d 8 1 0) mUncached &&
      plain mUncached .load (fun t => t.mt ≠ 0) && plain mUncached .store (fun t => t.mt ≠ 0)) = true := by decide +kernel

theorem witness_ScalarAtomics :
    let held := mMem.modWave (fun w => { w with reservation := some 0x100 })
    let odd := withWave (fun w => w.setX 8 0x4001)
    let plain (s : State) (k : AccKind) (q : Target → Bool) : Bool := hartOpen s k 0x4000 8 q
    (rvOpen (.lr true false false 1 8) mMem && rvOpen (.lr true true true 1 8) mMem && plain mMem .load (fun t => t.mt = 0) &&
      rvOpen (.lr true false false 1 8) mUncached && plain mUncached .load (fun t => t.mt ≠ 0) && !mMem.messagesOut 0 0 &&
      rvOpen (.sc true false false 1 8 2) mMem && plain mMem .amo (fun t => mMem.wave.reservation ≠ some (t.pa / 64)) &&
      rvOpen (.sc true true true 1 8 2) held && plain held .amo (fun t => held.wave.reservation = some (t.pa / 64)) &&
      rvOpen (.amo .add true true true 1 8 2) mMem && rvOpen (.amo .maxu false false false 1 8 2) mMem &&
      hartOpen mMem .amo 0x4000 4 && rvOpen (.lr true false false 1 8) odd && rvOpen (.sc true false false 1 8 2) odd &&
      rvOpen (.amo .add true true true 1 8 2) odd && decide ((odd.wave.getX 8).toNat % 8 ≠ 0)) = true := by decide +kernel

theorem witness_CsrAndFenceWords :
    (rvOpen (.csr .rw 1 2 0x340) m0 && rvOpen (.csr .rs 1 0 0x340) m0 && rvOpen (.csr .rc 1 2 0x300) m0 &&
      rvOpen (.csrImm .rw 1 31 0x340) m0 && rvOpen (.csrImm .rs 1 0 0xC00) m0 && rvOpen (.sfenceVma 0 0) m0 &&
      rvOpen (.fence 0 0 0x0FF) m0 && !m0.messagesOut 0 0 && rvOpen .ebreak m0) = true := by decide +kernel

/-- The wave of `m0` in S-mode with every exception delegated. -/
def waveS : Wave := { wave0 with mode := .s, csrs := { wave0.csrs with medeleg := BitVec.allOnes 64, mideleg := BitVec.allOnes 64 } }

theorem witness_TrapEntry :
    (decide ((0x2000 : Word).toNat % 4 = 0) && decide (63 < 64) && decide (waveS.mode ≠ .m) && waveS.csrs.medeleg.getLsbD 63 &&
      decide (wave0.mode = .m) && baseOpen [] m0) = true := by decide +kernel

/-- `m0` in a mode, with `mstatus`. -/
def inMode (md : Mode) (st : Word) : State := withWave (fun w => { w with mode := md, csrs := { w.csrs with mstatus := st } })

theorem witness_Returns :
    (baseOpen [.amask] m0 && decide (m0.wave.mode = .m) && baseOpen [.amask] (inMode .s 0) && decide ((inMode .s 0).wave.mode ≠ .m) &&
      !(inMode .s 0).wave.csrs.mstatus.getLsbD 22 && baseOpen [.amask] (inMode .u 0) && baseOpen [.amask] (inMode .s 0x400000) &&
      (inMode .s 0x400000).wave.csrs.mstatus.getLsbD 22) = true := by decide +kernel

/-- `m0` inside one gate call. -/
def mGate : State := withWave (fun w => { w with gates := [0], csrs := { w.csrs with did := 0x101, sgate := 0x10001 } })

/-- What `waita` asks for an open location: register 10 holds the expected value, 11 the address, 12 the control word. -/
def waitaOpen (s : State) (win : Bool) (ea n : Nat) : Bool :=
  s.wordReady 0 (xLocs [11, 10, 12]) && !s.messagesOut 0 0 && (memOwn win .load n [ea] s).isNone && (memAfter win .load n [ea] s).isNone &&
    (match waitaDest s win ea n with
      | (u, .ok (t, _)) =>
        (match waitaRead u (u.wideScope 0) n t with
          | (_, .ok _) => true
          | _ => false)
      | _ => false)

theorem witness_WaveAndFenceWords :
    let at' (a : Word) : State := withWave (fun w => (w.setX 11 a).setX 12 0)
    (m0.wordReady 0 [] && decide (m0.wave.gdepth = 0) && mGate.wordReady 0 [] && decide (mGate.wave.gdepth ≠ 0) && baseOpen [] m0 &&
      !releaseHeld true 4 m0 && !m0.wideScope 0 && m0.wideScope 4 && waitaOpen (at' 0x4000) false 0x4000 8 && waitaOpen (at' 0) true 0 8 &&
      waitaOpen ((at' 0x4000).modWave (fun w => { w with wait := some { kind := .waita 0x4000 0x4000 0 0, start := 0 } })) false 0x4000 8 &&
      decide ((0x4001 : Nat) % 8 ≠ 0) && (at' 0x4001).wordReady 0 (xLocs [11, 10, 12])) = true := by
  decide +kernel

theorem witness_RetiredAndIllegalWords :
    let i : Instr := .lmulhh 3 2 1
    let busy (b : Busy) : State := withWave (fun w => { w with busy := some b })
    let req : CompatReq := { core := 0, slot := 0, word := wordOf i, rs1 := 0, rs2 := 0, rd := 0 }
    let served (on : Bool) : State :=
      { (busy (.compat (wordOf i) none)).modDie 0 (fun d => { d with compat := [req] }) with cfg := { m0.cfg with compat := on } }
    let small := withWave (fun w => { w with budget := 32 })
    (baseOpen (xLocs [2, 3, 1]) m0 && m0.wave.busy = none && decide ((m0.die 0).compat.length < 64) &&
      baseOpen (xLocs [2, 3, 1]) (busy (.compat (wordOf i) (some 7))) && baseOpen (xLocs [2, 3, 1]) (busy (.refused (wordOf i))) &&
      (served true).cfg.compat && !(served false).cfg.compat && ((served true).die 0).compat = [req] &&
      ((served true).slotAt 0 0).wave.busy = some (.compat req.word none) && m0.canIssue && decide (m0.args.a % 128 ≠ 0x57) &&
      laneForm 0x00 false (lane 15 0) = none && laneInstr 0x00 (lane 15 0) = some (.vadd (lane 15 0)) &&
      laneForm 0xE0 false (lane 2 0) = none && (laneInstr 0xE0 (lane 2 0)).isSome && !pairLegal 0xE0 (lane 2 0) (.op .add 7 7 8) &&
      (inMode .u 0).wave.profiles = 15 && (laneForm 0x00 false { lane 2 0 with vd := 255 }).isSome && small.canIssue &&
      decide (small.wave.budget < 255 + 1) && (inMode .u 0).canIssue && !(rvLegal (.csr .rw 1 2 0x340) (inMode .u 0).wave)) = true := by
  decide +kernel

/-- The lane part of the manual's paired word: `(p2) vadd.i32 v4, v5, v6`. -/
def pairShape : LaneWord := { lane 2 0 with len := 2, guard := 2, va := 5, vb := 6 }

theorem witness_PairedWords :
    let all := withWave (fun w => w.setP 2 0xFFFF 0xFFFF)
    let part := withWave (fun w => w.setP 2 0xFFFF 5)
    let open' (s : State) : Bool := s.laneReady 0 pairShape && s.wave.profileOn 0 &&
      inBudget s.wave.budget ((laneForm 0 true pairShape).getD []) &&
      s.windowsAllow (laneLocs pairShape ((laneForm 0 true pairShape).getD []) ++ liveLocs (rvLocs (.op .add 7 7 8)))
    (pairLegal 0 pairShape (.op .add 7 7 8) && open' m0 && open' all && open' part && decide (m0.wave.activeLanes pairShape = 0) &&
      decide (all.wave.activeLanes pairShape = all.wave.amask &&& all.wave.wm) &&
      decide (part.wave.activeLanes pairShape = 5)) = true := by decide +kernel

/-- The lane part alone goes on, and beside it stand a scalar part of registers, a load, and one whose state is not ready. -/
theorem witness_PairedWords_parts :
    let s := mMem.modWave (fun w => w.setP 2 0xFFFF 0xFFFF)
    let off := s.modWave (fun w => { w with csrs := { w.csrs with mstatus := 0 } })
    let issued (s : State) (q : State → Bool) : Bool := laneInstr 0 pairShape = some (.vadd pairShape) &&
      (match exec (.vadd pairShape) s with
        | .next t => decide (t.verdict = .issued) && q t
        | _ => false)
    let legal (i : Rv) (s : State) : Bool := pairLegal 0 pairShape i && s.canIssue && s.wave.profileOn 0 &&
      s.windowsAllow (laneLocs pairShape ((laneForm 0 true pairShape).getD []) ++ liveLocs (rvLocs i))
    (issued s (fun t => hartOpen t .load 0x4000 8 && !t.messagesOut 0 0) && legal (.load .ld 1 8 0) s && rvFpReady (.load .ld 1 8 0) s.wave &&
      scalarAccess (.load .ld 1 8 0) s.wave = some (.load, 0x4000, 8) && scalarAccess (.load .ld 1 8 1) s.wave = some (.load, 0x4001, 8) &&
      legal (.op .add 7 7 8) s && scalarAccess (.op .add 7 7 8) s.wave = none && issued off (fun _ => true) &&
      legal (.farith .add .s 0 1 2 3) off && !rvFpReady (.farith .add .s 0 1 2 3) off.wave) = true := by decide +kernel

/-! ### Masks, loops, calls -/

/-- A mask stack entry of a kind, for the word at 0x2000 where `here'` says so. -/
def entryOf (kind : Nat) (m : Mask) (pc : Nat) : MaskEntry := { mask := m, word := BitVec.ofNat 64 (kind * 2 ^ 62 + pc) }

/-- `m0` with a mask stack, its bottom entry first. -/
def mStack (es : List MaskEntry) : State :=
  withWave (fun w =>
    { w with
      stack := (es.zip (List.range 32)).foldl (fun v e => v.setIfInBounds e.2 e.1) w.stack,
      csrs := { w.csrs with mstkp := BitVec.ofNat 64 es.length } })

/-- A full stack. -/
def mFull : State := mStack (List.replicate 32 (entryOf 0 0xFF 0))

theorem witness_MaskStackWords :
    let depthIs (s : State) (d : Nat) : Bool := s.wordReady 0 [] && s.wordReady 0 [.p 3] && s.wordReady 0 [.m 7] && decide (s.wave.depth = d)
    let top (s : State) : Nat := s.wave.top.kind
    (depthIs m0 0 && depthIs mFull 32 && depthIs (mStack [entryOf 0 0xFF 0]) 1 && decide (top (mStack [entryOf 0 0xFF 0]) = 0) &&
      depthIs (mStack [entryOf 1 0xFF 0]) 1 && decide (top (mStack [entryOf 1 0xFF 0]) = 1) &&
      decide (top (mStack [entryOf 2 0xFF 0]) = 2) && decide (top (mStack [entryOf 3 0xFF 0x2000]) = 3)) = true := by decide +kernel

/-- `m0` with trip counts in v4: 2 in lane 0, 0 in the others, under a stack. -/
def mLoop (es : List MaskEntry) (trips : Word32) : State :=
  (mStack es).modCore 0 (fun c => c.setLane wave0 4 0 trips)

/-- A mask is the set of lanes `lanesAre` asks for. -/
def lanesCheck (s : State) (m base : Mask) (q : Nat → Bool) : Bool :=
  (List.range 128).all (fun l => m.getLsbD l = (decide (l < s.wave.width) && base.getLsbD l && q l))

theorem witness_LoopWords_open :
    let live (s : State) (m : Mask) : Bool := s.wordReady 0 [.v 4] && regOpen s 4 false s.wave.amask &&
      lanesCheck s m s.wave.amask (fun l => decide (0 < (s.laneReg 4 l).toInt))
    (live (mLoop [] 2) 1 && live (mLoop [] 0) 0 && live (mLoop (List.replicate 30 (entryOf 0 0xFF 0)) 2) 1 &&
      decide ((mLoop (List.replicate 30 (entryOf 0 0xFF 0)) 2).wave.depth = 30) &&
      live (mLoop (List.replicate 31 (entryOf 0 0xFF 0)) 2) 1 &&
      decide ((mLoop (List.replicate 31 (entryOf 0 0xFF 0)) 2).wave.depth = 31)) = true := by decide +kernel

theorem witness_LoopWords_iterate :
    let on (s : State) (m : Mask) : Bool := s.wordReady 0 [.v 4] && regOpen s 4 true s.wave.top.mask && decide (s.wave.top.kind = 1) &&
      decide (s.wave.top.pc = s.wave.pc) && lanesCheck s m s.wave.top.mask (fun l => decide (0 < (tripOf s 4 l).toInt))
    let two : List MaskEntry := [entryOf 0 0xFFFF 0, entryOf 1 1 0x2000]
    (on (mLoop two 2) 1 && on (mLoop two 1) 0 && decide (((mLoop two 1).wave.entry 0).kind = 0) &&
      on (mLoop [entryOf 1 1 0x2000] 1) 0 && decide ((mLoop [entryOf 1 1 0x2000] 1).wave.depth = 1) &&
      on (mLoop [entryOf 3 1 0, entryOf 1 1 0x2000] 1) 0 &&
      decide (((mLoop [entryOf 3 1 0, entryOf 1 1 0x2000] 1).wave.entry 0).kind = 3)) = true := by decide +kernel

theorem witness_LoopWords_leave :
    let s := mStack [entryOf 1 0xFFFF 0x1000, entryOf 0 0xFF 0, entryOf 3 0xF 0]
    let call := mStack [entryOf 2 0xFFFF 0x1000, entryOf 0 0xFF 0]
    (s.wordReady 0 [.p 0] && decide (s.wave.depth = 3) && decide ((s.wave.entry 0).kind = 1) && decide ((s.wave.entry 1).kind = 0) &&
      decide ((s.wave.entry 2).kind = 3) && decide ((call.wave.entry 0).kind = 2) && decide ((call.wave.entry 1).kind = 0) &&
      decide (m0.wave.depth = 0)) = true := by decide +kernel

/-- `m0` with offset `o` in lane 0 of v4 and 8 in lane 1, lanes 0 and 1 active, under a stack. -/
def mCall (es : List MaskEntry) (o : Word32) : State :=
  (((mStack es).modWave (fun w => { w with amask := 3 })).modCore 0 (fun c => c.setLane wave0 4 0 o)).modCore 0
    (fun c => c.setLane wave0 4 1 8)

theorem witness_CallWords_call :
    let on (s : State) (sel : Mask) (goal : Word) : Bool := s.wordReady 0 [.x 0, .v 4] && regOpen s 4 false s.wave.amask &&
      decide (laneGoal s 0 4 0 = goal) && lanesCheck s sel s.wave.amask (fun k => decide (laneGoal s 0 4 k = goal))
    let again := mCall [entryOf 3 3 0x2000] 4
    (on (mCall [] 4) 1 4 && on (mCall [] 8) 3 8 && on (mCall [] 2) 1 2 && on again 1 4 && decide (again.wave.top.kind = 3) &&
      decide (again.wave.top.pc = again.wave.pc) && on (mCall (List.replicate 30 (entryOf 0 3 0)) 4) 1 4 &&
      decide ((mCall (List.replicate 30 (entryOf 0 3 0)) 4).wave.depth = 30) && mIdle.wordReady 0 [.x 0, .v 4] &&
      regOpen mIdle 4 false mIdle.wave.amask) = true := by decide +kernel

theorem witness_CallWords_ret :
    let s := mStack [entryOf 3 0xFF 0x1000, entryOf 2 0xF 0x1004]
    let done := mStack [entryOf 3 0xFF 0x1000, entryOf 2 0 0x1004]
    let lone := mStack [entryOf 2 0xF 0x1004]
    (m0.wordReady 0 [] && decide (m0.wave.depth = 0) && decide ((mStack [entryOf 0 0 0]).wave.top.kind = 0) && s.wordReady 0 [] &&
      decide (s.wave.top.kind = 2) && decide ((s.wave.entry 0).kind = 3) && decide ((s.wave.entry 0).pc = s.wave.top.pc - 4) &&
      decide (s.wave.top.mask ≠ 0) && decide (done.wave.top.mask = 0) && decide ((done.wave.entry 0).pc = done.wave.top.pc - 4) &&
      decide (lone.wave.top.kind = 2) && decide (lone.wave.depth = 1)) = true := by decide +kernel

/-! ### Tiles, segments, rings, channels -/

/-- `m0` with x5 and x6, and entry 1 of the tile table. -/
def mTile (x y : Word) (e : Word) : State := (mRegs x y).modCore 0 (fun c => { c with tiles := [(0, (tile0, 0)), (1, (e, 0x40))] })

/-- A plain tile of team 0 and domain 1: 4 granules from 256, with these STATE, FERR, SEGV and RO. -/
def plainWith (state ferr : Nat) (segv ro : Bool) : Word :=
  BitVec.ofNat 64 (256 + 3 * 2 ^ 9 + state * 2 ^ 18 + 2 ^ 20 + b2n ro * 2 ^ 22 + ferr * 2 ^ 24 + 2 ^ 32 + b2n segv * 2 ^ 62)

theorem witness_TileWords_alloc :
    let ready (s : State) : Bool := s.wordReady 0 (xLocs [5, 6])
    let full : State := (mRegs 1 0).modCore 0 (fun c => { c with tiles := (List.range 16).map (fun h => (h, (tile0, 0))) })
    let used : State := (mRegs 512 0).modCore 0 (fun c => { c with granules := [(511, { used := true })] })
    let heavy : State := (mRegs 65 0)
    (ready (mRegs 0 0) && ready (mRegs 513 0) && ready heavy && decide ((heavy.core 0).checkedKib + 65 > 64) &&
      ready full && decide (full.myTeam.tcnt = 16) && (List.range 16).all (fun h => decide (tKind ((full.core 0).tile (full.myTeam.tbase + h)).1 ≠ 0)) &&
      ready used && decide (tKind ((used.core 0).tile 1).1 = 0) && decide ((used.core 0).findRun 1 512 = none) &&
      decide ((mRegs 512 0).wave.cteam < 64) && decide (tKind (((mRegs 512 0).core 0).tile 0).1 ≠ 0) &&
      decide (((mRegs 512 0).core 0).findRun 1 512 = some 0)) = true := by decide +kernel

theorem witness_TileWords_others :
    let at1 (e : Word) (f k : Bool) (q : Word → Bool) : Bool :=
      let s := mTile 1 0 e
      s.wordReady 0 (xLocs [5, 6] ++ [.tile 1]) && decide (s.myEntry 1 = some 1) && decide (tDom (tileOf s 1) = s.wave.dom) && q (tileOf s 1) &&
        (!f || !s.engineNames 0 1) && (!k || decide (fld s.wave.csrs.stwlim 31 0 = 0))
    let ring := (mTile 2 0 0).modCore 0 (fun c =>
      { c with tiles := [(2, (BitVec.ofNat 64 (2 * 2 ^ 20 + 2 ^ 32 + 1 * 2 ^ 50), 0)), (3, (plainWith 2 0 false false ||| 0x200000, 0)),
                         (4, (plainWith 0 0 false false ||| 0x200000, 0))] })
    let member (s : State) : State := s.modWave (fun w => w.setX 5 3)
    (at1 (plainWith 2 0 false false) true false (fun v => tKind v ≠ 3 && !tSegv v && tState v = 2) &&
      at1 (plainWith 2 0 true false) false false (fun v => tSegv v && !tRo v && tState v = 2) &&
      at1 (plainWith 2 0 true true) false false (fun v => tSegv v && tRo v) &&
      at1 (plainWith 1 0 false false) false true (fun v => tState v = 1 && tFerr v ≠ 1) &&
      at1 (plainWith 3 0 false false) false true (fun v => tState v = 3) &&
      at1 (plainWith 0 1 false false) false false (fun v => tFerr v = 1 && tState v = 0) &&
      at1 (plainWith 0 0 false false) false true (fun v => tFerr v = 0 && tState v = 0) &&
      at1 (plainWith 0 0 true false) false true (fun v => tState v = 0 && tSegv v) &&
      decide (ring.myEntry 2 = some 2) && decide (tKind (tileOf ring 2) = 2) && decide (slotOfTile ring 2 = 3) &&
      decide (tState (tileOf ring 3) = 2) && decide (tKind (tileOf ring 3) = 3) && decide ((member ring).myEntry 3 = some 3) &&
      decide (tDom (tileOf ring 3) = 1) && decide (tDom (tileOf ring 2) = 1)) = true := by decide +kernel

/-- A named segment of domain 1: one tile of 4 granules from granule 256 of core 0. -/
def seg0 : Segment := { name := 0x77, dom := 1, kind := 2, res := true, back := 0x8000, tiles := [(256, 4)] }

/-- `m0` with segment 0, and x5, x6, x7. -/
def mSeg (g : Segment) (a b : Word) : State :=
  { mRegs a b with clusters := [(0, { teams := [(0, { word := 0x0020000804002003 })], segs := [(0, g)] })] }

theorem witness_SegmentWords_attach :
    let on (s : State) : Bool := s.wordReady 0 (xLocs [6, 5, 7]) && s.wave.wait = none
    let found (s : State) : Bool := on s && decide (s.segLookup (here s) s.wave.dom (s.wave.getX 5) = some 0)
    let free (s : State) (h : Nat) : Bool := handlesFree (s.core s.curCore) s.myTeam h (s.seg 0 0).tiles.length
    (on (mSeg seg0 0 0) && on (mSeg seg0 0x77 0x100) && on (mSeg seg0 0x78 0) &&
      decide ((mSeg seg0 0x78 0).segLookup 0 1 0x78 = none) &&
      found (mSeg { seg0 with teams := [(0, 1)] } 0x77 1) && (({ seg0 with teams := [(0, 1)] } : Segment).attachedBy 0) &&
      found (mSeg seg0 0x77 0) && !free (mSeg seg0 0x77 0) 0 && !seg0.attachedBy 0 &&
      found (mSeg seg0 0x77 1) && free (mSeg seg0 0x77 1) 1 && seg0.pend = none && decide (seg0.core = (mSeg seg0 0x77 1).curCore % 96) &&
      decide (seg0.att = 0) && decide (seg0.sst = 0)) = true := by decide +kernel

/-- Segment 0 attached by team 0 as a writer, its tile at handle 1. -/
def mSegAtt : State :=
  (mSeg { seg0 with att := 1, teams := [(0, 1)] } 0x77 0).modCore 0 (fun c => { c with tiles := [(0, (tile0, 0)), (1, (plainWith 2 0 true false, 0))] })

theorem witness_SegmentWords_detach :
    let on (s : State) : Bool := s.wordReady 0 (xLocs [5, 7])
    (on (mSeg seg0 0x78 0) && on (mSeg seg0 0x77 0) && decide ((mSeg seg0 0x77 0).segLookup 0 1 0x77 = some 0) && !seg0.attachedBy 0 &&
      on mSegAtt && decide (mSegAtt.segLookup (here mSegAtt) mSegAtt.wave.dom (mSegAtt.wave.getX 5) = some 0) &&
      (mSegAtt.seg 0 0).attachedBy 0 && decide ((mSegAtt.seg 0 0).core = 0) && decide (tState (tileOf mSegAtt 1) = 2) &&
      !mSegAtt.messagesOut mSegAtt.curCore mSegAtt.curSlot && !mSegAtt.engineNames 0 1 && decide (mSegAtt.myTeam.tbase + (mSegAtt.seg 0 0).handleFor 0 = 1)) = true := by decide +kernel

/-- `seg.name` of tile 0, name 0x99 and backing 0x8000. -/
def mName (d : Word) (segs : Table Segment) : State :=
  { (mRegs 0x99 0x8000).modWave (fun w => w.setX 7 d) with
    clusters := [(0, { teams := [(0, { word := 0x0020000804002003 })], segs := segs })] }

theorem witness_SegmentWords_name :
    let s := mName 0 []
    let legal (s : State) : Bool := s.wordReady 0 (xLocs [6, 5, 7]) && decide (s.wave.getX 5 ≠ 0) && decide (fld (s.wave.getX 7) 63 11 = 0) &&
      decide ((s.wave.getX 6).toNat % 1024 = 0) && decide ((s.wave.getX 6).toNat < 2 ^ 49) && decide (s.myEntry 0 = some 0) &&
      decide (tKind (tileOf s 0) = 1) && decide (tState (tileOf s 0) = 2) && !tSegv (tileOf s 0) && !tChk (tileOf s 0)
    (legal s && decide (s.segLookup 0 1 0x99 = none) && decide (s.segVacant 0 = some 0) &&
      legal (mName 0 [(0, { seg0 with name := 0x99 })]) &&
      ((mName 0 [(0, { seg0 with name := 0x99 })]).segLookup 0 1 0x99).isSome &&
      decide (fld ((mName 0x800 []).wave.getX 7) 63 11 ≠ 0)) = true := by decide +kernel

/-- The segment table is full. -/
def mNameFull : State := mName 0 ((List.range 1024).map (fun i => (i, seg0)))

theorem find_map_of_mem {β : Type} (g : β) (l : List Nat) (i : Nat) (h : i ∈ l) :
    Table.find (l.map (fun i => (i, g))) i = some g := by
  induction l with
  | nil => simp at h
  | cons a l ih =>
    by_cases ha : a = i
    · simp [Table.find, ha]
    · simp [Table.find, ha, ih ((List.mem_cons.1 h).resolve_left (Ne.symm ha))]

theorem seg_mName (d : Word) (t : Table Segment) (i : Nat) : (mName d t).seg 0 i = Table.get t i {} := rfl

theorem witness_SegmentWords_full : mNameFull.segVacant 0 = none := by
  refine List.find?_eq_none.2 (fun i hi => ?_)
  have h : mNameFull.seg 0 i = seg0 := by
    rw [mNameFull, seg_mName, Table.get, find_map_of_mem seg0 _ i hi]
  rw [h]
  decide

theorem witness_SegmentWords_full_ready :
    (mNameFull.wordReady 0 (xLocs [6, 5, 7]) && (mNameFull.segLookup 0 1 0x99).isNone) = true := by decide +kernel

theorem witness_SegmentWords_pin :
    let on (s : State) : Bool := s.wordReady 0 (xLocs [5, 7]) && s.wave.wait = none
    let room (s : State) : Bool := s.pinnedUsed 1 + (s.seg 0 0).granules ≤ fld (s.reg (0x20010 + 32 * 1)) 23 0
    let att : Segment := { seg0 with teams := [(0, 1)] }
    let waiting : State := (mSeg { seg0 with res := false } 0x77 0).modWave (fun w => { w with wait := some { kind := .segEvict 0, start := 0 } })
    (on (mSeg seg0 0x78 0) && on (mSeg { att with kind := 3 } 0x77 0) && on (mSeg att 0x77 0) && !room (mSeg att 0x77 0) &&
      room ((mSeg att 0x77 0).setReg 0x20030 0x100) && on ((mSeg att 0x77 0).setReg 0x20030 0x100) &&
      on (mSeg { att with att := 1 } 0x77 0) && on (mSeg { seg0 with kind := 3 } 0x77 0) && on (mSeg { seg0 with back := 0 } 0x77 0) &&
      on (mSeg { seg0 with res := false } 0x77 0) && on (mSeg seg0 0x77 0) && decide (seg0.back ≠ 0) && seg0.res &&
      waiting.wordReady 0 (xLocs [5, 7]) && decide ((waiting.seg 0 0).sst ≠ 1) && !(waiting.seg 0 0).failed) = true := by decide +kernel

/-- A write-back of segment 0 that reports `f`: domain 1 may write its backing where `ok` is set. -/
def mEvict (g : Segment) (ok : Bool) : State :=
  { ((mSeg g 0 0).modCore 0 (fun c => { c with granules := [(256, { used := true, dirty := true })] })) with
    args := {}, pcount := if ok then 1 else 0 }

theorem witness_SegmentEvents_evict :
    let g : Segment := { seg0 with sst := 1 }
    let w (s : State) : Bool := (s.writeBackGranules (g.agent (g.home 0)) (g.home 0) g.backing).2.isNone
    let spared : State := (mEvict { seg0 with att := 1 } true).modCore 0 (fun c => { c with fwall := 2 })
    ((spared.core (seg0.home 0)).fwall.getLsbD 1 && decide ((spared.seg 0 0).att ≠ 0) && decide ((spared.seg 0 0).sst ≠ 2) &&
      decide ((mEvict { seg0 with att := 1 } true).cores.all (fun e => !e.2.fwall.getLsbD 1)) &&
      decide (((mEvict g true).seg 0 0).sst = 1) && w (mEvict g true) && g.pend = none && !w (mEvict g false) &&
      decide (seg0.sst ≠ 1) && decide (seg0.kind = 2) && decide (seg0.att = 0) && seg0.res && decide (seg0.back ≠ 0)) = true := by
  decide +kernel

/-- A draining tile of segment 0, in entry 1. -/
def mDrain (ok : Bool) : State :=
  { ((mEvict { seg0 with teams := [(0, 1)] } ok).modCore 0 (fun c => { c with tiles := [(1, (plainWith 3 0 true false, 0))] })) with
    args := { a := 1 } }

theorem witness_SegmentEvents_fill :
    let p : PendAttach := { team := 0, core := 0, slot := 0, handle := 1, ro := false }
    let s := mEvict { seg0 with sst := 2, pend := some p } true
    let ended (s : State) : Bool := (s.team 0 (tTeam ((s.core 0).tile 1).1)).over
    let w (s : State) : Bool :=
      let v := ((s.core 0).tile 1).1
      let g := s.seg 0 (tSeg v)
      (s.writeBackGranules (g.agent 0) 0 (g.tileBacking (tFirst v) (tGran v))).2.isNone
    (decide (s.args.b = 0) && decide ((s.seg 0 0).sst = 2) && decide ((s.seg 0 0).pend = some p) && !ended (mDrain true) &&
      decide (tState (((mDrain true).core 0).tile 1).1 = 3) && w (mDrain true) && !w (mDrain false) && !ended m0 &&
      decide (tState ((m0.core 0).tile 1).1 ≠ 3)) = true := by decide +kernel

/-- `m0` with bytes in core 0's scratchpad. -/
def mSpad (bs : Table Byte) : State := m0.modCore 0 (fun c => { c with spad := bs })

/-- A ring header of a kind at tile 0, with 4 entries, and bytes after it. -/
def mRing (kind : Byte) (more : Table Byte) : State := mSpad ([(8, kind), (12, 4)] ++ more)

theorem witness_EnginePosts_posts :
    let on (s : State) : Bool := s.wordReady 0 (xLocs [5, 7] ++ (List.range 4).map (fun k => .x (8 + k)))
    let open' (s : State) : Bool := on s && (tileOwn 0 32 1 .store [0] s).isNone && (tileReady 0 32 .store [0] s).isNone &&
      decide (s.myEntry 0 = some 0)
    let ringIs (s : State) (k : Nat) : Bool := decide ((s.core 0).ringKind 0 = k) && (s.core 0).ringOk 0
    let slot (s : State) : Byte := Bytes.read (s.core 0).spad ((s.core 0).entryAddr 0 ((s.core 0).ringWidx 0) + 31)
    let cpy := mRing 0x43 []
    let dcz := (mRing 0x44 []).modWave (fun w => w.setX 9 0x0000000100000001)
    let odd (s : State) : State := s.modWave (fun w => w.setX 11 (BitVec.allOnes 64))
    (on (withWave (fun w => w.setX 5 256)) && open' m0 && !ringIs m0 0x43 && open' cpy && ringIs cpy 0x43 && open' dcz && ringIs dcz 0x44 &&
      !copyRefused cpy (postImage cpy.wave 8) && (DczEntry.ofImage (postImage dcz.wave 8)).legal && decide (slot cpy = 0) &&
      decide (slot dcz = 0) && open' (odd cpy) && copyRefused (odd cpy) (postImage (odd cpy).wave 8) && open' (odd dcz) &&
      !(DczEntry.ofImage (postImage (odd dcz).wave 8)).legal && open' (mRing 0x43 [(63, 1)]) && decide (slot (mRing 0x43 [(63, 1)]) ≠ 0) &&
      ringIs (mRing 0x43 [(63, 1)]) 0x43) = true := by decide +kernel

theorem witness_EnginePosts_publish :
    let ready (s : State) : Bool := (ringClass ((s.core 0).ringKind 0)).isSome && tileHolds ((s.core 0).tile 0).1 && (s.core 0).ringOk 0
    let one := mSpad [(0, 1), (8, 0x43), (12, 4)]
    (ready (mRing 0x43 []) && decide ((mRing 0x43 []).newlyPosted 0 0 = 0) && ready one && decide (one.newlyPosted 0 0 = 1) &&
      (ringClass ((m0.core 0).ringKind 0)).isNone) = true := by decide +kernel

/-- `m0` about to send: x5 = `a` (tile 0, offset 0) and x6 = `v`. -/
def mSend (v : Word) : State := mRegs 0 v

theorem witness_ChannelWords_send :
    let on (s : State) : Bool := s.wordReady 0 (xLocs [6, 5, 7] ++ [.tile 0])
    let legal (v : Word) : Bool := decide (fld v 63 36 = 0 ∧ fld v 15 10 = 0 ∧ 1 ≤ fld v 9 0 ∧ fld v 9 0 ≤ 512)
    let s := mSend 4
    let walled := (mSend 0x00100004).modCore 1 (fun c => { c with fwall := 1 })
    (on (mSend 0) && !legal 0 && on (mSend 512) && legal 512 && !legal 513 && !legal 0x404 && !legal (BitVec.ofNat 64 (2 ^ 36 + 4)) && on s && legal 4 &&
      on (mSend 0x06000004) && legal 0x06000004 && decide (fld (0x06000004 : Word) 26 20 = 96) && on walled && legal 0x00100004 &&
      (walled.core 1).fwall.getLsbD 0 && (tileOwn 0 4 4 .load [0] s).isNone && (tileReady 0 4 .load [0] s).isNone &&
      decide ((s.core 0).send.length < 8) && !(s.core 0).fwall.getLsbD 0) = true := by decide +kernel

/-- `ch.recv` of channel 8 from tile 0 (R289: channel numbers stand in the ring header). -/
def recvShape : LaneWord := { laneI 15 0 0 with va := 8, vb := 0 }

/-- A receive ring of channel 8 with 64 bytes in tile 0, and bytes after it. -/
def mRecv (more : Table Byte) : State :=
  (mSpad ([(8, 0x52), (9, 8), (12, 64)] ++ more)).modWave (fun w => { w with amask := 1 })

theorem witness_ChannelWords_recv :
    let on (s : State) : Bool := s.laneReady 0xD5 recvShape && s.wave.wait = none && (tileOwn 0 32 4 .load [0] s).isNone &&
      (tileReady 0 (tLen (s.myTile 0)) .load [0] s).isNone && decide (s.myEntry 0 = some 0) && !tRo (s.myTile 0)
    let ring (s : State) : Bool := (s.core 0).recvRing 0 8
    let empty := mRecv []
    let full : State := (mSpad [(0, 8), (8, 0x52), (9, 8), (12, 64), (32, 4), (36, 0x11), (37, 0x22), (38, 0x33), (39, 0x44)]).modWave
      (fun w => { w with amask := 1 })
    let o := recvLoop 0 1 1024 { s := full, vals := [], last := false, waits := false }
    (on m0 && !ring m0 && on empty && ring empty && decide ((empty.core 0).recvRd 0 = (empty.core 0).recvWr 0) &&
      decide ((laneEnv empty recvShape).lanes = [0]) && on full && ring full && decide ((laneEnv full recvShape).lanes = [0]) && !o.waits &&
      decide (o.vals = [0x44332211]) && decide ((full.core 0).recvRd 0 ≠ (full.core 0).recvWr 0) &&
      decide ((full.core 0).recvCons 0 = 0) && decide (Bytes.readLE (full.core 0).spad ((full.core 0).recvByte 0 0) 4 = 4)) = true := by
  decide +kernel

/-- A doorbell table of one entry at 0x6000: submission at 0x7000, last entry 7, domain `d`, valid where bit 0 of `f` is 1. -/
def mBell (d f : Byte) (a b : Word) : State :=
  { (((mRegs a b).setReg 0x12000 0x6000).setReg 0x12008 1) with
    mem := [(0x1000, 1), (0x1001, 1), (0x6001, 0x70), (0x6010, 7)] ++ (if d = 0 then [] else [(0x6014, d)]) ++ (if f = 0 then [] else [(0x6015, f)]) }

theorem witness_ChannelWords_bell :
    let on (s : State) : Bool := s.wordReady 0 (xLocs [6, 5, 7])
    let e (s : State) : List Byte := leBytes 32 (s.readPhys ((s.reg 0x12000).toNat + 32 * (s.wave.getX 5).toNat) 32)
    let known (s : State) : Bool := decide ((s.wave.getX 5).toNat < (s.reg 0x12008).toNat) && (numAt (e s) 21 1).testBit 0
    let own (s : State) : Bool := decide (numAt (e s) 20 1 = s.wave.dom)
    (on (mBell 1 1 1 0) && !known (mBell 1 1 1 0) && on (mBell 1 0 0 0) && !known (mBell 1 0 0 0) && on (mBell 1 1 0 8) && known (mBell 1 1 0 8) &&
      own (mBell 1 1 0 8) && decide (numAt (e (mBell 1 1 0 8)) 16 2 = 7) && on (mBell 1 1 0 7) && known (mBell 1 1 0 7) &&
      own (mBell 1 1 0 7) && !(mBell 1 1 0 7).messagesOut 0 0 && decide (numAt (e (mBell 1 1 0 7)) 18 2 = 0)) = true := by decide +kernel

/-- A message of 4 bytes for tile 0 of core 0 on channel 8. -/
def msg0 : Message :=
  { chan := 8, destCore := 0, tile := 0, endBit := true, bytes := [1, 2, 3, 4], csa := 0x100000, dom := 1, team := 0, pc := 0x2000 }

/-- `m0` with a message at the head of channel 8 of core 0, and a receive ring in tile 0. -/
def mMsg (m : Message) (more : Table Byte) : State :=
  { ((mSpad ([(8, 0x52), (9, 8), (12, 64)] ++ more)).modCore 0 (fun c => { c with send := [m] })) with args := { a := 8 } }

theorem witness_ChannelEvents_head :
    let on (s : State) (m : Message) : Bool := decide ((s.core 0).sendHead 8 = some m) && m.admitted = none && !m.held && decide (m.due ≤ s.cycle)
    let place (s : State) : Bool := decide (s.teamEntry 0 0 (0x100000 / 4096) 0 = some 0) && tileHolds ((s.core 0).tile 0).1 &&
      ((s.core 0).bankViolation 1 ((s.core 0).tileBase 0) (tLen ((s.core 0).tile 0).1)).isNone && (s.core 0).recvRing 0 8
    let free (s : State) : Nat := 64 - ((s.core 0).recvWr 0 + recvMod 64 - (s.core 0).recvRd 0) % recvMod 64
    let again : Message := { msg0 with retries := 1 }
    let full : State := mSpad [(0, 60), (8, 0x52), (9, 8), (12, 64)]
    let full := { (full.modCore 0 (fun c => { c with send := [msg0] })) with args := { a := 8 } }
    let busy := (mMsg msg0 []).modCore 1 (fun c => { c with send := [{ msg0 with admitted := some (0, 0) }] })
    let gone : Message := { msg0 with tile := 9, csa := 0x200000 }
    let saved := { mMsg gone [] with saved := [0x200000] }
    (on (mMsg msg0 []) msg0 && place (mMsg msg0 []) && !(mMsg msg0 []).receiving 0 0 && decide (8 ≤ free (mMsg msg0 [])) &&
      on (mMsg again []) again && decide (again.retries ≠ 0) && on full msg0 && place full && decide (free full < 8) && on busy msg0 && place busy &&
      busy.receiving 0 0 && on saved gone && decide (saved.teamEntry 0 0 (0x200000 / 4096) 9 = none) &&
      decide (saved.boundAt 0x200000 = none) && saved.saved.contains 0x200000) = true := by decide +kernel

theorem witness_ChannelEvents_tail :
    let m : Message := { msg0 with admitted := some (0, 0) }
    let a : Message := { m with aborted := true }
    (decide (((mMsg m []).core 0).sendHead 8 = some m) && decide (((mMsg m []).core 0).recvSize 0 = 64) && decide (recordBytes 4 = 8) &&
      decide (((mMsg a []).core 0).sendHead 8 = some a)) = true := by decide +kernel

/-! ### Barriers, elect, chunk, budgets -/

/-- `m0` with barrier 3 of its team, and x5. -/
def mBar (b : Barrier) (v : Word) : State :=
  { mRegs v 0 with clusters := [(0, { teams := [(0, { word := 0x0020000804002003 })], bars := [(3, b)] })] }

theorem witness_BarrierWords :
    let on (s : State) (b : Barrier) : Bool := s.wordReady 0 (xLocs [5]) && decide (s.myBar 3 = b) && decide (s.wave.dom = s.myTeam.dom)
    let busy : Barrier := { exp := 2, wait := 1 }
    let waiter : State := (mBar { exp := 1, wait := 1 } 0).modCore 0 (fun c =>
      { c with slots := c.slots ++ [(1, { state := .waiting, wave := { wave0 with pc := 0x3000, wait := some { kind := .barrier 3 0, start := 0 } } })] })
    let user := (mBar { exp := 1 } 0).modWave (fun w => { w with mode := .u })
    (on (mBar {} 2) {} && on (mBar busy 2) busy && on (mBar { rev := true } 0) { rev := true } && on (mBar { exp := 2 } 0) { exp := 2 } &&
      on (mBar { exp := 1, ph := 65535 } 1) { exp := 1, ph := 65535 } && on (mBar { exp := 1, ph := 65535 } 65535) { exp := 1, ph := 65535 } &&
      decide ((mBar { exp := 1 } 0).wave.wait = none) && !waiter.teamSpans && decide (waiter.barWaiters 0 0 3 = [(0, 1)]) &&
      decide ((waiter.slotAt 0 1).wave.electWord 3 = none) && user.wordReady 0 [] && decide (user.wave.mode = .u)) = true := by
  decide +kernel

/-- A line of the instruction cache of domain 1: the 64 bytes at 0x2000, with these words at 0x2000, 0x2004 and 0x2008. -/
def codeLine (a b c : Nat) : CacheLine :=
  { vline := 0x80, pline := 0x80, pasid := 0, dom := 1, data := BitVec.ofNat 512 (a + b * 2 ^ 32 + c * 2 ^ 64), dirty := 0, epoch := 0 }

/-- `m0` with that line. -/
def mCode (a b c : Nat) : State := m0.modCore 0 (fun k => { k with icache := [codeLine a b c] })

theorem witness_ElectChunkBudget_elect :
    let here' (s : State) (b : Barrier) : State := { s with clusters := [(0, { teams := [(0, { word := 0x0020000804002003 })], bars := [(3, b)] })] }
    let on (s : State) (i : Rv) : Bool := s.canIssue && s.wave.profileOn 0 && s.wave.wait = none &&
      decide ((s.codeAt (s.wave.pc + 4).toNat).map (fun v => (decide (v.toNat % 128 ≠ 127), decodeRv (v.toNat % 2 ^ 32))) = some (true, some i))
    let add := here' (mCode 0 0x007302B3 0) { exp := 2 }
    let bad := mCode 0 0x00100073 0
    let after (s : State) (low : BitVec 32) : State :=
      ((s.teamRelease.modMyBar 3 (fun b => { b with wait := b.wait + 1 })).beginWait (.elect 3 (BitVec.ofNat 32 (s.myBar 3).ph) low)).arrive 0 0 3
    (on add (.op .add 5 6 7) && electable (.op .add 5 6 7) && add.windowsAllow (liveLocs (rvLocs (.op .add 5 6 7))) &&
      decide (add.wave.dom = add.myTeam.dom) && !(add.myBar 3).rev && (after add 0x007302B3).slot.state = .waiting &&
      on (here' add { exp := 1 }) (.op .add 5 6 7) && (after (here' add { exp := 1 }) 0x007302B3).slot.state ≠ .waiting &&
      decide ((here' add { exp := 1 }).teamSlots 0 0 = [(0, 0)]) && decide (((here' add { exp := 1 }).myBar 3).cnt + 1 = 1) &&
      on bad .ebreak && !electable .ebreak) = true := by decide +kernel

theorem witness_ElectChunkBudget_chunk :
    let user := withWave (fun w => { w with mode := .u })
    let wall := user.modCore 0 (fun c => { c with fwall := 1 })
    let r (n : Nat) : State := { m0 with args := { a := 1 }, cores := [(0, { core0 with residue := [(0, n)] })] }
    (m0.wordReady 0 (xLocs [5, 7]) && decide (m0.wave.mode = .m) && user.wordReady 0 (xLocs [5, 7]) && decide (user.wave.mode ≠ .m) &&
      !(user.core 0).fwall.getLsbD 0 && wall.wordReady 0 (xLocs [5, 7]) && (wall.core 0).fwall.getLsbD 0 && decide (m0.args.a < 256) &&
      decide ((core0.residueKey 1) = 0) && decide (Table.get ((r 1024).core 0).residue 0 0 = 1024) &&
      decide (Table.get ((r 1023).core 0).residue 0 0 = 1023)) = true := by
  decide +kernel

/-! ### Gates -/

/-- Gate 0 at 0x3000: entry 0x5000 in domain 1 and mode `m`, PASID 0, frames at 0x8000, stacks at 0x100000, every limit kept. -/
def gateBytes (m : Byte) : Table Byte :=
  [(0x1000, 1), (0x1001, 1), (0x3001, 0x50), (0x3008, 1), (0x3009, m), (0x3011, 0x80), (0x301A, 0x10), (0x3020, 1), (0x3029, 0x60), (0x3040, 2)]

/-- `m0` with a gate table of one gate, x5 = `v` and x6 = `stash`. -/
def mCall0 (f : Byte) (v stash : Word) : State :=
  { (((mRegs v stash).setReg 0x13000 0x3000).setReg 0x13008 1) with mem := gateBytes f }

theorem witness_GateWords_call :
    let on (s : State) : Bool := s.wordReady 3 (xLocs [6, 5]) && decide (s.wave.pending = []) && decide (s.wave.absentBlocks = [])
    let ok (g : Gate) : Bool := g.v && decide (g.mode ≤ 1) && g.clean
    let s := (mCall0 3 0 0x10000).modWave (fun w => { w with budget := 32 })
    let g : Gate := (s.gate 0).getD (Gate.ofBytes [])
    let deep (n : Nat) : State := s.modWave (fun w => { w with gates := List.replicate n 1, csrs := { w.csrs with did := BitVec.ofNat 64 (1 + 256 * n) } })
    let again := s.modWave (fun w => { w with gates := [0], csrs := { w.csrs with did := 0x101 } })
    let f1 := s.framePa .store g.tpasid g.tdom (g.frame s.wave)
    let f2 := f1.1.stackTranslates g s.wave
    let f3 := f2.1.storeStash 0x10000
    (on (mCall0 3 0x2000000 0) && decide (fld (0x2000000 : Word) 63 25 ≠ 0) && on (mCall0 3 1 0) && (mCall0 3 1 0).gate 1 = none &&
      on (mCall0 2 0 0) && !ok (((mCall0 2 0 0).gate 0).getD g) && on s && ok g && decide (s.gate 0 = some g) && g.permit.testBit 1 &&
      on (deep 4) && decide ((deep 4).wave.gdepth = 4) && on again && decide (again.wave.gdepth = 1) && decide (again.wave.gates = [0]) &&
      decide (s.wave.gdepth < 4) && s.gateRoom g && f1.2.isSome && f2.2 && f3.2) = true := by decide +kernel

theorem witness_GateWords_return :
    let back (sg : Word) : State := (mCall0 3 0 0).modWave (fun w => { w with gates := [0], csrs := { w.csrs with did := 0x101, sgate := sg } })
    let on (s : State) : Bool := s.wordReady 3 [] && decide (s.wave.pending = []) && decide (s.wave.absentBlocks = [])
    let g : Gate := ((back 1).gate 0).getD (Gate.ofBytes [])
    (on m0 && decide (m0.wave.gdepth = 0) && on (back 0x10001) && decide ((back 0x10001).wave.gdepth ≠ 0) &&
      (back 0x10001).gate (fld (back 0x10001).wave.csrs.sgate 31 16) = none && on (back 1) &&
      decide ((back 1).gate (fld (back 1).wave.csrs.sgate 31 16) = some g) &&
      ((back 1).framePa .load (back 1).wave.pasid (back 1).wave.dom (g.frame (back 1).wave)).2.isSome) = true := by decide +kernel

theorem witness_GateWords_partition :
    let part (v : Nat) : State := { m0 with args := { a := 0x500, c := v } }
    ((mRegs 4 0).wordReady 3 (xLocs [5, 7]) && (mRegs 255 0).wordReady 3 (xLocs [5, 7]) && decide ((part 1).args.a = 0x500 + 8 * 0) &&
      ((part 1).core 0).boundWaves.any (fun w => w.regionList.contains 0) &&
      !((part 1).core 0).boundWaves.any (fun w => w.regionList.contains 15)) = true := by decide +kernel

/-! ### Events: waves leaving, binding, parks -/

/-- `m0` with slot 0 of core 0 changed. -/
def mSlot (f : Slot → Slot) : State := m0.modCore 0 (fun c => c.modSlot 0 f)

/-- `m0` with a pre-emption request for its wave. -/
def mAsked : State := mSlot (fun k => { k with prq := true })

/-- The slot acts on a request. -/
def leaves (s : State) : Bool := decide ((evSlot s).state = .running) && (evSlot s).prq && (evWave s).graceOver s && (evWave s).interruptible

theorem witness_HandoverEvents_requests :
    let grace : State := { mAsked.modWave (fun w => { w with locks := 1, graceFrom := some 0 }) with cycle := 38000 }
    let early : State := { grace with cycle := 37999 }
    let a (n : Nat) : State := { m0 with args := { a := n } }
    (leaves mAsked && decide ((mAsked.core 0).seq = none) && leaves grace && (evWave grace).graceFrom.isSome && !leaves early && !leaves m0 &&
      decide ((evSlot m0).state ≠ .free) && decide ((evSlot { m0 with args := { slot := 3 } }).state = .free) && decide ((a 1).args.a < 256) &&
      decide (((a 1).core 0).domSlots 1 ≠ []) && decide (((a 255).core 0).domSlots 255 = [])) = true := by decide +kernel

theorem witness_HandoverEvents_ends :
    let off := mSlot (fun k => { k with state := .handingOver })
    let ret := mSlot (fun k => { k with state := .retiring })
    let r : Ring := { id := 0, cls := .copy, engine := 0, core := 0, tile := 0, asked := [0x100000] }
    let stop : State := { m0 with rings := [r] }
    (off.handoverReady 0 0 && !m0.handoverReady 0 0 && decide ((evSlot ret).state = .retiring) && decide ((evWave ret).pending = []) &&
      !ret.messagesOut 0 0 && decide ((evSlot m0).state ≠ .retiring) && decide (stop.ring stop.args.a = some r) &&
      r.asked.contains (evWave stop).csa) = true := by decide +kernel

theorem witness_SlotEvents_results :
    let o : PendingOp := { pc := 0x2000, la := 0, since := 0, due := 3, locs := [.x 5], upds := [.x 5 9] }
    let s (t : Word) : State := withWave (fun w => { w with pending := [o], csrs := { w.csrs with turn := t } })
    let tile (t : Word) (lim : Word) : State := withWave (fun w =>
      { w with wait := some { kind := .tile 2, start := 10 }, csrs := { w.csrs with turn := t, stwlim := lim } })
    let times (s : State) : Bool := fld (evWave s).csrs.stwlim 31 0 ≠ 0 &&
      decide (10 + fld (evWave s).csrs.stwlim 31 0 + 1 ≤ (evWave s).csrs.turn.toNat)
    (decide ((evWave (s 3)).pending = [o]) && decide (o.due ≤ (evWave (s 3)).csrs.turn.toNat) && o.acks = [] &&
      decide (¬ o.due ≤ (evWave (s 2)).csrs.turn.toNat) && times (tile 16 5) && !times (tile 15 5) && !times (tile 16 0)) = true := by
  decide +kernel

theorem witness_SlotEvents_causes :
    let int : State := withWave (fun w => { w with mode := .s, csrs := { w.csrs with mip := 2, mie := 2 } })
    let cause : State := withWave (fun w => { w with deferred := [(49, 3)] })
    let held : State := mSlot (fun k => { k with state := .held })
    let wa : State := mSlot (fun k => { k with state := .waiting, wave := { k.wave with wait := some { kind := .waita 0x4000 0x4000 0 0, start := 0 } } })
    (decide ((evSlot int).state = .running) && decide ((evWave int).interrupt = some 1) && (evWave int).interruptible &&
      decide ((int.core 0).seq = none) && decide ((evWave m0).interrupt = none) && decide ((evSlot cause).state = .running) &&
      decide ((evWave cause).deferred = [(49, 3)]) && (evWave cause).interruptible && decide ((evWave m0).deferred = []) &&
      decide ((evSlot held).state ≠ .running) && decide ((evSlot held).state ≠ .waiting) &&
      decide ((evWave wa).wait = some { kind := .waita 0x4000 0x4000 0 0, start := 0 }) && decide ((evSlot wa).state = .waiting)) = true := by
  decide +kernel

theorem witness_SlotEvents_loads :
    let miss (d : Nat) (acc : Bool) : State :=
      withWave (fun w => { w with csaDom := d, busy := some (.registerMiss acc 1 0), absentBlocks := [1], absentAccs := [1] })
    let odom (s : State) : Nat := numAt (s.saveRead (evWave s).csa 8) 4 1
    let fetch : State := withWave (fun w => { w with busy := some (.fetch 0x2004 0) })
    let plain : State := { fetch with stations := mUncached.stations }
    let mtOf (s : State) : Option Nat :=
      match ((s.modWaveAt 0 0 (fun w => { w with busy := none })).fetchDest 0 0 0x2004).2 with
      | .ok (.mem _ g) => some g.mt
      | _ => none
    (decide ((evWave (miss 0 true)).busy = some (.registerMiss true 1 0)) && decide (odom (miss 0 true) = (evWave (miss 0 true)).csaDom) &&
      decide (odom (miss 0 false) = (evWave (miss 0 false)).csaDom) && decide (odom (miss 1 false) ≠ (evWave (miss 1 false)).csaDom) &&
      decide (((miss 0 true).core 0).absentOwner 0 1 = some 0) &&
      decide ((evSlot (miss 1 false)).state ≠ .handingOver) && decide ((evWave fetch).busy = some (.fetch 0x2004 0)) &&
      decide ((evWave plain).busy = some (.fetch 0x2004 0)) && decide (mtOf fetch = some 0) && (mtOf plain).any (· ≠ 0)) = true := by
  decide +kernel

/-- A new-wave record for one wave of width 16 in region 8 of team 0, 32 lane registers, save area 0x200000 (R302). -/
def bindNew0 (n : Byte) : Table Byte := [(0, 1), (1, n), (3, 8), (4, 1), (34, 0x20)]

/-- A restore record for the wave saved at 0x200000 (R303). -/
def bindOld0 : Table Byte := [(0, 2), (1, 1), (3, 8), (4, 1), (34, 0x20)]

/-- `m0` with a bind record for core 0 and GO set. -/
def mBind (r : Table Byte) (go : Word) : State :=
  { m0.modCore 0 (fun c => { c with bindArea := r, bctl := go }) with
    mem := [(0x1000, 1), (0x1001, 1), (0x200000, 1), (0x200002, 1), (0x200004, 1), (0x200330, 1)], saved := [0x200000] }

theorem witness_BindEvents_new :
    let s := mBind (bindNew0 1) 1
    let r := (s.core 0).record
    (decide ((m0.core 0).bindPending = none) && decide ((s.core 0).bindPending = some false) && s.newRecordOk 0 r &&
      decide (numAt r 1 1 = 1) && decide (bits (numAt r 2 1) 1 0 = 0) && decide ((s.core 0).teamBound 0 + 1 ≤ 16) &&
      decide (placeSlots (s.core 0).slotTaken false 1 = some [1]) && (s.core 0).regionsFree 1 8 (1 * (2 ^ 0 * numAt r 4 1)) &&
      !(mBind (bindNew0 0) 1).newRecordOk 0 ((mBind (bindNew0 0) 1).core 0).record &&
      (mBind (bindNew0 16) 1).newRecordOk 0 ((mBind (bindNew0 16) 1).core 0).record &&
      !(mBind (bindNew0 17) 1).newRecordOk 0 ((mBind (bindNew0 17) 1).core 0).record) = true := by decide +kernel

theorem witness_BindEvents_restore :
    let s := mBind bindOld0 1
    let r := (s.core 0).record
    let page := s.saveRead 0x200000 0x1000
    let place : Wave :=
      { regBase := numAt r 3 1, homeGroup := bit (numAt r 2 1) 4, homeHalf := bit (numAt r 2 1) 5, cteam := 0, tcore := numAt r 6 1,
        csa := 0x200000, locks := bits (numAt r 112 8) 51 48 }
    let w := restoredWave page 0 1 place
    let bad := mBind (bindOld0 ++ [(40, 1)]) 1
    (decide ((s.core 0).bindPending = some true) && decide ((m0.core 0).bindPending = none) && s.restoreRecordOk 0 r &&
      !bad.restoreRecordOk 0 (bad.core 0).record && decide (numAt r 32 8 = 0x200000) && decide (bits (numAt page 3 1) 5 4 = 0) &&
      savedMatches page r (s.team 0 0).dom && decide (numAt page 1 1 = 0) && decide (numAt r 5 1 = 0) &&
      decide ((s.core 0).teamBound 0 + 1 ≤ 16) && decide (placeSlots (s.core 0).slotTaken false 1 = some [1]) &&
      (s.core 0).regionsFree (s.team 0 0).dom w.regBase w.regions && decide (w.dom = w.csaDom) && w.absentAccs = [] &&
      decide (Table.get s.expelled 0x200000 0 = 0) && (s.rebuildResv page 0x200000 (0x200000 + w.accAt + 8192 * w.absentAccs.length) 0 (s.core 0)).isSome) = true := by decide +kernel

theorem witness_BindEvents_team :
    let t (j o c : Nat) : State := { m0 with args := { a := j, b := o, c := c } }
    (decide (64 ≤ (t 64 0 1).args.a) && decide ((t 63 0 1).args.a < 64) && !((t 63 0 1).team 0 63).live && ((t 0 0 1).team 0 0).live &&
      (BitVec.ofNat 64 (t 63 0 1).args.c).getLsbD 0 && decide (8 ≤ (t 0 8 1).args.b) && decide ((t 0 103 1).args.b < 104)) = true := by
  decide +kernel

/-- A park of the wave of `m0`, as an instruction page fault. -/
def park0 (late : Bool) : Park :=
  { late := late, cause := 12, recordCause := 12, tval := 0x2000, pc := 0x2000, held := [] }

/-- `m0` with its wave parked. -/
def mPark (p : Park) : State := mSlot (fun k => { k with state := .parked, wave := { k.wave with park := some p } })

theorem witness_ParkEvents :
    let ring (wr rd : Word) : State := { m0 with clusters := [(0, { faultWait := [List.replicate 32 1], regs := [(0x32000, wr), (0x32008, rd)] })] }
    let full (s : State) : Bool :=
      decide ((fld (Table.get (s.cluster 0).regs 0x32000 0) 31 0 + 2 ^ 32 - fld (Table.get (s.cluster 0).regs 0x32008 0) 31 0) % 2 ^ 32 = 256)
    (decide ((m0.cluster 0).faultWait = []) && full (ring 256 0) && !full (ring 255 0) && !full (ring 0 0) &&
      decide (m0.paKind (m0.cfg.frbase + 32 * 255) = .dram) && decide (m0.parkOf 0 0 = none) &&
      decide ((mPark (park0 false)).parkOf 0 0 = some (park0 false)) && decide ((mPark (park0 true)).parkOf 0 0 = some (park0 true)) &&
      decide ((evSlot (mPark (park0 true))).state = .parked) && decide ((park0 true).held = []) && decide ((park0 true).msgs = []) &&
      !(park0 true).handsOff && !(evSlot (mPark (park0 true))).prq &&
      decide (((mPark (park0 true)).core 0).seq = none)) = true := by decide +kernel

/-! ### Translation, messages, drains -/

theorem witness_TranslationAndMessageEvents_stations :
    let ask (k pasid : Nat) : State := { m0 with args := { a := k, b := pasid, c := 1, d := 0x4000, e := 0x21 } }
    let here (s : State) : Bool := decide (64 ≤ s.args.a) || s.stationHolds s.args.a s.args.request
    let known : State := { ask 0 0 with stations := [(0, { ctx := [(0, (0x101, 0, 0))], leaves := [{ pasid := 0, vpage := 0, ppage := 0, guest := none, host := none, htag := 0 }] })] }
    let r : StationReq := { pasid := 5, dom := 1, va := 0x4000, kind := .load, mode := .m, sum := false, origin := .wave 0 0 }
    let walk : State := { m0 with stations := [(0, { misses := [r.key], buffer := [r] })] }
    let u := (walk.modStation 0 (fun q => { q with misses := [], buffer := [] })).translate 0 r
    let fine : StationReq := { r with pasid := 0 }
    let good : State := { m0 with stations := [(0, { misses := [fine.key], buffer := [fine] })] }
    (here (ask 64 0) && !here (ask 63 0) && here known && decide ((m0.station 0).misses = []) &&
      decide ((walk.station walk.args.a).misses = [r.key]) && decide ((walk.station 0).buffer = [r]) &&
      decide ((walk.station 0).edge = []) && decide ((good.station good.args.a).misses = [fine.key]) &&
      decide ((good.station 0).buffer = [fine]) && decide ((good.station 0).edge = []) &&
      (match ((good.modStation 0 (fun q => { q with misses := [], buffer := [] })).translate 0 fine).2 with
        | .error _ => false
        | .ok _ => true) &&
      (match u.2 with
        | .error _ => true
        | .ok _ => false) && decide ((u.1.slotAt 0 0).state = .running) && (u.1.slotAt 0 0).wave.interruptible) = true := by decide +kernel

/-- `m0` with an invalidation descriptor of a kind at the head of the queue (R198). -/
def mInv (k : Byte) : State :=
  { ((m0.setReg trinvb 0x6000).setReg trinvt 1) with
    mem := [(0x1000, 1), (0x1001, 1)] ++ (if k = 0 then [(0x6010, 1)] else [(0x6000, k)]) }

theorem witness_TranslationAndMessageEvents_invalidation :
    let taken (s : State) (k : Nat) : Bool := s.inv = none && decide (s.reg trinvh ≠ s.reg trinvt) && invValid s.invDescriptor &&
      decide ((invOf s.invDescriptor).kind = k)
    let busy (done : List Nat) (k : Nat) : State := { m0 with inv := some (done, [3]), args := { a := k } }
    let sent : State := (busy [] 5).modCore 0 (fun c => { c with inbound := [{ kind := .load, size := 4, ord := 0, scope := 0, dom := 1, addr := 0x100, op := 0, ty := 2, operand := 5, operand2 := 0, sender := 0, slot := 0, vaddr := 0, tag := 3 }] })
    (taken (mInv 0) 0 && taken (mInv 1) 1 && taken (mInv 2) 2 && taken (mInv 3) 3 && !taken (mInv 4) 4 && !taken m0 0 && !taken (mInv 1) 0 &&
      m0.inv = none && decide ((busy [] 63).inv = some ([], [3])) && decide ((busy [] 63).args.a < 64) &&
      decide (64 ≤ (busy [] 64).args.a) && decide ((List.range 63).length = 63) && decide (63 ∉ List.range 63) &&
      decide ((invOf [3]).kind = 3) && decide ((invOf [1]).kind ≠ 3) && decide ((busy (List.range 63) 63).inv = some (List.range 63, [3])) &&
      decide ((busy (List.range 63) 5).args.a ∈ List.range 63) && !(busy [] 63).messagesOfDie 7 && sent.messagesOfDie 0 &&
      !(busy (List.range 63) 63).messagesOfDie 7) = true := by decide +kernel

theorem witness_TranslationAndMessageEvents_messages :
    let dir : State := { m0 with dies := [(0, { reldir := [(7, [(0, 2)])], drains := [(9, [(0, 2)])] })], args := { a := 0, b := 7 } }
    let ack (l : Nat) : State := { dir with args := { a := 0, b := l } }
    let msg (k : MsgKind) : ActiveMsg :=
      { kind := k, size := 4, ord := 0, scope := 0, dom := 1, addr := 0x100, op := 0, ty := 2, operand := 5, operand2 := 0, sender := 0, slot := 0, vaddr := 0, tag := 3 }
    let recv (k : MsgKind) (bank : Nat) : State :=
      m0.modCore 0 (fun c => { c with inbound := [msg k], dpbank := (List.range 32).map (fun b => (b, bank)) })
    let busy : State := m0.modCore 0 (fun c => { c with inbound := [msg .load], laneCycle := m0.cycle, laneBanks := List.range 32 })
    let back (f : Option (Nat × Word)) : State := { m0 with acks := [{ core := 0, msg := msg .load, value := 9, fault := f }], args := { a := 3 } }
    let retry : State := (back (some (29, 0))).modSlotAt 0 0 (fun k => { k with state := .parked, wave := { k.wave with park := some (park0 false) } })
    (decide ((Table.get (dir.die 0).reldir 7 []).find? (fun e => e.1 = 0) = some (0, 2)) && decide (Table.get ((ack 7).die 0).drains 7 [] = []) &&
      decide ((Table.get ((ack 9).die 0).drains 9 []).find? (fun r => r.1 = 0) = some (0, 2)) && decide ((m0.core 0).inbound = []) &&
      decide (((recv .load 0).core 0).inbound = [msg .load]) && (recv .load 0).messageFault 0 (msg .load) = none &&
      (recv .store 0).messageFault 0 (msg .store) = none && (recv .atomic 0).messageFault 0 (msg .atomic) = none &&
      ((recv .store 4).messageFault 0 (msg .store)).isSome && decide (m0.acks = []) && !(recv .load 0).bankBusy 0 &&
      !(recv .store 0).bankBusy 0 && !(recv .atomic 0).bankBusy 0 && busy.bankBusy 0 &&
      ((back none).acks.find? (fun a => a.msg.tag = 3)).isSome && ((back (some (29, 0))).acks.find? (fun a => a.msg.tag = 3)).isSome &&
      decide (((back none).slotAt 0 0).state = .running) && ((back none).slotAt 0 0).wave.interruptible &&
      ((back none).slotAt 0 0).wave.park = none && ((back (some (29, 0))).slotAt 0 0).wave.park = none &&
      decide ((retry.slotAt 0 0).state = .parked) && !(retry.slotAt 0 0).wave.lateParked &&
      (retry.acks.find? (fun a => a.msg.tag = 3)).any (fun a => a.fault.isSome)) = true := by decide +kernel

/-! ### Interfaces and commands -/

/-- `m0` with interface 0 of domain 1: ring of 2 packets at 0x9000, in a state, with its latch and head; function 0 reaches 1
interface. -/
def mQueue (st : Nat) (tail : Nat) (pend : Bool) : State :=
  { ((((m0.setReg 0x15000 0x1000000).setReg (queueReg 0 0) 0x0000000200000003).setReg (queueReg 0 1) 0x9000).setQueueState 0 st 0).setLatch 0 tail pend with
    intake := true }

theorem witness_InterfaceEvents_notify :
    let ask (a c d : Nat) : State := { mQueue 1 0 false with args := { b := a, c := c, d := d, e := 5 } }
    (decide (((ask 0 0 4).queueOf 0 0).2 = some 0) && decide (((ask 1 0 4).queueOf 0 1).2 = none) && decide ((ask 0 0 4).args.d = 4) &&
      decide ((ask 0 0 8).args.d ≠ 4) && decide ((ask 0 4 4).args.c ≠ 0) && decide (((ask 0 0 4).queueOf 0 0).1.queueState 0 = 1)) = true := by
  decide +kernel

theorem witness_InterfaceEvents_queues :
    let may (s : State) : Bool := decide (s.queueState 0 = 1) && s.queuePend 0 && s.intake && Table.find s.takes 0 = none
    let n (s : State) : Nat := (s.queueTail 0 + 2 ^ 32 - s.queueHead 0) % 2 ^ 32
    let q (k : Nat) : State := { mQueue 0 0 false with args := { a := k } }
    let irt (f : Byte) : State := { m0.setReg irtcount 1 with mem := [(12, f), (0x1000, 1), (0x1001, 1)] }
    (may (mQueue 1 2 true) && decide (n (mQueue 1 2 true) = 2) && decide ((mQueue 1 2 true).queueLog 0 = 1) && may (mQueue 1 3 true) &&
      decide (n (mQueue 1 3 true) = 3) && may (mQueue 1 0 true) && decide (n (mQueue 1 0 true) = 0) && !may (mQueue 1 2 false) &&
      !may (mQueue 2 2 true) && decide ((q 2047).queueState 2047 = 0) && decide ((q 0).queueState 0 = 0) &&
      decide (({ q 0 with stage := .configured } : State).stage = .configured) && decide ((q 0).stage ≠ .configured) &&
      decide ((mQueue 1 0 false).queueState 0 ≠ 0) && decide ((m0.reg irtcount).toNat ≤ 0) && decide (0 < ((irt 5).reg irtcount).toNat) &&
      (numAt ((irt 5).irtEntry 0) 12 1).testBit 0 && (numAt ((irt 5).irtEntry 0) 12 1).testBit 2 &&
      decide ((irt 5).paKind ((irt 5).irtAddr 0 + 12) = .dram)) = true := by decide +kernel

/-- A packet of 64 bytes with these bytes set. -/
def packetOf (ps : Table Byte) : List Byte := Bytes.readList ps 0 64

/-- The interface of `mQueue` with latch taken up to 1 and a packet in its first slot. -/
def mPacket (ps : Table Byte) : State :=
  { mQueue 1 1 false with takes := [(0, 1)], mem := [(0x1000, 1), (0x1001, 1)] ++ ps.map (fun e => (0x9000 + e.1, e.2)) }

theorem witness_CommandEvents_accept :
    let on (s : State) : Bool := decide (Table.find s.takes 0 = some 1) && decide (s.queueState 0 = 1) && !s.acceptClosed 0 && !s.journalFull &&
      decide (s.journalWait = [])
    let got (s : State) : Option (List Byte) :=
      match s.engineRead (frontAgent (s.queueDom 0) (s.queuePasid 0)) (s.queueBase 0 + 64 * (s.queueHead 0 % 2 ^ s.queueLog 0)) 64 with
      | (_, .ok p) => some p
      | _ => none
    let good := mPacket [(1, 2)]
    let bad := mPacket [(0, 5)]
    (on good && on bad && decide (got good = some (packetOf [(1, 2)])) && decide (pktError (good.queuePrioMax 0) (packetOf [(1, 2)]) = 0) &&
      !pktFlag (packetOf [(1, 2)]) 3 && decide (got bad = some (packetOf [(0, 5)])) &&
      decide (pktError (bad.queuePrioMax 0) (packetOf [(0, 5)]) ≠ 0) && decide (Table.find m0.takes 0 = none)) = true := by decide +kernel

/-- A command of interface 0 in domain 1 with a packet. -/
def cmd0 (ps : Table Byte) : Command := { seq := 4, iface := 0, index := 0, packet := packetOf ps, dom := 1, pasid := 0 }

/-- A code object at 0x8000: one wave of width 16 on one core, one role of 32 lane registers, with NEED byte `need` (R270). -/
def codeBytes (need : Byte) : Table Byte :=
  [(0x1000, 1), (0x1001, 1), (0x8000, 0x4E), (0x8001, 0x48), (0x8002, 0x4B), (0x8003, 0x31), (0x8004, 1), (0x8006, 0x80), (0x801F, 1),
    (0x8020, 1), (0x8022, 1)] ++ (if need = 0 then [] else [(0x8028, need)]) ++ [(0x8030, 1), (0x8032, 32)]

/-- The machine with one command, its packet `ps`, that code object, and 64 cores granted to domain 1 where `cores` is set. -/
def mCmd (c : Command) (need : Byte) (cores : Bool) : State :=
  { (if cores then m0.setReg 0x20020 0x400000 else m0) with commands := [c], mem := codeBytes need, args := { a := 4 } }

/-- A LAUNCH of one team of the code object at 0x8000, with quota 1. -/
def launch0 : Command := cmd0 [(0, 1), (4, 1), (9, 0x80), (40, 1)]

theorem witness_CommandEvents_launch :
    let on (s : State) : Bool := decide (s.startable 1 = s.command 4) && (s.command 4).isSome
    let h (s : State) : List Byte := ((s.codeObject launch0).2).getD []
    let granted (s : State) : Bool := decide (numAt (h s) 40 4 &&& fld (s.reg (0x20008 + 32 * 1)) 2 0 = numAt (h s) 40 4)
    let lost := mCmd { launch0 with unreadable := true } 0 true
    let astray := { launch0 with packet := packetOf [(0, 1), (4, 1), (10, 0x10), (40, 1)] }
    (on lost && on (mCmd launch0 0 true) && ((mCmd launch0 0 true).codeObject launch0).2.isSome && granted (mCmd launch0 0 true) &&
      !(mCmd launch0 0 true).unplaceable launch0 (h (mCmd launch0 0 true)) && on (mCmd launch0 1 true) && !granted (mCmd launch0 1 true) &&
      on (mCmd launch0 0 false) && granted (mCmd launch0 0 false) && (mCmd launch0 0 false).unplaceable launch0 (h (mCmd launch0 0 false)) &&
      on (mCmd astray 0 true) && ((mCmd astray 0 true).codeObject astray).2.isNone) = true := by decide +kernel

theorem witness_CommandEvents_others :
    let s (ps : Table Byte) : State := mCmd (cmd0 ps) 0 false
    let start (ps : Table Byte) (ty : Nat) : Bool := decide ((s ps).startable ty = some (cmd0 ps))
    let run (c : Command) : State := mCmd c 0 false
    let wait (v : Byte) : Command := cmd0 [(0, 3), (9, 0x40), (16, v)]
    let seen (c : Command) : Option Nat :=
      match (run c).engineTarget (frontAgent 1 0) .load (pktAddr c.packet) 8 with
      | (u, .ok d) => some (leValue (u.enginePiece (frontAgent 1 0) 8 d).2)
      | _ => none
    let msgs : State := { s [(0, 4), (16, 1)] with acks := [{ core := 0, msg := { kind := .load, size := 4, ord := 0, scope := 0, dom := 1, addr := 0, op := 0, ty := 2, operand := 0, operand2 := 0, sender := 0, slot := 0, vaddr := 0, tag := 3 }, value := 0, fault := none }] }
    let ended (w : Bool) : State :=
      let c : Command := { launch0 with started := true, ended := true }
      { run c with journalWait := if w then [journalRecord 0 2 1 0 0 0 4] else [] }
    let last : Command := { launch0 with started := true, ended := true }
    (decide ((ended true).command 4 = some last) && (ended true).journalWait.any (fun r => completesCommand r last) &&
      decide ((ended false).journalWait = []) && !launch0.ended && !(wait 0).ended && !(run (wait 0)).journalFull &&
      decide ((run (wait 0)).journalWait = []) && !({ m0 with fatal := false } : State).fatal && ({ m0 with fatal := true } : State).fatal &&
      start [] 0 && start [(0, 2)] 2 && start [(0, 3), (9, 0x40), (16, 1)] 3 && start [(0, 4), (16, 1)] 4 &&
      decide ((run { launch0 with started := true }).command 4 = some { launch0 with started := true }) &&
      decide (pktType launch0.packet = 1) && !(run { launch0 with started := true }).launchLive 4 && decide (seen (wait 0) = some 0) &&
      decide (pktValue (wait 0).packet = 0) && decide (seen (wait 1) = some 0) && decide (pktValue (wait 1).packet = 1) &&
      decide ((run { wait 1 with started := true }).command 4 = some { wait 1 with started := true }) &&
      !(s [(0, 4), (16, 1)]).messagesLeft && msgs.messagesLeft && decide (msgs.startable 4 = some (cmd0 [(0, 4), (16, 1)])) &&
      decide (Table.find ({ m0 with forwards := [(0, (0, 0)), (1, (0, 2))] } : State).forwards 0 = some (0, 0))) = true := by decide +kernel

/-! ### Engines -/

/-- A poster: slot 0 of core 0. -/
def poster0 : Poster := { core := 0, slot := 0, csa := 0x100000, team := 0, dom := 1, pasid := 0 }

/-- A ring of a class in tile 0 of core 0. -/
def ring0 (cls : EngClass) (run : Option EngRun) : Ring := { id := 0, cls := cls, engine := 0, core := 0, tile := 0, running := run }

/-- `m0` with one ring. -/
def mEngine (r : Ring) : State := { m0 with rings := [r] }

/-- A collective image: gather (operation 1) of `n` elements of type i32 from 0x4000 to 0x5000 in group 0. -/
def collImage (n : Nat) : List Byte := leBytes 8 0x4000 ++ leBytes 8 0x5000 ++ leBytes 4 n ++ leBytes 2 0 ++ [1, 2, 0, 0, 0, 0, 0, 0, 0, 0]

theorem witness_EngineEvents_start :
    let r : Ring := { ring0 .copy none with posters := [poster0] }
    let s := mEngine r
    (decide (s.ring s.args.a = some r) && decide (r.running = none) && decide (r.posters = [poster0]) && !r.stops poster0.csa &&
      !s.reloading.contains r.engineCode && !poster0.aborted && !(mEngine { r with cls := .coll }).inCut 1 &&
      (s.ringBanks r 1 ((s.core 0).ringRidx 0)).isNone) = true := by decide +kernel

theorem witness_EngineEvents_granule :
    let q : EngRun := { index := 0, image := collImage 2, poster := poster0, begun := true, output := List.replicate 8 7 }
    let r := ring0 .coll (some q)
    let s1 := (mEngine r).modRun 0 (fun q => { q with waiting := false })
    let layout : List Byte := leBytes 2 1 ++ [4, 0] ++ [2, 0, 0, 0] ++ (List.replicate 5 (leBytes 4 1)).flatten ++ leBytes 4 4 ++ List.replicate 20 0 ++ List.replicate 12 0
    let g : EngRun :=
      { index := 0, image := leBytes 8 0x4000 ++ leBytes 8 0x5000 ++ leBytes 8 0x6000 ++ [2, 0, 0, 0, 0, 0, 0, 0], poster := poster0, begun := true, layout := layout }
    let rg := ring0 .copy (some g)
    (decide ((mEngine r).live r = some q) && decide (r.id = (mEngine r).args.a) && (s1.engineWrite (r.agent poster0) 0x5000 (q.output.take 65536)).2.isNone &&
      decide ((mEngine rg).live rg = some g) && decide ((CopyEntry.ofImage g.image).dir = 2) && decide ((Layout.ofBytes layout).esize = 4) &&
      decide ((Layout.ofBytes layout).count = 2) && !g.sealFailed) = true := by decide +kernel

theorem witness_EngineEvents_complete :
    let done (c : EngClass) (f : Option (Nat × Nat × Nat × Word)) : Bool :=
      let q : EngRun := { index := 0, image := List.replicate 32 0, poster := poster0, finished := true, failure := f }
      let s := mEngine (ring0 c (some q))
      decide (s.ring s.args.a = some (ring0 c (some q))) && decide ((ring0 c (some q)).running = some q) && q.finished &&
        (s.ringBanks (ring0 c (some q)) 1 0).isNone
    (done .copy none && done .dcz (some (16, 7, 0, 0)) && done .coll (some (7, 5, 0, 0))) = true := by decide +kernel

theorem witness_EngineEvents_collective :
    let q : EngRun := { index := 0, image := collImage 1, poster := poster0 }
    let r := ring0 .coll (some q)
    let on (ranks n : Nat) : State := { (mEngine r).setReg 0x18300 0x6000 with
      mem := [(0x1000, 1), (0x1001, 1), (0x6000, 1), (0x6001, 1), (0x6002, 2)],
      args := { peers := [(1, collImage n ++ [BitVec.ofNat 8 ranks], [1, 2, 3, 4])] } }
    let s := on 2 1
    let sent (s : State) : List Byte := ((s.args.peers.find? (fun p => p.1 = 1)).map (fun p => p.2.1)).getD []
    let e := CollEntry.ofImage q.image
    let g : Group := { ranks := 2, mine := 0, dom := 1, peers := [0, 0] }
    let cut : State := (s.setReg 0x19008 1).setReg 0x19010 2
    let failed : State := { s with args := { s.args with b := 1 } }
    (decide (s.ring s.args.a = some r) && decide (r.running = some q) && r.cls = .coll && !q.finished && !q.begun && decide (s.group 0 = some g) &&
      decide (g.others = [1]) && !s.inCut 1 && cut.inCut 1 && decide (cut.ring cut.args.a = some r) && decide (failed.args.b ≠ 0) &&
      !r.stops poster0.csa && ({ r with asked := [poster0.csa] }).stops poster0.csa && decide (e.op = 1) &&
      decide ((sent s).length = 33) && collSame 2 e (sent s) && decide (numAt (sent (on 3 1)) 32 1 ≠ 2) &&
      decide ((CollEntry.ofImage (sent (on 2 2))).count ≠ e.count) &&
      (match (s.engineRead (r.agent poster0) e.src (e.srcCount 2 * e.esize)).2 with
        | .ok mine => decide (mine = [0, 0, 0, 0])
        | .error _ => false)) = true := by decide +kernel

/-! ### Host, peers, cuts, links -/

theorem witness_HostEvents_requests :
    let ask (a b c d : Nat) : State := { m0 with args := { a := a, b := b, c := c, d := d } }
    let peer : State := { m0.setReg 0x18100 0x8000000000000005 with args := { core := 5, a := 0x4000, b := 8, c := 1 } }
    let object (ty : Nat) (bs : List Byte) : Args := { (ask 0 8 ty 10).args with bytes := bs }
    let io (w : Nat) (wr : Nat) : IoReq := (ask 0x4000 8 0 (wr + 2 * w)).args.ioReq
    (decide (m0.paKind 0x4000 = .dram) && m0.lineThere 0x4000 && decide (m0.paKind (2 ^ 47) ≠ .dram) && !m0.lineThere (2 ^ 47) &&
      !m0.poisoned 0x4000 && decide ((ask 0x4000 8 2 0).args.c ≤ 2) && decide ((io 0 1).window = 0) && decide ((io 0 1).fn = 0) &&
      (io 0 1).pasid = none && (io 0 1).write && !(io 0 0).write && decide ((io 2 1).window = 2) && decide ((io 2 1).size = 8) && m0.linesThere (io 2 1).addr 8 &&
      !m0.poisonedIn (io 2 1).addr 8 && decide (m0.paKind (io 2 1).addr = .dram) && decide ((io 5 0).window = 5) && decide ((io 5 0).fn = 0) &&
      (io 5 0).pasid = none && decide ((object 1 []).ioReq.value = 1) && decide ((object 1 []).ioReq.window = 5) && decide ((object 0x80 [1]).ioReq.value = 0x80) &&
      decide (numAt (object 0x80 [1]).bytes 0 1 = 1) &&
      decide (5 < (io 6 0).window) && decide ((io 5 16).fn ≠ 0) && decide ((io 5 16).window = 5) && peer.peerKnown 5 && peer.lineThere 0x4000 && !m0.peerKnown 5 && decide (7 ∉ m0.hostLines) &&
      decide (({ m0 with hostLines := [2 ^ 44] } : State).paKind (64 * 2 ^ 44) = .host)) = true := by decide +kernel

theorem witness_HostEvents_service :
    let go := (m0.setReg 0x19000 0x100000007).setReg 0x19010 2
    let st (n : Nat) : State := { m0.setReg 0x19008 (BitVec.ofNat 64 (n + 7 * 65536)) with args := { a := 3, b := 7 } }
    let drained : State := { st 1 with markersSent := true }
    let resume := (st 3).setReg 0x19000 0x200000000
    let up : State := { m0 with stage := .configured, args := { a := 7, b := 8, c := 6 } }
    let clk (n cy : Nat) : State := { m0 with cycle := cy, args := { a := n } }
    let exp : State := { m0 with populated := [(2 ^ 48, 2 ^ 40)] }
    let fitted : State := { exp with pkg := { m0.pkg with form := 2 } }
    (decide (m0.cutState = 0) && decide (go.cutState = 0) && (go.reg 0x19000).getLsbD 32 && go.jobDomain 1 && !(m0.reg 0x19000).getLsbD 32 &&
      decide ((st 0).cutState = 0) && decide ((st 1).cutState = 1) && decide ((st 1).cutEpoch = 7) && drained.markersSent &&
      decide (drained.jobPeers = []) && decide (resume.cutState = 3) && up.spdmUp && !m0.spdmUp &&
      go.column = none && ({ go with column := some { pairs := [] } } : State).column.isSome && !m0.mgmtBusy && (resume.reg 0x19000).getLsbD 33 && decide ((clk 4 16).cycle % 16 = 0) &&
      decide ((clk 4 17).cycle % 16 ≠ 0) && decide (4 < (clk 5 0).args.a) && decide (exp.populated[exp.args.a]? = some (2 ^ 48, 2 ^ 40)) &&
      decide (exp.pkg.form ≠ 2) && decide (fitted.populated[fitted.args.a]? = some (2 ^ 48, 2 ^ 40)) && decide (fitted.pkg.form = 2)) =
      true := by decide +kernel

/-! ### Boot and management -/

/-- A key of the identity point: a signature of the identity and 0 verifies under it (RFC 8032's equation). -/
def nullKey : List Byte := 1 :: List.replicate 56 0

/-- An image of a kind with a body of 4 zero bytes, its key `nullKey`. -/
def imageOf (kind : Nat) : List Byte :=
  leBytes 4 0x3149484E ++ leBytes 4 kind ++ leBytes 8 0 ++ leBytes 8 4 ++ List.replicate 40 0 ++ nullKey ++ List.replicate 7 0 ++
    (1 :: List.replicate 113 0) ++ List.replicate 14 0 ++ List.replicate 4 0

/-- A machine in reset with images of kinds 1 to 4, each in slot A, whose fuses hold the digest of `nullKey`. -/
def mFlash (slot : Nat) : State :=
  { m0 with rootDigest := shake256 64 nullKey, flash := [1, 2, 3, 4].map (fun k => (2 * k + slot, imageOf k)) }

/-- The signature of `nullKey`: the neutral point and 0. -/
def nullSig : List Byte := 1 :: List.replicate 113 0

theorem edZero_mul (n k : Nat) : edZero.mul n k = edZero := by
  have h : edZero.add edZero = edZero := by decide +kernel
  induction n generalizing k with
  | zero => rfl
  | succ n ih =>
    unfold EdPoint.mul
    simp only [ih, h]
    split <;> rfl

theorem edDecode_null : edDecode nullKey = some edZero := by decide +kernel

theorem edBase_mul_null : ((edBase.mul 446 0).mul 3 4).same ((edZero.add edZero).mul 3 4) = true := by decide +kernel

theorem null_verifies (msg : List Byte) : ed448Verify nullKey msg nullSig = true := by
  have hr : nullSig.take 57 = nullKey := by decide
  have hk : leValue ((nullSig.drop 57).take 57) = 0 := by decide +kernel
  have hc : ¬ (nullSig.length ≠ 114 ∨ edL ≤ 0) := by decide +kernel
  simp only [ed448Verify, hr, hk, edDecode_null, if_neg hc, edZero_mul, edBase_mul_null]

/-- An image of `imageOf` for a kind from 1 to 5 is valid where the fuses hold the digest of `nullKey`. -/
theorem imageOf_valid (s : State) (k : Nat) (hk : k < 6) (hd : s.rootDigest = shake256 64 nullKey) (hn : s.minSvn = []) :
    s.imageValid k (imageOf k) = true := by
  have key : ((imageOf k).drop 64).take 57 = nullKey := rfl
  have sig : ((imageOf k).drop 128).take 114 = nullSig := rfl
  have rest : ∀ k, k < 6 → (decide (256 ≤ (imageOf k).length) && numAt (imageOf k) 0 4 = 0x3149484E && numAt (imageOf k) 4 1 = k &&
      numAt (imageOf k) 5 3 = 0 && numAt (imageOf k) 20 44 = 0 && numAt (imageOf k) 121 7 = 0 && numAt (imageOf k) 242 14 = 0 &&
      decide (1 ≤ numAt (imageOf k) 16 4 ∧ numAt (imageOf k) 16 4 ≤ 2 ^ 24 ∧ 256 + numAt (imageOf k) 16 4 ≤ (imageOf k).length)) = true := by
    decide +kernel
  simp only [State.imageValid, key, sig, hd, hn, null_verifies, rest k hk]
  simp [Table.get, Table.find]

theorem mFlash_valid (slot k : Nat) (hk : k < 6) (h : (mFlash slot).image k slot = imageOf k) :
    (mFlash slot).imageValid k ((mFlash slot).image k slot) = true := by
  rw [h]
  exact imageOf_valid (mFlash slot) k hk (by simp only [mFlash]) (by simp only [mFlash]; rfl)

theorem witness_ManagementEvents_boot :
    (mFlash 0).pickSlot 1 (fun _ => true) = some 0 ∧ m0.pickSlot 1 (fun _ => true) = none := by
  constructor
  · have h := mFlash_valid 0 1 (by decide) (by decide +kernel)
    have h2 : (mFlash 0).imageValid 1 ((mFlash 0).image 1 1) = false := by decide +kernel
    simp [State.pickSlot, h, h2]
  · decide +kernel

theorem witness_ManagementEvents_images :
    ((mFlash 1).imageValid 2 ((mFlash 1).image 2 1) = true ∧ (mFlash 1).imageValid 3 ((mFlash 1).image 3 1) = true ∧
      (mFlash 1).imageValid 4 ((mFlash 1).image 4 1) = true) ∧
    (mFlash 1).spareSlot 2 = 1 ∧ (mFlash 1).spareSlot 3 = 1 ∧ (mFlash 1).spareSlot 4 = 1 ∧
    m0.imageValid 2 (m0.image 2 (m0.spareSlot 2)) = false ∧
    ({ mFlash 1 with cfg := { m0.cfg with colrole := [7, 8] } } : State).cfg.colrole.any (fun r => bit r 3) = true := by
  refine ⟨⟨mFlash_valid 1 2 (by decide) (by decide +kernel), mFlash_valid 1 3 (by decide) (by decide +kernel),
    mFlash_valid 1 4 (by decide) (by decide +kernel)⟩, by decide, by decide, by decide, by decide +kernel, by decide⟩

/-- The SHAKE256 digest of 128 zero bytes. -/
def zeroDigest : List Byte := leBytes 64
  0xca9704ef07c523a2b02eea849254736dcb29706843e4378f140ca597db33e8c1bacbf3d203748741c896aaf12d12c1f9d248e574457eaae1567c48d3964b8622

/-- A replay record at 0x800 of a code object whose header at address 0 is zero, with the SHAKE256 digest of 128 zero bytes. -/
def mReplay : State :=
  let d := zeroDigest
  { m0 with cfg := { m0.cfg with recbase := 0x800 }, args := { b := 1, c := 8 }, mem := (d.zip (List.range 64)).map (fun e => (0x880 + e.2, e.1)) ++ m0.mem }

/-- Its bytes. -/
def replaySlot : List Byte := leBytes 2048 (256 ^ 128 * leValue zeroDigest)

theorem readLE_none (m : Table Byte) (a n : Nat) (h : ∀ e ∈ m, ¬ (a ≤ e.1 ∧ e.1 < a + n)) : Bytes.readLE m a n = 0 := by
  have find (m : Table Byte) (a : Nat) (h : ∀ e ∈ m, e.1 ≠ a) : Table.find m a = none := by
    induction m with
    | nil => rfl
    | cons e m ih =>
      have h1 : e.1 ≠ a := h e (by simp)
      simp [Table.find, h1, ih (fun e he => h e (by simp [he]))]
  induction n generalizing a with
  | zero => rfl
  | succ n ih =>
    have h0 : Table.find m a = none := find m a (fun e he hq => h e he (by omega))
    simp [Bytes.readLE, Bytes.read, Table.get, h0, ih (a + 1) (fun e he hq => h e he (by omega))]

theorem readLE_add (m : Table Byte) (a j n : Nat) :
    Bytes.readLE m a (j + n) = Bytes.readLE m a j + 256 ^ j * Bytes.readLE m (a + j) n := by
  induction j generalizing a with
  | zero => simp [Bytes.readLE]
  | succ j ih =>
    have h : j + 1 + n = (j + n) + 1 := by omega
    rw [h, Bytes.readLE, Bytes.readLE, ih (a + 1), show a + 1 + j = a + (j + 1) by omega, Nat.pow_succ]
    ring

theorem mReplay_slot : mReplay.saveRead 0x800 2048 = replaySlot := by
  have hk : mReplay.paKind 0x800 = .dram := by decide +kernel
  have h0 : Bytes.readLE mReplay.mem (0x800 + 192) 1856 = 0 := readLE_none _ _ _ (by decide +kernel)
  have h1 : Bytes.readLE mReplay.mem 0x800 192 = 256 ^ 128 * leValue zeroDigest := by decide +kernel
  have h2 := readLE_add mReplay.mem 0x800 192 1856
  rw [h0, Nat.mul_zero, Nat.add_zero, h1] at h2
  rw [State.saveRead, State.readPhys, hk]
  exact congrArg (leBytes 2048) h2

theorem witness_ManagementEvents_replay :
    (decide (0x800 + 2048 * (0 % 2 ^ mReplay.cfg.rlog) = 0x800) && decide (numAt replaySlot 0 8 = 0) && mReplay.replayDomain 1 &&
      (mReplay.replayMatches (frontAgent 1 0) replaySlot []).2) = true := by decide +kernel

theorem witness_ManagementEvents_requests :
    let up : State := { m0 with stage := .configured, slotInUse := [(2, 0)], pkg := { m0.pkg with hostPorts := 1 } }
    let column (b : Nat) (stored : Option (List Nat)) (taken : Bool) : State :=
      { up with
        column := some { pairs := [(0, 1)], stored := stored, taken := taken }, args := { b := b },
        cfg := { m0.cfg with colrole := [8, 7], colmap := [0, 1] } }
    let boss : State := up.modCore 0 (fun c => { c with fwall := 1 })
    let resume : State := { (m0.setReg 0x19008 2) with args := { a := 0x19000, b := 8, c := 0x200000000 } }
    (up.mgmtUp && !({ up with slotInUse := [] } : State).mgmtUp && up.spdmUp && up.pkg.hostPorts.testBit 0 && !up.pkg.hostPorts.testBit 7 &&
      up.column = none && (column 1 none false).column.isSome && (column 1 none false).cores.all (fun e => !e.2.bctl.getLsbD 0) &&
      decide ((column 2 (some []) false).column = some { pairs := [(0, 1)], stored := some [], taken := false }) &&
      (column 0 (some []) true).column.all (fun h => h.taken) && (column 0 none false).column.any (fun h => !h.taken) &&
      !up.reloadsEngines && ({ up with agenda := [(64, .activateEngineMicrocode, { b := 1 })] } : State).reloadsEngines &&
      decide (handoverPairs [8, 7] = [(0, 1)]) && (boss.core 0).fwall.getLsbD 0 && decide (resume.cutState = 2) &&
      resume.args.c.testBit 33 && !resume.args.c.testBit 32 && !up.mgmtBusy && !({ m0 with stage := .rom } : State).spdmUp && decide (({ m0 with stage := .firstStage } : State).stage = .firstStage) &&
      !(m0.core 1535).fwall.getLsbD 0 && decide (m0.cfg.recbase = 0) &&
      !(m0.core 0).bctl.getLsbD 0 && decide (m0.queueState 0 = 0)) = true := by decide +kernel

/-! ### Encodings and steps -/

/-- `m0` at cycle 0 with `addi x7, x7, 64` at its pc, ready to act. -/
def mStep : State := mCode 0x04038393 0 0

theorem witness_StepRunsDecodedWord :
    let u := (mStep.turnOf 0).beginTurn
    let due : State := { m0 with agenda := [(0, .deviceReset, {})] }
    let late : State := { m0 with agenda := [(1, .deviceReset, {})] }
    (mStep.agenda = [] && !mStep.fatal && !mStep.half && decide (mStep.nextCore = some 0) && (mStep.turnOf 0).slot.state = .running &&
      (mStep.turnOf 0).unopened = none && u.slot.state = .running && decide (u.wave.raised = none) && decide (u.wave.deferred = []) && !u.slot.prq && !u.interrupts && decide (u.wave.pc.toNat % 4 = 0) &&
      (match u.codeAt u.wave.pc.toNat with
        | some b => decide (wordBytes b.toNat = some 4) && decide (u.wave.pc.toNat % 32 + 4 ≤ 32) &&
          decide (decode b = .ok (.riscvScalarInstruction (.opImm .addi 7 7 64)))
        | none => false) &&
      decide (due.agenda.length = 1) && decide (late.cycle < 1) && late.verdict = .issued &&
      decide (({ m0 with coreIdx := 1 } : State).nextCore = none)) = true := by decide +kernel

theorem witness_MemoryCanonicalStep : Memory.wf m0.mem = true := by decide

theorem witness_DecodeEncode :
    ((encode (.vadd { lane 2 0 with vd := 4, va := 5, vb := 6 })).isSome && (Instr.vadd { lane 2 0 with vd := 4, va := 5, vb := 6 }).wellFormed &&
      (encode (.riscvScalarInstruction (.opImm .addi 7 7 64))).isSome && (encode .waveEnd).isSome) = true := by decide +kernel

/-! ### Ill-formed terms -/

/-- Terms that each break one limit: a rounding mode, a barrier number in each word that has one, a scope in each, an empty path
mask, a mask register, an x register of a post, and a bank mask (R64, R69, R141, R243, R278, R365). -/
theorem test_wellFormed_refuses_scalar :
    ([.riscvScalarInstruction (.farith .add .s 5 1 2 3), .riscvScalarInstruction (.fused .madd .d 6 1 2 3 4), .barInit 16 1, .barArrive 16 1,
      .barWait 16 1, .barInv 16, .elect 16, .fenceScope 5, .waita 5 1 2 3, .pfence 0, .mpush 8, .cpyPost 1 5 2, .cpyPost 1 0 2, .dczPost 1 6 2,
      .dczPost 1 0 2, .cntClr 0, .cntClr 4].all (fun i : Instr => !i.wellFormed)) = true := by decide +kernel

/-- Pairs that each break one limit of R71 and R72: the length, a branch, an ill-formed scalar part, the same x register twice, a
major of the matrix family, an illegal lane part. -/
theorem test_wellFormed_refuses_pairs :
    let p : LaneWord := { lane 2 0 with len := 2 }
    let vote : LaneWord := { lane 15 0 with len := 2, vd := 5, va := 1, vb := 0 }
    ([.pairedWord 0 { p with len := 1 } false (.op .add 1 2 3), .pairedWord 0 p false (.branch .beq 0 0 2),
      .pairedWord 0x60 { p with ty := 10 } false (.farith .add .s 5 1 2 3), .pairedWord 0xE1 p false (.op .add 1 2 3),
      .pairedWord 0 { p with ty := 8 } false (.op .add 1 2 3), .pairedWord 0xAC vote false (.op .add 5 2 3)].all
        (fun i : Instr => !i.wellFormed) &&
      (Instr.pairedWord 0 p false (.op .add 1 2 3)).wellFormed && (Instr.pairedWord 0xAC vote false (.op .add 6 2 3)).wellFormed) = true := by
  decide +kernel

/-- Lane words that each break one limit: a type, a function code, a length, a register field that must be zero, an odd pair,
a 4-bit kind, an accumulator number, and the function codes that tell the accumulator words apart (R66, R67, R69). -/
theorem test_wellFormed_refuses_lanes :
    ([.vadd (lane 8 0), .vadd (lane 2 1), .vadd { lane 2 0 with len := 3 }, .vadd { lane 2 0 with imm := 1 }, .vabs (lane 2 0),
      .vadd { lane 3 0 with vd := 5 }, .vunpk4 { laneI 14 3 0 with vb := 0 }, .accClr { lane 15 2 with vd := 32, va := 0, vb := 0 },
      .accTake { lane 15 1 with vd := 4, va := 0, vb := 0 }, .accRel { lane 15 0 with vd := 4, va := 0, vb := 0 },
      .accClr { lane 15 0 with vd := 4, va := 0, vb := 0 }].all (fun i : Instr => !i.wellFormed)) = true := by decide +kernel

/-! ### Words written out from the manual's encodings -/

/-- A lane word by the fields of R65. -/
def laneBits (len la guard gneg major vd va vb func ty imm : Nat) : Nat :=
  127 + len * 2 ^ 7 + la * 2 ^ 9 + guard * 2 ^ 13 + gneg * 2 ^ 17 + major * 2 ^ 18 + vd * 2 ^ 26 + va * 2 ^ 34 + vb * 2 ^ 42 + func * 2 ^ 50 +
    ty * 2 ^ 58 + imm * 2 ^ 64

/-- Every word decodes to its instruction. -/
def decodes (ws : List (Nat × Instr)) : Bool := ws.all (fun q => decide (decode (BitVec.ofNat 128 q.1) = .ok q.2))

/-- The words the manual writes out for its device scalar forms (R166, R243, R245, R254, R278, R290, R295, R316, R326, R344,
R356, R365, R374). -/
theorem test_decode_device_words :
    decodes [(0x0005850B, .tileAlloc false false 11 10), (0x0205850B, .tileAlloc false true 11 10), (0x1005850B, .tileFree 11 10),
      (0x2005850B, .tileAwait 11 10), (0x3005850B, .tileRel false 11 10), (0x3205850B, .tileRel true 11 10), (0x4005850B, .tileState 11 10),
      (0x00C5950B, .segAtt 0 12 11 10), (0x06C5950B, .segAtt 3 12 11 10), (0x1005950B, .segDet 11 10), (0x2005950B, .segDetRel 11 10),
      (0x30C5950B, .segName 12 11 10), (0x4005950B, .segPin 11 10), (0x5005950B, .segUnpin 11 10), (0x6005950B, .segEvict 11 10),
      (0x6205950B, .segEvictDrop 11 10), (0x00C2250B, .cpyPost 12 4 10), (0x00C2350B, .dczPost 12 4 10), (0x00C5C50B, .chSend 12 11 10),
      (0x00C5D50B, .sqRing 12 11 10), (0x02C5D50B, .sqRingCq 12 11 10), (0x0000102B, .fenceScope 0), (0x0800102B, .fenceScope 4),
      (0x1030102B, .pfence 3), (0x06C5A52B, .waita 3 12 11 10), (0x0035802B, .barInit 3 11), (0x1030052B, .barArrive 3 10),
      (0x2035002B, .barWait 3 10), (0x3030002B, .barInv 3), (0x0005B52B, .chunk 11 10), (0x00C5D02B, .gateCall 12 11), (0x1000502B, .gateRet),
      (0x2005D52B, .domQuery 11 10), (0x0000602B, .waveEnd), (0x1000602B, .yield), (0x02C5855B, .obRsv 1 12 11 10), (0x1200055B, .obRel 1 10),
      (0x0005955B, .cntRsv 11 10), (0x0200155B, .cntRsvRel 10), (0x1200105B, .cntClr 1), (0x1600105B, .cntClr 3)] = true := by decide +kernel

/-- Custom-3 words by the fields of R141: `if !p2` 16 units ahead is the manual's 0x0008097B. -/
theorem test_decode_mask_words :
    let c3 (op rest funct3 opd : Nat) : Nat := 0x7B + opd * 2 ^ 7 + funct3 * 2 ^ 12 + rest * 2 ^ 15 + op * 2 ^ 28
    decodes [(0x0008097B, .maskIf 16 true 2), (c3 1 0x1FFF 0 0, .maskElse 0x1FFF), (c3 2 0 0 0, .maskEndif), (c3 0 7 1 0, .mpush 7),
      (c3 1 0 1 0, .mpop), (c3 1 (1 * 2 ^ 10) 1 0, .mpopD), (c3 0 3 2 31, .loopL 3 31), (c3 1 3 2 0x11, .brkL 3 true 1), (c3 2 3 2 2, .contL 3 false 2),
      (c3 0 (6 * 2 ^ 5 + 8) 3 0, .callL 6 8), (c3 1 (6 * 2 ^ 5 + 8) 3 0, .jmpL 6 8), (c3 2 0 3 0, .retL)] = true := by decide +kernel

/-- Lane words of every family of R68, by the fields of R65: the manual's own examples and one more of each family. -/
theorem test_decode_lane_words :
    let w (len la vd va vb func ty imm : Nat) : LaneWord :=
      { len := BitVec.ofNat 2 len, la := BitVec.ofNat 4 la, guard := 0, gneg := false, vd := BitVec.ofNat 8 vd, va := BitVec.ofNat 8 va,
        vb := BitVec.ofNat 8 vb, func := BitVec.ofNat 8 func, ty := BitVec.ofNat 4 ty, imm := BitVec.ofNat 32 imm }
    (decodes [(0x00000C040800001C0C8400FF, .vbext (w 1 0 3 7 0 0 2 0xC04)), (0xA20000003010000C264000FF, .vcvtf (w 1 0 9 3 0 4 12 0xA2000000)),
      (0x18100C142300067F, .vldGlobal (w 0 3 8 5 3 4 6 0)), (0x000000093C00180C235408FF, .chRecv (w 1 4 8 3 6 0 15 9)),
      (0xC0400000301004000384 * 2 ^ 16 + 0x04FF, .mma (w 1 2 0 0 1 4 12 0xC0400000)), (0xC0400009301004000788 * 2 ^ 16 + 0x04FF, .mmac (w 1 2 1 0 1 4 12 0xC0400009)),
      (0x0000000338000C0803A002FF, .cntAcc (w 1 1 0 2 3 0 14 3)),
      (laneBits 0 0 0 0 0x40 4 8 12 0 1 0, .hadd (w 0 0 4 8 12 0 1 0)), (laneBits 0 0 0 0 0x60 4 8 12 0 10 0, .vfadd (w 0 0 4 8 12 0 10 0)),
      (laneBits 0 0 0 0 0xA0 4 8 12 0 15 0, .pand (w 0 0 4 8 12 0 15 0)), (laneBits 0 0 0 0 0x54 8 2 0 1 5 0, .sunpk (w 0 0 8 2 0 1 5 0))] &&
      laneBits 1 3 0 0 0xC0 8 5 3 4 6 0 = 0x18100C14230006FF) = true := by decide +kernel

/-- RISC-V words of the majors of R61, by the formats of the RISC-V manual, and the retired forms of R76. -/
theorem test_decode_riscv_words :
    let rv (i : Rv) : Instr := .riscvScalarInstruction i
    decodes [(0x00000013, rv (.opImm .addi 0 0 0)), (0x04038393, rv (.opImm .addi 7 7 64)), (0xFFF00093, rv (.opImm .addi 1 0 0xFFF)),
      (0x003100B3, rv (.op .add 1 2 3)), (0x403100B3, rv (.op .sub 1 2 3)), (0x023140B3, rv (.op .div 1 2 3)), (0x003100BB, rv (.op32 .addw 1 2 3)),
      (0x00008067, rv (.jalr 0 1 0)), (0x0000006F, rv (.jal 0 0)), (0xFE208EE3, rv (.branch .beq 1 2 0xFFE)), (0x00813083, rv (.load .ld 1 2 8)),
      (0x00113423, rv (.store .sd 2 1 8)), (0x123450B7, rv (.lui 1 0x12345)), (0x30051573, rv (.csr .rw 10 10 0x300)), (0x00100073, rv .ebreak),
      (0x00000073, .ecall), (0x30200073, .mret), (0x10200073, .sret), (0x10500073, .wfi), (0x0000100F, .fenceI 0 0 0),
      (0x003100D7 + 1 * 2 ^ 25, .lsumh 3 2 1), (0x003100D7, .lmulhh 3 2 1)] = true := by decide +kernel

/-- Words the manual calls reserved or illegal: a reserved group, an op past the last, a scope of 5, a reserved lane major,
length 0b11, bit 62 in an unpaired word, a paired branch (R62, R63, R64, R67, R68, R72). -/
theorem test_decode_refuses :
    ([0x0000600B, 0x5005850B, 0x0A00102B, 0x0000702B, 0x0000205B, 0x0000407B, laneBits 0 0 0 0 0x34 4 8 12 0 2 0, laneBits 3 0 0 0 0 4 8 12 0 2 0,
      laneBits 0 0 0 0 0 4 8 12 0 2 0 + 2 ^ 62, laneBits 0 0 0 0 0xF0 4 8 12 0 2 0, 0x00000063 * 2 ^ 96 + 0x880018141000417F].all (fun v =>
        match decode (BitVec.ofNat 128 v) with
        | .ok _ => false
        | .error _ => true)) = true := by decide +kernel

/-- Every shape of a lane word in these tests. -/
def allShapes : List LaneWord := shapes ++ convertShapes ++ [msetaShape, recvShape, mldShape, mmaShape 0, mmaShape 5, { lane 15 1 with vd := 1, va := 0, vb := 0 },
    { lane 15 2 with vd := 1, va := 0, vb := 0 }, { lane 15 0 with vd := 0, va := 0, vb := 0 }]

/-- A word of a major, laid out by the fields of R65 on a shape its form admits, decodes to its instruction. -/
def majorReads (q : Nat × (LaneWord → Instr)) : Bool :=
  match allShapes.find? (fun w => (q.2 w).wellFormed) with
  | some w =>
    decide (decode (BitVec.ofNat 128 (laneBits w.len.toNat 0 0 0 q.1 w.vd.toNat w.va.toNat w.vb.toNat w.func.toNat w.ty.toNat w.imm.toNat)) =
      .ok (q.2 w))
  | none => false

/-- The major codes of the integer family, as its tables give them (R68). -/
theorem test_decode_majors_integer :
    [(0x00, .vadd), (0x01, .vsub), (0x02, .vadds), (0x03, .vsubs), (0x04, .vmul), (0x05, .vmulh), (0x06, .vmulw), 
      (0x07, .vmad), (0x08, .vmadw), (0x09, .vmin), (0x0A, .vmax), (0x0B, .vabs), (0x0C, .vneg), (0x0D, .vabsd), 
      (0x0E, .vclamp), (0x0F, .vand), (0x10, .vor), (0x11, .vxor), (0x12, .vandn), (0x13, .vnot), (0x14, .vbmux), 
      (0x15, .vsll), (0x16, .vsrl), (0x17, .vsra), (0x18, .vrol), (0x19, .vror), (0x1A, .vshf), (0x1B, .vshadd), 
      (0x1C, .vpopc), (0x1D, .vclz), (0x1E, .vctz), (0x1F, .vbrev), (0x20, .vbswap), (0x21, .vbext), (0x22, .vbins), 
      (0x23, .vsel), (0x24, .vmov), (0x25, .vcmpeq), (0x26, .vcmpne), (0x27, .vcmplt), (0x28, .vcmple), (0x29, .vcmpgt), 
      (0x2A, .vcmpge), (0x2B, .vtst), (0x2C, .vsext), (0x2D, .vzext), (0x2E, .vilog2), (0x2F, .vperm), (0x30, .vaddc), 
      (0x31, .vsubc), (0x32, .vmuls), (0x33, .vdot4)].all majorReads = true := by decide +kernel

/-- The major codes of the packed family, as its tables give them (R68). -/
theorem test_decode_majors_packed :
    [(0x40, .hadd), (0x41, .hadds), (0x42, .hsub), (0x43, .hsubs), (0x44, .hmin), (0x45, .hmax), (0x46, .havg), 
      (0x47, .habsd), (0x48, .habsds), (0x49, .hmul), (0x4A, .hmuls), (0x4B, .hshl), (0x4C, .hshr), (0x4D, .hdot2), 
      (0x4E, .hdot2s), (0x4F, .hsad), (0x50, .hpack), (0x51, .hpacks), (0x52, .hunpk), (0x53, .hpk8), (0x54, .sunpk), 
      (0x55, .spack)].all majorReads = true := by decide +kernel

/-- The major codes of the float family, as its tables give them (R68). -/
theorem test_decode_majors_float :
    [(0x60, .vfadd), (0x61, .vfsub), (0x62, .vfmul), (0x63, .vffma), (0x64, .vffms), (0x65, .vffnma), (0x66, .vffnms), 
      (0x67, .vfmin), (0x68, .vfmax), (0x69, .vfminx), (0x6A, .vfmaxx), (0x6B, .vfabs), (0x6C, .vfneg), (0x6D, .vfsgnj), 
      (0x6E, .vfsgnjn), (0x6F, .vfsgnjx), (0x70, .vfcmpeq), (0x71, .vfcmpne), (0x72, .vfcmplt), (0x73, .vfcmple), 
      (0x74, .vfcmpgt), (0x75, .vfcmpge), (0x76, .vfcmpun), (0x77, .vfclass), (0x78, .vfrcp), (0x79, .vfrsq), (0x7A, .vfsqrt), 
      (0x7B, .vfdiv), (0x7C, .vfexp2), (0x7D, .vflog2), (0x7E, .vfsin), (0x7F, .vfcos), (0x80, .vfscale), (0x81, .vfrint)].all majorReads = true := by decide +kernel

/-- The major codes of the convert family, as its tables give them (R68). -/
theorem test_decode_majors_convert :
    [(0x90, .vcvtf), (0x91, .vcvtfi), (0x92, .vcvtif), (0x93, .vcvtii), (0x94, .vunpk4), (0x95, .vpk4), (0x96, .vpk2), 
      (0x97, .vunp2), (0x98, .vpk8), (0x99, .vunp8), (0x9A, .vcvtxf), (0x9B, .vcvtfx)].all majorReads = true := by decide +kernel

/-- The major codes of the mask family, as its tables give them (R68). -/
theorem test_decode_majors_mask :
    [(0xA0, .pand), (0xA1, .por), (0xA2, .pxor), (0xA3, .pandn), (0xA4, .pnot), (0xA5, .pfirst), (0xA6, .mfromp), 
      (0xA7, .pfromm), (0xA8, .mgeta), (0xA9, .mseta), (0xAA, .vballot), (0xAB, .pfromx), (0xAC, .vvote), (0xAD, .vrdlane), 
      (0xAE, .vbcast), (0xAF, .vlperm), (0xB0, .vred), (0xB1, .vredx), (0xB2, .vscan), (0xB3, .vmatch), (0xB4, .vlaneid), 
      (0xB5, .vprank)].all majorReads = true := by decide +kernel

/-- The major codes of the memory family, as its tables give them (R68). -/
theorem test_decode_majors_memory :
    [(0xC0, .vldGlobal), (0xC1, .vstGlobal), (0xC2, .vldScratchpad), (0xC3, .vstScratchpad), (0xC4, .vldWindow), 
      (0xC5, .vstWindow), (0xC6, .vldc), (0xC7, .vsmp), (0xC8, .vpf), (0xC9, .vamoGlobal), (0xCA, .vamoScratchpad), 
      (0xCB, .vamoWindow), (0xCC, .vcasGlobal), (0xCD, .vcasScratchpad), (0xCE, .vcasWindow), (0xCF, .amoLock), 
      (0xD0, .amoUnlk), (0xD1, .xld), (0xD2, .xst), (0xD3, .vldAccumulator), (0xD4, .vstAccumulator), (0xD5, .chRecv)].all majorReads = true := by decide +kernel

/-- The major codes of the matrix family, as its tables give them (R68). -/
theorem test_decode_majors_matrix :
    [(0xE0, .mld), (0xE1, .mma), (0xE2, .mmac), (0xE3, .accSt), (0xE4, .accTake), (0xE4, .accRel), (0xE4, .accClr), 
      (0xE5, .accLd), (0xE6, .accCvt)].all majorReads = true := by decide +kernel

/-- The major codes of the counting family, as its tables give them (R68). -/
theorem test_decode_majors_counting :
    [(0xE8, .cntAcc), (0xE9, .cntMrg), (0xEA, .cntDrn), (0xEB, .cntSpl), (0xEC, .cntFil)].all majorReads = true := by decide +kernel

/-! ### Results worked out in the manual -/

/-- What the word with these bits comes to in lane 0 of v`n`. -/
def laneAfter (bits : Nat) (s : State) (n l : Nat) : Option Word32 :=
  match decode (BitVec.ofNat 128 bits) with
  | .ok i => (match exec i s with
    | .next t => some (t.laneReg n l)
    | _ => none)
  | .error _ => none

/-- `m0` with lane registers of lane 0. -/
def mLanes (vs : List (Nat × Word32)) : State := vs.foldl (fun s q => s.modCore 0 (fun c => c.setLane wave0 q.1 0 q.2)) m0

/-- Bits 15:4 of 0x0000ABCD are 0xABC: signed under `.i32`, unsigned under `.n32` (R113). -/
theorem test_vbext :
    laneAfter 0x00000C040800001C0C8400FF (mLanes [(7, 0xABCD)]) 3 0 = some 0xFFFFFABC ∧
      laneAfter 0x00000C041800001C0C8400FF (mLanes [(7, 0xABCD)]) 3 0 = some 0x00000ABC := by decide +kernel

/-- Two products of −32,768 × −32,768: `hdot2` wraps and `hdot2s` clamps (R118). -/
theorem test_hdot2 :
    let s := mLanes [(8, 0x80008000), (12, 0x80008000)]
    laneAfter (laneBits 0 0 0 0 0x4D 4 8 12 0 1 0) s 4 0 = some 0x80000000 ∧
      laneAfter (laneBits 0 0 0 0 0x4E 4 8 12 0 1 0) s 4 0 = some 0x7FFFFFFF := by decide +kernel

/-- The 12-bit chunk of R121, under `.n16` and `.i16`. -/
theorem test_sunpk :
    let s := (mLanes [(2, 0x56123ABC)]).modCore 0 (fun c => c.setLane wave0 2 1 0x0B9DE174)
    laneAfter (laneBits 0 0 0 0 0x54 8 2 0 1 5 0) s 8 0 = some 0x01230ABC ∧ laneAfter (laneBits 0 0 0 0 0x54 8 2 0 1 5 0) s 8 1 = some 0x0E170456 ∧
      laneAfter (laneBits 0 0 0 0 0x54 8 2 0 1 1 0) s 8 0 = some 0x0123FABC ∧ laneAfter (laneBits 0 0 0 0 0x54 8 2 0 1 1 0) s 8 1 = some 0xFE170456 := by
  decide +kernel

/-- 2.8125 to `.b8p4` in byte 2 of v9, with NX (R134). -/
theorem test_vcvtf :
    laneAfter 0xA20000003010000C264000FF (mLanes [(3, 0x40340000), (9, 0x11223344)]) 9 0 = some 0x114B3344 := by decide +kernel

/-- The eight inputs of the manual's table packed to `.l4` under RNE (R136). -/
theorem test_vpk4 :
    laneAfter (laneBits 1 0 0 0 0x95 4 16 0 2 14 0xA0000000) (mLanes [(16, 0x3FC00000), (17, 0x40400000), (18, 0xBF400000), (19, 0x3D800000),
      (20, 0x41A00000), (21, 0x7FC00000), (22, 0x3E99999A), (23, 0xC1000000)]) 4 0 = some 0xF2070C64 := by decide +kernel

/-- 338 units of 2^−6 are 5.28125 (R51). -/
theorem test_vcvtxf :
    laneAfter (laneBits 0 0 0 0 0x9A 7 6 0 (6 * 2 ^ 3) 10 0) (mLanes [(6, 0x152)]) 7 0 = some 0x40A90000 ∧
      laneAfter (laneBits 0 0 0 0 0x9A 7 6 0 (6 * 2 ^ 3) 8 0) (mLanes [(6, 0x152)]) 7 0 = some 0x4548 := by decide +kernel

/-- The paired word of R72 under p2 = 5: `vadd` in lanes 0 and 2, and one `addi`. -/
theorem test_pair :
    let s := (mLanes [(5, 3), (6, 4)]).modWave (fun w => (w.setP 2 0xFFFF 5).setX 7 1)
    (match decode (BitVec.ofNat 128 (0x04038393 * 2 ^ 96 + 0x880018141000417F)) with
      | .ok i => (match exec i s with
        | .next t => decide (t.laneReg 4 0 = 7 ∧ t.wave.getX 7 = 65 ∧ t.wave.pc = 0x2010)
        | _ => false)
      | .error _ => false) = true := by decide +kernel

/-- The four lookups of R237. -/
theorem test_sampler :
    let g : Image := { base := 0x8000, width := 4, height := 2, pitch := 8, fmt := 5, edge := 0, filter := 1, border := 0xBF800000, zeros := true }
    let rows := [10, 100, 200, 30, 20, 300, 400, 40].flatMap (leBytes 2)
    let s : State := { m0 with mem := [(0x1000, 1), (0x1001, 1)] ++ (rows.zip (List.range 16)).map (fun e => (0x8000 + e.2, e.1)) }
    let look (g : Image) (u v : Nat) : Nat :=
      match (g.sample wave0 u v s).2 with
      | .ok r => r
      | .error _ => 0
    (look g 0x3FE00000 0x3F400000 = 0x432F0000 && look { g with edge := 1 } 0x3E800000 0x3F000000 = 0x41700000 &&
      look { g with edge := 3 } 0x40900000 0x3F000000 = 0xBF800000 && look { g with edge := 2, filter := 0 } 0x40A66666 0x3FF33333 = 0x43C80000) =
      true := by decide +kernel

/-- The scaled element of R258: 6 × 0.5, then 3 × 4. -/
theorem test_mma_block :
    let c : Core := { core0 with
      resv := [(0, { w0 := 0x008005020000004C, w1 := 0x0000000010000000, w2 := 0x10000 }), (1, { w0 := 0x008008010000004C, w2 := 0x10005 })],
      obuf := [(0, 0x48), (0x806, 0x44), (0x1001, 0x38), (0x1041, 0x44), (0x1400, 0x4C), (0x2406, 0x48)] }
    let ra := (c.resvOf 0).getD {}
    let rb := (c.resvOf 1).getD {}
    c.blockElement ra rb 0 0 0 0 = 0x40400000 ∧ c.blockElement ra rb 1 0 0 0x40400000 = 0x41700000 := by decide +kernel

/-- The divergent call of R148: two groups of lanes, and back. -/
theorem test_call :
    let go (o : Host.Outcome State Fault Refusal) (i : Instr) : Host.Outcome State Fault Refusal :=
      match o with
      | .next t => exec i t
      | _ => o
    let off (s : State) (q : Nat × Word32) : State := s.modCore 0 (fun c => c.setLane wave0 8 q.1 q.2)
    let s := ([(0, 0x200), (1, 0x300), (2, 0x200), (3, 0x300)].foldl off m0).modWave (fun w => { w.setX 6 0x400000 with pc := 0x400100, amask := 0xF })
    let o1 := exec (.callL 6 8) s
    let o2 := go o1 .retL
    let o3 := go o2 (.callL 6 8)
    let o4 := go o3 .retL
    let is (o : Host.Outcome State Fault Refusal) (pc : Word) (m : Mask) (d : Nat) (w0 w1 : Word) : Bool :=
      match o with
      | .next t => decide (t.wave.pc = pc ∧ t.wave.amask = m ∧ t.wave.depth = d) && (d < 1 || (t.wave.entry 0).word = w0) &&
          (d < 2 || (t.wave.entry 1).word = w1)
      | _ => false
    (is o1 0x400200 5 2 0xC000000000400100 0x8000000000400104 && is o2 0x400100 0xA 1 0xC000000000400100 0 &&
      is o3 0x400300 0xA 2 0xC000000000400100 0x8000000000400104 && is o4 0x400104 0xF 0 0 0) = true := by decide +kernel

/-- Admission across the wrap (R291): a pad of 32 bytes at 960, the record at 0, WR 1,096; and a refusal for want of 104 bytes. -/
theorem test_admission :
    let m : Message := { msg0 with bytes := List.replicate 100 7 }
    let at' (wr rd : Nat) (m : Message) : State :=
      { (m0.modCore 0 (fun c =>
          { c with send := [m], spad := Bytes.writeLE (Bytes.writeLE (Bytes.writeLE [(8, 0x52), (9, 8)] 0 4 wr) 4 4 rd) 12 4 992 })) with args := { a := 8 } }
    let head (o : Host.Outcome State Fault Refusal) : Option Message :=
      match o with
      | .next t => (t.core 0).sendHead 8
      | _ => none
    let tail := exec .messageTailFlit (at' 960 900 { m with admitted := some (0, 32) })
    (((head (exec .messageAdmission (at' 960 900 m))).bind (fun m => m.admitted)) = some (0, 32) &&
      ((head (exec .messageAdmission (at' 1100 200 m))).map (fun m => (m.admitted, m.retries))) = some (none, 1) &&
      (match tail with
        | .next t => decide ((t.core 0).recvWr 0 = 1096) && decide (Bytes.readLE (t.core 0).spad (32 + 960) 4 = 2 ^ 31 + 28) &&
            decide (Bytes.readLE (t.core 0).spad 32 4 = 2 ^ 30 + 8 * 2 ^ 23 + 100) && (t.core 0).send = []
        | _ => false)) = true := by decide +kernel

/-- The retired forms of R76 on values worked out by hand, as the compatibility unit answers them. -/
theorem test_retired :
    (compatResult (wordOf (.lmulhh 3 2 1)) 0x00000000FFFE0000 0x0000000000030000 0 = some (BitVec.ofInt 64 (-6)) ∧
      compatResult (wordOf (.lsatw 3 2 1)) 200 7 0 = some 127 ∧ compatResult (wordOf (.lrevh 2 1)) 0x0001000200030004 0 0 = some 0x0004000300020001 ∧
      compatResult (wordOf (.linsb 3 2 1)) 0xAB 1 0x1111 = some 0xAB11) := by decide +kernel

end Sys2Proof.Tests
end

namespace Sys2Proof.Machine

/-! ## Memory keeps its canonical form (O60)

Memory is changed in one place, `State.writePhys`, which keeps the canonical form (`State.wf_writePhys`). The rest of the proof
says so of every function of the model on the way from there to `step`, in the model's order, one lemma for each:

- `f_mem`: the function leaves memory as it is;
- `wf_f`: the function may write memory and keeps its canonical form.

Both are simp lemmas, so the lemma of a function cites those of the functions it calls and none unfolds a callee. -/

/-! ### The canonical form of a result -/

/-- Every state an issue carries has its memory in canonical form. -/
def Issue.Wf : Issue → Prop
  | .done s | .trap _ _ s | .park _ _ s | .latePark _ _ _ _ _ s | .wait _ s | .hold s => Memory.wf s.mem = true
  | .stop _ => True

@[simp] theorem Issue.wf_done (s : State) : (Issue.done s).Wf ↔ Memory.wf s.mem = true := Iff.rfl

@[simp] theorem Issue.wf_trap (c : Nat) (v : Word) (s : State) : (Issue.trap c v s).Wf ↔ Memory.wf s.mem = true := Iff.rfl

@[simp] theorem Issue.wf_park (c : Nat) (v : Word) (s : State) : (Issue.park c v s).Wf ↔ Memory.wf s.mem = true := Iff.rfl

@[simp] theorem Issue.wf_latePark (c r : Nat) (v pc : Word) (q : List (Instr × Mask)) (s : State) :
    (Issue.latePark c r v pc q s).Wf ↔ Memory.wf s.mem = true := Iff.rfl

@[simp] theorem Issue.wf_wait (k : WaitKind) (s : State) : (Issue.wait k s).Wf ↔ Memory.wf s.mem = true := Iff.rfl

@[simp] theorem Issue.wf_hold (s : State) : (Issue.hold s).Wf ↔ Memory.wf s.mem = true := Iff.rfl

/-- The state of a RISC-V word's outcome, where it carries one, has its memory in canonical form. -/
def RvOut.Wf : RvOut → Prop
  | .late _ s | .now s _ _ _ | .later s _ _ _ _ => Memory.wf s.mem = true
  | _ => True

@[simp] theorem RvOut.wf_trap (c : Nat) (v : Word) : (RvOut.trap c v).Wf := trivial

@[simp] theorem RvOut.wf_hold : RvOut.hold.Wf := trivial

@[simp] theorem RvOut.wf_late (f : ReqFault) (s : State) : (RvOut.late f s).Wf ↔ Memory.wf s.mem = true := Iff.rfl

@[simp] theorem RvOut.wf_now (s : State) (us : List Upd) (pc : Option Word) (p : Wave → Wave) :
    (RvOut.now s us pc p).Wf ↔ Memory.wf s.mem = true := Iff.rfl

@[simp] theorem RvOut.wf_later (s : State) (us : List Upd) (as : List AckPut) (ls : List Loc) (n : Nat) :
    (RvOut.later s us as ls n).Wf ↔ Memory.wf s.mem = true := Iff.rfl

/-- The next state, where there is one, has its memory in canonical form. -/
def OutcomeWf : Host.Outcome State Fault Refusal → Prop
  | .next t => Memory.wf t.mem = true
  | _ => True

@[simp] theorem outcomeWf_next (t : State) : OutcomeWf (.next t) ↔ Memory.wf t.mem = true := Iff.rfl

@[simp] theorem outcomeWf_fault (r : Fault) : OutcomeWf (.fault r) := trivial

theorem wf_of_next {o : Host.Outcome State Fault Refusal} {t : State} (ho : o = .next t) (h : OutcomeWf o) :
    Memory.wf t.mem = true := by
  subst ho
  exact h

@[simp] theorem Issue.outcomeWf_finish (i : Issue) : OutcomeWf i.finish ↔ i.Wf := by
  cases i with
  | hold s => simp [Issue.finish]
  | _ => exact Iff.rfl

/-- An issue that a check answers with, where it does. -/
def IssuesWf (o : Option Issue) : Prop := ∀ i, o = some i → i.Wf

@[simp] theorem issuesWf_none : IssuesWf none := by simp [IssuesWf]

@[simp] theorem issuesWf_some (i : Issue) : IssuesWf (some i) ↔ i.Wf := by simp [IssuesWf]

/-- A state that a search answers with, where it does. -/
def StatesWf (o : Option State) : Prop := ∀ s, o = some s → Memory.wf s.mem = true

/-! ### Choices, pairs and folds -/

@[simp] theorem wf_ite (c : Prop) [Decidable c] (a b : State) :
    Memory.wf (if c then a else b).mem = true ↔ (c → Memory.wf a.mem = true) ∧ (¬c → Memory.wf b.mem = true) := by
  split <;> simp [*]

@[simp] theorem Issue.wf_ite (c : Prop) [Decidable c] (a b : Issue) :
    (if c then a else b).Wf ↔ (c → a.Wf) ∧ (¬c → b.Wf) := by
  split <;> simp [*]

@[simp] theorem RvOut.wf_ite (c : Prop) [Decidable c] (a b : RvOut) :
    (if c then a else b).Wf ↔ (c → a.Wf) ∧ (¬c → b.Wf) := by
  split <;> simp [*]

@[simp] theorem outcomeWf_ite (c : Prop) [Decidable c] (a b : Host.Outcome State Fault Refusal) :
    OutcomeWf (if c then a else b) ↔ (c → OutcomeWf a) ∧ (¬c → OutcomeWf b) := by
  split <;> simp [*]

@[simp] theorem issuesWf_ite (c : Prop) [Decidable c] (a b : Option Issue) :
    IssuesWf (if c then a else b) ↔ (c → IssuesWf a) ∧ (¬c → IssuesWf b) := by
  split <;> simp [*]

@[simp] theorem issuesWf_map {α : Type} (o : Option α) (f : α → Issue) : IssuesWf (o.map f) ↔ ∀ a, o = some a → (f a).Wf := by
  cases o <;> simp

@[simp] theorem issuesWf_or (a b : Option Issue) : IssuesWf (a.or b) ↔ IssuesWf a ∧ (a = none → IssuesWf b) := by
  cases a <;> simp

@[simp] theorem issuesWf_findSome? {α : Type} (l : List α) (f : α → Option Issue) (hf : ∀ a, IssuesWf (f a)) :
    IssuesWf (l.findSome? f) := by
  intro i hi
  obtain ⟨a, -, ha⟩ := List.exists_of_findSome?_eq_some hi
  exact hf a i ha

theorem wf_of_fst {α : Type} {p : State × α} {t : State} {r : α} (hp : p = (t, r)) (h : Memory.wf p.1.mem = true) :
    Memory.wf t.mem = true := by
  subst hp
  exact h

theorem mem_of_fst {α : Type} {p : State × α} {m : List Host.Cell} {t : State} {r : α} (hp : p = (t, r)) (h : p.1.mem = m) :
    t.mem = m := by
  subst hp
  exact h

theorem wf_foldl {α : Type} {f : State → α → State} (hf : ∀ s a, Memory.wf s.mem = true → Memory.wf (f s a).mem = true)
    (l : List α) (s : State) (h : Memory.wf s.mem = true) : Memory.wf (l.foldl f s).mem = true :=
  List.foldlRecOn (motive := fun s : State => Memory.wf s.mem = true) l f h (fun s h a _ => hf s a h)

theorem wf_foldl_fst {α β : Type} {f : State × β → α → State × β}
    (hf : ∀ q a, Memory.wf q.1.mem = true → Memory.wf (f q a).1.mem = true) (l : List α) (q : State × β)
    (h : Memory.wf q.1.mem = true) : Memory.wf (l.foldl f q).1.mem = true :=
  List.foldlRecOn (motive := fun q : State × β => Memory.wf q.1.mem = true) l f h (fun q h a _ => hf q a h)

theorem foldl_fst_mem {α β : Type} {f : State × β → α → State × β} (hf : ∀ q a, (f q a).1.mem = q.1.mem) (l : List α)
    (q : State × β) : (l.foldl f q).1.mem = q.1.mem :=
  List.foldlRecOn (motive := fun p : State × β => p.1.mem = q.1.mem) l f rfl (fun p h a _ => (hf p a).trans h)

theorem wf_foldl_out {α : Type} {f : MemOut → α → MemOut}
    (hf : ∀ o a, Memory.wf o.s.mem = true → Memory.wf (f o a).s.mem = true) (l : List α) (o : MemOut)
    (h : Memory.wf o.s.mem = true) : Memory.wf (l.foldl f o).s.mem = true :=
  List.foldlRecOn (motive := fun o : MemOut => Memory.wf o.s.mem = true) l f h (fun o h a _ => hf o a h)

/-! ### Named operations over the state -/

@[simp] theorem State.applyAll_mem (s : State) (us : List Upd) : (s.applyAll us).mem = s.mem := by
  simp [State.applyAll]

@[simp] theorem State.beginWait_mem (s : State) (kind : WaitKind) : (s.beginWait kind).mem = s.mem := rfl

theorem Issue.wf_andThen (i : Issue) (f : State → Issue) (hi : i.Wf) (hf : ∀ s, Memory.wf s.mem = true → (f s).Wf) :
    (i.andThen f).Wf := by
  cases i with
  | done s => exact hf s hi
  | _ => exact hi

@[simp] theorem wf_afterCheck (r : Option Issue) (k : Unit → Issue) :
    (afterCheck r k).Wf ↔ IssuesWf r ∧ (r = none → (k ()).Wf) := by
  cases r <;> simp [afterCheck]

@[simp] theorem State.issuedTo_mem (s : State) (pc : Word) : (s.issuedTo pc).mem = s.mem := rfl

@[simp] theorem wf_domFault (s : State) (write : Bool) (index point odom : Nat) (tval : Word) (h : Memory.wf s.mem = true) :
    (domFault s write index point odom tval).Wf := h

@[simp] theorem wf_lookahead (s : State) (locs : List Loc) (h : Memory.wf s.mem = true) : IssuesWf (lookahead s locs) := by
  unfold lookahead
  split
  all_goals simp [h]

@[simp] theorem wf_illegal (s : State) (bits63 : Word) (h : Memory.wf s.mem = true) : (illegal s bits63).Wf := h

theorem wf_scalarWord (s : State) (k : Nat) (enc : BitVec 32) (locs : List Loc) (legal : Bool) (body : State → Issue)
    (h : Memory.wf s.mem = true) (hb : (body s).Wf) : OutcomeWf (scalarWord s k enc locs legal body) := by
  unfold scalarWord
  split
  · trivial
  · split
    · simp [h]
    · split
      · next heq => exact (Issue.outcomeWf_finish _).mpr (wf_lookahead s _ h _ heq)
      · exact (Issue.outcomeWf_finish _).mpr hb

/-! ### Physical memory (R178, R189) -/

@[simp] theorem State.modStation_mem (s : State) (d : Nat) (f : Station → Station) : (s.modStation d f).mem = s.mem := rfl

@[simp] theorem State.tookFree_mem (s : State) : s.tookFree.mem = s.mem := rfl

@[simp] theorem State.usedFree_mem (s : State) (pa n : Nat) : (s.usedFree pa n).mem = s.mem := by
  unfold State.usedFree
  split
  all_goals simp

@[simp] theorem State.wf_agentWrite (s : State) (pa : Nat) (bs : List Byte) (h : Memory.wf s.mem = true) :
    Memory.wf (s.agentWrite pa bs).mem = true := State.wf_agentWriteAs s 0 pa bs h

/-! ### Translation stations -/

@[simp] theorem State.keepFound_mem (s : State) (k pasid va : Nat) (c : Word × Word × Word) (f : Found) :
    (s.keepFound k pasid va c f).1.mem = s.mem := rfl

@[simp] theorem State.translateWith_mem (s : State) (k pasid dom va : Nat) (chk : LeafChecks) :
    (s.translateWith k pasid dom va chk).1.mem = s.mem := by
  unfold State.translateWith
  repeat' split
  all_goals simp

@[simp] theorem State.translateFresh_mem (s : State) (k pasid dom va : Nat) (chk : LeafChecks) :
    (s.translateFresh k pasid dom va chk).1.mem = s.mem := by
  unfold State.translateFresh
  dsimp only
  repeat' split
  all_goals simp

@[simp] theorem State.translate_mem (s : State) (k : Nat) (r : StationReq) : (s.translate k r).1.mem = s.mem := by
  unfold State.translate
  split
  all_goals next heq => simpa [apply_ite Prod.fst, apply_ite State.mem] using mem_of_fst heq (by simp)

/-! ### Core caches and the release directory (R185 to R189) -/

@[simp] theorem State.wf_writeBack (s : State) (l : CacheLine) (h : Memory.wf s.mem = true) :
    Memory.wf (s.writeBack l).mem = true := by
  have hbytes : Memory.wf ((List.range 64).foldl (fun s k =>
      if l.dirty.getLsbD k then s.writePhys (64 * l.pline + k) [l.byte k] else s) s).mem = true :=
    wf_foldl (fun s k h => by simp [h, State.wf_writePhys]) _ s h
  simp [State.writeBack, h, hbytes, State.wf_writePhys]

@[simp] theorem State.wf_dropLines (s : State) (c : Nat) (k : CacheId) (q : CacheLine → Bool) (h : Memory.wf s.mem = true) :
    Memory.wf (s.dropLines c k q).mem = true := wf_foldl State.wf_writeBack _ s h

@[simp] theorem State.wf_cleanLines (s : State) (c : Nat) (k : CacheId) (q : CacheLine → Bool) (h : Memory.wf s.mem = true) :
    Memory.wf (s.cleanLines c k q).mem = true := wf_foldl State.wf_writeBack _ s h

@[simp] theorem State.wf_keepLine (s : State) (c : Nat) (k : CacheId) (l : CacheLine) (h : Memory.wf s.mem = true) :
    Memory.wf (s.keepLine c k l).mem = true := wf_foldl State.wf_writeBack _ s h

@[simp] theorem State.wf_fillLine (s : State) (c : Nat) (k : CacheId) (dom pasid vline pline : Nat)
    (h : Memory.wf s.mem = true) : Memory.wf (s.fillLine c k dom pasid vline pline).mem = true := by
  refine State.wf_keepLine _ _ _ _ ?_
  rw [State.touchL2_mem, wf_ite]
  exact ⟨fun _ => State.wf_dropLines _ _ _ _ (s.wf_dropLines _ _ _ h), fun _ => h⟩

@[simp] theorem State.wf_cachedRead (s : State) (c : Nat) (k : CacheId) (dom pasid va pa n : Nat)
    (h : Memory.wf s.mem = true) : Memory.wf (s.cachedRead c k dom pasid va pa n).1.mem = true := by
  unfold State.cachedRead
  dsimp only
  repeat' split
  all_goals simp [h]

@[simp] theorem State.wf_laneWrite (s : State) (c dom pasid va pa : Nat) (bs : List Byte) (h : Memory.wf s.mem = true) :
    Memory.wf (s.laneWrite c dom pasid va pa bs).mem = true := by
  have hdrop := s.wf_dropLines c .hart (fun l => l.pline = pa / 64) h
  unfold State.laneWrite
  extract_lets t u
  have hu : Memory.wf u.mem = true := by
    dsimp only [u]
    split
    · exact hdrop
    · exact t.wf_fillLine _ _ _ _ _ _ hdrop
  clear_value u
  split
  · rw [State.wake_mem]
    exact u.wf_keepLine _ _ _ hu
  · exact hu

@[simp] theorem State.wf_hartTouch (s : State) (c dom pasid va pa : Nat) (h : Memory.wf s.mem = true) :
    Memory.wf (s.hartTouch c dom pasid va pa).mem = true :=
  State.wf_keepLine _ _ _ _ (State.wf_dropLines _ _ _ _ (s.wf_dropLines _ _ _ h))

@[simp] theorem State.wf_drainCore (s : State) (c epoch : Nat) (h : Memory.wf s.mem = true) :
    Memory.wf (s.drainCore c epoch).mem = true := by
  simp [State.drainCore, h]

@[simp] theorem State.wf_drainEntry (s : State) (d line c : Nat) (h : Memory.wf s.mem = true) :
    Memory.wf (s.drainEntry d line c).mem = true := by
  unfold State.drainEntry
  split
  all_goals simp [h]

@[simp] theorem State.drainAcked_mem (s : State) (d line c : Nat) : (s.drainAcked d line c).mem = s.mem := by
  unfold State.drainAcked
  dsimp only
  split
  all_goals simp

@[simp] theorem State.wf_drainLine (s : State) (d line : Nat) (h : Memory.wf s.mem = true) :
    Memory.wf (s.drainLine d line).mem = true := wf_foldl (fun s e h => by simp [h]) _ s h

@[simp] theorem State.refreshL1_mem (s : State) (c dom : Nat) : (s.refreshL1 c dom).mem = s.mem := by
  simp [State.refreshL1, foldl_mem, apply_ite State.mem]

@[simp] theorem State.wf_acquireLine (s : State) (c dom pa : Nat) (h : Memory.wf s.mem = true) :
    Memory.wf (s.acquireLine c dom pa).mem = true := by
  simp only [State.acquireLine, State.refreshL1_mem]
  exact wf_foldl (fun s e h => by simp [h]) _ s h

@[simp] theorem State.wf_releaseLine (s : State) (c pa : Nat) (h : Memory.wf s.mem = true) :
    Memory.wf (s.releaseLine c pa).mem = true := by
  simp [State.releaseLine, h]

@[simp] theorem State.wf_drainDomain (s : State) (dom : Nat) (h : Memory.wf s.mem = true) :
    Memory.wf (s.drainDomain dom).mem = true :=
  wf_foldl (fun s d h => wf_foldl (fun s l h => s.wf_drainLine d l h) _ s h) _ s h

@[simp] theorem State.wf_refreshCore (s : State) (c : Nat) (h : Memory.wf s.mem = true) :
    Memory.wf (s.refreshCore c).mem = true := by
  simp [State.refreshCore, h]

@[simp] theorem State.wf_refreshAll (s : State) (h : Memory.wf s.mem = true) : Memory.wf s.refreshAll.mem = true :=
  wf_foldl (fun s e h => s.wf_refreshCore e.1 h) _ s h

@[simp] theorem State.wf_drainAll (s : State) (h : Memory.wf s.mem = true) : Memory.wf s.drainAll.mem = true :=
  State.wf_refreshAll _ (wf_foldl (fun s d h => wf_foldl (fun s l h => s.wf_drainLine d l h) _ s h) _ s h)

@[simp] theorem State.wf_wideFence (s : State) (c dom : Nat) (h : Memory.wf s.mem = true) :
    Memory.wf (s.wideFence c dom).mem = true := by
  simp [State.wideFence, h]

@[simp] theorem State.dropFetched_mem (s : State) (c : Nat) : (s.dropFetched c).mem = s.mem := rfl

@[simp] theorem State.wf_pathFence (s : State) (c dom path : Nat) (h : Memory.wf s.mem = true) :
    Memory.wf (s.pathFence c dom path).mem = true := by
  unfold State.pathFence
  split
  all_goals simp [h]

@[simp] theorem State.wf_dropEverywhere (s : State) (c : Nat) (q : CacheLine → Bool) (h : Memory.wf s.mem = true) :
    Memory.wf (s.dropEverywhere c q).mem = true := by
  rw [State.dropEverywhere, State.dropFetched_mem]
  exact wf_foldl (fun s k h => s.wf_dropLines c k q h) _ s h

theorem State.wf_staleFault (s : State) (c : Nat) (k : CacheId) (w : Wave) (va : Nat) (write : Bool) {t : State} {f : ReqFault}
    (h : Memory.wf s.mem = true) (ht : s.staleFault c k w va write = some (t, f)) : Memory.wf t.mem = true := by
  unfold State.staleFault at ht
  split at ht
  · cases ht
  · cases ht; exact s.wf_dropLines c k _ h

/-! ### Operands of lane words -/

@[simp] theorem wf_regionFault (s : State) (write : Bool) (r : Nat) (h : Memory.wf s.mem = true) : (regionFault s write r).Wf :=
  h

@[simp] theorem wf_registerMiss (s : State) (item : Bool × Nat) (h : Memory.wf s.mem = true) : (registerMiss s item).Wf := by
  unfold registerMiss
  split
  all_goals simp [h]

@[simp] theorem wf_laneChecks (major : Nat) (paired all : Bool) (w : LaneWord) (ops : List Operand) (touch : Operand → Mask)
    (own : State → Option Issue) (s : State) (h : Memory.wf s.mem = true) (hown : IssuesWf (own s)) :
    IssuesWf (laneChecks major paired all w ops touch own s) := by
  unfold laneChecks
  dsimp only
  split
  · simp [h]
  · split
    · next heq => exact (issuesWf_some _).mpr (wf_lookahead s _ h _ heq)
    · split
      · simp [h]
      · split
        · next heq => exact (issuesWf_some _).mpr (hown _ heq)
        · split <;> simp [h]

@[simp] theorem wf_ordinaryDone (len : Nat) (upds : List Upd) (s : State) (h : Memory.wf s.mem = true) :
    (ordinaryDone len upds s).Wf := by
  simp [ordinaryDone, h]

@[simp] theorem wf_longDoneWith (len la lat : Nat) (locs : List Loc) (upds : List Upd) (acks : List AckPut) (s : State)
    (fence : Bool := false) (reads : List Loc := []) (h : Memory.wf s.mem = true) :
    (longDoneWith len la lat locs upds acks s fence reads).Wf := h

@[simp] theorem wf_longDone (len la lat : Nat) (locs : List Loc) (upds : List Upd) (s : State) (reads : List Loc := [])
    (h : Memory.wf s.mem = true) : (longDone len la lat locs upds s reads).Wf := h

@[simp] theorem wf_laneIssueWith (major : Nat) (form : Option (List Operand)) (w : LaneWord) (touch : LaneEnv → Operand → Mask)
    (own : LaneEnv → State → Option Issue) (body : LaneEnv → List Operand → State → Issue) (s : State)
    (h : Memory.wf s.mem = true) (hown : IssuesWf (own (laneEnv s w) s)) (hb : ∀ ops, (body (laneEnv s w) ops s).Wf) :
    (laneIssueWith major form w touch own body s).Wf := by
  unfold laneIssueWith
  split
  · trivial
  · split
    · simp [h]
    · dsimp only
      split
      · next heq => exact wf_laneChecks major false false w _ _ _ s h hown _ heq
      · exact hb _

@[simp] theorem wf_laneIssue (major : Nat) (form : Option (List Operand)) (w : LaneWord) (touch : LaneEnv → Operand → Mask)
    (body : LaneEnv → List Operand → State → Issue) (s : State) (h : Memory.wf s.mem = true)
    (hb : ∀ ops, (body (laneEnv s w) ops s).Wf) : (laneIssue major form w touch body s).Wf :=
  wf_laneIssueWith major form w touch _ body s h issuesWf_none hb

@[simp] theorem wf_ordinaryLane (major : Nat) (form : Option (List Operand)) (w : LaneWord) (f : LaneEnv → List Upd) (s : State)
    (h : Memory.wf s.mem = true) : OutcomeWf (ordinaryLane major form w f s) := by
  simp [ordinaryLane, h]

/-! ### Device scalar words -/

theorem wf_deviceIssue (i : Instr) (k : Nat) (locs : List Loc) (body : State → Issue) (s : State)
    (h : Memory.wf s.mem = true) (hb : (body s).Wf) : OutcomeWf (deviceIssue i k locs body s) :=
  wf_scalarWord s k _ locs _ body h hb

@[simp] theorem wf_scalarDone (s : State) (f : Wave → Wave) (h : Memory.wf s.mem = true) : (scalarDone s f).Wf := h

@[simp] theorem wf_scalarX (s : State) (d : BitVec 5) (v : Word) (h : Memory.wf s.mem = true) : (scalarX s d v).Wf := h

/-! ### Tiles, teams and phases -/

@[simp] theorem State.modTeam_mem (s : State) (k j : Nat) (f : Team → Team) : (s.modTeam k j f).mem = s.mem := rfl

@[simp] theorem State.advancePhase_mem (s : State) (k j : Nat) : (s.advancePhase k j).mem = s.mem := rfl

@[simp] theorem wf_tileOwn (h n align : Nat) (k : AccKind) (os : List Nat) (s : State) (hs : Memory.wf s.mem = true) :
    IssuesWf (tileOwn h n align k os s) := by
  simp only [tileOwn, issuesWf_ite, issuesWf_none, issuesWf_some, Issue.wf_trap, hs, implies_true, true_and]
  intro _ _ _
  split
  · simp [hs]
  · split <;> simp [hs]

@[simp] theorem wf_tileWait (h : Nat) (s : State) : Memory.wf s.mem = true → (tileWait h s).Wf := fun hs =>
  (Issue.wf_ite _ _ _).mpr ⟨fun _ => hs, fun _ => hs⟩

@[simp] theorem wf_tileReady (h n : Nat) (k : AccKind) (os : List Nat) (s : State) (hs : Memory.wf s.mem = true) :
    IssuesWf (tileReady h n k os s) := by
  unfold tileReady
  dsimp only
  split
  · simp
  · split <;> simp [hs]

@[simp] theorem wf_raceFault (h n : Nat) (write plain : Bool) (os : List Nat) (s : State) (hs : Memory.wf s.mem = true) :
    IssuesWf (raceFault h n write plain os s) := by
  unfold raceFault
  dsimp only
  split
  · simp
  · split <;> simp [hs]

@[simp] theorem raceRecord_mem (h n : Nat) (write plain : Bool) (os : List Nat) (s : State) :
    (raceRecord h n write plain os s).mem = s.mem := by
  unfold raceRecord
  dsimp only
  split
  · rfl
  · exact foldl_mem (fun (s : State) k => s.modCur _) (fun _ _ => rfl) _ s

/-! ### One access of a wave -/

@[simp] theorem State.wf_resolve (s : State) (c i : Nat) (w : Wave) (cache : CacheId) (k : AccKind) (va n : Nat)
    (h : Memory.wf s.mem = true) : Memory.wf (s.resolve c i w cache k va n).1.mem = true := by
  unfold State.resolve
  split
  · next heq => exact s.wf_staleFault c cache w va k.writes h heq
  · dsimp only
    split
    · next heq => exact wf_of_fst heq (by simp [h])
    · next heq =>
      have ht := wf_of_fst heq (by simp [h])
      repeat' split
      all_goals simpa using ht

@[simp] theorem State.wf_toHome (s : State) (c pa : Nat) (h : Memory.wf s.mem = true) :
    Memory.wf (s.toHome c pa).mem = true := by
  simp [State.toHome, h]

@[simp] theorem State.sendMessage_mem (s : State) (core : Nat) (m : ActiveMsg) : (s.sendMessage core m).mem = s.mem := by
  simp [State.sendMessage, apply_ite State.mem]

@[simp] theorem State.acquireAt_mem (s : State) (c dom : Nat) (wide : Bool) : (s.acquireAt c dom wide).mem = s.mem := by
  simp [State.acquireAt, apply_ite State.mem]

@[simp] theorem State.wf_releaseAt (s : State) (c : Nat) (wide : Bool) (h : Memory.wf s.mem = true) :
    Memory.wf (s.releaseAt c wide).mem = true := by
  simp [State.releaseAt, h]

@[simp] theorem State.wf_readDest (s : State) (c : Nat) (w : Wave) (p : Path) (wideAcq : Bool) (n : Nat) (d : Dest)
    (h : Memory.wf s.mem = true) : Memory.wf (s.readDest c w p wideAcq n d).1.mem = true := by
  unfold State.readDest
  repeat' split
  all_goals simp [h]

@[simp] theorem State.storeSpad_mem (s : State) (c i core a : Nat) (bs : List Byte) :
    (s.storeSpad c i core a bs).mem = s.mem := by
  unfold State.storeSpad
  dsimp only
  split
  all_goals simp

@[simp] theorem State.wf_writeDest (s : State) (c i : Nat) (w : Wave) (p : Path) (ord scope : Nat) (wideRel : Bool)
    (bs : List Byte) (d : Dest) (h : Memory.wf s.mem = true) :
    Memory.wf (s.writeDest c i w p ord scope wideRel bs d).mem = true := by
  cases d with
  | mem va t =>
    have hrel := State.wf_toHome _ c t.pa (State.wf_releaseLine (s.breakBlock t.pa bs.length (some (c, i))) c t.pa (by simp [h]))
    simp [State.writeDest, State.wf_writePhys, h, hrel]
  | _ => simp [State.writeDest, h]

@[simp] theorem State.placeAtomic_mem (s : State) (c pa hint : Nat) : (s.placeAtomic c pa hint).mem = s.mem := rfl

@[simp] theorem State.wf_atomicDest (s : State) (c i : Nat) (w : Wave) (fadd : Nat → Nat → Nat → Nat) (o : AtomicOp)
    (ord scope hint : Nat) (acq rel : Bool) (n operand : Nat) (d : Dest) (h : Memory.wf s.mem = true) :
    Memory.wf (s.atomicDest c i w fadd o ord scope hint acq rel n operand d).1.mem = true := by
  cases d with
  | mem va t =>
    have hhome := State.wf_dropLines _ c .hart (fun l => l.pline = t.pa / 64) (State.wf_toHome
      (if t.mt = 0 ∧ s.paKind t.pa = .dram then s.placeAtomic c t.pa hint else s) c t.pa (by simp [h]))
    simp only [State.atomicDest]
    generalize State.dropLines _ c .hart (fun l => l.pline = t.pa / 64) = u at hhome
    have hacq : Memory.wf (if acq then u.acquireLine c w.dom t.pa else u).mem = true := by simp [hhome]
    generalize (if acq then u.acquireLine c w.dom t.pa else u) = v at hacq
    split
    · simp [hacq]
    · dsimp only
      split <;> simp [hacq, State.wf_writePhys]
  | spad k a => simp only [State.atomicDest]; split <;> simp [h]
  | reg off => simp only [State.atomicDest]; split <;> simp [h]
  | remote k a va => simp [State.atomicDest, h]

@[simp] theorem State.remoteLoad_mem (s : State) (c i : Nat) (w : Wave) (ord scope n core a va : Nat) :
    (s.remoteLoad c i w ord scope n core a va).mem = s.mem := by
  simp [State.remoteLoad]

@[simp] theorem State.noteFault_mem (s : State) (f : ReqFault) : (s.noteFault f).mem = s.mem := by
  unfold State.noteFault
  split
  all_goals simp

@[simp] theorem State.holdResults_mem (s : State) (pc : Word) (locs : List Loc) (upds : List Upd) (acks : List AckPut) :
    (s.holdResults pc locs upds acks).mem = s.mem := by
  simp [State.holdResults, apply_ite State.mem]

@[simp] theorem wf_lateFault (pc : Word) (f : ReqFault) (held : Instr × Mask) (s : State) (h : Memory.wf s.mem = true) :
    (lateFault pc f held s).Wf := by
  simp [lateFault, h]

@[simp] theorem wf_lateAtWord (f : ReqFault) (s : State) (h : Memory.wf s.mem = true) : (lateAtWord f s).Wf := by
  simp [lateAtWord, h]

/-! ### Lane floating-point words -/

@[simp] theorem wf_floatDone (w : LaneWord) (special : Nat) (ops : List Operand) (upds : List Upd) (s : State)
    (h : Memory.wf s.mem = true) : (floatDone w special ops upds s).Wf := by
  simp [floatDone, h]

@[simp] theorem wf_floatWord (major special : Nat) (w : LaneWord) (f : LaneEnv → Nat → List Upd) (s : State)
    (h : Memory.wf s.mem = true) : OutcomeWf (floatWord major special w f s) := by
  refine (Issue.outcomeWf_finish _).mpr (wf_laneIssue _ _ _ _ _ s h (fun _ => ?_))
  simp [h]

@[simp] theorem wf_floatMap (major special : Nat) (w : LaneWord) (f : Fmt → Rm → FOps → Nat) (s : State)
    (h : Memory.wf s.mem = true) : OutcomeWf (floatMap major special w f s) := by
  simp [floatMap, h]

@[simp] theorem wf_execVfadd (w : LaneWord) (s : State) (h : Memory.wf s.mem = true) : OutcomeWf (execVfadd w s) := by
  simp [execVfadd, h]

@[simp] theorem wf_execVfsub (w : LaneWord) (s : State) (h : Memory.wf s.mem = true) : OutcomeWf (execVfsub w s) := by
  simp [execVfsub, h]

@[simp] theorem wf_execVfmul (w : LaneWord) (s : State) (h : Memory.wf s.mem = true) : OutcomeWf (execVfmul w s) := by
  simp [execVfmul, h]

@[simp] theorem wf_execVffma (w : LaneWord) (s : State) (h : Memory.wf s.mem = true) : OutcomeWf (execVffma w s) := by
  simp [execVffma, h]

@[simp] theorem wf_execVffms (w : LaneWord) (s : State) (h : Memory.wf s.mem = true) : OutcomeWf (execVffms w s) := by
  simp [execVffms, h]

@[simp] theorem wf_execVffnma (w : LaneWord) (s : State) (h : Memory.wf s.mem = true) : OutcomeWf (execVffnma w s) := by
  simp [execVffnma, h]

@[simp] theorem wf_execVffnms (w : LaneWord) (s : State) (h : Memory.wf s.mem = true) : OutcomeWf (execVffnms w s) := by
  simp [execVffnms, h]

@[simp] theorem wf_execVfmin (w : LaneWord) (s : State) (h : Memory.wf s.mem = true) : OutcomeWf (execVfmin w s) := by
  simp [execVfmin, h]

@[simp] theorem wf_execVfmax (w : LaneWord) (s : State) (h : Memory.wf s.mem = true) : OutcomeWf (execVfmax w s) := by
  simp [execVfmax, h]

@[simp] theorem wf_execVfminx (w : LaneWord) (s : State) (h : Memory.wf s.mem = true) : OutcomeWf (execVfminx w s) := by
  simp [execVfminx, h]

@[simp] theorem wf_execVfmaxx (w : LaneWord) (s : State) (h : Memory.wf s.mem = true) : OutcomeWf (execVfmaxx w s) := by
  simp [execVfmaxx, h]

@[simp] theorem wf_signWord (major : Nat) (w : LaneWord) (f : Bool → Bool → Bool) (s : State) (h : Memory.wf s.mem = true) :
    OutcomeWf (signWord major w f s) := by
  simp [signWord, h]

@[simp] theorem wf_execVfabs (w : LaneWord) (s : State) (h : Memory.wf s.mem = true) : OutcomeWf (execVfabs w s) := by
  simp [execVfabs, h]

@[simp] theorem wf_execVfneg (w : LaneWord) (s : State) (h : Memory.wf s.mem = true) : OutcomeWf (execVfneg w s) := by
  simp [execVfneg, h]

@[simp] theorem wf_execVfsgnj (w : LaneWord) (s : State) (h : Memory.wf s.mem = true) : OutcomeWf (execVfsgnj w s) := by
  simp [execVfsgnj, h]

@[simp] theorem wf_execVfsgnjn (w : LaneWord) (s : State) (h : Memory.wf s.mem = true) : OutcomeWf (execVfsgnjn w s) := by
  simp [execVfsgnjn, h]

@[simp] theorem wf_execVfsgnjx (w : LaneWord) (s : State) (h : Memory.wf s.mem = true) : OutcomeWf (execVfsgnjx w s) := by
  simp [execVfsgnjx, h]

@[simp] theorem wf_floatCompare (major : Nat) (w : LaneWord) (f : Fv → Fv → Bool) (s : State) (h : Memory.wf s.mem = true) :
    OutcomeWf (floatCompare major w f s) := by
  simp [floatCompare, h]

@[simp] theorem wf_execVfcmpeq (w : LaneWord) (s : State) (h : Memory.wf s.mem = true) : OutcomeWf (execVfcmpeq w s) := by
  simp [execVfcmpeq, h]

@[simp] theorem wf_execVfcmpne (w : LaneWord) (s : State) (h : Memory.wf s.mem = true) : OutcomeWf (execVfcmpne w s) := by
  simp [execVfcmpne, h]

@[simp] theorem wf_execVfcmplt (w : LaneWord) (s : State) (h : Memory.wf s.mem = true) : OutcomeWf (execVfcmplt w s) := by
  simp [execVfcmplt, h]

@[simp] theorem wf_execVfcmple (w : LaneWord) (s : State) (h : Memory.wf s.mem = true) : OutcomeWf (execVfcmple w s) := by
  simp [execVfcmple, h]

@[simp] theorem wf_execVfcmpgt (w : LaneWord) (s : State) (h : Memory.wf s.mem = true) : OutcomeWf (execVfcmpgt w s) := by
  simp [execVfcmpgt, h]

@[simp] theorem wf_execVfcmpge (w : LaneWord) (s : State) (h : Memory.wf s.mem = true) : OutcomeWf (execVfcmpge w s) := by
  simp [execVfcmpge, h]

@[simp] theorem wf_execVfcmpun (w : LaneWord) (s : State) (h : Memory.wf s.mem = true) : OutcomeWf (execVfcmpun w s) := by
  simp [execVfcmpun, h]

@[simp] theorem wf_execVfclass (w : LaneWord) (s : State) (h : Memory.wf s.mem = true) : OutcomeWf (execVfclass w s) := by
  simp [execVfclass, h]

@[simp] theorem wf_execVfrcp (w : LaneWord) (s : State) (h : Memory.wf s.mem = true) : OutcomeWf (execVfrcp w s) := by
  simp [execVfrcp, h]

@[simp] theorem wf_execVfrsq (w : LaneWord) (s : State) (h : Memory.wf s.mem = true) : OutcomeWf (execVfrsq w s) := by
  simp [execVfrsq, h]

@[simp] theorem wf_execVfsqrt (w : LaneWord) (s : State) (h : Memory.wf s.mem = true) : OutcomeWf (execVfsqrt w s) := by
  simp [execVfsqrt, h]

@[simp] theorem wf_execVfdiv (w : LaneWord) (s : State) (h : Memory.wf s.mem = true) : OutcomeWf (execVfdiv w s) := by
  simp [execVfdiv, h]

@[simp] theorem wf_faithfulWord (major : Nat) (w : LaneWord) (f : BitVec 32 → Fv) (s : State) (h : Memory.wf s.mem = true) :
    OutcomeWf (faithfulWord major w f s) := by
  simp [faithfulWord, h]

@[simp] theorem wf_execVfexp2 (w : LaneWord) (s : State) (h : Memory.wf s.mem = true) : OutcomeWf (execVfexp2 w s) := by
  simp [execVfexp2, h]

@[simp] theorem wf_execVflog2 (w : LaneWord) (s : State) (h : Memory.wf s.mem = true) : OutcomeWf (execVflog2 w s) := by
  simp [execVflog2, h]

@[simp] theorem wf_execVfsin (w : LaneWord) (s : State) (h : Memory.wf s.mem = true) : OutcomeWf (execVfsin w s) := by
  simp [execVfsin, h]

@[simp] theorem wf_execVfcos (w : LaneWord) (s : State) (h : Memory.wf s.mem = true) : OutcomeWf (execVfcos w s) := by
  simp [execVfcos, h]

@[simp] theorem wf_execVfscale (w : LaneWord) (s : State) (h : Memory.wf s.mem = true) : OutcomeWf (execVfscale w s) := by
  simp [execVfscale, h]

@[simp] theorem wf_execVfrint (w : LaneWord) (s : State) (h : Memory.wf s.mem = true) : OutcomeWf (execVfrint w s) := by
  simp [execVfrint, h]

/-! ### Active messages at their destination -/

@[simp] theorem State.messageEffect_mem (s : State) (core : Nat) (m : ActiveMsg) : (s.messageEffect core m).1.mem = s.mem := by
  unfold State.messageEffect
  dsimp only
  repeat' split
  all_goals simp

@[simp] theorem State.serveMessage_mem (s : State) (core : Nat) : (s.serveMessage core).mem = s.mem := by
  unfold State.serveMessage
  dsimp only
  repeat' split
  all_goals simp

@[simp] theorem State.serveQueue_mem (s : State) (core : Nat) : (s.serveQueue core).mem = s.mem := by
  simp [State.serveQueue, foldl_mem]

@[simp] theorem State.messageNow_mem (s : State) (core : Nat) (m : ActiveMsg) : (s.messageNow core m).1.mem = s.mem := by
  unfold State.messageNow
  dsimp only
  split
  all_goals simp

@[simp] theorem State.remoteValue_mem (s : State) (c i : Nat) (w : Wave) (n core a va : Nat) :
    (s.remoteValue c i w n core a va).1.mem = s.mem := by
  simp [State.remoteValue]

@[simp] theorem State.remoteRead_mem (s : State) (c i : Nat) (w : Wave) (n core a va : Nat) :
    (s.remoteRead c i w n core a va).1.mem = s.mem := by
  refine foldl_fst_mem (fun q k => ?_) _ _
  split <;> simp

@[simp] theorem State.remoteWrite_mem (s : State) (c i : Nat) (w : Wave) (bs : List Byte) (core a va : Nat) :
    (s.remoteWrite c i w bs core a va).1.mem = s.mem := by
  refine foldl_fst_mem (fun q k => ?_) _ _
  split <;> simp

/-! ### Fetching a word -/

@[simp] theorem State.wf_fetchDest (s : State) (c i pc : Nat) (h : Memory.wf s.mem = true) :
    Memory.wf (s.fetchDest c i pc).1.mem = true := by
  unfold State.fetchDest
  dsimp only
  split
  · exact h
  · split
    all_goals next heq => simpa using wf_of_fst heq (by simp [h])

@[simp] theorem wf_fetchWait (pc : Nat) (s : State) (h : Memory.wf s.mem = true) : (fetchWait pc s).Wf := by
  unfold fetchWait
  split
  · exact h
  · split
    all_goals
      next heq =>
      have ht := wf_of_fst heq (by simp [h])
      simp [ht]

@[simp] theorem State.fetchBlock_mem (s : State) (c i : Nat) (w : Wave) (d : Dest) : (s.fetchBlock c i w d).1.mem = s.mem := by
  unfold State.fetchBlock
  split
  all_goals simp

@[simp] theorem State.wf_fetchArrives (s : State) (c i : Nat) (h : Memory.wf s.mem = true) :
    Memory.wf (s.fetchArrives c i).mem = true := by
  unfold State.fetchArrives
  dsimp only
  split
  · split
    · next heq =>
      have ht := wf_of_fst heq (by simp [h])
      split
      · simp [ht]
      · split
        all_goals next heq => simpa using wf_of_fst heq (by simp [ht])
    · next heq => exact wf_of_fst heq (by simp [h])
  · exact h

@[simp] theorem wf_execFetchBlockArrival (s : State) (h : Memory.wf s.mem = true) : OutcomeWf (execFetchBlockArrival s) := by
  simp [execFetchBlockArrival, h]

/-! ### Memory lane words -/

theorem wf_resolveLanes (s : State) (f : State → Nat → State × Except ReqFault Dest) (lanes : List Nat)
    (hf : ∀ s l, Memory.wf s.mem = true → Memory.wf (f s l).1.mem = true) (h : Memory.wf s.mem = true) :
    Memory.wf (resolveLanes s f lanes).1.mem = true :=
  wf_foldl_fst (f := fun q l => ((f q.1 l).1, q.2 ++ [(l, (f q.1 l).2)])) (fun q l => hf q.1 l) lanes (s, []) h

@[simp] theorem wf_loadLanes (c i : Nat) (wv : Wave) (w : LaneWord) (p : Path) (wide : Bool) (n : Nat)
    (ds : List (Nat × Except ReqFault Dest)) (s : State) (h : Memory.wf s.mem = true) :
    Memory.wf (loadLanes c i wv w p wide n ds s).s.mem = true := by
  unfold loadLanes
  split
  · exact h
  · refine wf_foldl_out (fun o d ho => ?_) _ _ h
    dsimp only
    split <;> simp [ho]

@[simp] theorem wf_storeLanes (c i : Nat) (wv : Wave) (w : LaneWord) (wide : Bool) (data : Nat → List Byte)
    (ds : List (Nat × Except ReqFault Dest)) (s : State) (h : Memory.wf s.mem = true) :
    Memory.wf (storeLanes c i wv w wide data ds s).s.mem = true := by
  refine wf_foldl (fun s d h => ?_) ds s h
  split <;> simp [h]

@[simp] theorem wf_atomicLanes (cas : Bool) (c i : Nat) (e : LaneEnv) (w : LaneWord) (wide : Bool)
    (ds : List (Nat × Except ReqFault Dest)) (s : State) (h : Memory.wf s.mem = true) :
    Memory.wf (atomicLanes cas c i e w wide ds s).s.mem = true := by
  refine wf_foldl_out (fun o d ho => ?_) ds _ h
  dsimp only
  split
  · exact ho
  · split <;> simp [ho]

@[simp] theorem wf_memTargets (window atomic : Bool) (cache : CacheId) (k : AccKind) (e : LaneEnv) (w : LaneWord) (n : Nat)
    (lanes : List Nat) (s : State) (h : Memory.wf s.mem = true) :
    Memory.wf (memTargets window atomic cache k e w n lanes s).1.mem = true := by
  refine wf_resolveLanes s _ lanes (fun s l h => ?_) h
  dsimp only
  split <;> simp [h]

@[simp] theorem State.useLanes_mem (s : State) (n : Nat) (ds : List (Nat × Except ReqFault Dest)) :
    (s.useLanes n ds).mem = s.mem := by
  refine foldl_mem _ (fun s d => ?_) ds s
  split <;> rfl

@[simp] theorem wf_memPerform (m : MemWord) (e : LaneEnv) (w : LaneWord) (lanes : List Nat) (s : State)
    (h : Memory.wf s.mem = true) : Memory.wf (memPerform m e w lanes s).s.mem = true := by
  unfold memPerform
  repeat' split
  all_goals simp [h]

@[simp] theorem wf_memOwn (window : Bool) (k : AccKind) (n : Nat) (as : List Nat) (s : State) (h : Memory.wf s.mem = true) :
    IssuesWf (memOwn window k n as s) := by
  unfold memOwn
  dsimp only
  split
  · simp [h]
  · split <;> simp [h]

@[simp] theorem wf_memAfter (window : Bool) (k : AccKind) (n : Nat) (as : List Nat) (s : State) (h : Memory.wf s.mem = true) :
    IssuesWf (memAfter window k n as s) := by
  unfold memAfter
  dsimp only
  split
  · split
    · simp [h]
    · intro i hi
      obtain ⟨q, -, hq⟩ := List.exists_of_findSome?_eq_some hi
      exact wf_tileReady _ _ _ _ _ h _ hq
  · simp [h]

@[simp] theorem wf_memFinish (i : Instr) (len la lat : Nat) (long acq : Bool) (locs : List Loc) (pc : Word) (o : MemOut)
    (h : Memory.wf o.s.mem = true) : (memFinish i len la lat long acq locs pc o).Wf := by
  unfold memFinish
  split <;> simp [h]

@[simp] theorem wf_memWord (i : Instr) (major : Nat) (m : MemWord) (w : LaneWord) (s : State) (h : Memory.wf s.mem = true) :
    OutcomeWf (memWord i major m w s) := by
  refine (Issue.outcomeWf_finish _).mpr (wf_laneIssueWith _ _ _ _ _ _ s h (by simp [h]) (fun ops => ?_))
  have hafter := wf_memAfter m.window m.kind (m.size w) ((laneEnv s w).lanes.map ((laneEnv s w).address w m.window m.isAtomic)) s h
  split
  · next heq => exact hafter _ heq
  · simp [h]

@[simp] theorem wf_execVldGlobal (w : LaneWord) (s : State) (h : Memory.wf s.mem = true) : OutcomeWf (execVldGlobal w s) := by
  simp [execVldGlobal, h]

@[simp] theorem wf_execVstGlobal (w : LaneWord) (s : State) (h : Memory.wf s.mem = true) : OutcomeWf (execVstGlobal w s) := by
  simp [execVstGlobal, h]

@[simp] theorem wf_execVldWindow (w : LaneWord) (s : State) (h : Memory.wf s.mem = true) : OutcomeWf (execVldWindow w s) := by
  simp [execVldWindow, h]

@[simp] theorem wf_execVstWindow (w : LaneWord) (s : State) (h : Memory.wf s.mem = true) : OutcomeWf (execVstWindow w s) := by
  simp [execVstWindow, h]

@[simp] theorem wf_execVldc (w : LaneWord) (s : State) (h : Memory.wf s.mem = true) : OutcomeWf (execVldc w s) := by
  simp [execVldc, h]

@[simp] theorem wf_execVamoGlobal (w : LaneWord) (s : State) (h : Memory.wf s.mem = true) : OutcomeWf (execVamoGlobal w s) := by
  simp [execVamoGlobal, h]

@[simp] theorem wf_execVamoWindow (w : LaneWord) (s : State) (h : Memory.wf s.mem = true) : OutcomeWf (execVamoWindow w s) := by
  simp [execVamoWindow, h]

@[simp] theorem wf_execVcasGlobal (w : LaneWord) (s : State) (h : Memory.wf s.mem = true) : OutcomeWf (execVcasGlobal w s) := by
  simp [execVcasGlobal, h]

@[simp] theorem wf_execVcasWindow (w : LaneWord) (s : State) (h : Memory.wf s.mem = true) : OutcomeWf (execVcasWindow w s) := by
  simp [execVcasWindow, h]

@[simp] theorem wf_spadWord (major : Nat) (m : MemWord) (w : LaneWord) (s : State) (h : Memory.wf s.mem = true) :
    OutcomeWf (spadWord major m w s) := by
  refine (Issue.outcomeWf_finish _).mpr (wf_laneIssueWith _ _ _ _ _ _ s h (by simp [h]) (fun ops => ?_))
  dsimp only
  split
  · next heq => exact wf_tileReady _ _ _ _ s h _ heq
  · split
    · exact h
    · split
      · next heq => exact wf_raceFault _ _ _ _ _ s h _ heq
      · cases m <;> simp [h]

@[simp] theorem wf_execVldScratchpad (w : LaneWord) (s : State) (h : Memory.wf s.mem = true) :
    OutcomeWf (execVldScratchpad w s) := by
  simp [execVldScratchpad, h]

@[simp] theorem wf_execVstScratchpad (w : LaneWord) (s : State) (h : Memory.wf s.mem = true) :
    OutcomeWf (execVstScratchpad w s) := by
  simp [execVstScratchpad, h]

@[simp] theorem wf_execVamoScratchpad (w : LaneWord) (s : State) (h : Memory.wf s.mem = true) :
    OutcomeWf (execVamoScratchpad w s) := by
  simp [execVamoScratchpad, h]

@[simp] theorem wf_execVcasScratchpad (w : LaneWord) (s : State) (h : Memory.wf s.mem = true) :
    OutcomeWf (execVcasScratchpad w s) := by
  simp [execVcasScratchpad, h]

theorem State.wf_prefetch (s : State) (e : LaneEnv) (w : LaneWord) (l : Nat) (h : Memory.wf s.mem = true) :
    Memory.wf (match s.resolve s.curCore s.curSlot e.wave .lane .load (e.address w false false l) 1 with
      | (s', .ok (.mem va t)) =>
        if t.mt ≠ 0 then s'
        else if w.func.getLsbD 0 then s'.touchL2 t.pa e.wave.dom false
        else (s'.cachedRead s'.curCore .lane e.wave.dom e.wave.pasid va t.pa 1).1
      | _ => s).mem = true := by
  split
  · next heq =>
    have ht := wf_of_fst heq (by simp [h])
    simp [ht]
  · exact h

@[simp] theorem wf_execVpf (w : LaneWord) (s : State) (h : Memory.wf s.mem = true) : OutcomeWf (execVpf w s) := by
  refine (Issue.outcomeWf_finish _).mpr (wf_laneIssue _ _ _ _ _ s h (fun _ => ?_))
  refine wf_ordinaryDone _ _ _ (wf_foldl (fun s l h => ?_) _ s h)
  dsimp only
  split
  · exact h
  · exact s.wf_prefetch _ w l h

@[simp] theorem wf_lockTarget (k : AccKind) (w : LaneWord) (s : State) (h : Memory.wf s.mem = true) :
    Memory.wf (lockTarget k w s).1.mem = true := by
  simp [lockTarget, h]

@[simp] theorem wf_lockOwn (w : LaneWord) (e : LaneEnv) (s : State) (h : Memory.wf s.mem = true) :
    IssuesWf (lockOwn w e s) := by
  simp [lockOwn, h]

@[simp] theorem wf_lockPerform (w : LaneWord) (s : State) (h : Memory.wf s.mem = true) :
    Memory.wf (lockPerform w s).s.mem = true := by
  unfold lockPerform
  dsimp only
  repeat' split
  all_goals simp [h]

@[simp] theorem wf_unlockPerform (w : LaneWord) (s : State) (h : Memory.wf s.mem = true) :
    Memory.wf (unlockPerform w s).s.mem = true := by
  unfold unlockPerform
  dsimp only
  split
  all_goals simp [h]

@[simp] theorem wf_execAmoLock (w : LaneWord) (s : State) (h : Memory.wf s.mem = true) : OutcomeWf (execAmoLock w s) := by
  refine (Issue.outcomeWf_finish _).mpr (wf_laneIssueWith _ _ _ _ _ _ s h (by simp [h]) (fun _ => ?_))
  split
  · simp [h]
  · split
    · next heq => exact wf_memAfter _ _ _ _ s h _ heq
    · simp [h]

@[simp] theorem wf_execAmoUnlk (w : LaneWord) (s : State) (h : Memory.wf s.mem = true) : OutcomeWf (execAmoUnlk w s) := by
  refine (Issue.outcomeWf_finish _).mpr (wf_laneIssueWith _ _ _ _ _ _ s h (by simp [h]) (fun _ => ?_))
  split
  · simp [h]
  · split
    · next heq => exact wf_memAfter _ _ _ _ s h _ heq
    · simp [h]

@[simp] theorem wf_xldPerform (w : LaneWord) (s : State) (h : Memory.wf s.mem = true) :
    Memory.wf (xldPerform w s).s.mem = true := by
  unfold xldPerform
  dsimp only
  split
  all_goals simp [h]

@[simp] theorem wf_xstPerform (w : LaneWord) (s : State) (h : Memory.wf s.mem = true) :
    Memory.wf (xstPerform w s).s.mem = true := by
  unfold xstPerform
  dsimp only
  split
  all_goals simp [h]

@[simp] theorem wf_windowWord (i : Instr) (major : Nat) (k : AccKind) (w : LaneWord) (perform : State → MemOut) (s : State)
    (h : Memory.wf s.mem = true) (hp : Memory.wf (perform s).s.mem = true) : OutcomeWf (windowWord i major k w perform s) := by
  refine (Issue.outcomeWf_finish _).mpr (wf_laneIssueWith _ _ _ _ _ _ s h (by simp [h]) (fun ops => ?_))
  split
  · simp [h]
  · split
    · next heq => exact wf_memAfter _ _ _ _ s h _ heq
    · simp [h, hp]

@[simp] theorem wf_execXld (w : LaneWord) (s : State) (h : Memory.wf s.mem = true) : OutcomeWf (execXld w s) :=
  wf_windowWord _ _ _ _ _ s h (wf_xldPerform w s h)

@[simp] theorem wf_execXst (w : LaneWord) (s : State) (h : Memory.wf s.mem = true) : OutcomeWf (execXst w s) :=
  wf_windowWord _ _ _ _ _ s h (wf_xstPerform w s h)

@[simp] theorem wf_accDomain (s : State) (write : Bool) (k : Nat) (tval : Word) (h : Memory.wf s.mem = true) :
    IssuesWf (accDomain s write k tval) := by
  unfold accDomain
  split
  all_goals simp [h]

@[simp] theorem wf_accWord (major : Nat) (store : Bool) (w : LaneWord) (s : State) (h : Memory.wf s.mem = true) :
    OutcomeWf (accWord major store w s) := by
  refine (Issue.outcomeWf_finish _).mpr (wf_laneIssueWith _ _ _ _ _ _ s h (by simp [h]) (fun _ => ?_))
  dsimp only
  split
  · simp [h]
  · split
    · next heq => exact wf_accDomain _ _ _ _ h _ heq
    · rw [Issue.wf_ite]
      refine ⟨fun _ => h, fun _ => ?_⟩
      split <;> simp [h]

@[simp] theorem wf_execVldAccumulator (w : LaneWord) (s : State) (h : Memory.wf s.mem = true) :
    OutcomeWf (execVldAccumulator w s) := by
  simp [execVldAccumulator, h]

@[simp] theorem wf_execVstAccumulator (w : LaneWord) (s : State) (h : Memory.wf s.mem = true) :
    OutcomeWf (execVstAccumulator w s) := by
  simp [execVstAccumulator, h]

/-! ### The RISC-V words -/

@[simp] theorem wf_rvRegs (s : State) (upds : List Upd) (h : Memory.wf s.mem = true) : (rvRegs s upds).Wf := h

@[simp] theorem wf_hartCheck (k : AccKind) (cause a n : Nat) {o : RvOut} (h : hartCheck k cause a n = some o) : o.Wf := by
  unfold hartCheck at h
  split at h
  · cases h; trivial
  · split at h <;> cases h; trivial

@[simp] theorem wf_rvJump (s : State) (upds : List Upd) (target : Word) (h : Memory.wf s.mem = true) :
    (rvJump s upds target).Wf := by
  simp [rvJump, h]

@[simp] theorem wf_hartLoad (s : State) (w : Wave) (a n : Nat) (locs : List Loc) (wideAcq : Bool) (ack : AckPut)
    (put : Nat → List Upd) (h : Memory.wf s.mem = true) : (hartLoad s w a n locs wideAcq ack put).Wf := by
  unfold hartLoad
  split
  · next heq => exact wf_hartCheck _ _ _ _ heq
  · split
    all_goals next heq => have ht := wf_of_fst heq (by simp [h]); simp [ht]

@[simp] theorem wf_hartStore (s : State) (w : Wave) (a n v : Nat) (h : Memory.wf s.mem = true) :
    (hartStore s w a n v).Wf := by
  unfold hartStore
  split
  · next heq => exact wf_hartCheck _ _ _ _ heq
  · split
    all_goals next heq => have ht := wf_of_fst heq (by simp [h]); simp [ht]

@[simp] theorem wf_hartAmo (s : State) (w : Wave) (op : AmoOp) (n : Nat) (aq rl : Bool) (rd a src : Nat)
    (h : Memory.wf s.mem = true) : (hartAmo s w op n aq rl rd a src).Wf := by
  unfold hartAmo
  split
  · next heq => exact wf_hartCheck _ _ _ _ heq
  · split
    · trivial
    · split
      · next heq => exact wf_of_fst heq (by simp [h])
      · next heq =>
        have ht := wf_of_fst heq (by simp [h])
        dsimp only
        split <;> simp [ht]

@[simp] theorem wf_hartLr (s : State) (w : Wave) (n : Nat) (aq rl : Bool) (rd a : Nat) (h : Memory.wf s.mem = true) :
    (hartLr s w n aq rl rd a).Wf := by
  unfold hartLr
  split
  · next heq => exact wf_hartCheck _ _ _ _ heq
  · split
    · trivial
    · split
      · next heq => exact wf_of_fst heq (by simp [h])
      · next t d heq =>
        have ht := wf_of_fst heq (by simp [h])
        have hrel : Memory.wf (if rl then t.releaseAt t.curCore true else t).mem = true := by simp [ht]
        dsimp only
        split
        · split
          all_goals next heq => simpa using wf_of_fst heq (by simpa using hrel)
        · simp [hrel]

@[simp] theorem wf_hartSc (s : State) (w : Wave) (n : Nat) (aq rl : Bool) (rd a src : Nat) (h : Memory.wf s.mem = true) :
    (hartSc s w n aq rl rd a src).Wf := by
  unfold hartSc
  split
  · next heq => exact wf_hartCheck _ _ _ _ heq
  · split
    · trivial
    · split
      · next heq => exact wf_of_fst heq (by simp [h])
      · next t d heq =>
        have ht := wf_of_fst heq (by simp [h])
        cases d with
        | remote k b va =>
          dsimp only
          simp only [RvOut.wf_ite, RvOut.wf_later, State.modWave_mem, State.serveQueue_mem, ht, implies_true, true_and]
          intro _
          have hrel : Memory.wf ((((t.serveQueue k).modWave (fun q => { q with reservation := none })).releaseAt
              (t.serveQueue k).curCore rl)).mem = true := by simp [ht]
          split
          · simp [hrel]
          · simp [hrel]
        | _ => simp [ht]

@[simp] theorem wf_rvCsr (s : State) (w : Wave) (op : CsrOp) (rd : BitVec 5) (writes : Bool) (src : Word) (n : Nat)
    (h : Memory.wf s.mem = true) : (rvCsr s w op rd writes src n).Wf := h

@[simp] theorem wf_rvPerform (i : Rv) (r : Wave) (s : State) (h : Memory.wf s.mem = true) : (rvPerform i r s).Wf := by
  unfold rvPerform
  split
  all_goals simp [h]

@[simp] theorem wf_rvIssue (i : Rv) (s : State) (h : Memory.wf s.mem = true) : (rvIssue i s).Wf := by
  unfold rvIssue
  split
  · trivial
  · split
    · simp [h]
    · split
      · next heq => exact wf_lookahead s _ h _ heq
      · have hp := wf_rvPerform i s.wave s h
        dsimp only
        split
        · exact h
        · exact h
        · exact h
        · next heq => rw [heq, RvOut.wf_late] at hp; simp [hp]
        · next heq => rw [heq, RvOut.wf_now] at hp; simp [hp]
        · next heq => rw [heq, RvOut.wf_later] at hp; simp [hp]

@[simp] theorem wf_execRiscvScalarInstruction (i : Rv) (s : State) (h : Memory.wf s.mem = true) :
    OutcomeWf (execRiscvScalarInstruction i s) := by
  simp [execRiscvScalarInstruction, h]

/-! ### Words that act on the wave -/

theorem wf_baseWord (enc : BitVec 32) (locs : List Loc) (legal : Wave → Bool) (body : State → Issue) (s : State)
    (h : Memory.wf s.mem = true) (hb : (body s).Wf) : OutcomeWf (baseWord enc locs legal body s) := by
  unfold baseWord
  split
  · trivial
  · split
    · simp [h]
    · split
      · next heq => exact (Issue.outcomeWf_finish _).mpr (wf_lookahead s _ h _ heq)
      · exact (Issue.outcomeWf_finish _).mpr hb

@[simp] theorem wf_execEcall (s : State) (h : Memory.wf s.mem = true) : OutcomeWf (execEcall s) := wf_baseWord _ _ _ _ s h h

@[simp] theorem wf_execMret (s : State) (h : Memory.wf s.mem = true) : OutcomeWf (execMret s) := wf_baseWord _ _ _ _ s h h

@[simp] theorem wf_execSret (s : State) (h : Memory.wf s.mem = true) : OutcomeWf (execSret s) := wf_baseWord _ _ _ _ s h h

@[simp] theorem wf_execWfi (s : State) (h : Memory.wf s.mem = true) : OutcomeWf (execWfi s) := wf_baseWord _ _ _ _ s h h

@[simp] theorem wf_execFenceI (rd rs1 : BitVec 5) (imm : BitVec 12) (s : State) (h : Memory.wf s.mem = true) :
    OutcomeWf (execFenceI rd rs1 imm s) := by
  refine wf_baseWord _ _ _ _ s h ?_
  simp [h]

@[simp] theorem State.wf_retire (s : State) (c i : Nat) (h : Memory.wf s.mem = true) : Memory.wf (s.retire c i).mem = true := by
  unfold State.retire
  rw [State.schedule_mem, State.modSlotAt_mem, wf_ite]
  exact ⟨fun _ => s.wf_agentWriteAs _ _ _ h, fun _ => h⟩

@[simp] theorem wf_execWaveEnd (s : State) (h : Memory.wf s.mem = true) : OutcomeWf (execWaveEnd s) := by
  refine wf_deviceIssue _ _ _ _ s h ?_
  simp [h]

@[simp] theorem wf_execYield (s : State) (h : Memory.wf s.mem = true) : OutcomeWf (execYield s) :=
  wf_deviceIssue _ _ _ _ s h h

@[simp] theorem wf_execFenceScope (sc : BitVec 3) (s : State) (h : Memory.wf s.mem = true) :
    OutcomeWf (execFenceScope sc s) := by
  refine wf_deviceIssue _ _ _ _ s h ?_
  simp [h]

@[simp] theorem wf_execPfence (p : BitVec 5) (s : State) (h : Memory.wf s.mem = true) : OutcomeWf (execPfence p s) :=
  wf_deviceIssue _ _ _ _ s h (wf_foldl (fun s k h => by simp [h]) _ s h)

@[simp] theorem wf_waitaDest (s : State) (win : Bool) (a n : Nat) (h : Memory.wf s.mem = true) :
    Memory.wf (waitaDest s win a n).1.mem = true := by
  unfold waitaDest
  split
  all_goals simp [h]

@[simp] theorem wf_waitaRead (s : State) (wide : Bool) (n : Nat) (d : Dest) (h : Memory.wf s.mem = true) :
    Memory.wf (waitaRead s wide n d).1.mem = true := by
  unfold waitaRead
  split
  all_goals simp [h]

@[simp] theorem wf_execWaita (sc : BitVec 3) (b a d : BitVec 5) (s : State) (h : Memory.wf s.mem = true) :
    OutcomeWf (execWaita sc b a d s) := by
  refine wf_deviceIssue _ _ _ _ s h ?_
  simp only [Issue.wf_ite, Issue.wf_trap, Issue.wf_park, Issue.wf_hold, h, implies_true, true_and]
  intro _ _ _
  split
  · next heq => exact wf_memOwn _ _ _ _ s h _ heq
  · next heq => exact wf_memAfter _ _ _ _ s h _ heq
  · split
    · next heq => exact wf_lateAtWord _ _ (wf_of_fst heq (wf_waitaDest s _ _ _ h))
    · next heq =>
      have ht := wf_of_fst heq (wf_waitaDest s _ _ _ h)
      split
      · next heq => exact wf_lateAtWord _ _ (wf_of_fst heq (wf_waitaRead _ _ _ _ ht))
      · next heq =>
        have hu := wf_of_fst heq (wf_waitaRead _ _ _ _ ht)
        simp [hu]

@[simp] theorem wf_compatWord (w : BitVec 32) (s : State) (h : Memory.wf s.mem = true) : OutcomeWf (compatWord w s) := by
  unfold compatWord
  refine wf_baseWord _ _ _ _ s h ?_
  dsimp only
  repeat' split
  all_goals simp [h]

@[simp] theorem wf_retiredWord (i : Instr) (s : State) (h : Memory.wf s.mem = true) : OutcomeWf (retiredWord i s) := by
  simp [retiredWord, h]

@[simp] theorem wf_execLmulhh (b a d : BitVec 5) (s : State) (h : Memory.wf s.mem = true) : OutcomeWf (execLmulhh b a d s) := by
  simp [execLmulhh, h]

@[simp] theorem wf_execLsumh (b a d : BitVec 5) (s : State) (h : Memory.wf s.mem = true) : OutcomeWf (execLsumh b a d s) := by
  simp [execLsumh, h]

@[simp] theorem wf_execLinrng (b a d : BitVec 5) (s : State) (h : Memory.wf s.mem = true) : OutcomeWf (execLinrng b a d s) := by
  simp [execLinrng, h]

@[simp] theorem wf_execLsatw (b a d : BitVec 5) (s : State) (h : Memory.wf s.mem = true) : OutcomeWf (execLsatw b a d s) := by
  simp [execLsatw, h]

@[simp] theorem wf_execLrevh (a d : BitVec 5) (s : State) (h : Memory.wf s.mem = true) : OutcomeWf (execLrevh a d s) := by
  simp [execLrevh, h]

@[simp] theorem wf_execLinsb (b a d : BitVec 5) (s : State) (h : Memory.wf s.mem = true) : OutcomeWf (execLinsb b a d s) := by
  simp [execLinsb, h]

@[simp] theorem wf_execCompatRequestService (s : State) (h : Memory.wf s.mem = true) :
    OutcomeWf (execCompatRequestService s) := by
  unfold execCompatRequestService
  dsimp only
  split
  all_goals simp [h]

@[simp] theorem wf_execIllegalInstruction (s : State) (h : Memory.wf s.mem = true) : OutcomeWf (execIllegalInstruction s) := by
  simp [execIllegalInstruction, h]

/-! ### Barriers, `elect` and counters -/

@[simp] theorem State.modBar_mem (s : State) (k j n : Nat) (f : Barrier → Barrier) : (s.modBar k j n f).mem = s.mem := rfl

@[simp] theorem State.teamAcquire_mem (s : State) (k j c dom : Nat) : (s.teamAcquire k j c dom).mem = s.mem := by
  simp [State.teamAcquire]

@[simp] theorem State.releaseWaiter_mem (s : State) (k j len : Nat) (q : Nat × Nat) :
    (s.releaseWaiter k j len q).mem = s.mem := by
  simp [State.releaseWaiter]

@[simp] theorem State.electAll_mem (s : State) (k j n : Nat) : (s.electAll k j n).mem = s.mem := by
  unfold State.electAll
  dsimp only
  split
  · rfl
  · split
    · rfl
    · split
      · exact foldl_mem _ (fun s q => by simp [State.applyAt_mem]) _ s
      · rfl

@[simp] theorem State.arrive_mem (s : State) (k j n : Nat) : (s.arrive k j n).mem = s.mem := by
  simp [State.arrive, apply_ite State.mem, foldl_mem]

@[simp] theorem State.countCluster_mem (s : State) (k off : Nat) : (s.countCluster k off).mem = s.mem := rfl

@[simp] theorem State.wf_engineArrive (s : State) (k j n : Nat) (h : Memory.wf s.mem = true) :
    Memory.wf (s.engineArrive k j n).mem = true := by
  simp [State.engineArrive, h]

@[simp] theorem State.leaveWait_mem (s : State) (c i : Nat) : (s.leaveWait c i).mem = s.mem := by
  unfold State.leaveWait
  dsimp only
  split
  all_goals simp

@[simp] theorem State.modMyBar_mem (s : State) (n : Nat) (f : Barrier → Barrier) : (s.modMyBar n f).mem = s.mem := rfl

@[simp] theorem wf_barDomain (write : Bool) (n : Nat) (s : State) (h : Memory.wf s.mem = true) :
    IssuesWf (barDomain write n s) := by
  simp [barDomain, h]

@[simp] theorem wf_barRevoked (n : Nat) (s : State) (h : Memory.wf s.mem = true) : IssuesWf (barRevoked n s) := by
  simp [barRevoked, h]

@[simp] theorem State.wf_teamRelease (s : State) (h : Memory.wf s.mem = true) : Memory.wf s.teamRelease.mem = true := by
  simp [State.teamRelease, h]

@[simp] theorem wf_execBarInit (n a : BitVec 5) (s : State) (h : Memory.wf s.mem = true) : OutcomeWf (execBarInit n a s) := by
  refine wf_deviceIssue _ _ _ _ s h ?_
  simp [h]

@[simp] theorem wf_execBarArrive (n d : BitVec 5) (s : State) (h : Memory.wf s.mem = true) :
    OutcomeWf (execBarArrive n d s) := by
  refine wf_deviceIssue _ _ _ _ s h ?_
  have hrel := State.wf_teamRelease s h
  simp [h, hrel]

@[simp] theorem wf_execBarWait (n a : BitVec 5) (s : State) (h : Memory.wf s.mem = true) : OutcomeWf (execBarWait n a s) := by
  refine wf_deviceIssue _ _ _ _ s h ?_
  simp [h]

@[simp] theorem State.revokeWaiter_mem (s : State) (n : Nat) (q : Nat × Nat) : (s.revokeWaiter n q).mem = s.mem := rfl

@[simp] theorem wf_execBarInv (n : BitVec 5) (s : State) (h : Memory.wf s.mem = true) : OutcomeWf (execBarInv n s) := by
  refine wf_scalarWord s _ _ _ _ _ h ?_
  rw [wf_afterCheck]
  refine ⟨by simp [h], fun _ => wf_foldl (fun s q h => ?_) _ s h⟩
  exact h

@[simp] theorem wf_electArrive (n : Nat) (v : BitVec 32) (s : State) (h : Memory.wf s.mem = true) : (electArrive n v s).Wf := by
  simp [electArrive, h]

@[simp] theorem wf_execElect (n : BitVec 5) (s : State) (h : Memory.wf s.mem = true) : OutcomeWf (execElect n s) := by
  unfold execElect
  dsimp only
  split
  · trivial
  · split
    · simp [h]
    · split
      · simp [h]
      · split
        · simp [h]
        · split
          · simp [h]
          · split
            · simp [h]
            · split
              · next heq => exact (Issue.outcomeWf_finish _).mpr (wf_lookahead s _ h _ heq)
              · simp [h]

@[simp] theorem wf_execChunk (a d : BitVec 5) (s : State) (h : Memory.wf s.mem = true) : OutcomeWf (execChunk a d s) := by
  refine wf_scalarWord s _ _ _ _ _ h ?_
  simp [h]

@[simp] theorem State.setUnits_mem (s : State) (dom v : Nat) : (s.setUnits dom v).mem = s.mem := rfl

@[simp] theorem State.charge_mem (s : State) (dom n : Nat) : (s.charge dom n).mem = s.mem := rfl

@[simp] theorem State.budgetAdd_mem (s : State) (dom : Nat) (v : Word) : (s.budgetAdd dom v).mem = s.mem := rfl

@[simp] theorem wf_execBudgetAdd (s : State) (h : Memory.wf s.mem = true) : OutcomeWf (execBudgetAdd s) := by
  simp [execBudgetAdd, h]

@[simp] theorem State.chargeCore_mem (s : State) (c dom : Nat) : (s.chargeCore c dom).mem = s.mem := by
  simp [State.chargeCore, apply_ite State.mem]

@[simp] theorem wf_execCoreBudgetCharge (s : State) (h : Memory.wf s.mem = true) : OutcomeWf (execCoreBudgetCharge s) := by
  simp [execCoreBudgetCharge, h]

/-! ### Conversion words -/

@[simp] theorem wf_convertWord (major : Nat) (f64 : Bool) (w : LaneWord) (f : LaneEnv → Narrow → Nat → List Upd) (s : State)
    (h : Memory.wf s.mem = true) : OutcomeWf (convertWord major f64 w f s) := by
  refine (Issue.outcomeWf_finish _).mpr (wf_laneIssue _ _ _ _ _ s h (fun _ => ?_))
  simp [h]

@[simp] theorem wf_execVcvtf (w : LaneWord) (s : State) (h : Memory.wf s.mem = true) : OutcomeWf (execVcvtf w s) := by
  simp [execVcvtf, h]

@[simp] theorem wf_execVcvtfi (w : LaneWord) (s : State) (h : Memory.wf s.mem = true) : OutcomeWf (execVcvtfi w s) := by
  simp [execVcvtfi, h]

@[simp] theorem wf_execVcvtif (w : LaneWord) (s : State) (h : Memory.wf s.mem = true) : OutcomeWf (execVcvtif w s) := by
  simp [execVcvtif, h]

@[simp] theorem wf_execVcvtii (w : LaneWord) (s : State) (h : Memory.wf s.mem = true) : OutcomeWf (execVcvtii w s) := by
  simp [execVcvtii, h]

@[simp] theorem wf_execVunpk4 (w : LaneWord) (s : State) (h : Memory.wf s.mem = true) : OutcomeWf (execVunpk4 w s) := by
  simp [execVunpk4, h]

@[simp] theorem wf_execVpk4 (w : LaneWord) (s : State) (h : Memory.wf s.mem = true) : OutcomeWf (execVpk4 w s) := by
  simp [execVpk4, h]

@[simp] theorem wf_execVpk2 (w : LaneWord) (s : State) (h : Memory.wf s.mem = true) : OutcomeWf (execVpk2 w s) := by
  simp [execVpk2, h]

@[simp] theorem wf_execVunp2 (w : LaneWord) (s : State) (h : Memory.wf s.mem = true) : OutcomeWf (execVunp2 w s) := by
  simp [execVunp2, h]

@[simp] theorem wf_execVpk8 (w : LaneWord) (s : State) (h : Memory.wf s.mem = true) : OutcomeWf (execVpk8 w s) := by
  simp [execVpk8, h]

@[simp] theorem wf_execVunp8 (w : LaneWord) (s : State) (h : Memory.wf s.mem = true) : OutcomeWf (execVunp8 w s) := by
  simp [execVunp8, h]

@[simp] theorem wf_execVcvtxf (w : LaneWord) (s : State) (h : Memory.wf s.mem = true) : OutcomeWf (execVcvtxf w s) := by
  simp [execVcvtxf, h]

@[simp] theorem wf_execVcvtfx (w : LaneWord) (s : State) (h : Memory.wf s.mem = true) : OutcomeWf (execVcvtfx w s) := by
  simp [execVcvtfx, h]

/-! ### The operand buffer and the matrix words -/

@[simp] theorem wf_resvDomFault (s : State) (write : Bool) (n : Nat) (r : Reserv) (h : Memory.wf s.mem = true) :
    (resvDomFault s write n r).Wf := h

@[simp] theorem wf_execObRsv (n : BitVec 3) (b a d : BitVec 5) (s : State) (h : Memory.wf s.mem = true) :
    OutcomeWf (execObRsv n b a d s) := by
  refine wf_deviceIssue _ _ _ _ s h ?_
  dsimp only
  repeat' split
  all_goals simp [h]

@[simp] theorem wf_execObRel (n : BitVec 3) (d : BitVec 5) (s : State) (h : Memory.wf s.mem = true) :
    OutcomeWf (execObRel n d s) := by
  refine wf_deviceIssue _ _ _ _ s h ?_
  dsimp only
  split
  all_goals simp [h]

@[simp] theorem wf_partialMask (e : LaneEnv) (s : State) (h : Memory.wf s.mem = true) : IssuesWf (partialMask e s) := by
  simp [partialMask, h]

theorem wf_matrixWord (major : Nat) (w : LaneWord) (body : LaneEnv → List Operand → State → Issue) (s : State)
    (h : Memory.wf s.mem = true) (hb : ∀ ops, (body (laneEnv s w) ops s).Wf) : OutcomeWf (matrixWord major w body s) :=
  (Issue.outcomeWf_finish _).mpr (wf_laneIssueWith major _ w _ _ body s h (wf_partialMask _ s h) hb)

@[simp] theorem wf_accForeign (write : Bool) (ks : List Nat) (s : State) (h : Memory.wf s.mem = true) :
    IssuesWf (accForeign write ks s) := by
  simp [accForeign, h]

@[simp] theorem wf_accUnheld (write : Bool) (ks : List Nat) (s : State) (h : Memory.wf s.mem = true) :
    IssuesWf (accUnheld write ks s) := by
  simp [accUnheld, h]

@[simp] theorem wf_accCheck (write : Bool) (ks : List Nat) (s : State) (h : Memory.wf s.mem = true) :
    IssuesWf (accCheck write ks s) := by
  simp [accCheck, h]

@[simp] theorem wf_resvForeign (write : Bool) (ns : List Nat) (s : State) (h : Memory.wf s.mem = true) :
    IssuesWf (resvForeign write ns s) := by
  refine issuesWf_findSome? ns _ (fun n => ?_)
  split <;> simp [h]

@[simp] theorem wf_resvUnheld (write : Bool) (ns : List Nat) (s : State) (h : Memory.wf s.mem = true) :
    IssuesWf (resvUnheld write ns s) := by
  simp [resvUnheld, h]

@[simp] theorem wf_resvCheck (write : Bool) (ns : List Nat) (s : State) (h : Memory.wf s.mem = true) :
    IssuesWf (resvCheck write ns s) := by
  simp [resvCheck, h]

@[simp] theorem wf_execMld (w : LaneWord) (s : State) (h : Memory.wf s.mem = true) : OutcomeWf (execMld w s) := by
  refine wf_matrixWord _ _ _ s h (fun _ => ?_)
  simp [h]

@[simp] theorem wf_multiply (major : Nat) (cascade : Bool) (w : LaneWord) (s : State) (h : Memory.wf s.mem = true) :
    OutcomeWf (multiply major cascade w s) := by
  refine wf_matrixWord _ _ _ s h (fun _ => ?_)
  simp only [wf_afterCheck, issuesWf_or, Issue.wf_ite, Issue.wf_trap, Issue.wf_wait, Issue.wf_hold, h, wf_accForeign,
    wf_resvForeign, wf_accUnheld, wf_resvUnheld, State.count_mem, implies_true, true_and]
  intro _ _ _ _ _ _ _
  exact Issue.wf_andThen _ _ (by simp [h]) (fun s h => by simp [h])

@[simp] theorem wf_execMma (w : LaneWord) (s : State) (h : Memory.wf s.mem = true) : OutcomeWf (execMma w s) := by
  simp [execMma, h]

@[simp] theorem wf_execMmac (w : LaneWord) (s : State) (h : Memory.wf s.mem = true) : OutcomeWf (execMmac w s) := by
  simp [execMmac, h]

@[simp] theorem State.sequencerDone_mem (s : State) (c : Nat) (q : SeqRun) : (s.sequencerDone c q).mem = s.mem := rfl

@[simp] theorem State.afterBlocks_mem (s : State) (c : Nat) (q : SeqRun) : (s.afterBlocks c q).mem = s.mem := by
  simp [State.afterBlocks, apply_ite State.mem]

@[simp] theorem State.kblockStep_mem (s : State) (c : Nat) : (s.kblockStep c).mem = s.mem := by
  unfold State.kblockStep
  dsimp only
  repeat' split
  all_goals simp

@[simp] theorem wf_execSequencerKblockComplete (s : State) (h : Memory.wf s.mem = true) :
    OutcomeWf (execSequencerKblockComplete s) := by
  simp [execSequencerKblockComplete, h]

@[simp] theorem State.interruptSequencer_mem (s : State) (c i : Nat) : (s.interruptSequencer c i).mem = s.mem := by
  unfold State.interruptSequencer
  dsimp only
  repeat' split
  all_goals simp

@[simp] theorem State.swapHalf_mem (s : State) (c n : Nat) : (s.swapHalf c n).mem = s.mem := by
  unfold State.swapHalf
  dsimp only
  repeat' split
  all_goals simp

@[simp] theorem wf_execCascadeSwap (s : State) (h : Memory.wf s.mem = true) : OutcomeWf (execCascadeSwap s) := by
  simp [execCascadeSwap, h]

@[simp] theorem State.handedOff_mem (s : State) (c : Nat) (q : SeqRun) : (s.handedOff c q).mem = s.mem := rfl

@[simp] theorem State.handOff_mem (s : State) (c : Nat) : (s.handOff c).mem = s.mem := by
  unfold State.handOff
  dsimp only
  repeat' split
  all_goals simp

@[simp] theorem wf_execCascadeArrival (s : State) (h : Memory.wf s.mem = true) : OutcomeWf (execCascadeArrival s) := by
  simp [execCascadeArrival, h]

@[simp] theorem wf_accRangeCheck (ks : List Nat) (s : State) (h : Memory.wf s.mem = true) : IssuesWf (accRangeCheck ks s) := by
  unfold accRangeCheck
  dsimp only
  split
  · next heq => exact (issuesWf_some _).mpr (issuesWf_findSome? ks _ (fun k => by simp [h]) _ heq)
  · simp [h]

@[simp] theorem wf_execAccTake (w : LaneWord) (s : State) (h : Memory.wf s.mem = true) : OutcomeWf (execAccTake w s) := by
  refine wf_matrixWord _ _ _ s h (fun _ => ?_)
  simp [h]

@[simp] theorem wf_execAccRel (w : LaneWord) (s : State) (h : Memory.wf s.mem = true) : OutcomeWf (execAccRel w s) := by
  refine wf_matrixWord _ _ _ s h (fun _ => ?_)
  simp [h]

@[simp] theorem wf_execAccClr (w : LaneWord) (s : State) (h : Memory.wf s.mem = true) : OutcomeWf (execAccClr w s) := by
  refine wf_matrixWord _ _ _ s h (fun _ => ?_)
  simp [h]

theorem wf_tileSide (h n : Nat) (k : AccKind) (o : Nat) (s : State) (body : State → Issue) (hs : Memory.wf s.mem = true)
    (hb : (body (raceRecord h n k.writes true [o] s)).Wf) : (tileSide h n k o s body).Wf := by
  simp [tileSide, hs, hb]

@[simp] theorem wf_execAccSt (w : LaneWord) (s : State) (h : Memory.wf s.mem = true) : OutcomeWf (execAccSt w s) := by
  refine wf_matrixWord _ _ _ s h (fun _ => ?_)
  simp [h, tileSide]

@[simp] theorem wf_execAccLd (w : LaneWord) (s : State) (h : Memory.wf s.mem = true) : OutcomeWf (execAccLd w s) := by
  refine wf_matrixWord _ _ _ s h (fun _ => ?_)
  simp [h, tileSide]

@[simp] theorem wf_execAccCvt (w : LaneWord) (s : State) (h : Memory.wf s.mem = true) : OutcomeWf (execAccCvt w s) := by
  refine wf_matrixWord _ _ _ s h (fun _ => ?_)
  simp [h, tileSide]

/-! ### The counting array -/

@[simp] theorem wf_cntDomain (s : State) (write : Bool) (h : Memory.wf s.mem = true) : IssuesWf (cntDomain s write) := by
  simp [cntDomain, h]

@[simp] theorem wf_execCntRsv (a d : BitVec 5) (s : State) (h : Memory.wf s.mem = true) : OutcomeWf (execCntRsv a d s) := by
  refine wf_deviceIssue _ _ _ _ s h ?_
  simp [h]

@[simp] theorem wf_execCntRsvRel (d : BitVec 5) (s : State) (h : Memory.wf s.mem = true) : OutcomeWf (execCntRsvRel d s) := by
  refine wf_deviceIssue _ _ _ _ s h ?_
  simp [h]

@[simp] theorem wf_cntCheck (team write : Bool) (s : State) (h : Memory.wf s.mem = true) :
    IssuesWf (cntCheck team write s) := by
  unfold cntCheck
  split
  · next heq => exact (issuesWf_some _).mpr (wf_cntDomain s write h _ heq)
  · simp [h]

@[simp] theorem wf_execCntClr (k : BitVec 3) (s : State) (h : Memory.wf s.mem = true) : OutcomeWf (execCntClr k s) := by
  refine wf_deviceIssue _ _ _ _ s h ?_
  simp [h]

theorem wf_cntWord (major : Nat) (team : Bool) (w : LaneWord) (fits : Core → Bool) (body : State → Issue) (s : State)
    (h : Memory.wf s.mem = true) (hb : (body s).Wf) : OutcomeWf (cntWord major team w fits body s) :=
  wf_matrixWord major w _ s h (fun _ => by simp [h, hb])

@[simp] theorem wf_cntStart (s : State) (k : Unit → Issue) (h : Memory.wf s.mem = true) (hk : (k ()).Wf) :
    (cntStart s k).Wf := by
  simp [cntStart, h, hk]

@[simp] theorem wf_execCntAcc (w : LaneWord) (s : State) (h : Memory.wf s.mem = true) : OutcomeWf (execCntAcc w s) := by
  unfold execCntAcc
  refine wf_cntWord _ _ _ _ _ s h ?_
  simp [h]

@[simp] theorem wf_execCntMrg (w : LaneWord) (s : State) (h : Memory.wf s.mem = true) : OutcomeWf (execCntMrg w s) := by
  refine wf_cntWord _ _ _ _ _ s h ?_
  simp [h, cntStart]

@[simp] theorem wf_execCntDrn (w : LaneWord) (s : State) (h : Memory.wf s.mem = true) : OutcomeWf (execCntDrn w s) := by
  refine wf_matrixWord _ _ _ s h (fun _ => ?_)
  simp [h, cntStart]

@[simp] theorem wf_execCntSpl (w : LaneWord) (s : State) (h : Memory.wf s.mem = true) : OutcomeWf (execCntSpl w s) := by
  unfold execCntSpl
  refine wf_cntWord _ _ _ _ _ s h (wf_tileSide _ _ _ _ _ _ h ?_)
  simp [h]

@[simp] theorem wf_execCntFil (w : LaneWord) (s : State) (h : Memory.wf s.mem = true) : OutcomeWf (execCntFil w s) := by
  unfold execCntFil
  refine wf_cntWord _ _ _ _ _ s h (wf_tileSide _ _ _ _ _ _ h ?_)
  simp [h]

/-! ### A turn before its word -/

@[simp] theorem State.completeDue_mem (s : State) (c i : Nat) : (s.completeDue c i).mem = s.mem := by
  simp [State.completeDue]

@[simp] theorem State.tick_mem (s : State) (c i : Nat) : (s.tick c i).mem = s.mem := by
  simp [State.tick, apply_ite State.mem]

@[simp] theorem State.takeInterrupt_mem (s : State) (c i : Nat) : (s.takeInterrupt c i).mem = s.mem := by
  unfold State.takeInterrupt
  dsimp only
  repeat' split
  all_goals simp

@[simp] theorem State.takeRaised_mem (s : State) (c i cause : Nat) (tval : Word) :
    (s.takeRaised c i cause tval).mem = s.mem := by
  simp [State.takeRaised]

@[simp] theorem State.takeDeferred_mem (s : State) (c i : Nat) : (s.takeDeferred c i).mem = s.mem := by
  unfold State.takeDeferred
  dsimp only
  repeat' split
  all_goals simp

@[simp] theorem State.askRing_mem (s : State) (c i csa id : Nat) : (s.askRing c i csa id).mem = s.mem := rfl

@[simp] theorem State.beginHandover_mem (s : State) (c i : Nat) : (s.beginHandover c i).mem = s.mem := by
  simp only [State.beginHandover, State.schedule_mem]
  refine (foldl_mem _ (fun s r => ?_) _ _).trans ?_
  · rfl
  · simp [apply_ite State.mem]

@[simp] theorem State.startGrace_mem (s : State) (c i : Nat) : (s.startGrace c i).mem = s.mem := by
  simp [State.startGrace, apply_ite State.mem]

/-! ### Command rings and entries -/

@[simp] theorem State.modRing_mem (s : State) (id : Nat) (f : Ring → Ring) : (s.modRing id f).mem = s.mem := rfl

@[simp] theorem State.tellRanks_mem (s : State) (g : Group) (f : Nat → Out) : (s.tellRanks g f).mem = s.mem :=
  foldl_mem (fun (s : State) r => s.emit (f (fld (s.rankPeer g r) 11 0))) (fun _ _ => rfl) _ s

@[simp] theorem State.referBarriers_mem (s : State) (cls : EngClass) (core team : Nat) (images : List (List Byte)) :
    (s.referBarriers cls core team images).mem = s.mem := by
  refine foldl_mem _ (fun s bs => ?_) images s
  split <;> simp

@[simp] theorem State.countInstances_mem (s : State) (images : List (List Byte)) : (s.countInstances images).1.mem = s.mem :=
  foldl_fst_mem (fun _ _ => by rfl) images (s, [])

@[simp] theorem State.wf_publish (s : State) (core e : Nat) (cls : EngClass) (p : Poster) (n : Nat)
    (h : Memory.wf s.mem = true) : Memory.wf (s.publish core e cls p n).mem = true := by
  unfold State.publish
  dsimp only
  repeat' split
  all_goals simp [h]

@[simp] theorem wf_execWidxStorePublish (s : State) (h : Memory.wf s.mem = true) : OutcomeWf (execWidxStorePublish s) := by
  unfold execWidxStorePublish
  dsimp only
  split
  all_goals simp [h]

@[simp] theorem State.engineTarget_mem (s : State) (g : EngAgent) (k : AccKind) (va n : Nat) :
    (s.engineTarget g k va n).1.mem = s.mem := by
  unfold State.engineTarget
  dsimp only
  split
  · rfl
  · split
    · next heq => exact mem_of_fst heq (State.translate_mem _ _ _)
    · next heq =>
      have ht := mem_of_fst heq (State.translate_mem _ _ _)
      split
      · exact ht
      · split
        · exact ht
        · exact ht
        · split
          · exact ht
          · split
            · exact ht
            · split
              · exact ht
              · exact (State.serveQueue_mem _ _).trans ht
        · split <;> exact ht

@[simp] theorem State.enginePiece_mem (s : State) (g : EngAgent) (n : Nat) (d : Dest) :
    (s.enginePiece g n d).1.mem = s.mem := by
  unfold State.enginePiece
  split
  all_goals simp

@[simp] theorem State.engineRead_mem (s : State) (g : EngAgent) (va n : Nat) : (s.engineRead g va n).1.mem = s.mem := by
  refine foldl_fst_mem (fun q p => ?_) _ _
  split
  · rfl
  · split
    all_goals next heq => simpa [heq] using q.1.engineTarget_mem g .load p.1 p.2

@[simp] theorem State.wf_engineWrite (s : State) (g : EngAgent) (va : Nat) (bs : List Byte) (h : Memory.wf s.mem = true) :
    Memory.wf (s.engineWrite g va bs).1.mem = true := by
  refine wf_foldl_fst (fun q p hq => ?_) _ _ h
  split
  · exact hq
  · split
    · next heq => exact wf_of_fst heq (by simp [hq])
    · next heq =>
      have ht := wf_of_fst heq (by simp [hq])
      dsimp only
      split
      · exact State.wf_agentWriteAs _ _ _ _ ht
      · simp [ht]
      · exact ht

theorem wf_postWord (i : Instr) (kind : Nat) (cls : EngClass) (refused : State → List Byte → Bool) (b a d : BitVec 5)
    (s : State) (h : Memory.wf s.mem = true) : OutcomeWf (postWord i kind cls refused b a d s) := by
  refine wf_deviceIssue _ _ _ _ s h ?_
  simp only [Issue.wf_ite, wf_afterCheck]
  refine ⟨fun _ => h, fun _ => ⟨by simp [h], fun _ => ⟨by simp [h], fun _ => ?_⟩⟩⟩
  split
  · exact h
  · simp [h]

@[simp] theorem wf_execCpyPost (b a d : BitVec 5) (s : State) (h : Memory.wf s.mem = true) : OutcomeWf (execCpyPost b a d s) :=
  wf_postWord _ _ _ _ _ _ _ s h

@[simp] theorem wf_execDczPost (b a d : BitVec 5) (s : State) (h : Memory.wf s.mem = true) : OutcomeWf (execDczPost b a d s) :=
  wf_postWord _ _ _ _ _ _ _ s h

/-! ### Tile words -/

theorem wf_tileNamed (write : Bool) (v : Word) (s : State) (k : Nat → Issue) (h : Memory.wf s.mem = true)
    (hk : ∀ e, (k e).Wf) : (tileNamed write v s k).Wf := by
  unfold tileNamed
  dsimp only
  split
  · exact h
  · simp [h, hk]

theorem wf_tileWord (write : Bool) (i : Instr) (a d : BitVec 5) (body : Nat → Nat → State → Issue) (s : State)
    (h : Memory.wf s.mem = true) (hb : ∀ n e, (body n e s).Wf) : OutcomeWf (tileWord write i a d body s) :=
  wf_deviceIssue _ _ _ _ s h (wf_tileNamed _ _ _ _ h (fun _ => hb _ _))

@[simp] theorem State.advanceMyPhase_mem (s : State) : s.advanceMyPhase.mem = s.mem := rfl

@[simp] theorem wf_execTileAlloc (checked zero : Bool) (a d : BitVec 5) (s : State) (h : Memory.wf s.mem = true) :
    OutcomeWf (execTileAlloc checked zero a d s) := by
  refine wf_deviceIssue _ _ _ _ s h ?_
  dsimp only
  repeat' split
  all_goals simp [h]

@[simp] theorem wf_execTileFree (a d : BitVec 5) (s : State) (h : Memory.wf s.mem = true) : OutcomeWf (execTileFree a d s) := by
  refine wf_tileWord _ _ _ _ _ s h (fun _ _ => ?_)
  simp [h]

@[simp] theorem State.startRefill_mem (s : State) (core e : Nat) : (s.startRefill core e).mem = s.mem := rfl

@[simp] theorem wf_execTileAwait (a d : BitVec 5) (s : State) (h : Memory.wf s.mem = true) :
    OutcomeWf (execTileAwait a d s) := by
  refine wf_tileWord _ _ _ _ _ s h (fun _ _ => ?_)
  simp [h]

@[simp] theorem wf_execTileRel (writeBack : Bool) (a d : BitVec 5) (s : State) (h : Memory.wf s.mem = true) :
    OutcomeWf (execTileRel writeBack a d s) := by
  refine wf_tileWord _ _ _ _ _ s h (fun _ _ => ?_)
  simp [h]

@[simp] theorem wf_execTileState (a d : BitVec 5) (s : State) (h : Memory.wf s.mem = true) :
    OutcomeWf (execTileState a d s) := by
  refine wf_deviceIssue _ _ _ _ s h ?_
  split <;> exact wf_scalarX _ _ _ h

/-! ### Named segments -/

@[simp] theorem State.modSeg_mem (s : State) (k i : Nat) (f : Segment → Segment) : (s.modSeg k i f).mem = s.mem := rfl

@[simp] theorem State.freeSeg_mem (s : State) (k i : Nat) : (s.freeSeg k i).mem = s.mem := rfl

@[simp] theorem State.sendFault_mem (s : State) (k : Nat) (bs : List Byte) : (s.sendFault k bs).mem = s.mem := rfl

@[simp] theorem State.wf_writeBackGranules (s : State) (a : EngAgent) (core : Nat) (gs : List (Nat × Nat))
    (h : Memory.wf s.mem = true) : Memory.wf (s.writeBackGranules a core gs).1.mem = true := by
  refine wf_foldl_fst (fun q g hq => ?_) gs _ h
  split
  · exact hq
  · dsimp only
    split
    · exact hq
    · split
      · exact hq
      · split
        all_goals next heq => simpa using wf_of_fst heq (by simp [hq])

@[simp] theorem State.refillGranules_mem (s : State) (a : EngAgent) (core : Nat) (gs : List (Nat × Nat)) :
    (s.refillGranules a core gs).1.mem = s.mem := by
  refine foldl_fst_mem (fun q g => ?_) gs _
  split
  · rfl
  · split
    · rfl
    · split
      all_goals next heq => simpa [heq] using q.1.engineRead_mem a g.2 1024

@[simp] theorem State.startEviction_mem (s : State) (k i : Nat) (p : Option PendAttach) : (s.startEviction k i p).mem = s.mem :=
  rfl

theorem State.beginRefill_mem (s : State) (k i : Nat) (p : PendAttach) {t : State} (h : s.beginRefill k i p = some t) :
    t.mem = s.mem := by
  unfold State.beginRefill at h
  dsimp only at h
  split at h
  · cases h
  · obtain ⟨r, -, rfl⟩ := Option.map_eq_some_iff.mp h
    simp

@[simp] theorem State.freeSegGranules_mem (s : State) (k : Nat) (g : Segment) : (s.freeSegGranules k g).mem = s.mem := rfl

@[simp] theorem State.wf_evictionDone (s : State) (k i : Nat) (h : Memory.wf s.mem = true) :
    Memory.wf (s.evictionDone k i).mem = true := by
  unfold State.evictionDone
  dsimp only
  split
  · exact h
  · split
    · next heq => simpa using wf_of_fst heq (by simp [h])
    · next t heq =>
      have ht : Memory.wf t.mem = true := wf_of_fst heq (by simp [h])
      split
      · simpa using ht
      · next p _ =>
        cases hr : State.beginRefill _ k i p with
        | none => simpa using ht
        | some u => simpa [State.beginRefill_mem _ k i p hr] using ht

@[simp] theorem wf_execSegmentEvictionComplete (s : State) (h : Memory.wf s.mem = true) :
    OutcomeWf (execSegmentEvictionComplete s) := by
  simp [execSegmentEvictionComplete, h]

@[simp] theorem wf_execFirmwareSegmentEviction (s : State) (h : Memory.wf s.mem = true) :
    OutcomeWf (execFirmwareSegmentEviction s) := by
  simp [execFirmwareSegmentEviction, h]

@[simp] theorem State.wf_refillTile (s : State) (k i core e : Nat) (h : Memory.wf s.mem = true) :
    Memory.wf (s.refillTile k i core e).1.mem = true := by
  unfold State.refillTile
  dsimp only
  split
  all_goals simp [h]

@[simp] theorem State.wf_refillDone (s : State) (k i : Nat) (h : Memory.wf s.mem = true) :
    Memory.wf (s.refillDone k i).mem = true := by
  unfold State.refillDone
  dsimp only
  split
  · rw [State.modSeg_mem]
    exact wf_foldl_fst (fun q j hq => by simp [hq]) _ _ h
  · exact h

@[simp] theorem State.wf_writeBackDone (s : State) (core e : Nat) (h : Memory.wf s.mem = true) :
    Memory.wf (s.writeBackDone core e).mem = true := by
  unfold State.writeBackDone
  dsimp only
  split
  · exact h
  · split
    all_goals next heq => simpa using wf_of_fst heq (by simp [h])

@[simp] theorem wf_attachResult (k i : Nat) (d : BitVec 5) (status : Word) (s : State) (h : Memory.wf s.mem = true) :
    (attachResult k i d status s).Wf := by
  simp [attachResult, h]

@[simp] theorem wf_attachWait (k i : Nat) (d : BitVec 5) (s : State) (h : Memory.wf s.mem = true) :
    (attachWait k i d s).Wf := by
  simp [attachWait, h]

@[simp] theorem wf_attachRow (k i h : Nat) (ro : Bool) (d : BitVec 5) (s : State) (hs : Memory.wf s.mem = true) :
    (attachRow k i h ro d s).Wf := by
  unfold attachRow
  dsimp only
  split
  · simp [hs]
  · split
    · simp [hs]
    · split
      · next heq => simpa [State.beginRefill_mem _ _ _ _ heq] using hs
      · simp [hs]

@[simp] theorem wf_execSegAtt (m : BitVec 2) (b a d : BitVec 5) (s : State) (h : Memory.wf s.mem = true) :
    OutcomeWf (execSegAtt m b a d s) := by
  refine wf_deviceIssue _ _ _ _ s h ?_
  dsimp only
  repeat' split
  all_goals simp [h]

@[simp] theorem State.detach_mem (s : State) (k i core team : Nat) : (s.detach k i core team).mem = s.mem := rfl

@[simp] theorem wf_detachWord (i : Instr) (rel : Bool) (a d : BitVec 5) (s : State) (h : Memory.wf s.mem = true) :
    OutcomeWf (detachWord i rel a d s) := by
  refine wf_deviceIssue _ _ _ _ s h ?_
  dsimp only
  repeat' split
  all_goals simp [h]

@[simp] theorem wf_execSegDet (a d : BitVec 5) (s : State) (h : Memory.wf s.mem = true) : OutcomeWf (execSegDet a d s) := by
  simp [execSegDet, h]

@[simp] theorem wf_execSegDetRel (a d : BitVec 5) (s : State) (h : Memory.wf s.mem = true) :
    OutcomeWf (execSegDetRel a d s) := by
  simp [execSegDetRel, h]

@[simp] theorem wf_execSegName (b a d : BitVec 5) (s : State) (h : Memory.wf s.mem = true) :
    OutcomeWf (execSegName b a d s) := by
  refine wf_deviceIssue _ _ _ _ s h ?_
  dsimp only
  repeat' split
  all_goals simp [h]

@[simp] theorem wf_execSegPin (a d : BitVec 5) (s : State) (h : Memory.wf s.mem = true) : OutcomeWf (execSegPin a d s) := by
  refine wf_deviceIssue _ _ _ _ s h ?_
  dsimp only
  split
  all_goals simp [h]

@[simp] theorem wf_execSegUnpin (a d : BitVec 5) (s : State) (h : Memory.wf s.mem = true) : OutcomeWf (execSegUnpin a d s) := by
  refine wf_deviceIssue _ _ _ _ s h ?_
  dsimp only
  split
  all_goals simp [h]

theorem wf_evictTests (a d : BitVec 5) (s : State) (k : Nat → Issue) (h : Memory.wf s.mem = true)
    (hk : ∀ e, (k e).Wf) : (evictTests a d s k).Wf := by
  unfold evictTests
  dsimp only
  split
  · simp [h]
  · simp [h, hk]

@[simp] theorem wf_execSegEvict (a d : BitVec 5) (s : State) (h : Memory.wf s.mem = true) : OutcomeWf (execSegEvict a d s) := by
  refine wf_deviceIssue _ _ _ _ s h ?_
  dsimp only
  split
  · simp [h]
  · exact wf_evictTests a d s _ h (fun i => by simp [h])

@[simp] theorem wf_execSegEvictDrop (a d : BitVec 5) (s : State) (h : Memory.wf s.mem = true) :
    OutcomeWf (execSegEvictDrop a d s) :=
  wf_deviceIssue _ _ _ _ s h (wf_evictTests a d s _ h (fun i => by simp [h, apply_ite State.mem]))

/-! ### The retirement of a team -/

@[simp] theorem State.discardEntries_mem (s : State) (k j : Nat) : (s.discardEntries k j).mem = s.mem := rfl

@[simp] theorem State.detachAll_mem (s : State) (k j : Nat) : (s.detachAll k j).mem = s.mem :=
  foldl_mem _ (fun s e => by simp) _ s

@[simp] theorem State.retireTeam_mem (s : State) (k j : Nat) : (s.retireTeam k j).mem = s.mem := by
  unfold State.retireTeam
  rw [State.modTeam_mem]
  split
  all_goals
    simp only [State.freeSeg_mem]
    refine (foldl_mem _ (fun s c => ?_) _ _).trans (s.detachAll_mem k j)
    rfl

@[simp] theorem State.tryRetire_mem (s : State) (k j : Nat) : (s.tryRetire k j).mem = s.mem := by
  simp [State.tryRetire, apply_ite State.mem]

@[simp] theorem wf_execSegmentRefillComplete (s : State) (h : Memory.wf s.mem = true) :
    OutcomeWf (execSegmentRefillComplete s) := by
  simp [execSegmentRefillComplete, h]

@[simp] theorem wf_execTileWritebackComplete (s : State) (h : Memory.wf s.mem = true) :
    OutcomeWf (execTileWritebackComplete s) := by
  simp [execTileWritebackComplete, h]

/-! ### Copy and decompression -/

@[simp] theorem State.startFills_mem (s : State) (ts : List (Nat × Nat × Nat)) : (s.startFills ts).mem = s.mem := by
  refine foldl_mem _ (fun s t => ?_) ts s
  rfl

@[simp] theorem State.endFills_mem (s : State) (failed : Bool) (ts : List (Nat × Nat × Nat)) :
    (s.endFills failed ts).mem = s.mem := by
  refine foldl_mem _ (fun s t => ?_) ts s
  rfl

@[simp] theorem State.rejectFills_mem (s : State) (faddr : Nat) (ts : List (Nat × Nat × Nat)) :
    (s.rejectFills faddr ts).mem = s.mem := by
  refine foldl_mem _ (fun s t => ?_) ts s
  rfl

@[simp] theorem State.modRun_mem (s : State) (id : Nat) (f : EngRun → EngRun) : (s.modRun id f).mem = s.mem := rfl

@[simp] theorem State.scheduleGranule_mem (s : State) (r : Ring) : (s.scheduleGranule r).mem = s.mem := by
  simp [State.scheduleGranule, apply_ite State.mem]

@[simp] theorem State.finishRun_mem (s : State) (r : Ring) : (s.finishRun r).mem = s.mem := rfl

@[simp] theorem State.failRun_mem (s : State) (r : Ring) (f : Nat × Nat × Nat × Word) : (s.failRun r f).mem = s.mem := rfl

@[simp] theorem State.chargeRun_mem (s : State) (q : EngRun) (n : Nat) : (s.chargeRun q n).mem = s.mem := rfl

@[simp] theorem State.copyCheck_mem (s : State) (r : Ring) (p : Poster) (image : List Byte) :
    (s.copyCheck r p image).1.mem = s.mem := by
  unfold State.copyCheck
  dsimp only
  split
  · rfl
  · split
    · rfl
    · split
      all_goals next heq => simpa [apply_ite Prod.fst, apply_ite State.mem] using mem_of_fst heq (by simp)

@[simp] theorem State.startCopy_mem (s : State) (r : Ring) (p : Poster) (image : List Byte) :
    (s.startCopy r p image).mem = s.mem := by
  unfold State.startCopy
  split
  all_goals next heq => simpa [apply_ite Prod.fst, apply_ite State.mem] using mem_of_fst heq (by simp)

@[simp] theorem State.wf_copyElement (s : State) (r : Ring) (q : EngRun) (l : Layout) (t : Nat) (h : Memory.wf s.mem = true) :
    Memory.wf (s.copyElement r q l t).1.mem = true := by
  unfold State.copyElement
  dsimp only
  split
  · split
    · next heq => exact wf_of_fst heq (by simp [h])
    · next heq => exact wf_foldl (fun s d hs => by simp [hs]) _ _ (wf_of_fst heq (by simp [h]))
  · split
    · exact h
    · split <;> simp [h]
  · split
    all_goals next heq => have ht := wf_of_fst heq (by simp [h]); simp [ht]

@[simp] theorem State.wf_copyElements (s : State) (r : Ring) (q : EngRun) (l : Layout) (t n : Nat) (h : Memory.wf s.mem = true) :
    Memory.wf (s.copyElements r q l t n).1.mem = true := by
  induction n generalizing s t with
  | zero => exact h
  | succ n ih =>
    unfold State.copyElements
    split
    · next heq => exact wf_of_fst heq (by simp [h])
    · next heq => exact ih _ _ (wf_of_fst heq (by simp [h]))

@[simp] theorem State.beginCopy_mem (s : State) (r : Ring) (q : EngRun) : (s.beginCopy r q).mem = s.mem := by
  simp [State.beginCopy]

@[simp] theorem State.wf_copyGranule (s : State) (r : Ring) (q : EngRun) (h : Memory.wf s.mem = true) :
    Memory.wf (s.copyGranule r q).mem = true := by
  unfold State.copyGranule
  simp only [wf_ite]
  refine ⟨fun _ => by simp [h], fun _ => ⟨fun _ => by simp [h], fun _ => ?_⟩⟩
  split
  · simp [h]
  · simp only [wf_ite]
    refine ⟨fun _ => by simp [h], fun _ => ⟨fun _ => by simp [h], fun _ => ?_⟩⟩
    split <;> simp [h]

@[simp] theorem State.readSome_mem (s : State) (g : EngAgent) (va n : Nat) : (s.readSome g va n).1.mem = s.mem := by
  refine foldl_fst_mem (fun q p => ?_) _ _
  split
  · rfl
  · split
    all_goals next heq => simpa [heq] using q.1.engineRead_mem g p.1 p.2

@[simp] theorem State.readDictionary_mem (s : State) (g : EngAgent) (k : Nat) : (s.readDictionary g k).1.mem = s.mem := by
  unfold State.readDictionary
  dsimp only
  split
  · rfl
  · split
    · rfl
    · split
      · rfl
      · split
        · next heq => exact mem_of_fst heq (State.engineRead_mem _ _ _ _)
        · next heq =>
          have ht := mem_of_fst heq (State.engineRead_mem _ _ _ _)
          split
          · exact ht
          · split <;> exact ht

@[simp] theorem State.startDcz_mem (s : State) (r : Ring) (p : Poster) (image : List Byte) :
    (s.startDcz r p image).mem = s.mem := by
  unfold State.startDcz
  dsimp only
  split
  · rfl
  · split
    · split
      all_goals
        next heq =>
        have ht := mem_of_fst heq (State.readDictionary_mem _ _ _)
        simpa using ht
    · rw [State.modRun_mem, State.readSome_mem]

@[simp] theorem State.dczWrite_mem (s : State) (r : Ring) (fuel stop : Nat) : (s.dczWrite r fuel stop).mem = s.mem := by
  induction fuel generalizing s stop with
  | zero => rfl
  | succ fuel ih =>
    unfold State.dczWrite
    split
    · rfl
    · split
      · split
        · split
          · simp [ih]
          · rfl
        · simp
        · rfl
      · simp [apply_ite State.mem, ih]

@[simp] theorem State.dczGranule_mem (s : State) (r : Ring) (q : EngRun) : (s.dczGranule r q).mem = s.mem := by
  unfold State.dczGranule
  dsimp only
  split
  · simp
  · split
    · simp
    · split
      · simp
      · split
        · split <;> simp [apply_ite State.mem]
        · simp

@[simp] theorem State.writeRecord_mem (s : State) (r : Ring) (q : EngRun) : (s.writeRecord r q).mem = s.mem := by
  simp [State.writeRecord, apply_ite State.mem]

@[simp] theorem State.nextEntry_mem (s : State) (id : Nat) : (s.nextEntry id).mem = s.mem := by
  unfold State.nextEntry
  repeat' split
  all_goals simp

@[simp] theorem State.sweepGates_mem (s : State) : s.sweepGates.mem = s.mem := by
  simp [State.sweepGates, foldl_mem, apply_ite State.mem]

@[simp] theorem State.tellFailure_mem (s : State) (q : EngRun) : (s.tellFailure q).mem = s.mem := by
  unfold State.tellFailure
  dsimp only
  repeat' split
  all_goals simp

@[simp] theorem State.wf_completeRun (s : State) (r : Ring) (q : EngRun) (h : Memory.wf s.mem = true) :
    Memory.wf (s.completeRun r q).mem = true := by
  unfold State.completeRun
  repeat' split
  all_goals simp [h]

@[simp] theorem wf_completeClass (cls : EngClass) (s : State) (h : Memory.wf s.mem = true) :
    Memory.wf (completeClass cls s).mem = true := by
  unfold completeClass
  repeat' split
  all_goals simp [h]

@[simp] theorem wf_execCopyCompletion (s : State) (h : Memory.wf s.mem = true) : OutcomeWf (execCopyCompletion s) := by
  simp [execCopyCompletion, h]

@[simp] theorem wf_execDecompressionCompletion (s : State) (h : Memory.wf s.mem = true) :
    OutcomeWf (execDecompressionCompletion s) := by
  simp [execDecompressionCompletion, h]

/-! ### Collectives and engine granules -/

@[simp] theorem State.startColl_mem (s : State) (r : Ring) (p : Poster) (image : List Byte) :
    (s.startColl r p image).mem = s.mem := by
  unfold State.startColl
  dsimp only
  repeat' split
  all_goals simp

@[simp] theorem wf_execCollectiveInstanceStart (s : State) (h : Memory.wf s.mem = true) :
    OutcomeWf (execCollectiveInstanceStart s) := by
  unfold execCollectiveInstanceStart
  rw [outcomeWf_next]
  split
  · exact h
  · split
    · exact h
    · dsimp only
      split
      · exact h
      · simp only [wf_ite]
        refine ⟨fun _ => h, fun _ => ⟨fun _ => by simp [h], fun _ => ⟨fun _ => h, fun _ => ⟨fun _ => by simp [h],
          fun _ => ⟨fun _ => h, fun _ => ⟨fun _ => by simp [h], fun _ => ?_⟩⟩⟩⟩⟩⟩
        split
        all_goals next heq =>
          have ht := wf_of_fst heq (by split <;> simp [h])
          simp [ht]

@[simp] theorem State.wf_collGranule (s : State) (r : Ring) (q : EngRun) (h : Memory.wf s.mem = true) :
    Memory.wf (s.collGranule r q).mem = true := by
  unfold State.collGranule
  dsimp only
  split
  all_goals
    next heq =>
    have ht := wf_of_fst heq (by simp [h])
    simp [ht]

@[simp] theorem wf_execCollectiveCompletion (s : State) (h : Memory.wf s.mem = true) :
    OutcomeWf (execCollectiveCompletion s) := by
  simp [execCollectiveCompletion, h]

@[simp] theorem State.startEntry_mem (s : State) (r : Ring) (p : Poster) (rest : List Poster) :
    (s.startEntry r p rest).mem = s.mem := by
  unfold State.startEntry
  dsimp only
  repeat' split
  all_goals simp

@[simp] theorem State.enterRun_mem (s : State) (r : Ring) : (s.enterRun r).mem = s.mem := by
  unfold State.enterRun
  repeat' split
  all_goals simp

@[simp] theorem wf_execEngineCommandStart (s : State) (h : Memory.wf s.mem = true) : OutcomeWf (execEngineCommandStart s) := by
  unfold execEngineCommandStart
  repeat' split
  all_goals simp [h]

@[simp] theorem State.noteWait_mem (s : State) (r : Ring) (q : EngRun) : (s.noteWait r q).mem = s.mem := by
  unfold State.noteWait
  split
  · rfl
  · exact (foldl_mem _ (fun s c => State.count_mem s c 14 1) _ _).trans (State.modRun_mem _ _ _)

theorem State.wf_runChosen (s : State) (ready : List (Ring × EngRun)) (h : Memory.wf s.mem = true) :
    Memory.wf (match s.chosenRun ready with
      | none => s
      | some (r, q) =>
        let s := s.modRun r.id (fun q => { q with waiting := false })
        (match r.cls with
          | .copy => s.copyGranule r q
          | .dcz => s.dczGranule r q
          | .coll => s.collGranule r q)).mem = true := by
  split
  · exact h
  · dsimp only
    split <;> simp [h]

@[simp] theorem wf_execEngineGranuleBoundary (s : State) (h : Memory.wf s.mem = true) :
    OutcomeWf (execEngineGranuleBoundary s) := by
  unfold execEngineGranuleBoundary
  rw [outcomeWf_next]
  split
  · exact h
  · dsimp only
    split
    · rw [State.scheduleGranule_mem]
      exact State.wf_runChosen _ _ (by simpa [foldl_mem] using h)
    · exact State.wf_runChosen _ _ (by simpa [foldl_mem] using h)

@[simp] theorem wf_execEngineStopAck (s : State) (h : Memory.wf s.mem = true) : OutcomeWf (execEngineStopAck s) := h

@[simp] theorem State.resumeEngines_mem (s : State) (csa : Nat) : (s.resumeEngines csa).mem = s.mem := by
  simp [State.resumeEngines, foldl_mem, apply_ite State.mem]

@[simp] theorem State.abortRuns_mem (s : State) (pick : Ring → Poster → Bool) : (s.abortRuns pick).mem = s.mem := by
  refine foldl_mem _ (fun s r => ?_) _ s
  rw [State.modRing_mem]
  split
  · split <;> simp
  · rfl

@[simp] theorem State.wf_drainAborted (s : State) (id n : Nat) (h : Memory.wf s.mem = true) :
    Memory.wf (s.drainAborted id n).mem = true := by
  induction n generalizing s with
  | zero => exact h
  | succ n ih =>
    unfold State.drainAborted
    split
    · exact h
    · split
      · split
        · exact ih _ (by simp [h])
        · exact h
      · split
        · exact ih _ (by simp [h])
        · exact h
      · exact h

/-! ### Call gates -/

@[simp] theorem State.framePa_mem (s : State) (k : AccKind) (pasid dom va : Nat) :
    (s.framePa k pasid dom va).1.mem = s.mem := by
  unfold State.framePa
  dsimp only
  split
  · rfl
  · split
    · rfl
    · split
      · next heq => exact mem_of_fst heq (State.translateFresh_mem _ _ _ _ _ _)
      · next heq =>
        have hmem := mem_of_fst heq (State.translateFresh_mem _ _ _ _ _ _)
        split <;> exact hmem

@[simp] theorem State.frameBytes_mem (s : State) (d : Dest) : (s.frameBytes d).1.mem = s.mem := by
  cases d <;> simp [State.frameBytes]

@[simp] theorem State.wf_putFrame (s : State) (dom : Nat) (image : List Byte) (d : Dest) (h : Memory.wf s.mem = true) :
    Memory.wf (s.putFrame dom image d).mem = true := by
  cases d <;> simp [State.putFrame, State.wf_writePhys, h]

@[simp] theorem State.stackTranslates_mem (s : State) (g : Gate) (w : Wave) : (s.stackTranslates g w).1.mem = s.mem := by
  generalize hq : s.stackTranslates g w = q
  unfold State.stackTranslates at hq
  dsimp only at hq
  split at hq
  · subst hq
    rfl
  · split at hq
    all_goals
      next heq =>
      subst hq
      exact mem_of_fst heq (State.translate_mem _ _ _)

@[simp] theorem State.wf_storeStash (s : State) (va : Nat) (h : Memory.wf s.mem = true) :
    Memory.wf (s.storeStash va).1.mem = true := by
  refine wf_foldl_fst (fun q k hq => ?_) _ _ h
  split
  · exact hq
  · split
    · exact hq
    · split
      all_goals next heq => have ht := wf_of_fst heq (by simp [hq]); simp [ht]

@[simp] theorem State.wf_loadBlock (s : State) (va : Nat) (ks : List Nat) (h : Memory.wf s.mem = true) :
    Memory.wf (s.loadBlock va ks).1.mem = true := by
  refine wf_foldl_fst (fun q k hq => ?_) ks _ h
  split
  · exact hq
  · split
    · exact hq
    · split
      case h_3 =>
        next heq =>
        have ht := wf_of_fst heq (by simp [hq])
        split
        all_goals next heq => exact wf_of_fst heq (by simp [ht])
      all_goals next heq => have ht := wf_of_fst heq (by simp [hq]); simp [ht]

@[simp] theorem State.wf_loadStash (s : State) (va : Nat) (h : Memory.wf s.mem = true) :
    Memory.wf (s.loadStash va).1.mem = true := by
  refine wf_foldl_fst (fun q b hq => ?_) _ _ h
  split
  all_goals next heq => simpa using wf_of_fst heq (by simp [hq])

theorem State.wf_loadStash_or_defer (s : State) (va c i : Nat) (u : Upd) (h : Memory.wf s.mem = true) :
    Memory.wf (if (s.loadStash va).2 then (s.loadStash va).1 else (s.loadStash va).1.applyAt c i u).mem = true := by
  rw [wf_ite, State.applyAt_mem]
  exact ⟨fun _ => s.wf_loadStash va h, fun _ => s.wf_loadStash va h⟩

@[simp] theorem State.makeWindow_mem (s : State) (g : Gate) (win : Bool) (h : Nat) : (s.makeWindow g win h).1.mem = s.mem := by
  unfold State.makeWindow
  dsimp only
  repeat' split
  all_goals simp

@[simp] theorem State.wf_enterGate (s : State) (g : Gate) (gi : Nat) (win : Bool) (h : Nat) (frame : Dest) (stash : Word)
    (hs : Memory.wf s.mem = true) : Memory.wf (s.enterGate g gi win h frame stash).mem = true := by
  simp [State.enterGate, State.issuedTo, hs]

@[simp] theorem wf_execGateCall (b a : BitVec 5) (s : State) (h : Memory.wf s.mem = true) : OutcomeWf (execGateCall b a s) := by
  refine wf_deviceIssue _ _ _ _ s h ?_
  -- The translation of the callee's stack stays opaque: unfolded, the kernel would compute with its addresses below 2^64.
  obtain ⟨translates, htr⟩ : ∃ f, State.stackTranslates = f := ⟨_, rfl⟩
  have hstack : ∀ s g w, (translates s g w).1.mem = s.mem := by
    rw [← htr]
    exact State.stackTranslates_mem
  rw [htr]
  extract_lets w v stash gi hh win fail
  have hfail : ∀ n (s : State), Memory.wf s.mem = true → (fail n s).Wf := fun _ _ h => h
  split
  · exact h
  · split
    · exact wf_registerMiss s _ h
    · split
      · exact hfail _ _ h
      · split
        · exact hfail _ _ h
        · simp only [Issue.wf_ite, hfail, h, implies_true, true_and, wf_domFault]
          intro _ _ _ _ _ _ _
          split
          · next heq => exact hfail _ _ (wf_of_fst heq (by rw [State.framePa_mem]; exact h))
          · next heq =>
            have ht := wf_of_fst heq (by rw [State.framePa_mem]; exact h)
            split
            · next heq => exact hfail _ _ (wf_of_fst heq (by rw [hstack]; exact ht))
            · next heq =>
              have hu := wf_of_fst heq (by rw [hstack]; exact ht)
              split
              · next heq => exact hfail _ _ (wf_of_fst heq (State.wf_storeStash _ _ hu))
              · next heq => exact State.wf_enterGate _ _ _ _ _ _ _ (wf_of_fst heq (State.wf_storeStash _ _ hu))

@[simp] theorem State.closeWindow_mem (s : State) (f : List Byte) (n : Nat) : (s.closeWindow f n).mem = s.mem := by
  simp [State.closeWindow, apply_ite State.mem]

@[simp] theorem State.wf_leaveGate (s : State) (f : List Byte) (argw : Nat) (h : Memory.wf s.mem = true) :
    Memory.wf (s.leaveGate f argw).mem = true := by
  refine State.wf_loadStash_or_defer _ _ _ _ _ ?_
  rw [State.modWave_mem, State.issued_mem, State.modCur_mem, State.closeWindow_mem]
  exact h

@[simp] theorem wf_execGateRet (s : State) (h : Memory.wf s.mem = true) : OutcomeWf (execGateRet s) := by
  refine wf_deviceIssue _ _ _ _ s h ?_
  dsimp only
  split
  · exact h
  · split
    · simp [h]
    · split
      · exact h
      · split
        · exact h
        · split
          all_goals next heq => have ht := wf_of_fst heq (by simp [h]); simp [ht]

@[simp] theorem wf_execDomQuery (a d : BitVec 5) (s : State) (h : Memory.wf s.mem = true) : OutcomeWf (execDomQuery a d s) :=
  wf_deviceIssue _ _ _ _ s h h

@[simp] theorem State.writeDslot_mem (s : State) (core : Nat) (v : Word) : (s.writeDslot core v).mem = s.mem := by
  simp [State.writeDslot, foldl_mem, apply_ite State.mem]

@[simp] theorem State.writeBanks_mem (s : State) (core i : Nat) (v : Word) : (s.writeBanks core i v).mem = s.mem := by
  simp [State.writeBanks, foldl_mem, apply_ite State.mem]

@[simp] theorem State.writeRegions_mem (s : State) (core i : Nat) (v : Word) : (s.writeRegions core i v).mem = s.mem := by
  simp [State.writeRegions, foldl_mem, apply_ite State.mem]

@[simp] theorem wf_execDomainPartitionWrite (s : State) (h : Memory.wf s.mem = true) :
    OutcomeWf (execDomainPartitionWrite s) := by
  simp [execDomainPartitionWrite, h]

/-! ### The context save area -/

@[simp] theorem State.wf_saveWrite (s : State) (dom pa : Nat) (bs : List Byte) (h : Memory.wf s.mem = true) :
    Memory.wf (s.saveWrite dom pa bs).mem = true := State.wf_agentWriteAs s dom pa bs h

@[simp] theorem State.wf_storeWave (s : State) (core i : Nat) (h : Memory.wf s.mem = true) :
    Memory.wf (s.storeWave core i).mem = true := by
  refine (wf_ite _ _ _).mpr ⟨fun _ => State.wf_saveWrite _ _ _ _ ?_, fun _ => ?_⟩
  all_goals
    refine wf_foldl_fst (fun q e hq => State.wf_saveWrite _ _ _ _ hq) _ _ ?_
    refine wf_foldl (fun s q h => State.wf_saveWrite _ _ _ _ h) _ _ (wf_foldl (fun s b h => ?_) _ _ (State.wf_saveWrite _ _ _ _ h))
    simp [h]

@[simp] theorem State.loadBlockAt_mem (s : State) (core i b : Nat) : (s.loadBlockAt core i b).mem = s.mem := rfl

@[simp] theorem State.loadAccAt_mem (s : State) (core i k : Nat) : (s.loadAccAt core i k).mem = s.mem := rfl

/-! ### Binding waves -/

@[simp] theorem State.teamLive_mem (s : State) (k j : Nat) : (s.teamLive k j).mem = s.mem := by
  unfold State.teamLive
  dsimp only
  split
  all_goals simp

@[simp] theorem State.writeTeam_mem (s : State) (k j off : Nat) (v : Word) : (s.writeTeam k j off v).mem = s.mem := by
  simp [State.writeTeam, apply_ite State.mem]

@[simp] theorem wf_execTeamTableEntryWrite (s : State) (h : Memory.wf s.mem = true) :
    OutcomeWf (execTeamTableEntryWrite s) := by
  simp [execTeamTableEntryWrite, h]

@[simp] theorem State.addBound_mem (s : State) (k j n : Nat) : (s.addBound k j n).mem = s.mem := rfl

@[simp] theorem State.dropBound_mem (s : State) (k j : Nat) : (s.dropBound k j).mem = s.mem := rfl

@[simp] theorem State.addDone_mem (s : State) (k j : Nat) : (s.addDone k j).mem = s.mem := rfl

@[simp] theorem State.gangRun_mem (s : State) (k j : Nat) : (s.gangRun k j).mem = s.mem := by
  unfold State.gangRun
  dsimp only
  split
  · refine foldl_mem _ (fun s q => ?_) _ s
    rfl
  · rfl

@[simp] theorem State.bindDone_mem (s : State) (core status : Nat) (slots : List Nat) :
    (s.bindDone core status slots).mem = s.mem := rfl

@[simp] theorem State.bindWaves_mem (s : State) (core : Nat) (ws : List (Nat × Wave)) : (s.bindWaves core ws).mem = s.mem :=
  rfl

@[simp] theorem State.wf_bindNew (s : State) (core : Nat) (h : Memory.wf s.mem = true) :
    Memory.wf (s.bindNew core).mem = true := by
  unfold State.bindNew
  simp only [wf_ite, State.bindDone_mem, h, implies_true, true_and]
  intro _ _
  split
  · exact h
  · simp only [wf_ite, State.bindDone_mem, h, implies_true, true_and, State.gangRun_mem, State.addBound_mem, State.bindWaves_mem]
    intro _
    exact State.wf_refreshCore _ _ (wf_foldl (fun s q h => State.wf_saveWrite _ _ _ _ h) _ s h)

@[simp] theorem wf_execNewWaveBind (s : State) (h : Memory.wf s.mem = true) : OutcomeWf (execNewWaveBind s) := by
  unfold execNewWaveBind
  split
  all_goals simp [h]

@[simp] theorem State.wf_expelOnce (s : State) (c i : Nat) (h : Memory.wf s.mem = true) :
    Memory.wf (s.expelOnce c i).1.mem = true := by
  unfold State.expelOnce
  dsimp only
  split
  · exact h
  · split
    · next heq =>
      have ht := wf_of_fst heq (by rw [State.framePa_mem]; exact h)
      exact ht
    · next t d heq =>
      have ht := wf_of_fst heq (by rw [State.framePa_mem]; exact h)
      generalize hf : t.frameBytes d = q
      have hq : Memory.wf q.1.mem = true := by
        rw [← hf, State.frameBytes_mem]
        exact ht
      refine State.wf_loadStash_or_defer _ _ _ _ _ ?_
      simpa using hq

@[simp] theorem State.wf_expelLevels (s : State) (c i n : Nat) (h : Memory.wf s.mem = true) :
    Memory.wf (s.expelLevels c i n).mem = true := by
  induction n generalizing s with
  | zero => simpa [State.expelLevels, State.applyAt_mem] using h
  | succ n ih =>
    have hs := s.wf_expelOnce c i h
    simp [State.expelLevels, ih, hs]

@[simp] theorem State.takeLate_mem (s : State) (csa : Nat) (w : Wave) : (s.takeLate csa w).1.mem = s.mem := rfl

@[simp] theorem State.wf_bindSaved (s : State) (core : Nat) (h : Memory.wf s.mem = true) :
    Memory.wf (s.bindSaved core).mem = true := by
  unfold State.bindSaved
  simp only [wf_ite, State.bindDone_mem, h, implies_true, true_and]
  intro _ _ _ _
  split
  · simp only [wf_ite, State.bindDone_mem, h, implies_true, true_and]
    intro _
    split
    · exact h
    · have hexpel : ∀ (levels : Nat) (i : Nat) (t : State), Memory.wf t.mem = true →
          Memory.wf (if levels = 0 then t else t.expelLevels core i levels).mem = true :=
        fun levels i t h => by simp [h]
      have hbound : ∀ (csa : Nat) (w : Wave) (f : Core → Core) (l : List (Nat × Wave)),
          Memory.wf ((((s.takeLate csa w).1.modCore core f).refreshCore core).bindWaves core l).mem = true := by
        intro csa w f l
        rw [State.bindWaves_mem]
        refine State.wf_refreshCore _ _ ?_
        rw [State.modCore_mem, State.takeLate_mem]
        exact h
      refine hexpel _ _ _ ?_
      rw [State.resumeEngines_mem, State.gangRun_mem, State.addBound_mem]
      refine (wf_ite _ _ _).mpr ⟨fun _ => ?_, fun _ => hbound _ _ _ _⟩
      rw [State.modSlotAt_mem]
      exact hbound _ _ _ _
  · exact h

@[simp] theorem wf_execRestoreBind (s : State) (h : Memory.wf s.mem = true) : OutcomeWf (execRestoreBind s) := by
  unfold execRestoreBind
  split
  all_goals simp [h]

/-! ### Queue interfaces and the journal -/

@[simp] theorem State.setQueueState_mem (s : State) (q st ecode : Nat) : (s.setQueueState q st ecode).mem = s.mem := rfl

@[simp] theorem State.setLatch_mem (s : State) (q tail : Nat) (pend : Bool) : (s.setLatch q tail pend).mem = s.mem := rfl

@[simp] theorem State.setHead_mem (s : State) (q head : Nat) : (s.setHead q head).mem = s.mem := rfl

@[simp] theorem State.bump_mem (s : State) (off : Nat) : (s.bump off).mem = s.mem := rfl

@[simp] theorem State.wf_putRecord (s : State) (r : List Byte) (h : Memory.wf s.mem = true) :
    Memory.wf (s.putRecord r).mem = true := by
  simp [State.putRecord, h]

@[simp] theorem State.wf_appendRecord (s : State) (r : List Byte) (h : Memory.wf s.mem = true) :
    Memory.wf (s.appendRecord r).mem = true := by
  simp [State.appendRecord, h]

@[simp] theorem State.wf_flushJournal (s : State) (n : Nat) (h : Memory.wf s.mem = true) :
    Memory.wf (s.flushJournal n).mem = true := by
  induction n generalizing s with
  | zero => exact h
  | succ n ih =>
    unfold State.flushJournal
    split
    · exact h
    · split
      · exact h
      · dsimp only
        apply ih
        split <;> simp [h]

@[simp] theorem State.resumeFront_mem (s : State) : s.resumeFront.mem = s.mem := by
  unfold State.resumeFront
  refine (foldl_mem _ (fun s q => ?_) _ _).trans (foldl_mem _ (fun s t => ?_) _ _)
  · rfl
  · rfl

@[simp] theorem State.queueFails_mem (s : State) (q ecode : Nat) : (s.queueFails q ecode).mem = s.mem := rfl

@[simp] theorem State.wf_queueError (s : State) (q ecode : Nat) (h : Memory.wf s.mem = true) :
    Memory.wf (s.queueError q ecode).mem = true := by
  simp [State.queueError, h]

@[simp] theorem State.wf_raiseVector (s : State) (v q dom : Nat) (h : Memory.wf s.mem = true) :
    Memory.wf (s.raiseVector v q dom).mem = true := by
  simp [State.raiseVector, h]

@[simp] theorem wf_execIrtMaskClear (s : State) (h : Memory.wf s.mem = true) : OutcomeWf (execIrtMaskClear s) := by
  simp [execIrtMaskClear, h]

@[simp] theorem State.stage1Entry_mem (s : State) (f n : Nat) : (s.stage1Entry f n).1.mem = s.mem := by
  unfold State.stage1Entry
  dsimp only
  split
  · rfl
  · split
    all_goals next heq => simpa using mem_of_fst heq (by simp)

@[simp] theorem State.queueStage1_mem (s : State) (f a : Nat) : (s.queueStage1 f a).1.mem = s.mem := by
  unfold State.queueStage1
  dsimp only
  split
  · rfl
  · split
    all_goals next heq => simpa using mem_of_fst heq (by simp)

@[simp] theorem State.queueOf_mem (s : State) (f a : Nat) : (s.queueOf f a).1.mem = s.mem := by
  unfold State.queueOf
  split
  all_goals next heq => simpa [apply_ite Prod.fst, apply_ite State.mem] using mem_of_fst heq (by simp)

@[simp] theorem wf_execStage1Invalidate (s : State) (h : Memory.wf s.mem = true) : OutcomeWf (execStage1Invalidate s) := by
  simp [execStage1Invalidate, h]

@[simp] theorem wf_execNotifyWrite (s : State) (h : Memory.wf s.mem = true) : OutcomeWf (execNotifyWrite s) := by
  unfold execNotifyWrite
  dsimp only
  rw [outcomeWf_next]
  split
  all_goals next heq => have ht := wf_of_fst heq (by simp [h]); simp [ht]

@[simp] theorem State.notifyRead_mem (s : State) (f page off size : Nat) : (s.notifyRead f page off size).1.mem = s.mem := by
  unfold State.notifyRead
  split
  all_goals next heq => simpa using mem_of_fst heq (by simp)

@[simp] theorem wf_execQueueEnable (s : State) (h : Memory.wf s.mem = true) : OutcomeWf (execQueueEnable s) := by
  simp [execQueueEnable, h]

@[simp] theorem State.wf_disableQueue (s : State) (q : Nat) (h : Memory.wf s.mem = true) :
    Memory.wf (s.disableQueue q).mem = true := by
  simp [State.disableQueue, h]

@[simp] theorem wf_execQueueDisable (s : State) (h : Memory.wf s.mem = true) : OutcomeWf (execQueueDisable s) := by
  simp [execQueueDisable, h]

@[simp] theorem wf_execLatchTake (s : State) (h : Memory.wf s.mem = true) : OutcomeWf (execLatchTake s) := by
  simp [execLatchTake, h]

/-! ### Commands of the queue interfaces -/

@[simp] theorem State.kick_mem (s : State) (q : Nat) : (s.kick q).mem = s.mem := by
  refine foldl_mem _ (fun s c => ?_) _ s
  rfl

@[simp] theorem State.startCommand_mem (s : State) (seq : Nat) : (s.startCommand seq).mem = s.mem := rfl

@[simp] theorem State.wf_completionStore (s : State) (c : Command) (status : Nat) (h : Memory.wf s.mem = true) :
    Memory.wf (s.completionStore c status).1.mem = true := by
  unfold State.completionStore
  dsimp only
  split
  · exact h
  · have htarget := State.engineTarget_mem s (frontAgent c.dom c.pasid) .store (pktDone c.packet) 8
    rw [← htarget] at h
    split
    · next heq => exact wf_of_fst heq h
    · next heq =>
      split
      · exact wf_of_fst heq h
      · exact State.wf_agentWriteAs _ _ _ _ (wf_of_fst heq h)
    · next heq =>
      rw [State.spadWrite_mem]
      exact wf_of_fst heq h
    · next heq => exact wf_of_fst heq h

@[simp] theorem State.wf_completed (s : State) (c : Command) (h : Memory.wf s.mem = true) :
    Memory.wf (s.completed c).mem = true := by
  simp [State.completed, h]

@[simp] theorem State.wf_complete (s : State) (seq status : Nat) (h : Memory.wf s.mem = true) :
    Memory.wf (s.complete seq status).mem = true := by
  unfold State.complete
  split
  · exact h
  · next c _ =>
    split
    · exact h
    · have hstore : Memory.wf ((if pktType c.packet = 1 then s.refreshAll else s).completionStore c status).1.mem = true :=
        State.wf_completionStore _ _ _ (by simp [h])
      have hrecord := fun r => State.wf_appendRecord _ r hstore
      rw [wf_ite]
      exact ⟨fun _ => hrecord _, fun _ => State.wf_completed _ _ (hrecord _)⟩

@[simp] theorem State.recordPairs_mem (s : State) (g : EngAgent) (a : Nat) : (s.recordPairs g a).1.mem = s.mem := by
  unfold State.recordPairs
  split
  · next heq => exact mem_of_fst heq (State.engineRead_mem _ _ _ _)
  · next heq =>
    have ht := mem_of_fst heq (State.engineRead_mem _ _ _ _)
    dsimp only
    split
    · exact ht
    · split
      all_goals next heq => exact (mem_of_fst heq (State.engineRead_mem _ _ _ _)).trans ht

@[simp] theorem State.recordDigests_mem (s : State) (g : EngAgent) (l : List (Nat × Nat)) :
    (s.recordDigests g l).1.mem = s.mem := by
  induction l generalizing s with
  | nil => rfl
  | cons e rest ih =>
    have hread := s.engineRead_mem g e.1 e.2
    unfold State.recordDigests
    split
    · next heq => simpa [heq] using hread
    · next t bs heq =>
      have ht := ih t
      rw [heq] at hread
      split
      all_goals next heq => rw [heq] at ht; exact ht.trans hread

@[simp] theorem State.codeDigest_mem (s : State) (g : EngAgent) (a : Nat) : (s.codeDigest g a).1.mem = s.mem := by
  unfold State.codeDigest
  dsimp only
  split
  · next heq =>
    have ht := mem_of_fst heq (State.engineRead_mem _ _ _ _)
    exact ht
  · next heq =>
    have ht := mem_of_fst heq (State.engineRead_mem _ _ _ _)
    split
    all_goals
      next heq =>
      have hu := (mem_of_fst heq (State.engineRead_mem _ _ _ _)).trans ht
      exact hu

@[simp] theorem State.wf_recordLaunch (s : State) (c : Command) (h : Memory.wf s.mem = true) :
    Memory.wf (s.recordLaunch c).1.mem = true := by
  unfold State.recordLaunch
  dsimp only
  refine State.wf_agentWriteAs _ _ _ _ ?_
  split <;> simp [h]

@[simp] theorem State.wf_accept (s : State) (q head : Nat) (p : List Byte) (h : Memory.wf s.mem = true) :
    Memory.wf (s.accept q head p).mem = true := by
  unfold State.accept
  dsimp only
  split
  all_goals simp [h]

@[simp] theorem State.nextPacket_mem (s : State) (q tail : Nat) : (s.nextPacket q tail).mem = s.mem := by
  simp [State.nextPacket, apply_ite State.mem]

@[simp] theorem wf_execPacketAccept (s : State) (h : Memory.wf s.mem = true) : OutcomeWf (execPacketAccept s) := by
  unfold execPacketAccept
  dsimp only
  rw [outcomeWf_next]
  split
  · exact h
  · split
    · exact h
    · split
      · simp [h]
      · split
        all_goals next heq => have ht := wf_of_fst heq (by simp [h]); simp [ht]

@[simp] theorem wf_execFirmwareIntakeReopen (s : State) (h : Memory.wf s.mem = true) :
    OutcomeWf (execFirmwareIntakeReopen s) := by
  unfold execFirmwareIntakeReopen
  repeat' split
  all_goals simp [h]

@[simp] theorem State.codeObject_mem (s : State) (c : Command) : (s.codeObject c).1.mem = s.mem := by
  unfold State.codeObject
  dsimp only
  split
  · next heq => exact mem_of_fst heq (State.engineRead_mem _ _ _ _)
  · next heq =>
    have h1 := mem_of_fst heq (State.engineRead_mem _ _ _ _)
    split
    · exact h1
    · split
      · next heq => exact (mem_of_fst heq (State.engineRead_mem _ _ _ _)).trans h1
      · next heq =>
        have h2 := (mem_of_fst heq (State.engineRead_mem _ _ _ _)).trans h1
        split
        · next heq => exact (mem_of_fst heq (State.engineRead_mem _ _ _ _)).trans h2
        · next heq =>
          have h3 := (mem_of_fst heq (State.engineRead_mem _ _ _ _)).trans h2
          split
          · next heq => exact (mem_of_fst heq (State.engineRead_mem _ _ _ _)).trans h3
          · next heq =>
            have h4 := (mem_of_fst heq (State.engineRead_mem _ _ _ _)).trans h3
            split
            all_goals next heq => exact (mem_of_fst heq (State.engineRead_mem _ _ _ _)).trans h4

@[simp] theorem wf_execLaunchPacket (s : State) (h : Memory.wf s.mem = true) : OutcomeWf (execLaunchPacket s) := by
  unfold execLaunchPacket
  rw [outcomeWf_next]
  split
  · exact h
  · split
    · simp [h]
    · split
      all_goals next heq => have ht := wf_of_fst heq (by simp [h]); simp [ht]

@[simp] theorem wf_execCommandCompletion (s : State) (h : Memory.wf s.mem = true) : OutcomeWf (execCommandCompletion s) := by
  unfold execCommandCompletion
  split
  all_goals simp [h]

@[simp] theorem wf_execSignalPacket (s : State) (h : Memory.wf s.mem = true) : OutcomeWf (execSignalPacket s) := by
  unfold execSignalPacket
  split
  all_goals simp [h]

@[simp] theorem wf_execNopPacket (s : State) (h : Memory.wf s.mem = true) : OutcomeWf (execNopPacket s) := by
  unfold execNopPacket
  split
  all_goals simp [h]

@[simp] theorem State.wf_waitFaults (s : State) (c : Command) (h : Memory.wf s.mem = true) :
    Memory.wf (s.waitFaults c).mem = true := by
  refine wf_foldl (fun s d h => s.wf_complete d.seq 4 h) _ _ (State.wf_complete _ c.seq 4 ?_)
  simp [h]

@[simp] theorem State.wf_pollWait (s : State) (c : Command) (h : Memory.wf s.mem = true) :
    Memory.wf (s.pollWait c).mem = true := by
  unfold State.pollWait
  split
  · next heq => exact State.wf_waitFaults _ _ (wf_of_fst heq (by simp [h]))
  · next t d heq =>
    have ht := wf_of_fst heq (by simp [h])
    cases d with
    | mem va p =>
      have hdrain := t.wf_drainLine (t.homeDie p.pa) (p.pa / 64) ht
      simp [hdrain]
    | _ => simp [ht]

@[simp] theorem wf_execWaitPacket (s : State) (h : Memory.wf s.mem = true) : OutcomeWf (execWaitPacket s) := by
  unfold execWaitPacket
  split
  all_goals simp [h]

@[simp] theorem wf_execWaitSatisfied (s : State) (h : Memory.wf s.mem = true) : OutcomeWf (execWaitSatisfied s) := by
  unfold execWaitSatisfied
  split
  all_goals simp [h]

@[simp] theorem State.hintPages_mem (s : State) (g : EngAgent) (l : List (List Byte)) : (s.hintPages g l).1.mem = s.mem := by
  induction l generalizing s with
  | nil => rfl
  | cons e rest ih =>
    unfold State.hintPages
    split
    · rfl
    · dsimp only
      split
      · next heq =>
        have ht := mem_of_fst heq (m := s.mem) (by split <;> simp)
        split
        all_goals next heq => exact (mem_of_fst heq (ih _)).trans ht
      · next heq => exact mem_of_fst heq (by split <;> simp)

@[simp] theorem State.dropL2Page_mem (s : State) (page : Nat) : (s.dropL2Page page).mem = s.mem := rfl

@[simp] theorem State.moveHome_mem (s : State) (page die : Nat) : (s.moveHome page die).mem = s.mem := by
  simp [State.moveHome, apply_ite State.mem]

@[simp] theorem State.wf_applyHint (s : State) (x : Nat × Nat × Nat) (h : Memory.wf s.mem = true) :
    Memory.wf (s.applyHint x).mem = true := by
  have hcopies : ∀ (l : List (Nat × List Byte)), Memory.wf (l.foldl (fun s e => s.writePhys (64 * e.1) e.2) s).mem = true :=
    fun l => wf_foldl (fun s e h => s.wf_writePhys _ _ h) l s h
  have hdrop : ∀ (l : List (Nat × Core)) (q : CacheLine → Bool),
      Memory.wf (l.foldl (fun s e => s.dropEverywhere e.1 q) s).mem = true :=
    fun l q => wf_foldl (fun s e h => s.wf_dropEverywhere _ _ h) l s h
  simp [State.applyHint, h, hcopies, hdrop]

@[simp] theorem wf_execQuiescePacket (s : State) (h : Memory.wf s.mem = true) : OutcomeWf (execQuiescePacket s) := by
  unfold execQuiescePacket
  rw [outcomeWf_next]
  split
  · exact h
  · split
    · simp [h]
    · dsimp only
      split
      · next heq => have ht := wf_of_fst heq (by simp [h]); simp [ht]
      · next heq =>
        have ht := wf_of_fst heq (by simp [h])
        split
        · next heq => have hu := wf_of_fst heq (by simp [ht]); simp [hu]
        · next heq =>
          have hu := wf_of_fst heq (by simp [ht])
          exact State.wf_complete _ _ _ (wf_foldl (fun s x h => s.wf_applyHint x h) _ _ hu)

@[simp] theorem wf_execForwardWindowClose (s : State) (h : Memory.wf s.mem = true) : OutcomeWf (execForwardWindowClose s) := by
  unfold execForwardWindowClose
  split
  all_goals simp [h]

/-! ### Channels and doorbells -/

@[simp] theorem wf_execChSend (b a d : BitVec 5) (s : State) (h : Memory.wf s.mem = true) : OutcomeWf (execChSend b a d s) := by
  refine wf_deviceIssue _ _ _ _ s h ?_
  simp [h]

@[simp] theorem State.modHead_mem (s : State) (core chan : Nat) (f : Message → Option Message) :
    (s.modHead core chan f).mem = s.mem := rfl

@[simp] theorem State.nextMessage_mem (s : State) (core chan : Nat) : (s.nextMessage core chan).mem = s.mem := by
  unfold State.nextMessage
  split
  all_goals simp

@[simp] theorem State.refuseMessage_mem (s : State) (core : Nat) (m : Message) (reason : Nat) :
    (s.refuseMessage core m reason).mem = s.mem := by
  unfold State.refuseMessage
  dsimp only
  rw [State.nextMessage_mem]
  split
  · rw [State.applyAt_mem, State.count_mem, State.modHead_mem]
  · split <;> simp

@[simp] theorem State.retryMessage_mem (s : State) (core : Nat) (m : Message) : (s.retryMessage core m).mem = s.mem := rfl

@[simp] theorem State.parkSender_mem (s : State) (core : Nat) (m : Message) (detail : Word) :
    (s.parkSender core m detail).mem = s.mem := by
  unfold State.parkSender
  dsimp only
  repeat' split
  all_goals simp

@[simp] theorem State.admitMessage_mem (s : State) (core chan : Nat) : (s.admitMessage core chan).mem = s.mem := by
  unfold State.admitMessage
  dsimp only
  repeat' split
  all_goals simp

@[simp] theorem wf_execMessageAdmission (s : State) (h : Memory.wf s.mem = true) : OutcomeWf (execMessageAdmission s) := by
  simp [execMessageAdmission, h]

@[simp] theorem wf_execChannelSendRetry (s : State) (h : Memory.wf s.mem = true) : OutcomeWf (execChannelSendRetry s) := by
  unfold execChannelSendRetry
  split
  all_goals simp [h]

@[simp] theorem wf_execMessageTailFlit (s : State) (h : Memory.wf s.mem = true) : OutcomeWf (execMessageTailFlit s) := by
  unfold execMessageTailFlit
  dsimp only
  repeat' split
  all_goals simp [h]

@[simp] theorem wf_execMessageAbort (s : State) (h : Memory.wf s.mem = true) : OutcomeWf (execMessageAbort s) := by
  unfold execMessageAbort
  dsimp only
  split
  all_goals simp [h]

@[simp] theorem State.releaseMessage_mem (s : State) (csa : Nat) (resume : Bool) :
    (s.releaseMessage csa resume).mem = s.mem := by
  simp [State.releaseMessage, foldl_mem]

theorem recvLoop_mem (e want n : Nat) (o : RecvOut) : (recvLoop e want n o).s.mem = o.s.mem := by
  induction n generalizing o with
  | zero => rfl
  | succ n ih =>
    unfold recvLoop
    split
    · rfl
    · dsimp only
      split
      · rfl
      · split
        · simp [ih]
        · rw [ih]
          split <;> simp

@[simp] theorem wf_execChRecv (w : LaneWord) (s : State) (h : Memory.wf s.mem = true) : OutcomeWf (execChRecv w s) := by
  unfold execChRecv
  refine (Issue.outcomeWf_finish _).mpr (wf_laneIssueWith _ _ _ _ _ _ s h (by simp [h]) (fun _ => ?_))
  rw [wf_afterCheck]
  refine ⟨by simp [h], fun _ => ?_⟩
  dsimp only
  split
  · exact h
  · simp [h, recvLoop_mem, apply_ite State.mem]

@[simp] theorem wf_doorbellWord (i : Instr) (cq : Bool) (b a d : BitVec 5) (s : State) (h : Memory.wf s.mem = true) :
    OutcomeWf (doorbellWord i cq b a d s) := by
  refine wf_deviceIssue _ _ _ _ s h ?_
  simp [h]

@[simp] theorem wf_execSqRing (b a d : BitVec 5) (s : State) (h : Memory.wf s.mem = true) : OutcomeWf (execSqRing b a d s) := by
  simp [execSqRing, h]

@[simp] theorem wf_execSqRingCq (b a d : BitVec 5) (s : State) (h : Memory.wf s.mem = true) :
    OutcomeWf (execSqRingCq b a d s) := by
  simp [execSqRingCq, h]

/-! ### Leaving a slot -/

@[simp] theorem State.requestPreemption_mem (s : State) (c i : Nat) : (s.requestPreemption c i).mem = s.mem := by
  simp [State.requestPreemption, apply_ite State.mem]

@[simp] theorem wf_execPreemptionRequest (s : State) (h : Memory.wf s.mem = true) : OutcomeWf (execPreemptionRequest s) := by
  simp [execPreemptionRequest, h]

@[simp] theorem State.checkPrdom_mem (s : State) (c i : Nat) : (s.checkPrdom c i).mem = s.mem := rfl

@[simp] theorem State.requestDomain_mem (s : State) (c dom : Nat) : (s.requestDomain c dom).mem = s.mem := by
  simp [State.requestDomain, foldl_mem]

@[simp] theorem wf_execDomainPreemptionRequest (s : State) (h : Memory.wf s.mem = true) :
    OutcomeWf (execDomainPreemptionRequest s) := by
  simp [execDomainPreemptionRequest, h]

@[simp] theorem wf_execHandoverBegin (s : State) (h : Memory.wf s.mem = true) : OutcomeWf (execHandoverBegin s) := by
  simp [execHandoverBegin, h]

@[simp] theorem wf_execReclaimGraceExpiry (s : State) (h : Memory.wf s.mem = true) : OutcomeWf (execReclaimGraceExpiry s) := by
  simp [execReclaimGraceExpiry, h]

@[simp] theorem State.freeSlot_mem (s : State) (c i : Nat) (retd : Bool) : (s.freeSlot c i retd).mem = s.mem := rfl

@[simp] theorem State.wf_finishHandover (s : State) (c i : Nat) (h : Memory.wf s.mem = true) :
    Memory.wf (s.finishHandover c i).mem = true := by
  simp [State.finishHandover, h]

@[simp] theorem wf_execHandoverComplete (s : State) (h : Memory.wf s.mem = true) : OutcomeWf (execHandoverComplete s) := by
  simp [execHandoverComplete, h]

@[simp] theorem State.finishRetire_mem (s : State) (c i : Nat) : (s.finishRetire c i).mem = s.mem := by
  unfold State.finishRetire
  dsimp only
  split
  · simp only [State.tryRetire_mem, State.addDone_mem, State.freeSlot_mem]
    exact foldl_mem _ (fun s n => s.loadAccAt_mem c i n) _ s
  · rfl

@[simp] theorem wf_execWaveRetireComplete (s : State) (h : Memory.wf s.mem = true) : OutcomeWf (execWaveRetireComplete s) := by
  simp [execWaveRetireComplete, h]

@[simp] theorem wf_execLongLatencyCompletion (s : State) (h : Memory.wf s.mem = true) :
    OutcomeWf (execLongLatencyCompletion s) := by
  simp [execLongLatencyCompletion, h]

@[simp] theorem wf_execSlotTimerExpiry (s : State) (h : Memory.wf s.mem = true) : OutcomeWf (execSlotTimerExpiry s) := h

@[simp] theorem wf_execTileWaitTimeout (s : State) (h : Memory.wf s.mem = true) : OutcomeWf (execTileWaitTimeout s) := by
  unfold execTileWaitTimeout
  dsimp only
  split
  all_goals simp [h]

@[simp] theorem wf_execInterruptTaken (s : State) (h : Memory.wf s.mem = true) : OutcomeWf (execInterruptTaken s) := by
  simp [execInterruptTaken, h]

@[simp] theorem wf_execDeferredCauseTaken (s : State) (h : Memory.wf s.mem = true) : OutcomeWf (execDeferredCauseTaken s) := by
  simp [execDeferredCauseTaken, h]

@[simp] theorem State.loadItem_mem (s : State) (c i : Nat) : (s.loadItem c i).mem = s.mem := by
  unfold State.loadItem
  dsimp only
  repeat' split
  all_goals simp

@[simp] theorem wf_execRegisterMissLoadComplete (s : State) (h : Memory.wf s.mem = true) :
    OutcomeWf (execRegisterMissLoadComplete s) := by
  simp [execRegisterMissLoadComplete, h]

/-! ### Messages, drains and requests at a station -/

@[simp] theorem wf_execActiveMessageService (s : State) (h : Memory.wf s.mem = true) :
    OutcomeWf (execActiveMessageService s) := by
  simp [execActiveMessageService, h]

@[simp] theorem State.refusedMessage_mem (s : State) (core : Nat) (m : ActiveMsg) (cause : Nat) (detail : Word) :
    (s.refusedMessage core m cause detail).mem = s.mem := by
  unfold State.refusedMessage
  dsimp only
  split
  all_goals simp

@[simp] theorem wf_execActiveMessageAck (s : State) (h : Memory.wf s.mem = true) : OutcomeWf (execActiveMessageAck s) := by
  unfold execActiveMessageAck
  repeat' split
  all_goals simp [h]

@[simp] theorem wf_execReleaseDirectoryDrain (s : State) (h : Memory.wf s.mem = true) :
    OutcomeWf (execReleaseDirectoryDrain s) := by
  simp [execReleaseDirectoryDrain, h]

@[simp] theorem wf_execDrainAck (s : State) (h : Memory.wf s.mem = true) : OutcomeWf (execDrainAck s) := by
  simp [execDrainAck, h]

@[simp] theorem wf_execWaitaRecheck (s : State) (h : Memory.wf s.mem = true) : OutcomeWf (execWaitaRecheck s) := by
  unfold execWaitaRecheck
  dsimp only
  split
  all_goals simp [h]

@[simp] theorem wf_execStationTranslate (s : State) (h : Memory.wf s.mem = true) : OutcomeWf (execStationTranslate s) := by
  simp [execStationTranslate, h]

@[simp] theorem State.requestFails_mem (s : State) (r : StationReq) (f : TFault) : (s.requestFails r f).mem = s.mem := by
  unfold State.requestFails
  dsimp only
  repeat' split
  all_goals simp

@[simp] theorem wf_execStationWalkComplete (s : State) (h : Memory.wf s.mem = true) :
    OutcomeWf (execStationWalkComplete s) := by
  unfold execStationWalkComplete
  dsimp only
  rw [outcomeWf_next]
  split
  · exact h
  · refine wf_foldl (fun s r h => ?_) _ _ (wf_foldl (fun s _ h => ?_) _ _ ?_)
    · split
      all_goals next heq => simpa using wf_of_fst heq (by simp [h])
    · exact h
    · exact h

@[simp] theorem State.wf_invComplete (s : State) (d : List Byte) (v : Nat) (h : Memory.wf s.mem = true) :
    Memory.wf (s.invComplete d v).mem = true := by
  simp [State.invComplete, h]

@[simp] theorem State.invAdvance_mem (s : State) : s.invAdvance.mem = s.mem := rfl

@[simp] theorem State.wf_invNext (s : State) (n : Nat) (h : Memory.wf s.mem = true) : Memory.wf (s.invNext n).mem = true := by
  induction n generalizing s with
  | zero => exact h
  | succ n ih =>
    unfold State.invNext
    split
    · exact h
    · dsimp only
      split
      · exact h
      · exact ih _ (by simp [h])

theorem wf_foldl_dropEverywhere (p : CacheLine → Bool) (l : List (Nat × Core)) (s : State) (h : Memory.wf s.mem = true) :
    Memory.wf (l.foldl (fun s e => s.dropEverywhere e.1 p) s).mem = true := by
  refine wf_foldl (fun s e hs => ?_) l s h
  exact State.wf_dropEverywhere s e.1 p hs

@[simp] theorem State.wf_invStart (s : State) (kind : Nat) (h : Memory.wf s.mem = true) :
    Memory.wf (s.invStart kind).mem = true := by
  unfold State.invStart
  generalize List.range 64 = stations
  extract_lets d v s1 s2 s3
  split
  · exact h
  · have h3 : Memory.wf s3.mem = true := wf_foldl_dropEverywhere _ _ s2 h
    clear_value s3
    refine wf_foldl (fun s k hs => ?_) stations s3 h3
    rw [State.schedule_mem]
    exact hs

@[simp] theorem wf_execInvPageRange (s : State) (h : Memory.wf s.mem = true) : OutcomeWf (execInvPageRange s) := by
  simp [execInvPageRange, h]

@[simp] theorem wf_execInvWholePasid (s : State) (h : Memory.wf s.mem = true) : OutcomeWf (execInvWholePasid s) := by
  simp [execInvWholePasid, h]

@[simp] theorem wf_execInvHostTag (s : State) (h : Memory.wf s.mem = true) : OutcomeWf (execInvHostTag s) := by
  simp [execInvHostTag, h]

@[simp] theorem wf_execInvEverything (s : State) (h : Memory.wf s.mem = true) : OutcomeWf (execInvEverything s) := by
  simp [execInvEverything, h]

@[simp] theorem State.wf_invDone (s : State) (d : List Byte) (h : Memory.wf s.mem = true) :
    Memory.wf (s.invDone d).mem = true := by
  have hcomplete := State.wf_invComplete (if (invOf d).kind = 3 then
    { s with pctb := (s.reg trpctb).toNat, pcount := (s.reg trpctl).toNat } else s) d (leValue ((d.drop 20).take 4)) (by simp [h])
  unfold State.invDone
  exact State.wf_invNext _ 32 (by simpa using hcomplete)

@[simp] theorem wf_execStationInvAck (s : State) (h : Memory.wf s.mem = true) : OutcomeWf (execStationInvAck s) := by
  unfold execStationInvAck
  rw [outcomeWf_next]
  split
  · exact h
  · dsimp only
    split
    · exact h
    · split
      · exact h
      · next d _ _ _ =>
        have hdrop : ∀ (l : List Nat) (q : CacheLine → Bool) (s : State), Memory.wf s.mem = true →
            Memory.wf (l.foldl (fun s c => s.dropEverywhere c q) s).mem = true :=
          fun l q s h => wf_foldl (fun s c h => s.wf_dropEverywhere c q h) l s h
        simp [h, hdrop]

/-! ### Texture sampling -/

@[simp] theorem wf_sampleRead (s : State) (wv : Wave) (va n : Nat) (h : Memory.wf s.mem = true) :
    Memory.wf (sampleRead s wv va n).1.mem = true := by
  unfold sampleRead
  split
  · exact h
  · split
    · next heq => exact wf_of_fst heq (by simp [h])
    · next heq =>
      have ht := wf_of_fst heq (by simp [h])
      split <;> simp [ht]

@[simp] theorem Image.wf_tap (g : Image) (wv : Wave) (s : State) (i j : ℤ) (h : Memory.wf s.mem = true) :
    Memory.wf (g.tap wv s i j).1.mem = true := by
  unfold Image.tap
  split
  · exact h
  · split
    all_goals next heq => simpa using wf_of_fst heq (by simp [h])

@[simp] theorem Image.wf_sample (g : Image) (wv : Wave) (u v : Nat) (s : State) (h : Memory.wf s.mem = true) :
    Memory.wf (g.sample wv u v s).1.mem = true := by
  unfold Image.sample
  dsimp only
  split
  · exact h
  · split
    · split
      · split
        all_goals next heq => exact wf_of_fst heq (by simp [h])
      · refine wf_foldl_fst (fun q t hq => ?_) _ _ h
        split
        · exact hq
        · split
          all_goals next heq => exact wf_of_fst heq (by simp [hq])
    · exact h

theorem wf_foldl_sample (g : Image) (e : LaneEnv) (w : LaneWord) (lanes : List Nat)
    (q : State × List Upd × Option ReqFault) (h : Memory.wf q.1.mem = true) :
    Memory.wf (lanes.foldl (fun (q : State × List Upd × Option ReqFault) l =>
      match q.2.2 with
      | some _ => q
      | none =>
        match g.sample e.wave (e.reg w.vb.toNat l) (e.reg (w.vb.toNat + 1) l) q.1 with
        | (s, .ok c) => (s, q.2.1 ++ [.v w.vd.toNat l (BitVec.ofNat 32 c)], none)
        | (s, .error f) => (s, q.2.1, some f)) q).1.mem = true := by
  refine wf_foldl_fst (fun q l hq => ?_) lanes q h
  split
  · exact hq
  · split
    all_goals next heq => exact wf_of_fst heq (by simp [hq])

@[simp] theorem wf_vsmpPerform (e : LaneEnv) (w : LaneWord) (lanes : List Nat) (s : State) (h : Memory.wf s.mem = true) :
    Memory.wf (vsmpPerform e w lanes s).s.mem = true := by
  unfold vsmpPerform
  dsimp only
  split
  · next heq => exact wf_of_fst heq (by simp [h])
  · next heq =>
    have ht := wf_of_fst heq (by simp [h])
    split <;> exact wf_foldl_sample _ e w lanes _ ht

@[simp] theorem wf_execVsmp (w : LaneWord) (s : State) (h : Memory.wf s.mem = true) : OutcomeWf (execVsmp w s) := by
  refine (Issue.outcomeWf_finish _).mpr (wf_laneIssueWith _ _ _ _ _ _ s h (by simp [h]) (fun _ => ?_))
  split
  · simp [h]
  · split
    · next heq => exact wf_memAfter _ _ _ _ s h _ heq
    · split <;> simp [h]

/-! ### Parks and the fault ring -/

@[simp] theorem State.wf_appendFault (s : State) (k : Nat) (h : Memory.wf s.mem = true) :
    Memory.wf (s.appendFault k).mem = true := by
  unfold State.appendFault
  dsimp only
  split
  all_goals simp [h]

@[simp] theorem wf_execFaultRingAppend (s : State) (h : Memory.wf s.mem = true) : OutcomeWf (execFaultRingAppend s) := by
  simp [execFaultRingAppend, h]

@[simp] theorem wf_heldPerform (i : Instr) (m : Mask) (s : State) (h : Memory.wf s.mem = true) :
    Memory.wf (heldPerform i m s).s.mem = true := by
  unfold heldPerform
  dsimp only
  split
  · simp [h]
  · split
    case h_6 r _ =>
      have hp := wf_rvPerform r s.wave s h
      split
      · next heq => rwa [heq, RvOut.wf_late] at hp
      · next heq => rwa [heq, RvOut.wf_now] at hp
      · next heq => rwa [heq, RvOut.wf_later] at hp
      · exact h
    all_goals simp [h]

@[simp] theorem wf_performHeld (xs : Vector Word 32) (held : List (Instr × Mask)) (s : State) (h : Memory.wf s.mem = true) :
    Memory.wf (performHeld xs held s).1.mem = true := by
  refine wf_foldl_fst (fun q e hq => ?_) held _ h
  have hp := wf_heldPerform e.1 e.2 (q.1.modWave (fun w => { w with x := xs })) (by simp [hq])
  dsimp only
  split <;> simp [hp]

@[simp] theorem State.unpark_mem (s : State) (c i : Nat) : (s.unpark c i).mem = s.mem := rfl

@[simp] theorem State.wf_resendMessage (s : State) (m : ActiveMsg) (h : Memory.wf s.mem = true) :
    Memory.wf (s.resendMessage m).1.mem = true := by
  unfold State.resendMessage
  dsimp only
  split
  · next heq => exact wf_of_fst heq (by simp [h])
  · next heq => simpa using wf_of_fst heq (by simp [h])
  · next heq =>
    have ht := wf_of_fst heq (by simp [h])
    split <;> simp [ht]

@[simp] theorem State.wf_resend (s : State) (ms : List (Nat × ActiveMsg)) (h : Memory.wf s.mem = true) :
    Memory.wf (s.resend ms).1.mem = true := by
  refine wf_foldl_fst (fun q m hq => ?_) ms _ h
  split
  all_goals next heq => exact wf_of_fst heq (by simp [hq])

@[simp] theorem State.abandon_mem (s : State) (c i : Nat) (ms : List (Nat × ActiveMsg)) : (s.abandon c i ms).mem = s.mem :=
  rfl

@[simp] theorem State.unholdResults_mem (s : State) (c i : Nat) : (s.unholdResults c i).mem = s.mem := rfl

@[simp] theorem State.dropHandOff_mem (s : State) (c i : Nat) (p : Park) : (s.dropHandOff c i p).mem = s.mem := by
  unfold State.dropHandOff
  repeat' split
  all_goals simp

@[simp] theorem State.stopSequencer_mem (s : State) (c i : Nat) : (s.stopSequencer c i).mem = s.mem := by
  simp [State.stopSequencer, apply_ite State.mem]

@[simp] theorem State.wf_resumePark (s : State) (c i : Nat) (h : Memory.wf s.mem = true) :
    Memory.wf (s.resumePark c i).mem = true := by
  unfold State.resumePark
  dsimp only
  repeat' split
  all_goals simp [h]

@[simp] theorem State.deliverPark_mem (s : State) (c i : Nat) : (s.deliverPark c i).mem = s.mem := by
  unfold State.deliverPark
  repeat' split
  all_goals simp

@[simp] theorem State.wf_retirePark (s : State) (c i : Nat) (h : Memory.wf s.mem = true) :
    Memory.wf (s.retirePark c i).mem = true := by
  unfold State.retirePark
  split
  all_goals simp [h]

@[simp] theorem wf_execParkResume (s : State) (h : Memory.wf s.mem = true) : OutcomeWf (execParkResume s) := by
  simp [execParkResume, h]

@[simp] theorem wf_execParkDeliver (s : State) (h : Memory.wf s.mem = true) : OutcomeWf (execParkDeliver s) := by
  simp [execParkDeliver, h]

@[simp] theorem wf_execParkRetire (s : State) (h : Memory.wf s.mem = true) : OutcomeWf (execParkRetire s) := by
  simp [execParkRetire, h]

@[simp] theorem State.writePkres_mem (s : State) (c : Nat) (v : Word) : (s.writePkres c v).mem = s.mem := by
  unfold State.writePkres
  repeat' split
  all_goals simp

/-! ### Writes to the device registers -/

@[simp] theorem State.linkSeg_mem (s : State) (k i : Nat) : (s.linkSeg k i).mem = s.mem := rfl

@[simp] theorem State.writeTile_mem (s : State) (core e : Nat) (second : Bool) (v : Word) :
    (s.writeTile core e second v).mem = s.mem := by
  simp [State.writeTile, apply_ite State.mem]

@[simp] theorem State.writeBctl_mem (s : State) (core : Nat) (v m : Word) : (s.writeBctl core v m).mem = s.mem := by
  simp [State.writeBctl, apply_ite State.mem]

@[simp] theorem State.writePrdom_mem (s : State) (core : Nat) (v m : Word) : (s.writePrdom core v m).mem = s.mem := by
  simp [State.writePrdom, apply_ite State.mem]

@[simp] theorem State.writeCoreReg_mem (s : State) (core o : Nat) (v m : Word) (mgmt : Bool) :
    (s.writeCoreReg core o v m mgmt).mem = s.mem := by
  simp [State.writeCoreReg, apply_ite State.mem]

@[simp] theorem State.writeSegBack_mem (s : State) (k i : Nat) (v : Word) : (s.writeSegBack k i v).mem = s.mem := by
  simp [State.writeSegBack, apply_ite State.mem]

@[simp] theorem State.createSeg_mem (s : State) (k i o : Nat) (v : Word) : (s.createSeg k i o v).mem = s.mem := rfl

@[simp] theorem State.writeSeg_mem (s : State) (k i o : Nat) (v : Word) : (s.writeSeg k i o v).mem = s.mem := by
  simp [State.writeSeg, apply_ite State.mem]

@[simp] theorem State.writeClusterReg_mem (s : State) (k o : Nat) (v m : Word) : (s.writeClusterReg k o v m).mem = s.mem := by
  unfold State.writeClusterReg
  dsimp only
  split
  · simp
  · split
    · simp
    · split
      · rfl
      · split
        · refine (foldl_mem _ (fun s _ => ?_) _ _).trans (s.modCluster_mem k _)
          rfl
        · rfl

@[simp] theorem State.setCount_mem (s : State) (o limit : Nat) (v : Word) (hi : Nat) : (s.setCount o limit v hi).mem = s.mem :=
  rfl

@[simp] theorem State.writeQueue_mem (s : State) (o : Nat) (v m : Word) : (s.writeQueue o v m).mem = s.mem := by
  unfold State.writeQueue
  dsimp only
  repeat' split
  all_goals simp

@[simp] theorem State.writeDomainReg_mem (s : State) (o : Nat) (v m : Word) : (s.writeDomainReg o v m).mem = s.mem := by
  unfold State.writeDomainReg
  split
  all_goals simp

@[simp] theorem State.writeCut_mem (s : State) (o : Nat) (v m : Word) : (s.writeCut o v m).mem = s.mem := by
  simp [State.writeCut, apply_ite State.mem]

@[simp] theorem State.writeQt_mem (s : State) (o : Nat) (v m : Word) : (s.writeQt o v m).mem = s.mem := by
  simp [State.writeQt, apply_ite State.mem]

@[simp] theorem State.writeEcc_mem (s : State) (o : Nat) (v m : Word) : (s.writeEcc o v m).mem = s.mem := by
  simp [State.writeEcc, apply_ite State.mem]

@[simp] theorem State.wf_writeControl (s : State) (o : Nat) (v m : Word) (h : Memory.wf s.mem = true) :
    Memory.wf (s.writeControl o v m).mem = true := by
  simp [State.writeControl, h]

@[simp] theorem State.wf_writeJournal (s : State) (o : Nat) (v m : Word) (h : Memory.wf s.mem = true) :
    Memory.wf (s.writeJournal o v m).mem = true := by
  simp [State.writeJournal, h]

@[simp] theorem State.writeTable_mem (s : State) (base limit hi o : Nat) (v m : Word) :
    (s.writeTable base limit hi o v m).mem = s.mem := by
  simp [State.writeTable, apply_ite State.mem]

@[simp] theorem State.wf_writeDeviceReg (s : State) (o : Nat) (v m : Word) (h : Memory.wf s.mem = true) :
    Memory.wf (s.writeDeviceReg o v m).mem = true := by
  simp [State.writeDeviceReg, h]

@[simp] theorem State.wf_writeReg (s : State) (o : Nat) (v m : Word) (mgmt : Bool) (h : Memory.wf s.mem = true) :
    Memory.wf (s.writeReg o v m mgmt).mem = true := by
  simp [State.writeReg, h]

@[simp] theorem wf_execRegisterWrite (s : State) (h : Memory.wf s.mem = true) : OutcomeWf (execRegisterWrite s) := by
  rw [execRegisterWrite, outcomeWf_next, wf_ite]
  exact ⟨fun _ => h, fun _ => wf_foldl (fun s p h => by simp [h]) _ s h⟩

/-! ### Requests of the host and of peers -/

@[simp] theorem State.managed_mem (s : State) (status : Nat) : (s.managed status).mem = s.mem := rfl

theorem State.manage_mem (s : State) (f : State → State) (hf : ∀ s, (f s).mem = s.mem) : (s.manage f).mem = s.mem := by
  unfold State.manage
  split
  · rfl
  · split <;> simp [hf]

theorem State.wf_manage (s : State) (f : State → State) (hf : ∀ s, Memory.wf s.mem = true → Memory.wf (f s).mem = true)
    (h : Memory.wf s.mem = true) : Memory.wf (s.manage f).mem = true := by
  simp [State.manage, h, hf]

@[simp] theorem State.managementObject_mem (s : State) (o : List Byte) : (s.managementObject o).mem = s.mem := by
  have hbad : (s.manage (fun s => s.managed 1)).mem = s.mem := s.manage_mem _ (fun s => s.managed_mem 1)
  unfold State.managementObject
  split
  case h_4 => split <;> simp [hbad]
  all_goals simp [hbad]

@[simp] theorem State.mailboxObject_mem (s : State) (port ty : Nat) (o : List Byte) :
    (s.mailboxObject port ty o).mem = s.mem := by
  simp [State.mailboxObject, apply_ite State.mem]

@[simp] theorem State.routed_mem (s : State) (pa : Nat) : (s.routed pa).mem = s.mem := by
  unfold State.routed
  repeat' split
  all_goals simp

@[simp] theorem wf_execHostCxlMemRead (s : State) (h : Memory.wf s.mem = true) : OutcomeWf (execHostCxlMemRead s) := by
  simp [execHostCxlMemRead, h]

@[simp] theorem wf_execHostCxlMemWrite (s : State) (h : Memory.wf s.mem = true) : OutcomeWf (execHostCxlMemWrite s) := by
  simp [execHostCxlMemWrite, h]

@[simp] theorem State.wf_atomicAtHome (s : State) (pa : Nat) (h : Memory.wf s.mem = true) :
    Memory.wf (s.atomicAtHome pa).mem = true := by
  simp [State.atomicAtHome, h]

@[simp] theorem State.atomicAtSpad_mem (s : State) (k a : Nat) : (s.atomicAtSpad k a).mem = s.mem := by
  simp [State.atomicAtSpad, apply_ite State.mem]

@[simp] theorem wf_execHostAtomicop (s : State) (h : Memory.wf s.mem = true) : OutcomeWf (execHostAtomicop s) := by
  unfold execHostAtomicop
  dsimp only
  rw [outcomeWf_next]
  split
  · simp [h]
  · split
    · simp [h]
    · split
      all_goals next heq => have ht := wf_of_fst heq (by simp [h]); simp [ht]

@[simp] theorem State.ioAnswer_mem (s : State) (q : IoReq) (v : Nat) : (s.ioAnswer q v).mem = s.mem := by
  simp [State.ioAnswer, apply_ite State.mem]

@[simp] theorem State.ioFails_mem (s : State) (q : IoReq) (status : Nat) : (s.ioFails q status).mem = s.mem := by
  simp [State.ioFails, apply_ite State.mem]

@[simp] theorem State.ioRegister_mem (s : State) (q : IoReq) (off : Nat) : (s.ioRegister q off).mem = s.mem := by
  simp [State.ioRegister, apply_ite State.mem]

@[simp] theorem State.wf_ioMemory (s : State) (q : IoReq) (h : Memory.wf s.mem = true) :
    Memory.wf (s.ioMemory q).mem = true := by
  simp [State.ioMemory, h]

@[simp] theorem State.ioWritable_mem (s : State) (g : EngAgent) (va n : Nat) : (s.ioWritable g va n).1.mem = s.mem := by
  refine foldl_fst_mem (fun q p => ?_) _ _
  split
  all_goals next heq => simpa [heq] using q.1.engineTarget_mem g .store p.1 p.2

@[simp] theorem State.wf_ioTranslated (s : State) (q : IoReq) (pasid : Nat) (h : Memory.wf s.mem = true) :
    Memory.wf (s.ioTranslated q pasid).mem = true := by
  unfold State.ioTranslated
  dsimp only
  split
  · split
    all_goals
      next heq =>
      have ht := wf_of_fst heq (by simp [h])
      simp [ht]
  · split
    all_goals
      next heq =>
      have ht := wf_of_fst heq (by simp [h])
      simp [ht]

@[simp] theorem wf_execHostCxlioRequest (s : State) (h : Memory.wf s.mem = true) : OutcomeWf (execHostCxlioRequest s) := by
  unfold execHostCxlioRequest
  dsimp only
  rw [outcomeWf_next]
  split
  case h_5 =>
    split
    all_goals next heq => simpa using wf_of_fst heq (by simp [h])
  all_goals simp [h]

@[simp] theorem wf_execHostCxlCacheRequest (s : State) (h : Memory.wf s.mem = true) :
    OutcomeWf (execHostCxlCacheRequest s) := by
  unfold execHostCxlCacheRequest
  dsimp only
  rw [outcomeWf_next, wf_ite]
  refine ⟨fun _ => h, fun _ => ?_⟩
  have hdrain := s.wf_drainLine (s.homeDie (64 * s.args.a)) s.args.a h
  generalize s.drainLine _ _ = t at hdrain
  simp [hdrain, State.wf_writePhys]

@[simp] theorem wf_execPeerRequest (s : State) (h : Memory.wf s.mem = true) : OutcomeWf (execPeerRequest s) := by
  unfold execPeerRequest
  dsimp only
  repeat' split
  all_goals simp [h]

@[simp] theorem State.stopJobEngines_mem (s : State) : s.stopJobEngines.mem = s.mem := rfl

@[simp] theorem State.cutProgress_mem (s : State) : s.cutProgress.mem = s.mem := by
  simp [State.cutProgress, apply_ite State.mem]

@[simp] theorem State.cutStart_mem (s : State) : s.cutStart.mem = s.mem := by
  simp [State.cutStart, foldl_mem]

@[simp] theorem wf_execCutGo (s : State) (h : Memory.wf s.mem = true) : OutcomeWf (execCutGo s) := by
  have hmarkers : ∀ (l : List Nat), (l.foldl (fun s p => s.emit (.marker p s.cutEpoch)) s).mem = s.mem := by
    intro l
    refine foldl_mem _ (fun s p => ?_) l s
    rfl
  simp [execCutGo, h, hmarkers]

@[simp] theorem wf_execCutMarkerArrival (s : State) (h : Memory.wf s.mem = true) : OutcomeWf (execCutMarkerArrival s) := by
  simp [execCutMarkerArrival, h]

@[simp] theorem State.resumeJobEngines_mem (s : State) : s.resumeJobEngines.mem = s.mem := by
  simp [State.resumeJobEngines, foldl_mem, apply_ite State.mem]

@[simp] theorem State.resumeCollectives_mem (s : State) : s.resumeCollectives.mem = s.mem := by
  simp [State.resumeCollectives, foldl_mem]

@[simp] theorem wf_execCutResume (s : State) (h : Memory.wf s.mem = true) : OutcomeWf (execCutResume s) := by
  simp [execCutResume, h]

@[simp] theorem wf_execClockStepChange (s : State) (h : Memory.wf s.mem = true) : OutcomeWf (execClockStepChange s) := by
  simp [execClockStepChange, h]

@[simp] theorem State.stopAll_mem (s : State) : s.stopAll.mem = s.mem := rfl

@[simp] theorem wf_execCriticalTemperatureStop (s : State) (h : Memory.wf s.mem = true) :
    OutcomeWf (execCriticalTemperatureStop s) := h

@[simp] theorem wf_execDieLinkFatalError (s : State) (h : Memory.wf s.mem = true) : OutcomeWf (execDieLinkFatalError s) := h

@[simp] theorem wf_execScrubCorrection (s : State) (h : Memory.wf s.mem = true) : OutcomeWf (execScrubCorrection s) := by
  have hdrop : ∀ (l : List Nat) (q : CacheLine → Bool) (s : State), Memory.wf s.mem = true →
      Memory.wf (l.foldl (fun s c => (s.dropLines c .inst q).dropFetched c) s).mem = true :=
    fun l q s h => wf_foldl (fun s c h => by simp [h]) l s h
  simp [execScrubCorrection, h, hdrop]

@[simp] theorem wf_execMemoryExpanderRemoval (s : State) (h : Memory.wf s.mem = true) :
    OutcomeWf (execMemoryExpanderRemoval s) := by
  unfold execMemoryExpanderRemoval
  split
  all_goals simp [h]

@[simp] theorem wf_execLinkTraining (s : State) (h : Memory.wf s.mem = true) : OutcomeWf (execLinkTraining s) := by
  simp [execLinkTraining, h]

/-! ### Boot, configuration and SPDM -/

@[simp] theorem State.extend_mem (s : State) (i : Nat) (d : List Byte) : (s.extend i d).mem = s.mem := rfl

theorem foldl_firewall_mem (f : Nat → Word) (l : List Nat) (s : State) :
    (l.foldl (fun s k => if f k = 0 then s else s.modCore k (fun q => { q with fwall := f k })) s).mem = s.mem := by
  refine foldl_mem _ (fun s k => ?_) l s
  split <;> rfl

@[simp] theorem State.configure_mem (s : State) (c : Cfg) : (s.configure c).mem = s.mem := by
  unfold State.configure
  generalize List.range 1536 = walls
  generalize List.range 8 = ports
  extract_lets g t ranges top u v
  have ht : t.mem = s.mem := foldl_firewall_mem c.firewall walls s
  refine (foldl_mem _ (fun s p => ?_) ports v).trans ht
  rw [State.setReg_mem]

@[simp] theorem wf_execBootRomStage (s : State) (h : Memory.wf s.mem = true) : OutcomeWf (execBootRomStage s) := by
  unfold execBootRomStage
  repeat' split
  all_goals simp [h]

@[simp] theorem State.loadKind_mem (s : State) (kind reg : Nat) (loads : List Byte → Bool) :
    (s.loadKind kind reg loads).1.mem = s.mem := by
  unfold State.loadKind
  repeat' split
  all_goals simp

@[simp] theorem State.trainLinks_mem (s : State) : s.trainLinks.mem = s.mem := by
  simp [State.trainLinks, foldl_mem, apply_ite State.mem]

@[simp] theorem wf_execFirstStageBoot (s : State) (h : Memory.wf s.mem = true) : OutcomeWf (execFirstStageBoot s) := by
  simp [execFirstStageBoot, h]

@[simp] theorem State.spdmError_mem (s : State) (code data : Nat) : (s.spdmError code data).mem = s.mem := rfl

@[simp] theorem State.setTranscript_mem (s : State) (t : List Byte) : (s.setTranscript t).mem = s.mem := rfl

theorem State.spdm_mem (s : State) (f : State → List Byte → State) (hf : ∀ s bs, (f s bs).mem = s.mem) :
    (s.spdm f).mem = s.mem := by
  unfold State.spdm
  split
  · rfl
  · split <;> simp [hf]

theorem State.wf_spdm (s : State) (f : State → List Byte → State) (hf : ∀ s bs, (f s bs).mem = s.mem)
    (h : Memory.wf s.mem = true) : Memory.wf (s.spdm f).mem = true := by
  rw [s.spdm_mem f hf]
  exact h

@[simp] theorem State.spdmAnswer_mem (s : State) (code : Nat) (msg : List Byte) : (s.spdmAnswer code msg).mem = s.mem := rfl

@[simp] theorem State.spdmSigned_mem (s : State) (code : Nat) (msg : List Byte) : (s.spdmSigned code msg).mem = s.mem := rfl

@[simp] theorem State.nonce_mem (s : State) : s.nonce.1.mem = s.mem := rfl

@[simp] theorem wf_execGetVersion (s : State) (h : Memory.wf s.mem = true) : OutcomeWf (execGetVersion s) :=
  s.wf_spdm _ (fun s bs => by simp) h

@[simp] theorem wf_execGetCapabilities (s : State) (h : Memory.wf s.mem = true) : OutcomeWf (execGetCapabilities s) :=
  s.wf_spdm _ (fun s bs => by simp) h

@[simp] theorem wf_execNegotiateAlgorithms (s : State) (h : Memory.wf s.mem = true) : OutcomeWf (execNegotiateAlgorithms s) :=
  s.wf_spdm _ (fun s bs => by simp) h

@[simp] theorem wf_execGetDigests (s : State) (h : Memory.wf s.mem = true) : OutcomeWf (execGetDigests s) :=
  s.wf_spdm _ (fun s bs => by simp) h

@[simp] theorem wf_execGetCertificate (s : State) (h : Memory.wf s.mem = true) : OutcomeWf (execGetCertificate s) :=
  s.wf_spdm _ (fun s bs => by simp [apply_ite State.mem]) h

@[simp] theorem wf_execChallenge (s : State) (h : Memory.wf s.mem = true) : OutcomeWf (execChallenge s) :=
  s.wf_spdm _ (fun s bs => by simp [apply_ite State.mem]) h

@[simp] theorem wf_execGetMeasurements (s : State) (h : Memory.wf s.mem = true) : OutcomeWf (execGetMeasurements s) :=
  s.wf_spdm _ (fun s bs => by simp [apply_ite State.mem]) h

@[simp] theorem wf_execSpdmUnsupportedRequest (s : State) (h : Memory.wf s.mem = true) :
    OutcomeWf (execSpdmUnsupportedRequest s) :=
  s.wf_spdm _ (fun s bs => by simp) h

/-! ### Structured control words -/

theorem wf_controlWord (i : Instr) (locs : List Loc) (ops : List Operand) (fault : Wave → Core → StackFault)
    (touch : Wave → Mask) (effect : State → State) (s : State) (h : Memory.wf s.mem = true)
    (he : Memory.wf (effect s).mem = true) : OutcomeWf (controlWord i locs ops fault touch effect s) := by
  refine wf_deviceIssue _ _ _ _ s h ?_
  dsimp only
  repeat' split
  all_goals simp [h, he]

@[simp] theorem goTo_mem (pc : Word) (f : Wave → Wave) (s : State) : (goTo pc f s).mem = s.mem := rfl

@[simp] theorem wf_execMaskIf (off : BitVec 13) (neg : Bool) (q : BitVec 4) (s : State) (h : Memory.wf s.mem = true) :
    OutcomeWf (execMaskIf off neg q s) := wf_controlWord _ _ _ _ _ _ s h h

@[simp] theorem wf_execMaskElse (off : BitVec 13) (s : State) (h : Memory.wf s.mem = true) : OutcomeWf (execMaskElse off s) :=
  wf_controlWord _ _ _ _ _ _ s h h

@[simp] theorem wf_execMaskEndif (s : State) (h : Memory.wf s.mem = true) : OutcomeWf (execMaskEndif s) :=
  wf_controlWord _ _ _ _ _ _ s h h

@[simp] theorem wf_execMpush (n : BitVec 5) (s : State) (h : Memory.wf s.mem = true) : OutcomeWf (execMpush n s) :=
  wf_controlWord _ _ _ _ _ _ s h h

@[simp] theorem wf_execMpop (s : State) (h : Memory.wf s.mem = true) : OutcomeWf (execMpop s) :=
  wf_controlWord _ _ _ _ _ _ s h h

@[simp] theorem wf_execMpopD (s : State) (h : Memory.wf s.mem = true) : OutcomeWf (execMpopD s) :=
  wf_controlWord _ _ _ _ _ _ s h h

@[simp] theorem wf_execLoopL (off : BitVec 13) (n : BitVec 5) (s : State) (h : Memory.wf s.mem = true) :
    OutcomeWf (execLoopL off n s) := by
  refine wf_controlWord _ _ _ _ _ _ s h ?_
  simp [h]

@[simp] theorem leaveLoop_mem (brk : Bool) (off : BitVec 13) (neg : Bool) (q : BitVec 4) (s : State) :
    (leaveLoop brk off neg q s).mem = s.mem := rfl

@[simp] theorem wf_execBrkL (off : BitVec 13) (neg : Bool) (q : BitVec 4) (s : State) (h : Memory.wf s.mem = true) :
    OutcomeWf (execBrkL off neg q s) := wf_controlWord _ _ _ _ _ _ s h h

@[simp] theorem wf_execContL (off : BitVec 13) (neg : Bool) (q : BitVec 4) (s : State) (h : Memory.wf s.mem = true) :
    OutcomeWf (execContL off neg q s) := wf_controlWord _ _ _ _ _ _ s h h

@[simp] theorem transfer_mem (call : Bool) (b a : BitVec 5) (s : State) : (transfer call b a s).mem = s.mem := by
  unfold transfer
  dsimp only
  split
  all_goals simp

@[simp] theorem wf_execCallL (b a : BitVec 5) (s : State) (h : Memory.wf s.mem = true) : OutcomeWf (execCallL b a s) := by
  refine wf_controlWord _ _ _ _ _ _ s h ?_
  simp [h]

@[simp] theorem wf_execJmpL (b a : BitVec 5) (s : State) (h : Memory.wf s.mem = true) : OutcomeWf (execJmpL b a s) := by
  refine wf_controlWord _ _ _ _ _ _ s h ?_
  simp [h]

@[simp] theorem wf_execRetL (s : State) (h : Memory.wf s.mem = true) : OutcomeWf (execRetL s) := by
  refine wf_controlWord _ _ _ _ _ _ s h ?_
  simp [h]

/-! ### Lane integer words -/

@[simp] theorem wf_intWord (major : Nat) (w : LaneWord) (f : IntOps → ℤ) (s : State) (h : Memory.wf s.mem = true) :
    OutcomeWf (intWord major w f s) := by
  simp [intWord, h]

@[simp] theorem wf_intCountWord (major : Nat) (w : LaneWord) (f : IntOps → Nat) (s : State) (h : Memory.wf s.mem = true) :
    OutcomeWf (intCountWord major w f s) := by
  simp [intCountWord, h]

@[simp] theorem wf_intCompare (major : Nat) (w : LaneWord) (f : IntOps → Bool) (s : State) (h : Memory.wf s.mem = true) :
    OutcomeWf (intCompare major w f s) := by
  simp [intCompare, h]

@[simp] theorem wf_intLaneWord (major : Nat) (w : LaneWord) (f : LaneEnv → Nat → List Upd) (s : State)
    (h : Memory.wf s.mem = true) : OutcomeWf (intLaneWord major w f s) := by
  simp [intLaneWord, h]

@[simp] theorem wf_execVadd (w : LaneWord) (s : State) (h : Memory.wf s.mem = true) : OutcomeWf (execVadd w s) := by
  simp [execVadd, h]

@[simp] theorem wf_execVsub (w : LaneWord) (s : State) (h : Memory.wf s.mem = true) : OutcomeWf (execVsub w s) := by
  simp [execVsub, h]

@[simp] theorem wf_execVadds (w : LaneWord) (s : State) (h : Memory.wf s.mem = true) : OutcomeWf (execVadds w s) := by
  simp [execVadds, h]

@[simp] theorem wf_execVsubs (w : LaneWord) (s : State) (h : Memory.wf s.mem = true) : OutcomeWf (execVsubs w s) := by
  simp [execVsubs, h]

@[simp] theorem wf_execVmul (w : LaneWord) (s : State) (h : Memory.wf s.mem = true) : OutcomeWf (execVmul w s) := by
  simp [execVmul, h]

@[simp] theorem wf_execVmulh (w : LaneWord) (s : State) (h : Memory.wf s.mem = true) : OutcomeWf (execVmulh w s) := by
  simp [execVmulh, h]

@[simp] theorem wf_execVmulw (w : LaneWord) (s : State) (h : Memory.wf s.mem = true) : OutcomeWf (execVmulw w s) := by
  simp [execVmulw, h]

@[simp] theorem wf_execVmad (w : LaneWord) (s : State) (h : Memory.wf s.mem = true) : OutcomeWf (execVmad w s) := by
  simp [execVmad, h]

@[simp] theorem wf_execVmadw (w : LaneWord) (s : State) (h : Memory.wf s.mem = true) : OutcomeWf (execVmadw w s) := by
  simp [execVmadw, h]

@[simp] theorem wf_execVmin (w : LaneWord) (s : State) (h : Memory.wf s.mem = true) : OutcomeWf (execVmin w s) := by
  simp [execVmin, h]

@[simp] theorem wf_execVmax (w : LaneWord) (s : State) (h : Memory.wf s.mem = true) : OutcomeWf (execVmax w s) := by
  simp [execVmax, h]

@[simp] theorem wf_execVabs (w : LaneWord) (s : State) (h : Memory.wf s.mem = true) : OutcomeWf (execVabs w s) := by
  simp [execVabs, h]

@[simp] theorem wf_execVneg (w : LaneWord) (s : State) (h : Memory.wf s.mem = true) : OutcomeWf (execVneg w s) := by
  simp [execVneg, h]

@[simp] theorem wf_execVabsd (w : LaneWord) (s : State) (h : Memory.wf s.mem = true) : OutcomeWf (execVabsd w s) := by
  simp [execVabsd, h]

@[simp] theorem wf_execVclamp (w : LaneWord) (s : State) (h : Memory.wf s.mem = true) : OutcomeWf (execVclamp w s) := by
  simp [execVclamp, h]

@[simp] theorem wf_execVshadd (w : LaneWord) (s : State) (h : Memory.wf s.mem = true) : OutcomeWf (execVshadd w s) := by
  simp [execVshadd, h]

@[simp] theorem wf_execVaddc (w : LaneWord) (s : State) (h : Memory.wf s.mem = true) : OutcomeWf (execVaddc w s) := by
  simp [execVaddc, h]

@[simp] theorem wf_execVsubc (w : LaneWord) (s : State) (h : Memory.wf s.mem = true) : OutcomeWf (execVsubc w s) := by
  simp [execVsubc, h]

@[simp] theorem wf_execVmuls (w : LaneWord) (s : State) (h : Memory.wf s.mem = true) : OutcomeWf (execVmuls w s) := by
  simp [execVmuls, h]

@[simp] theorem wf_execVdot4 (w : LaneWord) (s : State) (h : Memory.wf s.mem = true) : OutcomeWf (execVdot4 w s) := by
  simp [execVdot4, h]

@[simp] theorem wf_execVand (w : LaneWord) (s : State) (h : Memory.wf s.mem = true) : OutcomeWf (execVand w s) := by
  simp [execVand, h]

@[simp] theorem wf_execVor (w : LaneWord) (s : State) (h : Memory.wf s.mem = true) : OutcomeWf (execVor w s) := by
  simp [execVor, h]

@[simp] theorem wf_execVxor (w : LaneWord) (s : State) (h : Memory.wf s.mem = true) : OutcomeWf (execVxor w s) := by
  simp [execVxor, h]

@[simp] theorem wf_execVandn (w : LaneWord) (s : State) (h : Memory.wf s.mem = true) : OutcomeWf (execVandn w s) := by
  simp [execVandn, h]

@[simp] theorem wf_execVnot (w : LaneWord) (s : State) (h : Memory.wf s.mem = true) : OutcomeWf (execVnot w s) := by
  simp [execVnot, h]

@[simp] theorem wf_execVbmux (w : LaneWord) (s : State) (h : Memory.wf s.mem = true) : OutcomeWf (execVbmux w s) := by
  simp [execVbmux, h]

@[simp] theorem wf_execVsll (w : LaneWord) (s : State) (h : Memory.wf s.mem = true) : OutcomeWf (execVsll w s) := by
  simp [execVsll, h]

@[simp] theorem wf_execVsrl (w : LaneWord) (s : State) (h : Memory.wf s.mem = true) : OutcomeWf (execVsrl w s) := by
  simp [execVsrl, h]

@[simp] theorem wf_execVsra (w : LaneWord) (s : State) (h : Memory.wf s.mem = true) : OutcomeWf (execVsra w s) := by
  simp [execVsra, h]

@[simp] theorem wf_execVrol (w : LaneWord) (s : State) (h : Memory.wf s.mem = true) : OutcomeWf (execVrol w s) := by
  simp [execVrol, h]

@[simp] theorem wf_execVror (w : LaneWord) (s : State) (h : Memory.wf s.mem = true) : OutcomeWf (execVror w s) := by
  simp [execVror, h]

@[simp] theorem wf_execVshf (w : LaneWord) (s : State) (h : Memory.wf s.mem = true) : OutcomeWf (execVshf w s) := by
  simp [execVshf, h]

@[simp] theorem wf_execVpopc (w : LaneWord) (s : State) (h : Memory.wf s.mem = true) : OutcomeWf (execVpopc w s) := by
  simp [execVpopc, h]

@[simp] theorem wf_execVclz (w : LaneWord) (s : State) (h : Memory.wf s.mem = true) : OutcomeWf (execVclz w s) := by
  simp [execVclz, h]

@[simp] theorem wf_execVctz (w : LaneWord) (s : State) (h : Memory.wf s.mem = true) : OutcomeWf (execVctz w s) := by
  simp [execVctz, h]

@[simp] theorem wf_execVbrev (w : LaneWord) (s : State) (h : Memory.wf s.mem = true) : OutcomeWf (execVbrev w s) := by
  simp [execVbrev, h]

@[simp] theorem wf_execVbswap (w : LaneWord) (s : State) (h : Memory.wf s.mem = true) : OutcomeWf (execVbswap w s) := by
  simp [execVbswap, h]

@[simp] theorem wf_execVilog2 (w : LaneWord) (s : State) (h : Memory.wf s.mem = true) : OutcomeWf (execVilog2 w s) := by
  simp [execVilog2, h]

@[simp] theorem wf_execVperm (w : LaneWord) (s : State) (h : Memory.wf s.mem = true) : OutcomeWf (execVperm w s) := by
  simp [execVperm, h]

@[simp] theorem wf_execVbext (w : LaneWord) (s : State) (h : Memory.wf s.mem = true) : OutcomeWf (execVbext w s) := by
  simp [execVbext, h]

@[simp] theorem wf_execVbins (w : LaneWord) (s : State) (h : Memory.wf s.mem = true) : OutcomeWf (execVbins w s) := by
  simp [execVbins, h]

@[simp] theorem wf_execVsel (w : LaneWord) (s : State) (h : Memory.wf s.mem = true) : OutcomeWf (execVsel w s) := by
  simp [execVsel, h]

@[simp] theorem wf_execVmov (w : LaneWord) (s : State) (h : Memory.wf s.mem = true) : OutcomeWf (execVmov w s) := by
  simp [execVmov, h]

@[simp] theorem wf_execVcmpeq (w : LaneWord) (s : State) (h : Memory.wf s.mem = true) : OutcomeWf (execVcmpeq w s) := by
  simp [execVcmpeq, h]

@[simp] theorem wf_execVcmpne (w : LaneWord) (s : State) (h : Memory.wf s.mem = true) : OutcomeWf (execVcmpne w s) := by
  simp [execVcmpne, h]

@[simp] theorem wf_execVcmplt (w : LaneWord) (s : State) (h : Memory.wf s.mem = true) : OutcomeWf (execVcmplt w s) := by
  simp [execVcmplt, h]

@[simp] theorem wf_execVcmple (w : LaneWord) (s : State) (h : Memory.wf s.mem = true) : OutcomeWf (execVcmple w s) := by
  simp [execVcmple, h]

@[simp] theorem wf_execVcmpgt (w : LaneWord) (s : State) (h : Memory.wf s.mem = true) : OutcomeWf (execVcmpgt w s) := by
  simp [execVcmpgt, h]

@[simp] theorem wf_execVcmpge (w : LaneWord) (s : State) (h : Memory.wf s.mem = true) : OutcomeWf (execVcmpge w s) := by
  simp [execVcmpge, h]

@[simp] theorem wf_execVtst (w : LaneWord) (s : State) (h : Memory.wf s.mem = true) : OutcomeWf (execVtst w s) := by
  simp [execVtst, h]

@[simp] theorem wf_execVsext (w : LaneWord) (s : State) (h : Memory.wf s.mem = true) : OutcomeWf (execVsext w s) := by
  simp [execVsext, h]

@[simp] theorem wf_execVzext (w : LaneWord) (s : State) (h : Memory.wf s.mem = true) : OutcomeWf (execVzext w s) := by
  simp [execVzext, h]

/-! ### Masks, predicates and cross-lane words -/

@[simp] theorem wf_maskWord (major : Nat) (w : LaneWord) (f : LaneEnv → List Upd) (s : State) (h : Memory.wf s.mem = true) :
    OutcomeWf (maskWord major w f s) := by
  simp [maskWord, h]

@[simp] theorem wf_predWord (major : Nat) (w : LaneWord) (f : LaneEnv → Nat → Bool) (s : State)
    (h : Memory.wf s.mem = true) : OutcomeWf (predWord major w f s) := by
  simp [predWord, h]

@[simp] theorem wf_execPand (w : LaneWord) (s : State) (h : Memory.wf s.mem = true) : OutcomeWf (execPand w s) := by
  simp [execPand, h]

@[simp] theorem wf_execPor (w : LaneWord) (s : State) (h : Memory.wf s.mem = true) : OutcomeWf (execPor w s) := by
  simp [execPor, h]

@[simp] theorem wf_execPxor (w : LaneWord) (s : State) (h : Memory.wf s.mem = true) : OutcomeWf (execPxor w s) := by
  simp [execPxor, h]

@[simp] theorem wf_execPandn (w : LaneWord) (s : State) (h : Memory.wf s.mem = true) : OutcomeWf (execPandn w s) := by
  simp [execPandn, h]

@[simp] theorem wf_execPnot (w : LaneWord) (s : State) (h : Memory.wf s.mem = true) : OutcomeWf (execPnot w s) := by
  simp [execPnot, h]

@[simp] theorem wf_execPfirst (w : LaneWord) (s : State) (h : Memory.wf s.mem = true) : OutcomeWf (execPfirst w s) := by
  simp [execPfirst, h]

@[simp] theorem wf_execMfromp (w : LaneWord) (s : State) (h : Memory.wf s.mem = true) : OutcomeWf (execMfromp w s) := by
  simp [execMfromp, h]

@[simp] theorem wf_execPfromm (w : LaneWord) (s : State) (h : Memory.wf s.mem = true) : OutcomeWf (execPfromm w s) := by
  simp [execPfromm, h]

@[simp] theorem wf_execMgeta (w : LaneWord) (s : State) (h : Memory.wf s.mem = true) : OutcomeWf (execMgeta w s) := by
  simp [execMgeta, h]

@[simp] theorem wf_execMseta (w : LaneWord) (s : State) (h : Memory.wf s.mem = true) : OutcomeWf (execMseta w s) := by
  simp [execMseta, h]

@[simp] theorem wf_execVballot (w : LaneWord) (s : State) (h : Memory.wf s.mem = true) : OutcomeWf (execVballot w s) := by
  simp [execVballot, h]

@[simp] theorem wf_execPfromx (w : LaneWord) (s : State) (h : Memory.wf s.mem = true) : OutcomeWf (execPfromx w s) := by
  simp [execPfromx, h]

@[simp] theorem wf_execVvote (w : LaneWord) (s : State) (h : Memory.wf s.mem = true) : OutcomeWf (execVvote w s) := by
  simp [execVvote, h]

@[simp] theorem wf_execVrdlane (w : LaneWord) (s : State) (h : Memory.wf s.mem = true) : OutcomeWf (execVrdlane w s) := by
  refine (Issue.outcomeWf_finish _).mpr (wf_laneIssue _ _ _ _ _ s h (fun _ => ?_))
  simp [h]

@[simp] theorem wf_execVbcast (w : LaneWord) (s : State) (h : Memory.wf s.mem = true) : OutcomeWf (execVbcast w s) := by
  simp [execVbcast, h]

@[simp] theorem wf_execVlperm (w : LaneWord) (s : State) (h : Memory.wf s.mem = true) : OutcomeWf (execVlperm w s) := by
  refine (Issue.outcomeWf_finish _).mpr (wf_laneIssue _ _ _ _ _ s h (fun _ => ?_))
  simp [h]

@[simp] theorem wf_execVred (w : LaneWord) (s : State) (h : Memory.wf s.mem = true) : OutcomeWf (execVred w s) := by
  simp [execVred, h]

@[simp] theorem wf_execVredx (w : LaneWord) (s : State) (h : Memory.wf s.mem = true) : OutcomeWf (execVredx w s) := by
  simp [execVredx, h]

@[simp] theorem wf_execVscan (w : LaneWord) (s : State) (h : Memory.wf s.mem = true) : OutcomeWf (execVscan w s) := by
  simp [execVscan, h]

@[simp] theorem wf_execVmatch (w : LaneWord) (s : State) (h : Memory.wf s.mem = true) : OutcomeWf (execVmatch w s) := by
  simp [execVmatch, h]

@[simp] theorem wf_execVlaneid (w : LaneWord) (s : State) (h : Memory.wf s.mem = true) : OutcomeWf (execVlaneid w s) := by
  simp [execVlaneid, h]

@[simp] theorem wf_execVprank (w : LaneWord) (s : State) (h : Memory.wf s.mem = true) : OutcomeWf (execVprank w s) := by
  simp [execVprank, h]

/-! ### Packed words -/

@[simp] theorem wf_packedWord (major : Nat) (w : LaneWord) (f : HalfOps → Word32) (s : State) (h : Memory.wf s.mem = true) :
    OutcomeWf (packedWord major w f s) := by
  simp [packedWord, h]

@[simp] theorem wf_halvesWord (major : Nat) (w : LaneWord) (f : HalfOps → Nat → ℤ) (s : State) (h : Memory.wf s.mem = true) :
    OutcomeWf (halvesWord major w f s) := by
  simp [halvesWord, h]

@[simp] theorem wf_execHadd (w : LaneWord) (s : State) (h : Memory.wf s.mem = true) : OutcomeWf (execHadd w s) := by
  simp [execHadd, h]

@[simp] theorem wf_execHadds (w : LaneWord) (s : State) (h : Memory.wf s.mem = true) : OutcomeWf (execHadds w s) := by
  simp [execHadds, h]

@[simp] theorem wf_execHsub (w : LaneWord) (s : State) (h : Memory.wf s.mem = true) : OutcomeWf (execHsub w s) := by
  simp [execHsub, h]

@[simp] theorem wf_execHsubs (w : LaneWord) (s : State) (h : Memory.wf s.mem = true) : OutcomeWf (execHsubs w s) := by
  simp [execHsubs, h]

@[simp] theorem wf_execHmin (w : LaneWord) (s : State) (h : Memory.wf s.mem = true) : OutcomeWf (execHmin w s) := by
  simp [execHmin, h]

@[simp] theorem wf_execHmax (w : LaneWord) (s : State) (h : Memory.wf s.mem = true) : OutcomeWf (execHmax w s) := by
  simp [execHmax, h]

@[simp] theorem wf_execHavg (w : LaneWord) (s : State) (h : Memory.wf s.mem = true) : OutcomeWf (execHavg w s) := by
  simp [execHavg, h]

@[simp] theorem wf_execHabsd (w : LaneWord) (s : State) (h : Memory.wf s.mem = true) : OutcomeWf (execHabsd w s) := by
  simp [execHabsd, h]

@[simp] theorem wf_execHabsds (w : LaneWord) (s : State) (h : Memory.wf s.mem = true) : OutcomeWf (execHabsds w s) := by
  simp [execHabsds, h]

@[simp] theorem wf_execHmul (w : LaneWord) (s : State) (h : Memory.wf s.mem = true) : OutcomeWf (execHmul w s) := by
  simp [execHmul, h]

@[simp] theorem wf_execHmuls (w : LaneWord) (s : State) (h : Memory.wf s.mem = true) : OutcomeWf (execHmuls w s) := by
  simp [execHmuls, h]

@[simp] theorem wf_execHshl (w : LaneWord) (s : State) (h : Memory.wf s.mem = true) : OutcomeWf (execHshl w s) := by
  simp [execHshl, h]

@[simp] theorem wf_execHshr (w : LaneWord) (s : State) (h : Memory.wf s.mem = true) : OutcomeWf (execHshr w s) := by
  simp [execHshr, h]

@[simp] theorem wf_execHdot2 (w : LaneWord) (s : State) (h : Memory.wf s.mem = true) : OutcomeWf (execHdot2 w s) := by
  simp [execHdot2, h]

@[simp] theorem wf_execHdot2s (w : LaneWord) (s : State) (h : Memory.wf s.mem = true) : OutcomeWf (execHdot2s w s) := by
  simp [execHdot2s, h]

@[simp] theorem wf_execHsad (w : LaneWord) (s : State) (h : Memory.wf s.mem = true) : OutcomeWf (execHsad w s) := by
  simp [execHsad, h]

@[simp] theorem wf_execHpack (w : LaneWord) (s : State) (h : Memory.wf s.mem = true) : OutcomeWf (execHpack w s) := by
  simp [execHpack, h]

@[simp] theorem wf_execHpacks (w : LaneWord) (s : State) (h : Memory.wf s.mem = true) : OutcomeWf (execHpacks w s) := by
  simp [execHpacks, h]

@[simp] theorem wf_execHunpk (w : LaneWord) (s : State) (h : Memory.wf s.mem = true) : OutcomeWf (execHunpk w s) := by
  simp [execHunpk, h]

@[simp] theorem wf_execHpk8 (w : LaneWord) (s : State) (h : Memory.wf s.mem = true) : OutcomeWf (execHpk8 w s) := by
  simp [execHpk8, h]

@[simp] theorem wf_execSunpk (w : LaneWord) (s : State) (h : Memory.wf s.mem = true) : OutcomeWf (execSunpk w s) := by
  refine (Issue.outcomeWf_finish _).mpr (wf_laneIssue _ _ _ _ _ s h (fun _ => ?_))
  simp [h]

@[simp] theorem wf_execSpack (w : LaneWord) (s : State) (h : Memory.wf s.mem = true) : OutcomeWf (execSpack w s) := by
  refine (Issue.outcomeWf_finish _).mpr (wf_laneIssue _ _ _ _ _ s h (fun _ => ?_))
  simp [h]

/-! ### Live service and resets -/

@[simp] theorem State.wf_markRetired (s : State) (csa : Nat) (h : Memory.wf s.mem = true) :
    Memory.wf (s.markRetired csa).mem = true := by
  simp [State.markRetired, h]

@[simp] theorem State.discardWave_mem (s : State) (c i : Nat) : (s.discardWave c i).mem = s.mem := by
  simp [State.discardWave]

@[simp] theorem State.wf_retireDomain (s : State) (dom : Nat) (h : Memory.wf s.mem = true) :
    Memory.wf (s.retireDomain dom).mem = true :=
  wf_foldl (fun s a h => s.wf_markRetired a h) _ _ (wf_foldl (fun s q h => by simp [h]) _ s h)

@[simp] theorem State.dropSegments_mem (s : State) (dom : Nat) : (s.dropSegments dom).mem = s.mem := by
  simp [State.dropSegments, foldl_mem, apply_ite State.mem]

@[simp] theorem State.wipeL2_mem (s : State) (dom : Nat) : (s.wipeL2 dom).mem = s.mem := by
  refine foldl_mem _ (fun s d => ?_) _ s
  rfl

@[simp] theorem State.wf_expel (s : State) (c i dom : Nat) (h : Memory.wf s.mem = true) :
    Memory.wf (s.expel c i dom).mem = true := s.wf_expelLevels c i _ h

@[simp] theorem State.expelSaved_mem (s : State) (dom : Nat) : (s.expelSaved dom).mem = s.mem := by
  simp [State.expelSaved, foldl_mem, apply_ite State.mem]

@[simp] theorem State.wf_abortCommands (s : State) (pick : Command → Bool) (h : Memory.wf s.mem = true) :
    Memory.wf (s.abortCommands pick).mem = true := wf_foldl (fun s c h => s.wf_complete c.seq 4 h) _ s h

@[simp] theorem State.wf_abortEngines (s : State) (pick : Ring → Poster → Bool) (h : Memory.wf s.mem = true) :
    Memory.wf (s.abortEngines pick).mem = true :=
  wf_foldl (fun s r h => s.wf_drainAborted _ _ h) _ _ (by simp [h])

@[simp] theorem State.wf_resetDomain (s : State) (dom : Nat) (h : Memory.wf s.mem = true) :
    Memory.wf (s.resetDomain dom).mem = true := by
  have hqueues : ∀ l : List Nat, Memory.wf (l.foldl (fun s q => s.disableQueue q) s).mem = true :=
    fun l => wf_foldl (fun s q h => s.wf_disableQueue q h) l s h
  have hteams : ∀ (l : List (Nat × Nat)) (s : State), (l.foldl (fun s t => s.retireTeam t.1 t.2) s).mem = s.mem := by
    intro l s
    refine foldl_mem _ (fun s t => ?_) l s
    rw [State.retireTeam_mem]
  have hguests : ∀ (l : List (Nat × Nat)) (s : State), Memory.wf s.mem = true →
      Memory.wf (l.foldl (fun s q => s.expel q.1 q.2 dom) s).mem = true :=
    fun l s h => wf_foldl (fun s q h => s.wf_expel q.1 q.2 dom h) l s h
  unfold State.resetDomain
  simp only [State.setUnits_mem, State.wipeL2_mem, State.expelSaved_mem]
  refine hguests _ _ ?_
  rw [hteams, State.dropSegments_mem]
  exact State.wf_abortEngines _ _ (State.wf_abortCommands _ _ (State.wf_retireDomain _ _ (hqueues _)))

@[simp] theorem wf_execDomainReset (s : State) (h : Memory.wf s.mem = true) : OutcomeWf (execDomainReset s) :=
  s.wf_manage _ (fun s h => by simp [h]) h

@[simp] theorem wf_execQueueReset (s : State) (h : Memory.wf s.mem = true) : OutcomeWf (execQueueReset s) :=
  s.wf_manage _ (fun s h => by simp [h]) h

@[simp] theorem wf_execImageWrite (s : State) (h : Memory.wf s.mem = true) : OutcomeWf (execImageWrite s) :=
  s.wf_manage _ (fun s h => by simp [h]) h

theorem State.activate_mem (s : State) (kind : Nat) (f : State → State) (hf : ∀ s, (f s).mem = s.mem) :
    (s.activate kind f).mem = s.mem := by
  unfold State.activate
  dsimp only
  split <;> simp [hf]

@[simp] theorem wf_execActivateManagementFirmware (s : State) (h : Memory.wf s.mem = true) :
    OutcomeWf (execActivateManagementFirmware s) := by
  rw [execActivateManagementFirmware, outcomeWf_next, wf_ite]
  refine ⟨fun _ => h, fun _ => ?_⟩
  rw [State.manage_mem _ _ (fun s => State.activate_mem _ _ _ (fun s => by simp))]
  exact h

@[simp] theorem State.swapCol_mem (s : State) (a b : Nat) : (s.swapCol a b).mem = s.mem := by
  simp [State.swapCol, apply_ite State.mem]

@[simp] theorem State.takeColumn_mem (s : State) (h : ColHandover) : (s.takeColumn h).mem = s.mem := by
  simp [State.takeColumn, foldl_mem]

@[simp] theorem wf_execActivateColumnFirmware (s : State) (h : Memory.wf s.mem = true) :
    OutcomeWf (execActivateColumnFirmware s) := by
  unfold execActivateColumnFirmware
  rw [outcomeWf_next]
  split
  · refine s.wf_manage _ (fun s h => ?_) h
    rw [wf_ite, State.activate_mem _ _ _ (fun s => by simp)]
    simp [h]
  · exact s.wf_manage _ (fun s h => by simp [h]) h
  · simp [h]
  · simp [h]
  · exact h

@[simp] theorem State.reloadEngine_mem (s : State) (n : Nat) : (s.reloadEngine n).mem = s.mem := by
  unfold State.reloadEngine
  split
  · rfl
  · dsimp only
    split
    · rfl
    · refine foldl_mem _ (fun s r => ?_) _ _
      rw [State.nextEntry_mem]

@[simp] theorem wf_execActivateEngineMicrocode (s : State) (h : Memory.wf s.mem = true) :
    OutcomeWf (execActivateEngineMicrocode s) := by
  rw [execActivateEngineMicrocode, outcomeWf_next, wf_ite]
  refine ⟨fun _ => by simp [h], fun _ => s.wf_manage _ (fun s h => ?_) h⟩
  rw [wf_ite, State.activate_mem _ _ _ (fun s => by simp)]
  simp [h]

@[simp] theorem wf_execSpare (s : State) (h : Memory.wf s.mem = true) : OutcomeWf (execSpare s) := by
  refine s.wf_manage _ (fun s h => ?_) h
  simp only [wf_ite, State.managed_mem]
  refine ⟨fun _ => h, fun _ => ⟨fun _ => h, fun _ => ?_⟩⟩
  refine wf_foldl (fun s e h => ?_) _ _ (wf_foldl (fun s i h => ?_) _ _ ?_)
  · exact h
  · simp [h]
  · exact h

@[simp] theorem State.replayMatches_mem (s : State) (g : EngAgent) (slot : List Byte) (buffers : List (Nat × Nat)) :
    (s.replayMatches g slot buffers).1.mem = s.mem := by
  unfold State.replayMatches
  dsimp only
  split
  · rfl
  · split
    all_goals next heq => simpa [heq] using s.recordDigests_mem g buffers

@[simp] theorem wf_execReplay (s : State) (h : Memory.wf s.mem = true) : OutcomeWf (execReplay s) := by
  refine s.wf_manage _ (fun s h => ?_) h
  simp only [wf_ite, State.managed_mem]
  refine ⟨fun _ => h, fun _ => ⟨fun _ => h, fun _ => ⟨fun _ => h, fun _ => ?_⟩⟩⟩
  split
  all_goals next heq => simpa using wf_of_fst heq (by simp [h])

@[simp] theorem wf_execCoreReset (s : State) (h : Memory.wf s.mem = true) : OutcomeWf (execCoreReset s) := by
  unfold execCoreReset
  refine wf_foldl (fun s k h => ?_) _ _ ?_
  · exact h
  · simp [h]

@[simp] theorem wf_execDeviceReset (s : State) (h : Memory.wf s.mem = true) : OutcomeWf (execDeviceReset s) := by
  simp [execDeviceReset, h]

/-! ### The paired word -/

@[simp] theorem wf_lanePart (major : Nat) (w : LaneWord) (s : State) (h : Memory.wf s.mem = true) :
    OutcomeWf (lanePart major w s) := by
  unfold lanePart
  split
  all_goals simp [h]

@[simp] theorem wf_pairScalar (w : LaneWord) (i : Rv) (s t : State) (hs : Memory.wf s.mem = true) (ht : Memory.wf t.mem = true) :
    OutcomeWf (pairScalar w i s t) := by
  have hp := wf_rvPerform i s.wave t ht
  unfold pairScalar
  split
  · simp [hs]
  · simp [hs]
  · simp [hs]
  · next heq => rw [heq, RvOut.wf_now] at hp; simp [hp]
  · next heq => rw [heq, RvOut.wf_later] at hp; simp [hp]
  · next heq =>
    rw [heq, RvOut.wf_late] at hp
    split <;> simp [hp]

@[simp] theorem wf_execPairedWord (major : BitVec 8) (w : LaneWord) (all : Bool) (i : Rv) (s : State)
    (h : Memory.wf s.mem = true) : OutcomeWf (execPairedWord major w all i s) := by
  have hlane := wf_lanePart major.toNat (pairedLane major.toNat w) s h
  unfold execPairedWord
  dsimp only
  split
  · trivial
  · split
    · simp [h]
    · split
      · next heq => exact (Issue.outcomeWf_finish _).mpr (wf_lookahead s _ h _ heq)
      · split
        · next heq =>
          have ht := wf_of_next heq hlane
          simp [h, ht]
        · exact hlane

/-! ### Every instruction and event -/

@[simp] theorem wf_exec (i : Instr) (s : State) (h : Memory.wf s.mem = true) : OutcomeWf (exec i s) := by
  unfold exec
  split
  all_goals simp [h]

/-! ### The rotation -/

@[simp] theorem State.turnOf_mem (s : State) (c : Nat) : (s.turnOf c).mem = s.mem := rfl

@[simp] theorem State.nextCycle_mem (s : State) : s.nextCycle.mem = s.mem := rfl

@[simp] theorem State.beginTurn_mem (s : State) : s.beginTurn.mem = s.mem := by
  simp [State.beginTurn, apply_ite State.mem]

@[simp] theorem State.openGrid_mem (s : State) (c : Command) : (s.openGrid c).mem = s.mem := rfl

@[simp] theorem State.orFlags_mem (s : State) (c i : Nat) (b : BitVec 4) : (s.orFlags c i b).mem = s.mem := by
  unfold State.orFlags
  split
  · rfl
  · rw [State.applyAt_mem]

@[simp] theorem State.ownTurnCounts_mem (t s : State) : (t.ownTurnCounts s).mem = t.mem := rfl

/-! ### One step -/

@[simp] theorem wf_runWord (s : State) (h : Memory.wf s.mem = true) : OutcomeWf (runWord s) := by
  unfold runWord
  split
  all_goals simp [h]

@[simp] theorem wf_firstEligible (s : State) (js : List Nat) (h : Memory.wf s.mem = true) : StatesWf (firstEligible s js) := by
  intro t ht
  obtain ⟨j, -, hj⟩ := List.exists_of_findSome?_eq_some ht
  have hrun := wf_runWord { s with curSlot := j } h
  dsimp only at hj
  split at hj
  · next u heq =>
    have hu := wf_of_next heq hrun
    split at hj
    · cases hj
    · cases hj
      simpa using hu
  · cases hj

@[simp] theorem wf_borrow (s : State) (h : Memory.wf s.mem = true) : StatesWf (borrow s) := by
  simp [borrow, h]

@[simp] theorem wf_lend (s : State) (h : Memory.wf s.mem = true) : Memory.wf (lend s).mem = true := by
  unfold lend
  split
  · split
    · next heq =>
      have ht := wf_borrow s h _ heq
      exact ht
    · exact h
  · exact h

@[simp] theorem closeTurn_mem (t : State) : (closeTurn t).mem = t.mem := by
  simp [closeTurn, apply_ite State.mem]

@[simp] theorem wf_endTurn (waited : Bool) (t : State) (h : Memory.wf t.mem = true) :
    Memory.wf (endTurn waited t).mem = true := by
  simp [endTurn, h]

@[simp] theorem wf_ownTurn (s : State) (h : Memory.wf s.mem = true) : OutcomeWf (ownTurn s) := by
  have hrun := wf_runWord s h
  have hevent : Memory.wf (if s.preempts then { s.beginHandover s.curCore s.curSlot with verdict := .notIssued }
      else { s.takeInterrupt s.curCore s.curSlot with verdict := .raised } : State).mem = true := by
    rw [wf_ite]
    exact ⟨fun _ => by simp [h], fun _ => by simp [h]⟩
  unfold ownTurn
  dsimp only
  split
  · rw [outcomeWf_next, closeTurn_mem]
    simp [h]
  · split
    · rw [outcomeWf_next, closeTurn_mem]
      simp [h]
    · split
      · split
        · rw [outcomeWf_next, closeTurn_mem]
          exact hevent
        · split
          · next heq =>
            have ht := wf_of_next heq hrun
            rw [outcomeWf_next, closeTurn_mem, wf_ite]
            exact ⟨fun _ => ht, fun _ => hevent⟩
          · rw [outcomeWf_next, closeTurn_mem]
            exact hevent
      · split
        · exact wf_endTurn _ _ h
        · split
          · next heq =>
            have ht := wf_of_next heq hrun
            exact wf_endTurn _ _ ht
          · exact hrun

@[simp] theorem wf_fullTurn (s : State) (h : Memory.wf s.mem = true) : OutcomeWf (fullTurn s) := by
  have hown : ∀ o, ownTurn s.beginTurn = o → OutcomeWf o := by
    generalize hu : s.beginTurn = u
    rintro _ rfl
    refine wf_ownTurn u ?_
    rw [← hu, State.beginTurn_mem]
    exact h
  unfold fullTurn
  cases ho : ownTurn s.beginTurn with
  | next t =>
    have ht := hown _ ho
    dsimp only
    rw [outcomeWf_next, State.orFlags_mem]
    exact ht
  | fault r => trivial
  | refused r => trivial

@[simp] theorem wf_heldTurn (s : State) (h : Memory.wf s.mem = true) : OutcomeWf (heldTurn s) := by
  simp [heldTurn, h]

@[simp] theorem wf_coreTurn (s : State) (h : Memory.wf s.mem = true) : OutcomeWf (coreTurn s) := by
  unfold coreTurn
  repeat' split
  all_goals simp [h]

@[simp] theorem wf_halfTurnStep (s : State) (h : Memory.wf s.mem = true) : OutcomeWf (halfTurnStep s) := by
  unfold halfTurnStep
  dsimp only
  split
  · next heq =>
    have ht := wf_firstEligible { s with half := false } _ h _ heq
    simp [ht]
  · exact h

@[simp] theorem wf_step (s : State) (h : Memory.wf s.mem = true) : OutcomeWf (step s) := by
  unfold step
  repeat' split
  all_goals simp [h]

/-! ### The obligation -/

/-- Settles O60: a step changes memory only by writing bytes, which keeps its canonical form. -/
theorem memoryCanonicalStep : Obligations.MemoryCanonicalStep := by
  intro s t h hstep
  exact wf_of_next hstep (wf_step s h)

end Sys2Proof.Machine

namespace Sys2Proof.Machine

/-! ## Cores and slots under the state's operations -/

/-- A core is read off the listed cores, the cycle and the place of the core in it. -/
theorem State.core_congr {s t : State} (hcores : t.cores = s.cores) (hcycle : t.cycle = s.cycle)
    (hidx : t.coreIdx = s.coreIdx) (c : Nat) : t.core c = s.core c := by
  simp only [State.core, State.idleCore, hcores, hcycle, hidx]

@[simp] theorem State.slotAt_schedule (s : State) (n : Nat) (i : Instr) (a : Args) (c j : Nat) :
    (s.schedule n i a).slotAt c j = s.slotAt c j := rfl

/-- A change of a core that keeps its slots keeps every slot. -/
theorem State.slotAt_modCore (s : State) (c : Nat) (f : Core → Core) (hf : (f (s.core c)).slots = (s.core c).slots)
    (d i : Nat) : (s.modCore c f).slotAt d i = s.slotAt d i := by
  unfold State.slotAt
  by_cases h : d = c
  · subst h
    rw [State.core_modCore_same, Core.slot, hf, Core.slot]
  · rw [State.core_modCore_other s f h]

/-- A change of a slot keeps every other slot. -/
theorem State.slotAt_modSlotAt_other (s : State) {c i d j : Nat} (f : Slot → Slot) (h : ¬ (d = c ∧ j = i)) :
    (s.modSlotAt c i f).slotAt d j = s.slotAt d j := by
  unfold State.slotAt State.modSlotAt
  by_cases hd : d = c
  · subst hd
    rw [State.core_modCore_same, Core.slot_modSlot_other _ f (fun hj => h ⟨rfl, hj⟩)]
  · rw [State.core_modCore_other s _ hd]

end Sys2Proof.Machine

namespace Sys2Proof.Machine

/-! ## The start of an own turn -/

/-- What the results of a word leave alone in the slot they go to: its pc and its count of own turns. -/
def Slot.place (k : Slot) : Word × Word := (k.wave.pc, k.wave.csrs.turn)

@[simp] theorem State.applyAt_curCore (s : State) (c i : Nat) (u : Upd) : (s.applyAt c i u).curCore = s.curCore := by
  cases u with
  | defer cause tval => simp only [State.applyAt, apply_ite State.curCore]; exact ite_self _
  | _ => rfl

@[simp] theorem State.applyAt_curSlot (s : State) (c i : Nat) (u : Upd) : (s.applyAt c i u).curSlot = s.curSlot := by
  cases u with
  | defer cause tval => simp only [State.applyAt, apply_ite State.curSlot]; exact ite_self _
  | _ => rfl

/-- A change of the wave that keeps its pc and count of own turns. -/
theorem Slot.place_modWaveAt (s : State) (c i : Nat) (f : Wave → Wave)
    (hf : ∀ w, (f w).pc = w.pc ∧ (f w).csrs.turn = w.csrs.turn) :
    ((s.modWaveAt c i f).slotAt c i).place = (s.slotAt c i).place := by
  rw [State.slotAt_modWaveAt_same]
  exact Prod.ext (hf _).1 (hf _).2

@[simp] theorem Wave.fpDirty_turn (w : Wave) : w.fpDirty.csrs.turn = w.csrs.turn := by simp only [Wave.fpDirty]

@[simp] theorem Slot.place_applyAt (s : State) (c i : Nat) (u : Upd) :
    ((s.applyAt c i u).slotAt c i).place = (s.slotAt c i).place := by
  cases u with
  | v n l v => exact congrArg Slot.place (s.slotAt_modCore c _ rfl c i)
  | cvalid n =>
    refine congrArg Slot.place (s.slotAt_modCore c _ ?_ c i)
    split <;> rfl
  | defer cause tval =>
    simp only [State.applyAt]
    split
    · refine Eq.trans (Slot.place_modWaveAt _ c i _ ?_) ?_
      · exact fun _ => ⟨rfl, rfl⟩
      · exact congrArg Slot.place (s.slotAt_modCore c _ rfl c i)
    · exact Slot.place_modWaveAt s c i _ (fun _ => ⟨rfl, rfl⟩)
  | fflags b =>
    simp only [State.applyAt]
    refine Slot.place_modWaveAt s c i _ ?_
    intro w
    split
    · exact ⟨rfl, rfl⟩
    · exact ⟨Wave.fpDirty_pc _, Wave.fpDirty_turn _⟩
  | x n v =>
    exact Slot.place_modWaveAt s c i (fun w => w.setX n v) (fun w => ⟨w.setX_pc n v, congrArg Csrs.turn (w.setX_csrs n v)⟩)
  | p n l b =>
    simp only [State.applyAt]
    refine Slot.place_modWaveAt s c i _ ?_
    intro w
    rw [Wave.setP_pc, Wave.setP_csrs]
    exact ⟨rfl, rfl⟩
  | f n v =>
    exact Slot.place_modWaveAt s c i (fun w => (w.setF n v).fpDirty) (fun w => ⟨Wave.fpDirty_pc _, Wave.fpDirty_turn _⟩)
  | _ =>
    simp only [State.applyAt]
    exact Slot.place_modWaveAt s c i _ (fun _ => ⟨rfl, rfl⟩)

@[simp] theorem State.applyAllAt_curCore (s : State) (c i : Nat) (us : List Upd) : (s.applyAllAt c i us).curCore = s.curCore :=
  List.foldlRecOn (motive := fun t : State => t.curCore = s.curCore) us _ rfl (fun t h u _ => by simp [h])

@[simp] theorem State.applyAllAt_curSlot (s : State) (c i : Nat) (us : List Upd) : (s.applyAllAt c i us).curSlot = s.curSlot :=
  List.foldlRecOn (motive := fun t : State => t.curSlot = s.curSlot) us _ rfl (fun t h u _ => by simp [h])

@[simp] theorem Slot.place_applyAllAt (s : State) (c i : Nat) (us : List Upd) :
    ((s.applyAllAt c i us).slotAt c i).place = (s.slotAt c i).place :=
  List.foldlRecOn (motive := fun t : State => (t.slotAt c i).place = (s.slotAt c i).place) us _ rfl
    (fun t h u _ => by simp [h])

/-! ### The parts of `beginTurn` -/

@[simp] theorem State.tick_curCore (s : State) (c i : Nat) : (s.tick c i).curCore = s.curCore := by
  unfold State.tick
  extract_lets t w n k u
  have hu : u.curCore = s.curCore := rfl
  clear_value u
  split <;> exact hu

@[simp] theorem State.tick_curSlot (s : State) (c i : Nat) : (s.tick c i).curSlot = s.curSlot := by
  unfold State.tick
  extract_lets t w n k u
  have hu : u.curSlot = s.curSlot := rfl
  clear_value u
  split <;> exact hu

/-- The advance of an own turn counts it, and keeps the pc. -/
@[simp] theorem Slot.place_tick (s : State) (c i : Nat) : ((s.tick c i).slotAt c i).place =
    ((s.slotAt c i).wave.pc, (s.slotAt c i).wave.csrs.turn + 1) := by
  unfold State.tick
  extract_lets t w n k u
  have hu : (u.slotAt c i).place = ((s.slotAt c i).wave.pc, (s.slotAt c i).wave.csrs.turn + 1) := by
    rw [t.slotAt_modCore c _ rfl c i, State.slotAt_modWaveAt_same]
    rfl
  clear_value u
  split <;> exact hu

@[simp] theorem State.completeDue_curCore (s : State) (c i : Nat) : (s.completeDue c i).curCore = s.curCore := by
  simp [State.completeDue]

@[simp] theorem State.completeDue_curSlot (s : State) (c i : Nat) : (s.completeDue c i).curSlot = s.curSlot := by
  simp [State.completeDue]

@[simp] theorem Slot.place_completeDue (s : State) (c i : Nat) :
    ((s.completeDue c i).slotAt c i).place = (s.slotAt c i).place :=
  Eq.trans (by exact Slot.place_modWaveAt _ c i _ (fun _ => ⟨rfl, rfl⟩)) (Slot.place_applyAllAt s c i _)

@[simp] theorem State.startGrace_curCore (s : State) (c i : Nat) : (s.startGrace c i).curCore = s.curCore := by
  unfold State.startGrace
  dsimp only
  split <;> rfl

@[simp] theorem State.startGrace_curSlot (s : State) (c i : Nat) : (s.startGrace c i).curSlot = s.curSlot := by
  unfold State.startGrace
  dsimp only
  split <;> rfl

@[simp] theorem Slot.place_startGrace (s : State) (c i : Nat) :
    ((s.startGrace c i).slotAt c i).place = (s.slotAt c i).place := by
  unfold State.startGrace
  dsimp only
  split
  · exact Slot.place_modWaveAt s c i _ (fun _ => ⟨rfl, rfl⟩)
  · rfl

/-- The start of an own turn keeps the core and slot that act and the pc, and counts the turn (R18). -/
theorem State.beginTurn_keeps (s : State) :
    s.beginTurn.curCore = s.curCore ∧ s.beginTurn.curSlot = s.curSlot ∧ s.beginTurn.wave.pc = s.wave.pc ∧
      s.beginTurn.wave.csrs.turn = s.wave.csrs.turn + 1 := by
  suffices h : s.beginTurn.curCore = s.curCore ∧ s.beginTurn.curSlot = s.curSlot ∧
      s.beginTurn.slot.place = (s.wave.pc, s.wave.csrs.turn + 1) by
    obtain ⟨hcore, hslot, hplace⟩ := h
    generalize s.beginTurn = t at *
    exact ⟨hcore, hslot, congrArg Prod.fst hplace, congrArg Prod.snd hplace⟩
  have hplace : ((((s.tick s.curCore s.curSlot).completeDue s.curCore s.curSlot).startGrace s.curCore s.curSlot).slotAt
      s.curCore s.curSlot).place = (s.wave.pc, s.wave.csrs.turn + 1) := by simp [State.wave, State.slot]
  have hcore : (((s.tick s.curCore s.curSlot).completeDue s.curCore s.curSlot).startGrace s.curCore s.curSlot).curCore =
      s.curCore := by simp
  have hslot : (((s.tick s.curCore s.curSlot).completeDue s.curCore s.curSlot).startGrace s.curCore s.curSlot).curSlot =
      s.curSlot := by simp
  unfold State.beginTurn
  generalize ((s.tick s.curCore s.curSlot).completeDue s.curCore s.curSlot).startGrace s.curCore s.curSlot = r at *
  extract_lets t w ended
  have ht : t.curCore = s.curCore ∧ t.curSlot = s.curSlot ∧ t.slot.place = (s.wave.pc, s.wave.csrs.turn + 1) := by
    refine ⟨hcore, hslot, ?_⟩
    rw [State.slot_modSlot, ← hplace, ← hcore, ← hslot]
    rfl
  clear_value t
  obtain ⟨htc, hts, htp⟩ := ht
  split
  · refine ⟨htc, hts, ?_⟩
    rw [State.slot_modSlot, ← htp, Slot.place, Slot.place]
    dsimp only
    split <;> rfl
  · exact ⟨htc, hts, htp⟩

end Sys2Proof.Machine

namespace Sys2Proof.Machine
open Sys2Proof.Claims

/-! ## O58: what a step is -/

/-- An event that is due acts in the step (log 2). -/
theorem step_of_due (s : State) (n : Nat) (i : Instr) (a : Args) (rest : List (Nat × Instr × Args))
    (h : s.agenda = (n, i, a) :: rest) (hn : n ≤ s.cycle) : step s = exec i { s with agenda := rest, args := a } := by
  simp [step, h, hn]

/-- Where no event is due and nothing has stopped the cores, the next core takes its turn, or the next cycle begins. -/
theorem step_of_quiet (s : State) (hdue : ∀ e, s.agenda.head? = some e → s.cycle < e.1) (hfatal : s.fatal = false)
    (hhalf : s.half = false) :
    step s = s.nextCore.elim (.next s.nextCycle) (fun c => coreTurn (s.turnOf c)) := by
  unfold step
  cases h : s.agenda.head? with
  | none => cases hnext : s.nextCore <;> simp [hfatal, hhalf]
  | some e =>
    obtain ⟨n, i, a⟩ := e
    have hlate : ¬ n ≤ s.cycle := Nat.not_le.mpr (hdue _ h)
    cases hnext : s.nextCore <;> simp [hfatal, hhalf, hlate]

/-- A word whose bits decode, and which stands where a word may, is what its wave fetches (R73). -/
theorem fetched_of_decode (u : State) (n : Nat) (b : BitVec 128) (i : Instr) (hpc : u.wave.pc.toNat % 4 = 0)
    (hcode : u.codeAt u.wave.pc.toNat = some b) (hlen : wordBytes b.toNat = some n)
    (hblock : u.wave.pc.toNat % 32 + n ≤ 32) (hpair : n = 16 → u.wave.pc.toNat % 16 = 0) (hdec : decode b = .ok i) :
    u.fetched = .word i := by
  have hplace : ¬ (32 < u.wave.pc.toNat % 32 + n ∨ (n = 16 ∧ u.wave.pc.toNat % 32 % 16 ≠ 0)) := by omega
  have hword : fetchWord (u.wave.pc.toNat % 32) b = .word i := by
    simp only [fetchWord, hlen, if_neg hplace, hdec]
  simp [State.fetched, State.fetchedAt, hpc, hcode, hword]

/-- The turn of a wave that nothing keeps from its word is that word (R165). -/
theorem ownTurn_of_mayRun (u : State) (i : Instr) (h : mayRun u) (hf : u.fetched = .word i) :
    ownTurn u = match exec i u with
      | .next t => .next (endTurn u.wave.wait.isSome { t with half := u.halfTurn && t.verdict = .issued })
      | o => o := by
  obtain ⟨hrun, hraised, hdefer, hprq, hintr⟩ := h
  have hawake : u.asleep = false := by simp [State.asleep, hrun]
  have hstay : u.preempts = false := by simp [State.preempts, hprq]
  have hword : runWord u = exec i u := by simp [runWord, hf]
  simp [ownTurn, hraised, hdefer, hstay, hintr, hawake, hword] <;> rfl

/-- A turn whose word issued ends with that word (R25, R378). -/
theorem endTurn_of_issued (b : Bool) (t : State) (h : t.verdict = .issued) : endTurn b t = t := by
  simp [endTurn, closeTurn, h]

/-- The full turn of a wave that nothing keeps from its word is that word, with the narrowing flags of the turn (R108). -/
theorem fullTurn_of_mayRun (t : State) (i : Instr) (h : mayRun t.beginTurn) (hf : t.beginTurn.fetched = .word i) :
    fullTurn t = match exec i t.beginTurn with
      | .next v => .next ((endTurn t.beginTurn.wave.wait.isSome
          { v with half := t.beginTurn.halfTurn && v.verdict = .issued }).orFlags t.curCore t.curSlot t.lateFlags)
      | o => o := by
  have hown := ownTurn_of_mayRun t.beginTurn i h hf
  unfold fullTurn
  generalize exec i t.beginTurn = o at hown ⊢
  generalize ownTurn t.beginTurn = p at hown ⊢
  subst hown
  cases o <;> rfl

/-- Settles O58: each clause is the branch of `step`, and of the turn it starts, that its conditions pick. -/
theorem stepRunsDecodedWord : Obligations.StepRunsDecodedWord := by
  refine ⟨fun s c n b i => ?_, fun s c _ => ?_, endTurn_of_issued, step_of_due, fun s hdue hfatal hhalf hnext => ?_⟩
  · dsimp only
    intro hacts hrun hopen hmay hpc hcode hlen hblock hpair hdec
    obtain ⟨hdue, hfatal, hhalf, hnext⟩ := hacts
    have hfetch := fetched_of_decode _ n b i hpc hcode hlen hblock hpair hdec
    rw [step_of_quiet s hdue hfatal hhalf, hnext, Option.elim]
    simp only [coreTurn, hrun, hopen]
    exact fullTurn_of_mayRun (s.turnOf c) i hmay hfetch
  · obtain ⟨hcore, hslot, hpc, hturn⟩ := (s.turnOf c).beginTurn_keeps
    exact ⟨hpc, hturn, hcore, hslot, State.beginTurn_mem _⟩
  · rw [step_of_quiet s hdue hfatal hhalf, hnext, Option.elim]

end Sys2Proof.Machine

namespace Sys2Proof.Machine
open Sys2Proof.Claims

/-! ## O59: the reset state -/

/-- A `QSTAT` register is zero after reset (R267). -/
theorem regReset_queueState {q : Nat} (hq : q < 2048) : regReset (queueReg q 3) = 0 := by
  have hoff : queueReg q 3 = 0x100018 + 64 * q := by simp only [queueReg]; omega
  rw [hoff]
  unfold regReset
  repeat rw [if_neg (by omega)]

/-- Settles O59: the state of reset is given field by field, and no `QSTAT` register has a reset value of its own. -/
theorem resetState : Obligations.ResetState := by
  refine ⟨rfl, fun c => Nat.zero_sub _, fun _ _ => rfl, fun _ _ => rfl, fun q hq => ?_, rfl, rfl, rfl, Memory.wf_reset,
    fun _ => rfl, rfl⟩
  have hreg : State.reset.reg (queueReg q 3) = 0 := regReset_queueState hq
  rw [State.queueState, hreg]
  rfl

end Sys2Proof.Machine

namespace Sys2Proof.Machine
open Sys2Proof.Claims

/-! ## O32: a retired form ends a wait -/

/-- The counterexample of O32: a wave that waits in `yield` stands at a retired form, with the die's unit idle. -/
def yieldingAtRetired : State :=
  { cores := [(0, { slots := [(0, { state := .waiting, wave := { wait := some { kind := .yield, start := 0 } } })] })] }

/-- A retired form that waits for its answer ends the wait the wave stood in. -/
theorem wait_retired_yielding (t : State) (h : exec (.lmulhh 0 0 0) yieldingAtRetired = .next t) : t.wave.wait = none := by
  have hex : (match exec (.lmulhh 0 0 0) yieldingAtRetired with
    | .next t => t.wave.wait.isNone
    | _ => false) = true := by decide +kernel
  rw [h] at hex
  exact Option.isNone_iff_eq_none.mp hex

/-- Refutes O32: the clause on the die's unit has the retired form change nothing of the wave but `busy`, but where the wave
stood in a wait the form also ends it (`State.endWait`). -/
theorem not_retiredAndIllegalWords : ¬ Obligations.RetiredAndIllegalWords := by
  rintro ⟨hforms, -⟩
  have hopen : baseOpen (xLocs [0, 0, 0]) yieldingAtRetired = true := by decide +kernel
  have hform := hforms (0, .lmulhh) List.mem_cons_self 0 0 0 yieldingAtRetired
  dsimp only at hform
  obtain ⟨hask, -⟩ := hform hopen
  obtain ⟨t, hexec, -, -, hwave⟩ := hask (by decide +kernel) (by decide +kernel)
  have hnone := wait_retired_yielding t hexec
  have hsome : t.wave.wait = yieldingAtRetired.wave.wait := (congrArg Wave.wait hwave).trans rfl
  rw [hnone] at hsome
  exact absurd hsome (by decide +kernel)

end Sys2Proof.Machine

namespace Sys2Proof.Machine
open Sys2Proof.Claims

/-! ## O47: the load of an absent accumulator tile -/

/-- The counterexample of O47: the slot table of core 0 does not rise, slot 5 before slot 3. Slot 3 waits for the load of
saved tile 0, which is still absent in both slots. -/
def unorderedAbsence : State :=
  { cores := [(0, { slots := [(5, { state := .running, wave := { absentAccs := [0] } }),
      (3, { state := .running, wave := { absentAccs := [0], busy := some (.registerMiss true 0 0) } })] })],
    args := { core := 0, slot := 3 } }

/-- The end of the wait writes slot 3 in front of slot 5, so that the load goes to slot 3 and slot 5 keeps its absence. -/
theorem absent_unorderedAbsence (t : State) (h : exec .registerMissLoadComplete unorderedAbsence = .next t) :
    (t.slotAt 0 5).wave.absentAccs = [0] := by
  have hex : (match exec .registerMissLoadComplete unorderedAbsence with
    | .next t => decide ((t.slotAt 0 5).wave.absentAccs = [0])
    | _ => false) = true := by decide +kernel
  rw [h] at hex
  exact of_decide_eq_true hex

/-- Refutes O47: in its clause on the load of an absent item, the slot whose saved tile is absent is named before the wave's
`busy` is cleared. Where the keys of the slot table do not rise, clearing it puts the wave's slot first, and the tile goes to
that slot: in the named one it stays absent. -/
theorem not_slotEvents : ¬ Obligations.SlotEvents := by
  rintro ⟨-, -, -, -, hload, -⟩
  have hbusy : (evWave unorderedAbsence).busy = some (.registerMiss true 0 0) := by decide +kernel
  have howner : (unorderedAbsence.core 0).absentOwner (evWave unorderedAbsence).cteam 0 = some 5 := by decide +kernel
  obtain ⟨hsame, -⟩ := hload unorderedAbsence true 0 0 5 hbusy howner
  have hdom : numAt (unorderedAbsence.saveRead (unorderedAbsence.slotAt 0 5).wave.csa 8) 4 1 =
      (unorderedAbsence.slotAt 0 5).wave.csaDom := by decide +kernel
  obtain ⟨t, hexec, -, -, -, hpresent, -⟩ := hsame hdom
  have habsent := absent_unorderedAbsence t hexec
  have hnot : 0 ∉ (t.slotAt 0 5).wave.absentAccs := hpresent rfl
  rw [habsent] at hnot
  exact hnot List.mem_cons_self

end Sys2Proof.Machine

namespace Sys2Proof.Machine

/-! ## What memory and cache operations leave alone -/

/-- `t` is `s` but for the cores, memory, what is planned, and the bookkeeping of the dies and of the way out of the device. -/
def State.CoreSide (s t : State) : Prop :=
  t = { s with
    cores := t.cores, agenda := t.agenda, mem := t.mem, dies := t.dies, hostCopies := t.hostCopies,
    hostLines := t.hostLines, poison := t.poison, outbox := t.outbox, freeCount := t.freeCount }

theorem State.CoreSide.refl (s : State) : s.CoreSide s := rfl

theorem State.CoreSide.trans {s t u : State} (h : s.CoreSide t) (h' : t.CoreSide u) : s.CoreSide u := by
  unfold State.CoreSide at h h' ⊢
  refine h'.trans ?_
  rw [h]

/-- A fold of operations that each change only this changes only this. -/
theorem State.CoreSide.foldl {α : Type} {f : State → α → State} (hf : ∀ (s : State) (a : α), s.CoreSide (f s a)) (l : List α) (s : State) :
    s.CoreSide (l.foldl f s) :=
  List.foldlRecOn (motive := fun t : State => s.CoreSide t) l f (.refl s) (fun t h a _ => h.trans (hf t a))

theorem State.CoreSide.ite {s a b : State} (p : Prop) [Decidable p] (ha : s.CoreSide a) (hb : s.CoreSide b) :
    s.CoreSide (if p then a else b) := by
  split
  · exact ha
  · exact hb

theorem State.CoreSide.modCore (s : State) (c : Nat) (f : Core → Core) : s.CoreSide (s.modCore c f) := rfl

theorem State.CoreSide.modWaveAt (s : State) (c i : Nat) (f : Wave → Wave) : s.CoreSide (s.modWaveAt c i f) := rfl

theorem State.CoreSide.modDie (s : State) (d : Nat) (f : Die → Die) : s.CoreSide (s.modDie d f) := rfl

theorem State.CoreSide.schedule (s : State) (n : Nat) (i : Instr) (a : Args) : s.CoreSide (s.schedule n i a) := rfl

section Fields

variable {s t : State} (h : s.CoreSide t)
include h

theorem State.CoreSide.cycle : t.cycle = s.cycle := (congrArg State.cycle h).trans rfl
theorem State.CoreSide.coreIdx : t.coreIdx = s.coreIdx := (congrArg State.coreIdx h).trans rfl
theorem State.CoreSide.curCore : t.curCore = s.curCore := (congrArg State.curCore h).trans rfl
theorem State.CoreSide.curSlot : t.curSlot = s.curSlot := (congrArg State.curSlot h).trans rfl
theorem State.CoreSide.lat : t.lat = s.lat := (congrArg State.lat h).trans rfl
theorem State.CoreSide.stations : t.stations = s.stations := (congrArg State.stations h).trans rfl
theorem State.CoreSide.regs : t.regs = s.regs := (congrArg State.regs h).trans rfl
theorem State.CoreSide.pctb : t.pctb = s.pctb := (congrArg State.pctb h).trans rfl
theorem State.CoreSide.pcount : t.pcount = s.pcount := (congrArg State.pcount h).trans rfl
theorem State.CoreSide.inv : t.inv = s.inv := (congrArg State.inv h).trans rfl
theorem State.CoreSide.acks : t.acks = s.acks := (congrArg State.acks h).trans rfl

theorem State.CoreSide.core (hc : t.cores = s.cores) (c : Nat) : t.core c = s.core c :=
  State.core_congr hc h.cycle h.coreIdx c

end Fields

/-! ### Memory below the core caches -/

theorem State.wake_eq (s : State) (pa n : Nat) (o : Option Nat) : ∃ ag, s.wake pa n o = { s with agenda := ag } := by
  unfold State.wake
  refine List.foldlRecOn (motive := fun t : State => ∃ ag, t = { s with agenda := ag }) _ _ ⟨_, rfl⟩ ?_
  rintro t ht c -
  refine List.foldlRecOn (motive := fun t : State => ∃ ag, t = { s with agenda := ag }) _ _ ht ?_
  rintro t ⟨ag, rfl⟩ k -
  split
  · split
    · exact ⟨_, rfl⟩
    · exact ⟨_, rfl⟩
  · exact ⟨_, rfl⟩

theorem State.unmasked_eq (s : State) (pa n : Nat) : ∃ ag, s.unmasked pa n = { s with agenda := ag } := by
  unfold State.unmasked
  dsimp only
  split
  · exact ⟨_, rfl⟩
  · refine List.foldlRecOn (motive := fun t : State => ∃ ag, t = { s with agenda := ag }) _ _ ⟨_, rfl⟩ ?_
    rintro t ⟨ag, rfl⟩ k -
    split
    · exact ⟨_, rfl⟩
    · exact ⟨_, rfl⟩

theorem State.CoreSide.wake (s : State) (pa n : Nat) (o : Option Nat) : s.CoreSide (s.wake pa n o) := by
  obtain ⟨ag, h⟩ := s.wake_eq pa n o
  rw [h]
  rfl

@[simp] theorem State.wake_cores (s : State) (pa n : Nat) (o : Option Nat) : (s.wake pa n o).cores = s.cores := by
  obtain ⟨ag, h⟩ := s.wake_eq pa n o
  rw [h]

theorem State.CoreSide.unmasked (s : State) (pa n : Nat) : s.CoreSide (s.unmasked pa n) := by
  obtain ⟨ag, h⟩ := s.unmasked_eq pa n
  rw [h]
  rfl

@[simp] theorem State.unmasked_cores (s : State) (pa n : Nat) : (s.unmasked pa n).cores = s.cores := by
  obtain ⟨ag, h⟩ := s.unmasked_eq pa n
  rw [h]

theorem State.CoreSide.writePhys (s : State) (pa : Nat) (bs : List Byte) : s.CoreSide (s.writePhys pa bs) := by
  have hwritten : s.CoreSide { s with mem := Bytes.writeList s.mem pa bs, hostCopies := patchCopies s.hostCopies pa bs } := rfl
  unfold State.writePhys
  split
  · rfl
  · rfl
  · exact ((hwritten.trans (.wake _ _ _ _)).trans (.unmasked _ _ _)).trans rfl

@[simp] theorem State.writePhys_cores (s : State) (pa : Nat) (bs : List Byte) : (s.writePhys pa bs).cores = s.cores := by
  unfold State.writePhys
  split
  · rfl
  · rfl
  · rw [State.unpoison]
    dsimp only
    rw [State.unmasked_cores, State.wake_cores]

theorem State.CoreSide.touchL2 (s : State) (pa dom : Nat) (w : Bool) : s.CoreSide (s.touchL2 pa dom w) := by
  unfold State.touchL2
  exact .ite _ rfl (.ite _ (.refl s) rfl)

@[simp] theorem State.touchL2_cores (s : State) (pa dom : Nat) (w : Bool) : (s.touchL2 pa dom w).cores = s.cores := by
  unfold State.touchL2
  split
  · rfl
  · split <;> rfl

theorem State.CoreSide.writeBack (s : State) (l : CacheLine) : s.CoreSide (s.writeBack l) := by
  unfold State.writeBack
  refine .ite _ (.refl s) (.trans (.ite _ (.writePhys s _ _) ?_) (.touchL2 _ _ _ _))
  exact .foldl (fun s k => .ite _ (.writePhys s _ _) (.refl s)) _ s

@[simp] theorem State.writeBack_cores (s : State) (l : CacheLine) : (s.writeBack l).cores = s.cores := by
  have hbytes : ((List.range 64).foldl (fun s k =>
      if l.dirty.getLsbD k then s.writePhys (64 * l.pline + k) [l.byte k] else s) s).cores = s.cores :=
    List.foldlRecOn (motive := fun t : State => t.cores = s.cores) _ _ rfl (fun t h k _ => by
      split
      · rw [State.writePhys_cores, h]
      · exact h)
  unfold State.writeBack
  dsimp only
  split
  · rfl
  · rw [State.touchL2_cores]
    split
    · exact State.writePhys_cores s _ _
    · exact hbytes

theorem State.CoreSide.writeBacks (s : State) (ls : List CacheLine) : s.CoreSide (ls.foldl State.writeBack s) :=
  .foldl State.CoreSide.writeBack ls s

theorem State.writeBacks_cores (s : State) (ls : List CacheLine) : (ls.foldl State.writeBack s).cores = s.cores :=
  List.foldlRecOn (motive := fun t : State => t.cores = s.cores) ls _ rfl (fun t h l _ => by rw [State.writeBack_cores, h])

/-- A write-back leaves every core as it is. -/
theorem State.core_writeBacks (s : State) (ls : List CacheLine) (c : Nat) : (ls.foldl State.writeBack s).core c = s.core c :=
  (State.CoreSide.writeBacks s ls).core (s.writeBacks_cores ls) c

/-! ### Lines of a core's caches -/

@[simp] theorem Core.slots_setLines (k : Core) (i : CacheId) (ls : List CacheLine) : (k.setLines i ls).slots = k.slots := by
  cases i <;> rfl

@[simp] theorem Core.lines_setLines_same (k : Core) (i : CacheId) (ls : List CacheLine) : (k.setLines i ls).lines i = ls := by
  cases i <;> rfl

theorem Core.lines_setLines_other (k : Core) {i j : CacheId} (ls : List CacheLine) (h : j ≠ i) :
    (k.setLines i ls).lines j = k.lines j := by
  cases i <;> cases j <;> simp [Core.lines, Core.setLines] at h ⊢

theorem State.CoreSide.dropLines (s : State) (c : Nat) (k : CacheId) (q : CacheLine → Bool) : s.CoreSide (s.dropLines c k q) := by
  unfold State.dropLines
  exact (State.CoreSide.writeBacks s _).trans (.modCore _ _ _)

theorem State.CoreSide.cleanLines (s : State) (c : Nat) (k : CacheId) (q : CacheLine → Bool) :
    s.CoreSide (s.cleanLines c k q) := by
  unfold State.cleanLines
  exact (State.CoreSide.writeBacks s _).trans (.modCore _ _ _)

/-- Dropping lines changes the one cache of the one core. -/
theorem State.core_dropLines (s : State) (c d : Nat) (k : CacheId) (q : CacheLine → Bool) :
    (s.dropLines c k q).core d =
      if d = c then (s.core c).setLines k (((s.core c).lines k).filter (fun l => !q l)) else s.core d := by
  unfold State.dropLines
  dsimp only
  split
  · next h => rw [h, State.core_modCore_same, State.core_writeBacks]
  · next h => rw [State.core_modCore_other _ _ h, State.core_writeBacks]

/-- Cleaning lines changes the one cache of the one core. -/
theorem State.core_cleanLines (s : State) (c d : Nat) (k : CacheId) (q : CacheLine → Bool) :
    (s.cleanLines c k q).core d =
      if d = c then (s.core c).setLines k (((s.core c).lines k).map (fun l => if q l then { l with dirty := 0 } else l))
      else s.core d := by
  unfold State.cleanLines
  dsimp only
  split
  · next h => rw [h, State.core_modCore_same, State.core_writeBacks]
  · next h => rw [State.core_modCore_other _ _ h, State.core_writeBacks]

@[simp] theorem State.slotAt_dropLines (s : State) (c : Nat) (k : CacheId) (q : CacheLine → Bool) (d i : Nat) :
    (s.dropLines c k q).slotAt d i = s.slotAt d i := by
  rw [State.slotAt, State.core_dropLines, State.slotAt]
  split
  · next h => rw [h, Core.slot, Core.slots_setLines, Core.slot]
  · rfl

@[simp] theorem State.slotAt_cleanLines (s : State) (c : Nat) (k : CacheId) (q : CacheLine → Bool) (d i : Nat) :
    (s.cleanLines c k q).slotAt d i = s.slotAt d i := by
  rw [State.slotAt, State.core_cleanLines, State.slotAt]
  split
  · next h => rw [h, Core.slot, Core.slots_setLines, Core.slot]
  · rfl

end Sys2Proof.Machine

namespace Sys2Proof.Machine

/-! ### Operations that write lines back -/

/-- A line of a cache, or the same line made clean. -/
def CacheLine.cleanedFrom (l m : CacheLine) : Prop := l = m ∨ l = { m with dirty := 0 }

/-- `t` is `s` after lines of core caches were written back, and made clean or dropped: no slot has changed, and every line
that a cache holds it held before. -/
structure State.WroteBack (s t : State) : Prop where
  side : s.CoreSide t
  slots : ∀ c i, t.slotAt c i = s.slotAt c i
  lines : ∀ c k, ∀ l ∈ (t.core c).lines k, ∃ m ∈ (s.core c).lines k, l.cleanedFrom m

namespace State.WroteBack

theorem refl (s : State) : s.WroteBack s := ⟨.refl s, fun _ _ => rfl, fun _ _ l hl => ⟨l, hl, .inl rfl⟩⟩

theorem trans {s t u : State} (h : s.WroteBack t) (h' : t.WroteBack u) : s.WroteBack u where
  side := h.side.trans h'.side
  slots c i := (h'.slots c i).trans (h.slots c i)
  lines c k l hl := by
    obtain ⟨m, hm, hlm⟩ := h'.lines c k l hl
    obtain ⟨n, hn, hmn⟩ := h.lines c k m hm
    refine ⟨n, hn, ?_⟩
    rcases hlm with rfl | rfl
    · exact hmn
    · rcases hmn with rfl | rfl <;> exact .inr rfl

theorem foldl {α : Type} {f : State → α → State} (hf : ∀ (s : State) (a : α), s.WroteBack (f s a)) (l : List α) (s : State) :
    s.WroteBack (l.foldl f s) :=
  List.foldlRecOn (motive := fun t : State => s.WroteBack t) l f (refl s) (fun t h a _ => h.trans (hf t a))

/-- Where the cores stay as they are, nothing was written back. -/
theorem of_cores {s t : State} (hside : s.CoreSide t) (hcores : t.cores = s.cores) : s.WroteBack t where
  side := hside
  slots c i := by rw [State.slotAt, hside.core hcores, State.slotAt]
  lines c k l hl := by
    rw [hside.core hcores] at hl
    exact ⟨l, hl, .inl rfl⟩

/-- A fact of lines that cleaning keeps still holds of every line of a cache. -/
theorem all {s t : State} (h : s.WroteBack t) {P : CacheLine → Prop} (hP : ∀ l, P l → P { l with dirty := 0 }) {c : Nat}
    {k : CacheId} (hs : ∀ l ∈ (s.core c).lines k, P l) : ∀ l ∈ (t.core c).lines k, P l := by
  intro l hl
  obtain ⟨m, hm, hlm⟩ := h.lines c k l hl
  rcases hlm with rfl | rfl
  · exact hs _ hm
  · exact hP _ (hs _ hm)

theorem wave {s t : State} (h : s.WroteBack t) : t.wave = s.wave := by
  rw [State.wave, State.slot, h.side.curCore, h.side.curSlot, h.slots, State.wave, State.slot]

theorem dropLines (s : State) (c : Nat) (k : CacheId) (q : CacheLine → Bool) : s.WroteBack (s.dropLines c k q) where
  side := .dropLines s c k q
  slots := s.slotAt_dropLines c k q
  lines d j l hl := by
    rw [State.core_dropLines] at hl
    split at hl
    · next hd =>
      subst hd
      by_cases hj : j = k
      · subst hj
        rw [Core.lines_setLines_same] at hl
        exact ⟨l, (List.mem_filter.mp hl).1, .inl rfl⟩
      · rw [Core.lines_setLines_other _ _ hj] at hl
        exact ⟨l, hl, .inl rfl⟩
    · exact ⟨l, hl, .inl rfl⟩

theorem cleanLines (s : State) (c : Nat) (k : CacheId) (q : CacheLine → Bool) : s.WroteBack (s.cleanLines c k q) where
  side := .cleanLines s c k q
  slots := s.slotAt_cleanLines c k q
  lines d j l hl := by
    rw [State.core_cleanLines] at hl
    split at hl
    · next hd =>
      subst hd
      by_cases hj : j = k
      · subst hj
        rw [Core.lines_setLines_same] at hl
        obtain ⟨m, hm, rfl⟩ := List.mem_map.mp hl
        refine ⟨m, hm, ?_⟩
        split
        · exact .inr rfl
        · exact .inl rfl
      · rw [Core.lines_setLines_other _ _ hj] at hl
        exact ⟨l, hl, .inl rfl⟩
    · exact ⟨l, hl, .inl rfl⟩

theorem modDie (s : State) (d : Nat) (f : Die → Die) : s.WroteBack (s.modDie d f) := of_cores rfl rfl

theorem drainEntry (s : State) (d line c : Nat) : s.WroteBack (s.drainEntry d line c) := by
  unfold State.drainEntry
  split
  · exact refl s
  · exact (cleanLines s c .lane _).trans (modDie _ d _)

theorem drainAcked (s : State) (d line c : Nat) : s.WroteBack (s.drainAcked d line c) := by
  unfold State.drainAcked
  dsimp only
  split
  · exact refl s
  · exact modDie s d _

theorem drainLine (s : State) (d line : Nat) : s.WroteBack (s.drainLine d line) :=
  foldl (fun s (e : Nat × Nat) => (drainEntry s d line e.1).trans (drainAcked _ d line e.1)) _ s

theorem drainDomain (s : State) (dom : Nat) : s.WroteBack (s.drainDomain dom) :=
  foldl (fun s d => foldl (fun s l => drainLine s d l) _ s) _ s

end State.WroteBack

/-- No line that a drop picks is left in that cache. -/
theorem State.dropLines_none (s : State) (c : Nat) (k : CacheId) (q : CacheLine → Bool) :
    ∀ l ∈ ((s.dropLines c k q).core c).lines k, q l = false := by
  rw [State.core_dropLines, if_pos rfl, Core.lines_setLines_same]
  intro l hl
  simpa using (List.mem_filter.mp hl).2

/-- A line that cleaning picks is clean in that cache. -/
theorem State.cleanLines_clean (s : State) (c : Nat) (k : CacheId) (q : CacheLine → Bool) :
    ∀ l ∈ ((s.cleanLines c k q).core c).lines k, q l = true → l.dirty = 0 := by
  rw [State.core_cleanLines, if_pos rfl, Core.lines_setLines_same]
  intro l hl hql
  obtain ⟨m, -, rfl⟩ := List.mem_map.mp hl
  split at hql
  · next h => rw [if_pos h]
  · next h => exact absurd hql h

/-! ### Fences -/

@[simp] theorem Table.find_map {α β : Type} (t : Table α) (f : α → β) (k : Nat) :
    Table.find (t.map (fun e => (e.1, f e.2)) : Table β) k = (Table.find t k).map f := by
  induction t with
  | nil => rfl
  | cons e t ih =>
    simp only [List.map_cons, Table.find]
    split
    · rfl
    · exact ih

theorem State.CoreSide.dropFetched (s : State) (c : Nat) : s.CoreSide (s.dropFetched c) := .modCore s c _

/-- A slot whose wave holds no fetched block. -/
def Slot.unfetched (k : Slot) : Slot := { k with wave := { k.wave with fetchBuf := none } }

/-- The fetched words of a core's waves go, and nothing else of a slot. -/
theorem State.slotAt_dropFetched (s : State) (c i : Nat) : (s.dropFetched c).slotAt c i = (s.slotAt c i).unfetched := by
  rw [State.slotAt, State.dropFetched, State.core_modCore_same]
  change Table.get ((s.core c).slots.map (fun e => (e.1, e.2.unfetched))) i {} = (Table.get (s.core c).slots i {}).unfetched
  rw [Table.get, Table.find_map, Table.get]
  cases Table.find (s.core c).slots i <;> rfl

theorem State.lines_dropFetched (s : State) (c d : Nat) (k : CacheId) :
    ((s.dropFetched c).core d).lines k = (s.core d).lines k := by
  unfold State.dropFetched
  by_cases h : d = c
  · subst h
    rw [State.core_modCore_same]
    cases k <;> rfl
  · rw [State.core_modCore_other _ _ h]

end Sys2Proof.Machine

namespace Sys2Proof.Machine

/-- A fact that every step of a fold keeps, and that one of them brings about, holds at the end. -/
theorem foldl_reaches {α β : Type} {f : β → α → β} {P : β → Prop} (hkeep : ∀ b a, P b → P (f b a)) {a : α} {l : List α}
    (ha : a ∈ l) (hmake : ∀ b, P (f b a)) (b : β) : P (l.foldl f b) := by
  induction l generalizing b with
  | nil => exact absurd ha List.not_mem_nil
  | cons x l ih =>
    rcases List.mem_cons.mp ha with rfl | hl
    · exact List.foldlRecOn (motive := P) l f (hmake b) (fun b h x _ => hkeep b x h)
    · exact ih hl (f b x)

/-! ### The wide fence (R244) -/

/-- Dropping lines of the lane L1 without a write-back. -/
theorem State.WroteBack.filterLane (s : State) (c : Nat) (q : CacheLine → Bool) :
    s.WroteBack (s.modCore c (fun d => { d with laneL1 := d.laneL1.filter q })) where
  side := .modCore s c _
  slots := s.slotAt_modCore c _ rfl
  lines d k l hl := by
    by_cases h : d = c
    · subst h
      rw [State.core_modCore_same] at hl
      cases k with
      | lane => exact ⟨l, (List.mem_filter.mp hl).1, .inl rfl⟩
      | _ => exact ⟨l, hl, .inl rfl⟩
    · rw [State.core_modCore_other _ _ h] at hl
      exact ⟨l, hl, .inl rfl⟩

theorem State.WroteBack.wideFence (s : State) (c dom : Nat) : s.WroteBack (s.wideFence c dom) := by
  unfold State.wideFence
  extract_lets t u
  have hu : s.WroteBack u := (cleanLines s c .lane _).trans (drainDomain t dom)
  clear_value u
  exact hu.trans (filterLane u c _)

/-- A wide fence leaves no line of its domain in the lane L1. -/
theorem State.wideFence_none (s : State) (c dom : Nat) : ∀ l ∈ ((s.wideFence c dom).core c).laneL1, l.dom ≠ dom := by
  unfold State.wideFence
  extract_lets t u
  have hclean : ∀ l ∈ (t.core c).lines .lane, l.dom = dom → l.dirty = 0 := by
    simpa using s.cleanLines_clean c .lane (fun l => l.dom = dom)
  have hdrained : ∀ l ∈ (u.core c).lines .lane, l.dom = dom → l.dirty = 0 :=
    (State.WroteBack.drainDomain t dom).all (fun _ _ _ => rfl) hclean
  clear_value u
  rw [State.core_modCore_same]
  intro l hl hdom
  obtain ⟨hmem, hkept⟩ := List.mem_filter.mp hl
  simp [hdom, hdrained l hmem hdom] at hkept

/-! ### Path fences (R214, R215) -/

/-- The part of a path fence that touches caches. -/
def State.pathLines (s : State) (c dom path : Nat) : State :=
  match path with
  | 0 => s.dropLines c .lane (fun l => l.dom = dom)
  | 1 => (s.cleanLines c .lane (fun l => l.dom = dom)).dropLines c .const (fun l => l.dom = dom)
  | 2 => (s.cleanLines c .lane (fun l => l.dom = dom)).dropLines c .sampler (fun l => l.dom = dom)
  | 4 => (s.cleanLines c .lane (fun l => l.dom = dom)).dropLines c .inst (fun l => l.dom = dom)
  | _ => s

theorem State.pathFence_eq (s : State) (c dom path : Nat) :
    s.pathFence c dom path = if path = 4 then (s.pathLines c dom path).dropFetched c else s.pathLines c dom path := by
  match path with
  | 0 | 1 | 2 | 3 | 4 => rfl
  | n + 5 => rfl

theorem State.WroteBack.pathLines (s : State) (c dom path : Nat) : s.WroteBack (s.pathLines c dom path) := by
  unfold State.pathLines
  split
  · exact dropLines s c .lane _
  · exact (cleanLines s c .lane _).trans (dropLines _ c .const _)
  · exact (cleanLines s c .lane _).trans (dropLines _ c .sampler _)
  · exact (cleanLines s c .lane _).trans (dropLines _ c .inst _)
  · exact refl s

theorem State.lines_pathFence (s : State) (c dom path d : Nat) (k : CacheId) :
    ((s.pathFence c dom path).core d).lines k = ((s.pathLines c dom path).core d).lines k := by
  rw [State.pathFence_eq]
  split
  · exact State.lines_dropFetched _ c d k
  · rfl

theorem State.CoreSide.pathFence (s : State) (c dom path : Nat) : s.CoreSide (s.pathFence c dom path) := by
  have hlines := (State.WroteBack.pathLines s c dom path).side
  rw [State.pathFence_eq]
  exact .ite _ (hlines.trans (.dropFetched _ c)) hlines

/-- The cache that a path fence empties of its domain. -/
def pathCache : Nat → Option CacheId
  | 0 => some .lane
  | 1 => some .const
  | 2 => some .sampler
  | 4 => some .inst
  | _ => none

/-- A path fence leaves no line of its domain in the cache of its path. -/
theorem State.pathFence_none (s : State) (c dom : Nat) {path : Nat} {k : CacheId} (hk : pathCache path = some k) :
    ∀ l ∈ ((s.pathFence c dom path).core c).lines k, l.dom ≠ dom := by
  have hdrop (t : State) {j : CacheId} (l : CacheLine) (hl : l ∈ ((t.dropLines c j (fun l => l.dom = dom)).core c).lines j) :
      l.dom ≠ dom := by
    simpa using t.dropLines_none c j _ l hl
  intro l hl
  rw [State.lines_pathFence] at hl
  unfold pathCache at hk
  split at hk
  · cases hk
    exact hdrop s l hl
  · cases hk
    exact hdrop _ l hl
  · cases hk
    exact hdrop _ l hl
  · cases hk
    exact hdrop _ l hl
  · cases hk

/-- A path fence brings in no line of a domain that a cache does not hold. -/
theorem State.pathFence_keeps (s : State) (c dom path : Nat) {k : CacheId} (hs : ∀ l ∈ (s.core c).lines k, l.dom ≠ dom) :
    ∀ l ∈ ((s.pathFence c dom path).core c).lines k, l.dom ≠ dom := by
  rw [State.lines_pathFence]
  exact (State.WroteBack.pathLines s c dom path).all (fun _ h => h) hs

/-- The wave after a path fence: the fetch path discards the fetched words. -/
theorem State.wave_pathFence (s : State) (dom path : Nat) : (s.pathFence s.curCore dom path).wave =
    { s.wave with fetchBuf := if path = 4 then none else s.wave.fetchBuf } := by
  have hlines := State.WroteBack.pathLines s s.curCore dom path
  rw [State.pathFence_eq]
  by_cases h : path = 4
  · rw [if_pos h, if_pos h, State.wave, State.slot, (State.CoreSide.dropFetched _ s.curCore).curCore,
      (State.CoreSide.dropFetched _ s.curCore).curSlot, hlines.side.curCore, hlines.side.curSlot, State.slotAt_dropFetched,
      hlines.slots]
    rfl
  · rw [if_neg h, if_neg h]
    exact hlines.wave

/-- The path fences of a mask, in the order of its bits, by the wave that acts. -/
def State.pathFences (s : State) (p : BitVec 5) (dom : Nat) : State :=
  (List.range 5).foldl (fun s k => if p.getLsbD k then s.pathFence s.curCore dom k else s) s

theorem State.CoreSide.pathFences (s : State) (p : BitVec 5) (dom : Nat) : s.CoreSide (s.pathFences p dom) :=
  .foldl (fun s k => .ite _ (.pathFence s s.curCore dom k) (.refl s)) _ s

/-- A mask of path fences leaves no line of its domain in the caches of the paths it names. -/
theorem State.pathFences_none (s : State) (p : BitVec 5) (dom : Nat) {path : Nat} {k : CacheId} (hpath : path < 5)
    (hp : p.getLsbD path = true) (hk : pathCache path = some k) :
    ∀ l ∈ ((s.pathFences p dom).core s.curCore).lines k, l.dom ≠ dom := by
  rw [← (State.CoreSide.pathFences s p dom).curCore]
  refine foldl_reaches (P := fun t : State => ∀ l ∈ (t.core t.curCore).lines k, l.dom ≠ dom) ?_ (List.mem_range.mpr hpath) ?_ s
  · intro t n ht
    split
    · rw [(State.CoreSide.pathFence t t.curCore dom n).curCore]
      exact t.pathFence_keeps t.curCore dom n ht
    · exact ht
  · intro t
    rw [if_pos hp, (State.CoreSide.pathFence t t.curCore dom path).curCore]
    exact t.pathFence_none t.curCore dom hk

/-- The path fences before the fetch path's write lines back. -/
theorem State.WroteBack.pathFences (s : State) (p : BitVec 5) (dom : Nat) :
    s.WroteBack ((List.range 4).foldl (fun t k => if p.getLsbD k then t.pathFence t.curCore dom k else t) s) := by
  refine List.foldlRecOn (motive := fun t : State => s.WroteBack t) _ _ (.refl s) (fun t ht k hk => ?_)
  have hpath : k ≠ 4 := by
    have := List.mem_range.mp hk
    omega
  split
  · rw [State.pathFence_eq, if_neg hpath]
    exact ht.trans (.pathLines t _ _ k)
  · exact ht

/-- The wave after the path fences of a mask. -/
theorem State.wave_pathFences (s : State) (p : BitVec 5) (dom : Nat) : (s.pathFences p dom).wave =
    { s.wave with fetchBuf := if p.getLsbD 4 then none else s.wave.fetchBuf } := by
  have hfirst := State.WroteBack.pathFences s p dom
  rw [State.pathFences, show List.range 5 = List.range 4 ++ [4] from rfl, List.foldl_append]
  generalize (List.range 4).foldl (fun t k => if p.getLsbD k then t.pathFence t.curCore dom k else t) s = t at hfirst ⊢
  simp only [List.foldl_cons, List.foldl_nil]
  split
  · rw [State.wave_pathFence, hfirst.wave, if_pos rfl]
  · exact hfirst.wave

end Sys2Proof.Machine

namespace Sys2Proof.Machine

/-! ### Stores by other agents (R90) -/

/-- A slot with another LR reservation. -/
def Slot.withReservation (k : Slot) (r : Option Nat) : Slot := { k with wave := { k.wave with reservation := r } }

/-- `t` is `s` after stores: of a slot at most the LR reservation has changed. -/
structure State.Stored (s t : State) : Prop where
  side : s.CoreSide t
  slots : ∀ c i, ∃ r, t.slotAt c i = (s.slotAt c i).withReservation r

namespace State.Stored

/-- What keeps every slot is a store. -/
theorem of_slots {s t : State} (hside : s.CoreSide t) (hslots : ∀ c i, t.slotAt c i = s.slotAt c i) : s.Stored t where
  side := hside
  slots c i := ⟨(s.slotAt c i).wave.reservation, hslots c i⟩

theorem of_cores {s t : State} (hside : s.CoreSide t) (hcores : t.cores = s.cores) : s.Stored t :=
  of_slots hside (fun c i => by rw [State.slotAt, hside.core hcores, State.slotAt])

theorem refl (s : State) : s.Stored s := of_slots (.refl s) (fun _ _ => rfl)

theorem trans {s t u : State} (h : s.Stored t) (h' : t.Stored u) : s.Stored u where
  side := h.side.trans h'.side
  slots c i := by
    obtain ⟨q, hq⟩ := h.slots c i
    obtain ⟨r, hr⟩ := h'.slots c i
    exact ⟨r, by rw [hr, hq]; rfl⟩

theorem foldl {α : Type} {f : State → α → State} (hf : ∀ (s : State) (a : α), s.Stored (f s a)) (l : List α) (s : State) :
    s.Stored (l.foldl f s) :=
  List.foldlRecOn (motive := fun t : State => s.Stored t) l f (refl s) (fun t h a _ => h.trans (hf t a))

theorem clearReservation (s : State) (c i : Nat) : s.Stored (s.modWaveAt c i (fun w => { w with reservation := none })) where
  side := .modWaveAt s c i _
  slots d j := by
    by_cases h : d = c ∧ j = i
    · obtain ⟨rfl, rfl⟩ := h
      refine ⟨none, ?_⟩
      rw [State.slotAt_modWaveAt_same]
      rfl
    · refine ⟨(s.slotAt d j).wave.reservation, ?_⟩
      exact s.slotAt_modSlotAt_other _ h

theorem breakBlock (s : State) (pa n : Nat) (own : Option (Nat × Nat)) : s.Stored (s.breakBlock pa n own) := by
  unfold State.breakBlock
  refine foldl (fun s c => foldl (fun s k => ?_) _ s) _ s
  split
  · exact clearReservation s _ _
  · exact refl s

theorem spadWrite (s : State) (core a : Nat) (bs : List Byte) (own : Option (Nat × Nat)) :
    s.Stored (s.spadWrite core a bs own) := by
  unfold State.spadWrite
  have hbroken := breakBlock s (spadPa core a) bs.length own
  generalize s.breakBlock (spadPa core a) bs.length own = t at hbroken ⊢
  have hwritten : t.Stored (t.modCore core (fun q => q.writeSpad a bs)) :=
    of_slots (.modCore t core _) (fun c i => t.slotAt_modCore core _ rfl c i)
  generalize t.modCore core (fun q => q.writeSpad a bs) = u at hwritten ⊢
  have hclear : u.Stored (u.unpoison (spadPa core a) bs.length) := of_cores rfl rfl
  have hwoken : (u.unpoison (spadPa core a) bs.length).Stored
      ((u.unpoison (spadPa core a) bs.length).wake (spadPa core a) bs.length none) :=
    of_cores (.wake _ _ _ _) (State.wake_cores _ _ _ _)
  exact ((hbroken.trans hwritten).trans hclear).trans hwoken

theorem touchRange (s : State) (pa n dom : Nat) (w : Bool) : s.Stored (s.touchRange pa n dom w) := by
  unfold State.touchRange
  split
  · exact refl s
  · exact foldl (fun s k => of_cores (.touchL2 s _ _ _) (State.touchL2_cores s _ _ _)) _ s

theorem agentWriteAs (s : State) (dom pa : Nat) (bs : List Byte) : s.Stored (s.agentWriteAs dom pa bs) := by
  unfold State.agentWriteAs
  split
  · exact refl s
  · exact spadWrite s _ _ bs none
  · exact of_cores (.schedule s _ _ _) rfl
  · refine ((touchRange s pa bs.length dom true).trans (breakBlock _ pa bs.length none)).trans ?_
    exact of_cores (.writePhys _ pa bs) (State.writePhys_cores _ pa bs)

end State.Stored

/-! ### Retirement (R167) -/

/-- A slot that retires its wave. -/
def Slot.retired (k : Slot) (prq : Bool) : Slot :=
  { k with
    state := .retiring, prq := false, retd := k.retd || prq,
    wave := { k.wave with
      locks := 0, reservation := none, wait := none, busy := none, park := none, deferred := [],
      csrs := { k.wave.csrs with mip := 0 } } }

/-- Retirement changes the slot to its retired form, and is otherwise a store of the save area's header. -/
theorem State.slot_retire (s : State) : (s.retire s.curCore s.curSlot).slot = s.slot.retired s.slot.prq := by
  unfold State.retire
  extract_lets k t
  have ht : s.Stored t := by
    unfold t
    split
    · exact .agentWriteAs s _ _ _
    · exact .refl s
  clear_value t
  obtain ⟨r, hr⟩ := ht.slots s.curCore s.curSlot
  rw [State.slot, State.slotAt_schedule]
  change (t.modSlotAt s.curCore s.curSlot _).slotAt t.curCore t.curSlot = _
  rw [ht.side.curCore, ht.side.curSlot, State.slotAt_modSlotAt_same, hr]
  rfl

end Sys2Proof.Machine

namespace Sys2Proof.Machine
open Sys2Proof.Claims

/-! ## O31: yield, end, wfi, fences and `waita` -/

/-- A base word that may issue is its effect. -/
theorem baseWord_of_open (enc : BitVec 32) (locs : List Loc) (body : State → Issue) (s : State)
    (h : baseOpen locs s = true) : baseWord enc locs (fun _ => true) body s = (body s).finish := by
  obtain ⟨hissue, hopen⟩ : s.canIssue = true ∧ s.windowsAllow (liveLocs locs) = true := by simpa [baseOpen] using h
  simp [baseWord, hissue, lookahead_none_of_windowsAllow s _ hopen]

/-! ### `yield` and `end` -/

theorem exec_yield (s : State) : exec .yield s = execYield s := by rfl

theorem exec_waveEnd (s : State) : exec .waveEnd s = execWaveEnd s := by rfl

theorem completes_yield (s : State) (h : s.wordReady 0 [] = true) : Completes .yield s ((s.issued 4).beginWait .yield) :=
  (exec_yield s).trans (deviceIssue_of_ready .yield s 0 [] _ rfl h)

theorem waveEnd_of_ready (s : State) (h : s.wordReady 0 [] = true) : exec .waveEnd s =
    (if s.wave.gdepth ≠ 0 then Issue.trap 57 0 s else .done ((s.issued 4).retire s.curCore s.curSlot)).finish :=
  (exec_waveEnd s).trans (deviceIssue_of_ready .waveEnd s 0 [] _ rfl h)

@[simp] theorem length_pending_issued (s : State) (n : Nat) : (s.issued n).wave.pending.length = s.wave.pending.length := by
  rw [State.issued, State.wave_issuedTo, List.length_map]

theorem State.slot_verdict (s : State) (v : Verdict) : ({ s with verdict := v } : State).slot = s.slot := rfl

/-- What `end` leaves of its slot: nothing but what the wave has issued (R167). -/
theorem fields_waveEnd (s : State) :
    let t := { (s.issued 4).retire s.curCore s.curSlot with verdict := .issued }
    t.slot.state = .retiring ∧ t.slot.prq = false ∧ t.wave.locks = 0 ∧ t.wave.reservation = none ∧ t.wave.csrs.mip = 0 ∧
      t.wave.deferred = [] ∧ t.wave.pending.length = s.wave.pending.length := by
  intro t
  have hslot : t.slot = (s.issued 4).slot.retired (s.issued 4).slot.prq :=
    (State.slot_verdict _ _).trans (State.slot_retire (s.issued 4))
  clear_value t
  have hpending : t.wave.pending = (s.issued 4).wave.pending := by
    rw [State.wave, hslot]
    rfl
  rw [hpending, length_pending_issued, State.wave, hslot]
  exact ⟨rfl, rfl, rfl, rfl, rfl, rfl, rfl⟩

/-! ### Fences -/

theorem exec_wfi (s : State) : exec .wfi s = execWfi s := by rfl

theorem exec_fenceI (d a : BitVec 5) (imm : BitVec 12) (s : State) : exec (.fenceI d a imm) s = execFenceI d a imm s := by rfl

theorem exec_fenceScope (sc : BitVec 3) (s : State) : exec (.fenceScope sc) s = execFenceScope sc s := by rfl

theorem exec_pfence (p : BitVec 5) (s : State) : exec (.pfence p) s = execPfence p s := by rfl

theorem completes_wfi (s : State) (h : baseOpen [] s = true) : Completes .wfi s (s.issued 4) :=
  (exec_wfi s).trans (baseWord_of_open _ [] _ s h)

theorem completes_fenceI (d a : BitVec 5) (imm : BitVec 12) (s : State) (h : baseOpen [] s = true) :
    Completes (.fenceI d a imm) s ((s.pathFence s.curCore s.wave.dom 4).issued 4) :=
  (exec_fenceI d a imm s).trans (baseWord_of_open _ [] _ s h)

/-- The fetch path's fence leaves the lines of its domain in the lane L1 clean. -/
theorem State.pathFence_clean (s : State) (c dom : Nat) :
    ∀ l ∈ ((s.pathFence c dom 4).core c).laneL1, l.dom = dom → l.dirty = 0 := by
  change ∀ l ∈ ((s.pathFence c dom 4).core c).lines .lane, l.dom = dom → l.dirty = 0
  rw [State.lines_pathFence]
  have hclean : ∀ l ∈ ((s.cleanLines c .lane (fun l => l.dom = dom)).core c).lines .lane, l.dom = dom → l.dirty = 0 := by
    simpa using s.cleanLines_clean c .lane (fun l => l.dom = dom)
  change ∀ l ∈ (((s.cleanLines c .lane (fun l => l.dom = dom)).dropLines c .inst (fun l => l.dom = dom)).core c).lines .lane, _
  generalize s.cleanLines c .lane (fun l => l.dom = dom) = t at hclean ⊢
  have hdrop := State.WroteBack.dropLines t c .inst (fun l => l.dom = dom)
  exact hdrop.all (fun _ _ _ => rfl) hclean

theorem completes_fenceScope (sc : BitVec 3) (s : State) (h : s.wordReady 0 [] = true) (hsc : sc.toNat ≤ 4)
    (hheld : releaseHeld true sc.toNat s = false) : Completes (.fenceScope sc) s
      ((if s.wideScope sc.toNat then s.wideFence s.curCore s.wave.dom else s).issued 4) := by
  have hword : exec (.fenceScope sc) s = Issue.finish (if releaseHeld true sc.toNat s then .hold s
      else .done ((if s.wideScope sc.toNat then s.wideFence s.curCore s.wave.dom else s).issued 4)) :=
    (exec_fenceScope sc s).trans (deviceIssue_of_ready (.fenceScope sc) s 0 [] _ (decide_eq_true hsc) h)
  rw [hheld] at hword
  exact hword

theorem completes_pfence (p : BitVec 5) (s : State) (h : s.wordReady 0 [] = true) (hp : p ≠ 0) :
    Completes (.pfence p) s ((s.pathFences p s.wave.dom).issued 4) :=
  (exec_pfence p s).trans (deviceIssue_of_ready (.pfence p) s 0 [] _ (decide_eq_true hp) h)

/-! ### `waita` -/

theorem exec_waita (sc : BitVec 3) (b a d : BitVec 5) (s : State) : exec (.waita sc b a d) s = execWaita sc b a d s := by rfl

theorem waita_of_misaligned (sc : BitVec 3) (b a d : BitVec 5) (s : State) (h : s.wordReady 0 (xLocs [a, b, d]) = true)
    (hsc : sc.toNat ≤ 4) (hea : (s.wave.getX a.toNat).toNat % (if (s.wave.getX d.toNat).getLsbD 32 then 4 else 8) ≠ 0) :
    exec (.waita sc b a d) s = (Issue.trap 4 (s.wave.getX a.toNat) s).finish := by
  refine (exec_waita sc b a d s).trans
    ((deviceIssue_of_ready (.waita sc b a d) s 0 (xLocs [a, b, d]) _ (decide_eq_true hsc) h).trans ?_)
  dsimp only
  rw [if_pos hea, BitVec.ofNat_toNat, BitVec.setWidth_eq]

/-- An address that passes the own-window checks is aligned. -/
theorem memOwn_aligned {win : Bool} {k : AccKind} {n ea : Nat} {s : State} (h : memOwn win k n [ea] s = none) : ea % n = 0 := by
  unfold memOwn at h
  extract_lets own at h
  split at h
  · next q hq =>
    have hbad := List.find?_some hq
    simp only [Bool.or_eq_true, decide_eq_true_eq] at hbad
    by_cases hferr : tFerr (s.myTile q.1) = 1
    · simp [tileOwn, hferr] at h
    · simp [tileOwn, hferr, hbad.resolve_left hferr] at h
  · split at h
    · exact absurd h (by simp)
    · next hnone => simpa using hnone

/-- A flat address that passes the checks after the region check lies in the 49-bit space. -/
theorem memAfter_inside {win : Bool} {k : AccKind} {n ea : Nat} {s : State} (h : memAfter win k n [ea] s = none) :
    (!win && outside49 ea n) = false := by
  cases win
  · simpa [memAfter] using h
  · rfl

/-- How `waita` in `s` ends that watches `pa`, expects `e` at `ea`, and has read `v` in `q` (R245). -/
def waitaEnd (d : BitVec 5) (s q : State) (ea e pa v : Nat) : Issue :=
  let limit := fld (s.wave.getX d.toNat) 31 0
  let turn := s.wave.csrs.turn.toNat
  let start := match s.wave.wait with
    | some { kind := .waita _ _ _ _, start := t } => t
    | _ => turn
  if v ≠ e ∨ (limit ≠ 0 ∧ start + limit ≤ turn) then .done (q.afterX d (BitVec.ofNat 64 v))
  else
    .wait (.waita pa ea (BitVec.ofNat 64 e) (if limit ≠ 0 ∧ start + limit < turn + 64 then start + limit else turn + 64)) q

theorem waita_of_read (sc : BitVec 3) (b a d : BitVec 5) {s u q : State} {t : Dest} {pa v n ea e : Nat} {win : Bool}
    (hn : n = if (s.wave.getX d.toNat).getLsbD 32 then 4 else 8) (hea : ea = (s.wave.getX a.toNat).toNat)
    (he : e = (s.wave.getX b.toNat).toNat % 2 ^ (8 * n)) (hwin : win = (s.wave.getX d.toNat).getLsbD 33)
    (h : s.wordReady 0 (xLocs [a, b, d]) = true) (hsc : sc.toNat ≤ 4) (hout : s.messagesOut s.curCore s.curSlot = false)
    (hown : memOwn win .load n [ea] s = none) (hafter : memAfter win .load n [ea] s = none)
    (hdest : waitaDest s win ea n = (u, .ok (t, pa))) (hread : waitaRead u (u.wideScope sc.toNat) n t = (q, .ok v)) :
    exec (.waita sc b a d) s = (waitaEnd d s q ea e pa v).finish := by
  refine (exec_waita sc b a d s).trans
    ((deviceIssue_of_ready (.waita sc b a d) s 0 (xLocs [a, b, d]) _ (decide_eq_true hsc) h).trans ?_)
  have haligned : ¬ ea % n ≠ 0 := not_not.mpr (memOwn_aligned hown)
  have hinside : ¬ (!win && outside49 ea n) = true := by simp [memAfter_inside hafter]
  dsimp only
  rw [← hn, ← hea, ← he, ← hwin, if_neg haligned, if_neg hinside, hout, hown, hafter]
  dsimp only
  rw [hdest]
  dsimp only
  rw [hread]
  rfl

theorem waitaEnd_of_ne {v e : Nat} (d : BitVec 5) (s q : State) (ea pa : Nat) (h : v ≠ e) :
    waitaEnd d s q ea e pa v = .done (q.afterX d (BitVec.ofNat 64 v)) := if_pos (.inl h)

/-- A wait whose limit has passed ends with the value read. -/
theorem waitaEnd_of_late (d : BitVec 5) {s : State} (q : State) (ea e pa v : Nat) {p z n start : Nat} {x : Word}
    (hwait : s.wave.wait = some { kind := .waita p z x n, start := start }) (hlimit : fld (s.wave.getX d.toNat) 31 0 ≠ 0)
    (hlate : start + fld (s.wave.getX d.toNat) 31 0 ≤ s.wave.csrs.turn.toNat) :
    waitaEnd d s q ea e pa v = .done (q.afterX d (BitVec.ofNat 64 v)) := by
  unfold waitaEnd
  rw [hwait]
  exact if_pos (.inr ⟨hlimit, hlate⟩)

theorem waitaEnd_of_eq {v e : Nat} (d : BitVec 5) (s q : State) (ea pa : Nat) (hv : v = e)
    (hlimit : fld (s.wave.getX d.toNat) 31 0 = 0) :
    waitaEnd d s q ea e pa v = .wait (.waita pa ea (BitVec.ofNat 64 e) (s.wave.csrs.turn.toNat + 64)) q := by
  simp [waitaEnd, hv, hlimit]

/-- Settles O31: each word ends as its body says once it may issue, and a wave's fences act on the caches alone. -/
theorem waveAndFenceWords : Obligations.WaveAndFenceWords := by
  refine ⟨⟨fun s h => ⟨completes_yield s h, fun hgate => ?_, fun hgate => ?_⟩, completes_wfi, fun d a imm s h => ?_,
    fun sc s h hsc hheld => ?_, fun p s h hp => ?_⟩, fun sc b a d s u q t pa v => ?_⟩
  · have hword := waveEnd_of_ready s h
    rw [if_neg (not_not.mpr hgate)] at hword
    exact ⟨hword, _, hword, fields_waveEnd s⟩
  · have hword := waveEnd_of_ready s h
    rw [if_pos hgate] at hword
    exact hword
  · refine ⟨s.pathFence s.curCore s.wave.dom 4, completes_fenceI d a imm s h, ?_, ?_, State.pathFence_clean s _ _⟩
    · exact State.wave_pathFence s s.wave.dom 4
    · exact s.pathFence_none s.curCore s.wave.dom (k := .inst) rfl
  · have hword := completes_fenceScope sc s h hsc hheld
    refine ⟨fun hnarrow => ?_, fun hwide => ⟨s.wideFence s.curCore s.wave.dom, ?_, ?_, ?_⟩⟩
    · rw [hnarrow] at hword
      exact hword
    · rw [if_pos hwide] at hword
      exact hword
    · exact (State.WroteBack.wideFence s s.curCore s.wave.dom).wave
    · exact s.wideFence_none s.curCore s.wave.dom
  · have hnone {path : Nat} {k : CacheId} (hpath : path < 5) (hk : pathCache path = some k) (hon : p.getLsbD path = true) :=
      s.pathFences_none p s.wave.dom hpath hon hk
    exact ⟨s.pathFences p s.wave.dom, completes_pfence p s h hp, s.wave_pathFences p s.wave.dom,
      hnone (k := .lane) (by decide) rfl, hnone (k := .const) (by decide) rfl, hnone (k := .sampler) (by decide) rfl,
      hnone (k := .inst) (by decide) rfl⟩
  · extract_lets ctl win n ea e limit turn
    intro h hsc
    refine ⟨fun hea => ?_, fun hout hown hafter hdest hread => ?_⟩
    · have hword := waita_of_misaligned sc b a d s h hsc hea
      rw [hword, BitVec.ofNat_toNat, BitVec.setWidth_eq]
    · have hword := waita_of_read sc b a d (n := n) rfl rfl rfl rfl h hsc hout (Option.isNone_iff_eq_none.mp hown)
        (Option.isNone_iff_eq_none.mp hafter) hdest hread
      refine ⟨fun hne => ?_, fun p z x r start hwait hlim hlate => ?_, fun heq hzero => ?_⟩
      · rw [waitaEnd_of_ne d s q ea pa hne] at hword
        exact hword
      · rw [waitaEnd_of_late d q ea e pa v hwait hlim hlate] at hword
        exact hword
      · rw [waitaEnd_of_eq d s q ea pa heq hzero] at hword
        exact hword

end Sys2Proof.Machine

namespace Sys2Proof.Machine
open Sys2Proof.Claims

/-! ## O50: stations, invalidation, drains and active messages -/

/-! ### What is planned -/

theorem mem_insertEvent_self (e : Nat × Instr × Args) (l : List (Nat × Instr × Args)) : e ∈ insertEvent e l := by
  induction l with
  | nil => exact List.mem_singleton.mpr rfl
  | cons a l ih =>
    unfold insertEvent
    split
    · exact List.mem_cons_self
    · exact List.mem_cons_of_mem _ ih

theorem mem_insertEvent_of_mem (e : Nat × Instr × Args) {x : Nat × Instr × Args} {l : List (Nat × Instr × Args)} (h : x ∈ l) :
    x ∈ insertEvent e l := by
  induction l with
  | nil => exact absurd h List.not_mem_nil
  | cons a l ih =>
    unfold insertEvent
    split
    · exact List.mem_cons_of_mem _ h
    · rcases List.mem_cons.mp h with rfl | hl
      · exact List.mem_cons_self
      · exact List.mem_cons_of_mem _ (ih hl)

/-- What is scheduled in the cycle of `s` is planned from `s`. -/
theorem planned_schedule {s t : State} (h : t.cycle = s.cycle) (n : Nat) (i : Instr) (a : Args) :
    planned s (t.schedule n i a) n i a := by
  rw [planned, ← h]
  exact mem_insertEvent_self _ _

/-- A later schedule keeps what is planned. -/
theorem planned_schedule_of_planned {s t : State} {n : Nat} {i : Instr} {a : Args} (h : planned s t n i a) (n' : Nat)
    (i' : Instr) (a' : Args) : planned s (t.schedule n' i' a') n i a := mem_insertEvent_of_mem _ h

/-! ### Requests at a station (R191, R195, R196) -/

theorem exec_stationTranslate (s : State) : exec .stationTranslate s = execStationTranslate s := by rfl

@[simp] theorem State.station_modStation_same (s : State) (k : Nat) (f : Station → Station) :
    (s.modStation k f).station k = f (s.station k) := Table.get_put_same _ _ _ _

/-- A request that is taken in joins its miss or allocates one. -/
theorem Station.takeIn_some {t u : Station} {r : StationReq} (h : t.takeIn r = some u) :
    r.key ∈ u.misses ∧ u.buffer = t.buffer ++ [r] ∧ t.buffer.length < 4096 := by
  unfold Station.takeIn at h
  split at h
  · cases h
  · next hroom =>
    split at h
    · next hjoin =>
      cases h
      exact ⟨List.contains_iff_mem.mp hjoin, rfl, Nat.lt_of_not_le hroom⟩
    · split at h
      · cases h
        exact ⟨List.mem_append_right _ (List.mem_singleton.mpr rfl), rfl, Nat.lt_of_not_le hroom⟩
      · cases h

/-- A request that arrives is taken in, where none waits at the mesh edge, or waits there. -/
theorem Station.enqueue_cases (t : Station) (r : StationReq) :
    (r.key ∈ (t.enqueue r).misses ∧ (t.enqueue r).buffer = t.buffer ++ [r] ∧ t.edge = [] ∧ t.buffer.length < 4096) ∨
      ((t.enqueue r).misses = t.misses ∧ (t.enqueue r).buffer = t.buffer ∧ (t.enqueue r).edge = t.edge ++ [r]) := by
  unfold Station.enqueue
  split
  · next u hu =>
    by_cases hedge : t.edge = []
    · rw [if_pos hedge] at hu
      obtain ⟨hkey, hbuffer, hroom⟩ := Station.takeIn_some hu
      exact .inl ⟨hkey, hbuffer, hedge, hroom⟩
    · rw [if_neg hedge] at hu
      cases hu
  · exact .inr ⟨rfl, rfl, rfl⟩

/-- The two ways that a request to a station goes on. -/
theorem stationTranslate_of_miss (s : State) (h : ¬ (64 ≤ s.args.a ∨ s.stationHolds s.args.a s.args.request = true)) :
    execStationTranslate s = .next
      (let t := s.modStation s.args.a (fun q => q.enqueue s.args.request)
        if (s.station s.args.a).misses.length < (t.station s.args.a).misses.length then
          t.schedule 640 .stationWalkComplete { a := s.args.a }
        else t) := by
  unfold execStationTranslate
  dsimp only
  rw [if_neg h, State.station_modStation_same]
  simp only [decide_eq_true_eq]
  rfl

/-! ### Walks (R191, R195, R196) -/

theorem exec_stationWalkComplete (s : State) : exec .stationWalkComplete s = execStationWalkComplete s := by rfl

theorem State.misses_keepFound (s : State) (k pasid va : Nat) (c : Word × Word × Word) (f : Found) :
    ((s.keepFound k pasid va c f).1.station k).misses = (s.station k).misses := by
  unfold State.keepFound
  dsimp only
  rw [State.station_modStation_same]
  simp only [Station.keepWalk, Station.keepLeaf]

/-- A translation keeps the misses of its station. -/
theorem State.misses_translate (s : State) (k : Nat) (r : StationReq) :
    ((s.translate k r).1.station k).misses = (s.station k).misses := by
  have hwith : ((s.translateWith k r.pasid r.dom r.va (requestChecks r)).1.station k).misses = (s.station k).misses := by
    unfold State.translateWith
    split
    · rfl
    · split
      · rfl
      · split
        · rfl
        · exact s.misses_keepFound k _ _ _ _
  unfold State.translate
  generalize s.translateWith k r.pasid r.dom r.va (requestChecks r) = q at hwith ⊢
  obtain ⟨t, e | g⟩ := q
  · exact hwith
  · dsimp only at hwith ⊢
    split <;> exact hwith

/-- What a walk makes of a request that waited for it. -/
def State.walked (s : State) (k : Nat) (r : StationReq) : State :=
  match s.translate k r with
  | (t, .ok _) => t
  | (t, .error f) => t.requestFails r f

theorem State.walked_of_ok {s t : State} {k : Nat} {r : StationReq} {g : Target} (h : s.translate k r = (t, .ok g)) :
    s.walked k r = t := by rw [State.walked, h]

theorem State.walked_of_error {s t : State} {k : Nat} {r : StationReq} {f : TFault} (h : s.translate k r = (t, .error f)) :
    s.walked k r = t.requestFails r f := by rw [State.walked, h]

/-- A station with one waiting request, that of its oldest miss, serves or fails that request alone. -/
theorem walkComplete_of_single (s : State) (rest : List (Nat × Nat)) (r : StationReq)
    (hmisses : (s.station s.args.a).misses = r.key :: rest) (hbuffer : (s.station s.args.a).buffer = [r])
    (hedge : (s.station s.args.a).edge = []) : execStationWalkComplete s = .next
      ((s.modStation s.args.a (fun q => { q with misses := rest, buffer := [] })).walked s.args.a r) := by
  have hlen : (s.station s.args.a).edge.length = 0 := List.length_eq_zero_iff.mpr hedge
  unfold execStationWalkComplete
  dsimp only
  rw [hmisses, hbuffer, hlen]
  simp only [Station.refill, List.drop_length, List.foldl_nil, ne_eq, not_true_eq_false, decide_false,
    Bool.false_eq_true, not_false_eq_true, List.filter_cons_of_neg, List.filter_nil, decide_true, List.filter_cons_of_pos,
    List.foldl_cons]
  rfl

/-! ### Parking (R163) -/

/-- What ends a wait changes the clusters and the waits of the one slot. -/
theorem State.leaveWait_eq (s : State) (c i : Nat) : ∃ cl, s.leaveWait c i =
    ({ s with clusters := cl } : State).modWaveAt c i (fun w => { w with wait := none }) := by
  unfold State.leaveWait
  dsimp only
  split
  · exact ⟨_, rfl⟩
  · exact ⟨_, rfl⟩
  · exact ⟨_, rfl⟩

theorem State.state_leaveWait (s : State) (c i : Nat) : ((s.leaveWait c i).slotAt c i).state = (s.slotAt c i).state := by
  obtain ⟨cl, h⟩ := s.leaveWait_eq c i
  rw [h, State.slotAt_modWaveAt_same]
  rfl

theorem State.stations_leaveWait (s : State) (c i : Nat) : (s.leaveWait c i).stations = s.stations := by
  obtain ⟨cl, h⟩ := s.leaveWait_eq c i
  rw [h]
  rfl

theorem State.acks_leaveWait (s : State) (c i : Nat) : (s.leaveWait c i).acks = s.acks := by
  obtain ⟨cl, h⟩ := s.leaveWait_eq c i
  rw [h]
  rfl

/-- A slot that parks. -/
def Slot.parkedAs (k : Slot) (p : Park) : Slot :=
  { k with
    state := if k.state = .handingOver then .handingOver else .parked,
    wave := { k.wave with park := some p, wait := none, busy := none } }

theorem State.slotAt_parkAt (s : State) (c i : Nat) (p : Park) : (s.parkAt c i p).slotAt c i = (s.slotAt c i).parkedAs p := by
  unfold State.parkAt
  exact State.slotAt_modSlotAt_same s c i _

/-- The parts of a slot that parks late out of a run or a wait. -/
theorem State.slotAt_parkLate (s : State) (c i : Nat) (f : Wave → Wave) (p : Park) (h : active (s.slotAt c i)) :
    let t := ((s.leaveWait c i).modWaveAt c i f).parkAt c i p
    (t.slotAt c i).state = .parked ∧ (t.slotAt c i).wave.park = some p ∧ t.stations = s.stations ∧ t.acks = s.acks := by
  intro t
  have hstate : ((s.leaveWait c i).slotAt c i).state = (s.slotAt c i).state := s.state_leaveWait c i
  have hstations : (s.leaveWait c i).stations = s.stations := s.stations_leaveWait c i
  have hacks : (s.leaveWait c i).acks = s.acks := s.acks_leaveWait c i
  unfold t
  generalize s.leaveWait c i = u at hstate hstations hacks ⊢
  rw [State.slotAt_parkAt, State.slotAt_modWaveAt_same]
  refine ⟨?_, rfl, hstations, hacks⟩
  rw [Slot.parkedAs, hstate]
  rcases h with h | h <;> simp [h]

/-- A request that fails parks its wave late, where that still runs and its wait may end. -/
theorem State.requestFails_of_active (s : State) {r : StationReq} (f : TFault) {c i : Nat} (horigin : r.origin = .wave c i)
    (hactive : active (s.slotAt c i)) (hend : (s.slotAt c i).wave.interruptible = true) :
    ∃ p, ((s.requestFails r f).slotAt c i).state = .parked ∧ ((s.requestFails r f).slotAt c i).wave.park = some p ∧
      (s.requestFails r f).stations = s.stations ∧ p.late = true ∧ p.cause = (f.report r).cause ∧ p.tval = (f.report r).tval := by
  have hmay : ((s.slotAt c i).state = .running ∨ (s.slotAt c i).state = .waiting) ∧ (s.slotAt c i).wave.interruptible = true :=
    ⟨hactive, hend⟩
  unfold State.requestFails
  rw [horigin]
  dsimp only
  rw [if_pos hmay]
  obtain ⟨hstate, hpark, hstations, -⟩ := s.slotAt_parkLate c i _ _ hactive
  exact ⟨_, hstate, hpark, hstations, rfl, rfl, rfl⟩

end Sys2Proof.Machine

namespace Sys2Proof.Machine
open Sys2Proof.Claims

/-! ### The caches under an invalidation (R199) -/

theorem State.CoreSide.station {s t : State} (h : s.CoreSide t) (k : Nat) : t.station k = s.station k := by
  rw [State.station, h.stations, State.station]

theorem State.CoreSide.reg {s t : State} (h : s.CoreSide t) (off : Nat) : t.reg off = s.reg off := by
  rw [State.reg, h.regs, State.reg]

theorem State.CoreSide.dropEverywhere (s : State) (c : Nat) (q : CacheLine → Bool) : s.CoreSide (s.dropEverywhere c q) := by
  unfold State.dropEverywhere
  exact (State.CoreSide.foldl (fun s k => .dropLines s c k q) _ s).trans (.dropFetched _ c)

/-- Dropping lines brings none in. -/
theorem State.dropEverywhere_all {s : State} (c : Nat) (q : CacheLine → Bool) {P : CacheLine → Prop}
    (hP : ∀ l, P l → P { l with dirty := 0 }) {d : Nat} {k : CacheId} (h : ∀ l ∈ (s.core d).lines k, P l) :
    ∀ l ∈ ((s.dropEverywhere c q).core d).lines k, P l := by
  unfold State.dropEverywhere
  rw [State.lines_dropFetched]
  exact (State.WroteBack.foldl (fun s k => .dropLines s c k q) _ s).all hP h

/-- No cache of a core that drops everywhere what an invalidation covers holds such a line. -/
theorem State.dropEverywhere_clear (s : State) (c : Nat) (v : Inval) : cachesClear (s.dropEverywhere c v.coversLine) v c := by
  intro k
  unfold State.dropEverywhere
  rw [State.lines_dropFetched]
  refine foldl_reaches (P := fun t : State => ∀ l ∈ (t.core c).lines k, v.coversLine l = false) ?_ (a := k) ?_ ?_ s
  · intro t j ht
    exact (State.WroteBack.dropLines t c j _).all (fun _ h => h) ht
  · cases k <;> simp
  · exact fun t => t.dropLines_none c k v.coversLine

theorem cachesClear_dropEverywhere {s : State} (d : Nat) {v : Inval} {c : Nat} (h : cachesClear s v c) :
    cachesClear (s.dropEverywhere d v.coversLine) v c :=
  fun k => State.dropEverywhere_all d v.coversLine (P := fun l => v.coversLine l = false) (fun _ h => h) (h k)

/-- Where the listed cores drop what an invalidation covers, each of them is clear of it. -/
theorem cachesClear_foldl {α : Type} (core : α → Nat) (v : Inval) {a : α} {l : List α} (ha : a ∈ l) (s : State) :
    cachesClear (l.foldl (fun s e => s.dropEverywhere (core e) v.coversLine) s) v (core a) :=
  foldl_reaches (P := fun t : State => cachesClear t v (core a)) (fun _ e h => cachesClear_dropEverywhere (core e) h) ha
    (fun t => t.dropEverywhere_clear (core a) v) s

theorem Table.mem_of_find {β : Type} {t : Table β} {k : Nat} {b : β} (h : Table.find t k = some b) : (k, b) ∈ t := by
  induction t with
  | nil => cases h
  | cons e t ih =>
    obtain ⟨a, b'⟩ := e
    simp only [Table.find] at h
    split at h
    · next hk =>
      cases h
      exact hk ▸ List.mem_cons_self
    · exact List.mem_cons_of_mem _ (ih h)

/-- A core that is not listed holds no line. -/
theorem cachesClear_of_unlisted {s : State} (v : Inval) {c : Nat} (h : Table.find s.cores c = none) : cachesClear s v c := by
  intro k l hl
  have hcore : s.core c = s.idleCore c := by rw [State.core, Table.get, h]
  rw [hcore] at hl
  cases k <;> cases hl

/-- Where every listed core drops what an invalidation covers, every core is clear of it. -/
theorem cachesClear_dropAll (s : State) (v : Inval) (c : Nat) :
    cachesClear (s.cores.foldl (fun t e => t.dropEverywhere e.1 v.coversLine) s) v c := by
  cases hfind : Table.find s.cores c with
  | some q => exact cachesClear_foldl (fun e : Nat × Core => e.1) v (Table.mem_of_find hfind) s
  | none =>
    exact List.foldlRecOn (motive := fun t : State => cachesClear t v c) _ _ (cachesClear_of_unlisted v hfind)
      (fun t h e _ => cachesClear_dropEverywhere e.1 h)

/-! ### The start of an invalidation (R197 to R199) -/

theorem State.station_mapped (s : State) (f : Station → Station) (hf : f {} = {}) (k : Nat) :
    ({ s with stations := s.stations.map (fun e => (e.1, f e.2)) } : State).station k = f (s.station k) := by
  rw [State.station, Table.get, Table.find_map, State.station, Table.get]
  cases Table.find s.stations k with
  | none => exact hf.symm
  | some t => rfl

/-- The leaves of a station after an invalidation. -/
theorem Station.mem_leaves_invalidate (t : Station) (v : Inval) (l : Leaf) :
    l ∈ (t.invalidate v).leaves ↔ l ∈ t.leaves ∧ v.covers l.pasid l.vpage l.htag = false := by
  simp [Station.invalidate]

/-- The hub's part of the start of an invalidation: the descriptor stands, and every station has dropped what it covers. -/
def State.invSent (s : State) (d : List Byte) : State :=
  ({ s with inv := some ([], d), stations := s.stations.map (fun e => (e.1, e.2.invalidate (invOf d))) } : State).setReg trstat
    (s.reg trstat ||| 1)

/-- The events of the stations' acknowledgements. -/
def State.askStations (s : State) : State :=
  (List.range 64).foldl (fun s k => s.schedule 64 .stationInvAck { a := k }) s

theorem State.CoreSide.askStations (s : State) : s.CoreSide s.askStations :=
  .foldl (fun s k => .schedule s 64 .stationInvAck { a := k }) _ s

theorem State.cores_askStations (s : State) : s.askStations.cores = s.cores :=
  List.foldlRecOn (motive := fun t : State => t.cores = s.cores) _ _ rfl (fun _ h _ _ => h)

theorem planned_askStations {s t : State} (hcycle : t.cycle = s.cycle) {k : Nat} (hk : k < 64) :
    planned s t.askStations 64 .stationInvAck { a := k } := by
  have hplanned : t.askStations.cycle = s.cycle → planned s t.askStations 64 .stationInvAck { a := k } := by
    refine foldl_reaches (P := fun u : State => u.cycle = s.cycle → planned s u 64 .stationInvAck { a := k }) ?_
      (List.mem_range.mpr hk) ?_ t
    · exact fun u j h hu => planned_schedule_of_planned (h hu) _ _ _
    · exact fun u hu => planned_schedule (t := u) hu _ _ _
  exact hplanned ((State.CoreSide.askStations t).cycle.trans hcycle)

theorem State.invStart_of_taken {s : State} {kind : Nat} (hinv : s.inv = none) (hhead : s.reg trinvh ≠ s.reg trinvt)
    (hvalid : invValid s.invDescriptor = true) (hkind : (invOf s.invDescriptor).kind = kind) :
    s.invStart kind = ((s.cores.foldl (fun t e => t.dropEverywhere e.1 (invOf s.invDescriptor).coversLine)
      (s.invSent s.invDescriptor)).askStations) := by
  unfold State.invStart
  dsimp only
  rw [if_neg (by simp [hinv, hhead, hvalid, hkind])]
  rfl

theorem State.invStart_of_not {s : State} {kind : Nat} (h : ¬ (s.inv = none ∧ s.reg trinvh ≠ s.reg trinvt ∧
    invValid s.invDescriptor = true ∧ (invOf s.invDescriptor).kind = kind)) : s.invStart kind = s := by
  unfold State.invStart
  dsimp only
  refine if_pos ?_
  by_contra hnot
  refine h ?_
  simpa [Option.isSome_iff_ne_none] using hnot

/-- What the start of an invalidation leaves (R197, R199). -/
theorem State.invStart_spec {s : State} {kind : Nat} (hinv : s.inv = none) (hhead : s.reg trinvh ≠ s.reg trinvt)
    (hvalid : invValid s.invDescriptor = true) (hkind : (invOf s.invDescriptor).kind = kind) :
    let t := s.invStart kind
    t.inv = some ([], s.invDescriptor) ∧ (t.reg trstat).getLsbD 0 = true ∧ (∀ c, cachesClear t (invOf s.invDescriptor) c) ∧
      (∀ k, ∀ l ∈ (t.station k).leaves, l ∈ (s.station k).leaves ∧
        (invOf s.invDescriptor).covers l.pasid l.vpage l.htag = false) ∧
      (∀ k, k < 64 → planned s t 64 .stationInvAck { a := k }) := by
  intro t
  have ht : t = _ := State.invStart_of_taken hinv hhead hvalid hkind
  clear_value t
  subst ht
  have hinv' : (s.invSent s.invDescriptor).inv = some ([], s.invDescriptor) := rfl
  have hcycle : (s.invSent s.invDescriptor).cycle = s.cycle := rfl
  have hcores : s.cores = (s.invSent s.invDescriptor).cores := rfl
  have hstat : (s.invSent s.invDescriptor).reg trstat = s.reg trstat ||| 1 := State.reg_setReg_same _ _ _
  have hstation (k : Nat) : (s.invSent s.invDescriptor).station k = (s.station k).invalidate (invOf s.invDescriptor) :=
    s.station_mapped (fun t => t.invalidate (invOf s.invDescriptor)) (by simp [Station.invalidate]) k
  have hside := State.CoreSide.foldl (fun (t : State) (e : Nat × Core) =>
    .dropEverywhere t e.1 (invOf s.invDescriptor).coversLine) s.cores (s.invSent s.invDescriptor)
  have hclear := cachesClear_dropAll (s.invSent s.invDescriptor) (invOf s.invDescriptor)
  rw [← hcores] at hclear
  generalize s.invSent s.invDescriptor = u at *
  generalize s.cores.foldl (fun t e => t.dropEverywhere e.1 (invOf s.invDescriptor).coversLine) u = w at *
  have hasked := State.CoreSide.askStations w
  have hall := hside.trans hasked
  refine ⟨?_, ?_, ?_, ?_, fun k hk => planned_askStations (hside.cycle.trans hcycle) hk⟩
  · rw [hall.inv, hinv']
  · rw [hall.reg, hstat]
    simp
  · intro c k l hl
    rw [hasked.core w.cores_askStations] at hl
    exact hclear c k l hl
  · intro k l hl
    rw [hall.station, hstation] at hl
    exact (Station.mem_leaves_invalidate _ _ _).mp hl

end Sys2Proof.Machine

namespace Sys2Proof.Machine
open Sys2Proof.Claims

/-! ### The acknowledgements of an invalidation (R199) -/

theorem exec_stationInvAck (s : State) : exec .stationInvAck s = execStationInvAck s := by rfl

/-- What a station's acknowledgement acts on besides the invalidation itself: the station, and the caches of its die. -/
def State.invAcked (s : State) (v : Inval) : State :=
  (s.coresOf (s.args.a / 8)).foldl (fun t c => t.dropEverywhere c v.coversLine) (s.modStation s.args.a (fun t => t.invalidate v))

theorem invAck_of_none {s : State} (h : s.inv = none) : execStationInvAck s = .next s := by
  unfold execStationInvAck
  rw [h]

/-- The acknowledgement of a station that has given it already, or that there is none of, has no effect. -/
theorem invAck_of_done {s : State} {done : List Nat} {d : List Byte} (h : s.inv = some (done, d))
    (hdone : 64 ≤ s.args.a ∨ s.args.a ∈ done) : execStationInvAck s = .next s := by
  unfold execStationInvAck
  rw [h]
  dsimp only
  rw [if_pos (by simpa using hdone)]

/-- A station waits for the active messages of its die. -/
theorem invAck_of_messages {s : State} {done : List Nat} {d : List Byte} (h : s.inv = some (done, d)) (hk : s.args.a < 64)
    (hdone : s.args.a ∉ done) (hm : s.messagesOfDie (s.args.a / 8) = true) :
    execStationInvAck s = .next (s.schedule 64 .stationInvAck { a := s.args.a }) := by
  unfold execStationInvAck
  rw [h]
  dsimp only
  rw [if_neg (by simp [hk, hdone]), if_pos hm]

theorem invAck_of_quiet {s : State} {done : List Nat} {d : List Byte} (h : s.inv = some (done, d)) (hk : s.args.a < 64)
    (hdone : s.args.a ∉ done) (hm : s.messagesOfDie (s.args.a / 8) = false) : execStationInvAck s =
      .next (if done.length = 63 then (s.invAcked (invOf d)).invDone d
        else { s.invAcked (invOf d) with inv := some (s.args.a :: done, d) }) := by
  unfold execStationInvAck
  rw [h]
  dsimp only
  rw [if_neg (by simp [hk, hdone]), hm]
  rfl

/-- What an acknowledgement acts on lies beside the registers, the stations but its own, and the context table. -/
theorem State.CoreSide.invAcked (s : State) (v : Inval) :
    (s.modStation s.args.a (fun t => t.invalidate v)).CoreSide (s.invAcked v) :=
  .foldl (fun t c => .dropEverywhere t c v.coversLine) _ _

theorem State.station_invAcked (s : State) (v : Inval) : (s.invAcked v).station s.args.a = (s.station s.args.a).invalidate v :=
  ((State.CoreSide.invAcked s v).station s.args.a).trans (s.station_modStation_same s.args.a _)

theorem State.invAcked_clear (s : State) (v : Inval) {c : Nat} (hc : c ∈ s.coresOf (s.args.a / 8)) :
    cachesClear (s.invAcked v) v c := cachesClear_foldl (fun c : Nat => c) v hc _

/-! ### The end of an invalidation -/

/-- The invalidation under way and the context table's place (R197). -/
def State.invalidation (s : State) : Option (List Nat × List Byte) × Nat × Nat := (s.inv, s.pctb, s.pcount)

theorem State.invalidation_invComplete (s : State) (d : List Byte) (v : Nat) :
    (s.invComplete d v).invalidation = s.invalidation := by
  unfold State.invComplete
  dsimp only
  split
  · have hside := (State.Stored.agentWriteAs s 0 (leValue ((d.drop 24).take 8)) (leBytes 4 v)).side
    rw [State.agentWrite, State.invalidation, hside.inv, hside.pctb, hside.pcount, State.invalidation]
  · rfl

theorem State.invalidation_invAdvance (s : State) : s.invAdvance.invalidation = s.invalidation := rfl

/-- Taking up the next descriptor starts nothing yet. -/
theorem State.invalidation_invNext (s : State) (n : Nat) : (s.invNext n).invalidation = s.invalidation := by
  induction n generalizing s with
  | zero => rfl
  | succ n ih =>
    unfold State.invNext
    dsimp only
    split
    · rfl
    · split
      · rfl
      · rw [ih, State.invalidation_invAdvance, State.invalidation_invComplete]
        rfl

/-- The end of an invalidation: none is under way, and one of kind 3 has made the context table registers take effect. -/
theorem State.invalidation_invDone (s : State) (d : List Byte) : (s.invDone d).invalidation =
    (none, if (invOf d).kind = 3 then ((s.reg trpctb).toNat, (s.reg trpctl).toNat) else (s.pctb, s.pcount)) := by
  unfold State.invDone
  extract_lets t u w x
  have ht : t.invalidation = (s.inv, if (invOf d).kind = 3 then ((s.reg trpctb).toNat, (s.reg trpctl).toNat) else (s.pctb, s.pcount)) := by
    unfold t
    split <;> rfl
  have hu : u.invalidation = t.invalidation := t.invalidation_invComplete d _
  have hx : x.invalidation = (none, u.invalidation.2) := rfl
  clear_value x
  rw [State.invalidation_invNext, State.invalidation_invAdvance, hx, hu, ht]

end Sys2Proof.Machine

namespace Sys2Proof.Machine
open Sys2Proof.Claims

/-! ### Drains (R188) -/

theorem exec_releaseDirectoryDrain (s : State) : exec .releaseDirectoryDrain s = execReleaseDirectoryDrain s := by rfl

theorem exec_drainAck (s : State) : exec .drainAck s = execDrainAck s := by rfl

/-- A recorded core that drains stands among the drained ones. -/
theorem State.mem_drains_drainEntry {s : State} {d line c : Nat} {e : Nat × Nat}
    (h : (Table.get (s.die d).reldir line []).find? (fun e => e.1 = c) = some e) :
    (c, e.2) ∈ Table.get ((s.drainEntry d line c).die d).drains line [] := by
  unfold State.drainEntry
  rw [h]
  dsimp only
  rw [State.die_modDie_same, Table.get_put_same]
  exact List.mem_cons_self

/-- A recorded core that drains holds no line dirty at or before the epoch of its record. -/
theorem State.drainEntry_clean {s : State} {d line c : Nat} {e : Nat × Nat}
    (h : (Table.get (s.die d).reldir line []).find? (fun e => e.1 = c) = some e) :
    ∀ l ∈ ((s.drainEntry d line c).core c).laneL1, l.epoch ≤ e.2 → l.dirty = 0 := by
  unfold State.drainEntry
  rw [h]
  intro l hl hepoch
  exact s.cleanLines_clean c .lane (fun l => l.epoch ≤ e.2) l hl (decide_eq_true hepoch)

theorem Table.get_putOrErase {α : Type} (t : Table (List α)) (k : Nat) (l : List α) :
    Table.get (if l = [] then Table.erase t k else Table.put t k l) k [] = l := by
  split
  · next h => rw [Table.get, Table.find_erase_same, h]
  · exact Table.get_put_same _ _ _ _

/-- The records of a die for a line after a drain is acknowledged (log 72). -/
theorem State.die_drainAcked {s : State} {d line c : Nat} {r : Nat × Nat}
    (h : (Table.get (s.die d).drains line []).find? (fun e => e.1 = c) = some r) :
    Table.get ((s.drainAcked d line c).die d).reldir line [] =
        (Table.get (s.die d).reldir line []).filter (fun e => ¬ (e.1 = c ∧ e.2 ≤ r.2)) ∧
      Table.get ((s.drainAcked d line c).die d).drains line [] =
        (Table.get (s.die d).drains line []).filter (fun e => e.1 ≠ c) := by
  unfold State.drainAcked
  dsimp only
  rw [h]
  dsimp only
  rw [State.die_modDie_same]
  exact ⟨Table.get_putOrErase _ _ _, Table.get_putOrErase _ _ _⟩

theorem State.drainAcked_of_none {s : State} {d line c : Nat}
    (h : (Table.get (s.die d).drains line []).find? (fun e => e.1 = c) = none) : s.drainAcked d line c = s := by
  unfold State.drainAcked
  dsimp only
  rw [h]

@[simp] theorem State.drainAcked_cores (s : State) (d line c : Nat) : (s.drainAcked d line c).cores = s.cores := by
  unfold State.drainAcked
  dsimp only
  split <;> rfl

/-! ### Scratchpad bytes that a store writes (R179) -/

@[simp] theorem length_leBytes (n v : Nat) : (leBytes n v).length = n := by
  induction n generalizing v with
  | zero => rfl
  | succ n ih => rw [leBytes, List.length_cons, ih]

theorem getElem_leBytes (n v k : Nat) (h : k < (leBytes n v).length) : (leBytes n v)[k] = BitVec.ofNat 8 (v / 256 ^ k) := by
  induction n generalizing v k with
  | zero => exact absurd h (Nat.not_lt_zero k)
  | succ n ih =>
    cases k with
    | zero => simp [leBytes]
    | succ k =>
      have hk : k < (leBytes n (v / 256)).length := by simpa [leBytes] using h
      have hbyte := ih (v / 256) k hk
      simp only [leBytes, List.getElem_cons_succ, hbyte, Nat.div_div_eq_div_mul, Nat.pow_succ, Nat.mul_comm]

/-- A number written in little-endian order, byte by byte. -/
theorem Bytes.read_writeList_leBytes (m : Table Byte) (a n v b : Nat) : Bytes.read (Bytes.writeList m a (leBytes n v)) b =
    if a ≤ b ∧ b < a + n then BitVec.ofNat 8 (v / 256 ^ (b - a)) else Bytes.read m b := by
  split
  · next h =>
    have hk : b - a < (leBytes n v).length := by
      rw [length_leBytes]
      omega
    have hsame := Bytes.read_writeList_same m a (leBytes n v) (b - a) hk
    rw [getElem_leBytes, Nat.add_sub_cancel' h.1] at hsame
    exact hsame
  · next h =>
    refine Bytes.read_writeList_other m a b _ ?_
    rw [length_leBytes]
    omega

theorem State.spad_modWaveAt (s : State) (c i : Nat) (f : Wave → Wave) (d : Nat) :
    ((s.modWaveAt c i f).core d).spad = (s.core d).spad := by
  unfold State.modWaveAt State.modSlotAt
  by_cases h : d = c
  · rw [h, State.core_modCore_same, Core.modSlot]
  · rw [State.core_modCore_other _ _ h]

theorem State.spad_breakBlock (s : State) (pa n : Nat) (own : Option (Nat × Nat)) (d : Nat) :
    ((s.breakBlock pa n own).core d).spad = (s.core d).spad := by
  unfold State.breakBlock
  refine List.foldlRecOn (motive := fun t : State => (t.core d).spad = (s.core d).spad) _ _ rfl (fun t ht c _ => ?_)
  refine List.foldlRecOn (motive := fun t : State => (t.core d).spad = (s.core d).spad) _ _ ht (fun t ht k _ => ?_)
  split
  · rw [State.spad_modWaveAt, ht]
  · exact ht

/-- A store to a scratchpad writes its bytes there. -/
theorem State.spad_spadWrite (s : State) (core a : Nat) (bs : List Byte) (own : Option (Nat × Nat)) :
    ((s.spadWrite core a bs own).core core).spad = Bytes.writeList (s.core core).spad a bs := by
  unfold State.spadWrite
  have hspad := s.spad_breakBlock (spadPa core a) bs.length own core
  generalize s.breakBlock (spadPa core a) bs.length own = t at hspad ⊢
  have hwritten : ((t.modCore core (fun q => q.writeSpad a bs)).core core).spad = Bytes.writeList (t.core core).spad a bs := by
    rw [State.core_modCore_same]
    rfl
  generalize t.modCore core (fun q => q.writeSpad a bs) = u at hwritten ⊢
  have hcore : ((u.unpoison (spadPa core a) bs.length).wake (spadPa core a) bs.length none).core core = u.core core :=
    (State.CoreSide.wake _ _ _ _).core (State.wake_cores _ _ _ _) core
  rw [hcore, hwritten, hspad]

theorem State.storeSpad_eq (s : State) (c i core a : Nat) (bs : List Byte) : ∃ ag, s.storeSpad c i core a bs =
    { s.spadWrite core a bs (some (c, i)) with agenda := ag } := by
  unfold State.storeSpad
  dsimp only
  split
  · exact ⟨_, rfl⟩
  · exact ⟨_, rfl⟩

theorem State.CoreSide.storeSpad (s : State) (c i core a : Nat) (bs : List Byte) : s.CoreSide (s.storeSpad c i core a bs) := by
  unfold State.storeSpad
  dsimp only
  split
  · exact (State.Stored.spadWrite s _ _ _ _).side.trans (.schedule _ _ _ _)
  · exact (State.Stored.spadWrite s _ _ _ _).side

theorem State.spad_storeSpad (s : State) (c i core a : Nat) (bs : List Byte) :
    ((s.storeSpad c i core a bs).core core).spad = Bytes.writeList (s.core core).spad a bs := by
  obtain ⟨ag, h⟩ := s.storeSpad_eq c i core a bs
  rw [h]
  exact s.spad_spadWrite core a bs _

end Sys2Proof.Machine

namespace Sys2Proof.Machine
open Sys2Proof.Claims

/-! ### The remote service slot (R28, R182, R219, R297) -/

theorem exec_activeMessageService (s : State) : exec .activeMessageService s = execActiveMessageService s := by rfl

theorem exec_activeMessageAck (s : State) : exec .activeMessageAck s = execActiveMessageAck s := by rfl

theorem State.CoreSide.messageEffect (s : State) (core : Nat) (m : ActiveMsg) : s.CoreSide (s.messageEffect core m).1 := by
  unfold State.messageEffect
  dsimp only
  split
  · exact .refl s
  · exact .storeSpad s _ _ _ _ _
  · split
    · exact (State.Stored.spadWrite s _ _ _ _).side
    · exact .refl s
  · split
    · exact (State.Stored.spadWrite s _ _ _ _).side
    · exact .refl s

/-- A message that is not a store brings back what its bytes held. -/
theorem State.messageEffect_value (s : State) (core : Nat) {m : ActiveMsg} (h : m.kind ≠ .store) :
    (s.messageEffect core m).2 = Bytes.readLE (s.core core).spad m.addr m.size := by
  unfold State.messageEffect
  dsimp only
  split
  · rfl
  · next hk => exact absurd hk h
  · split <;> rfl
  · split <;> rfl

theorem State.messageEffect_load (s : State) (core : Nat) {m : ActiveMsg} (h : m.kind = .load) :
    (s.messageEffect core m).1 = s := by
  unfold State.messageEffect
  rw [h]

theorem State.spad_messageEffect_store (s : State) (core : Nat) {m : ActiveMsg} (h : m.kind = .store) :
    ((s.messageEffect core m).1.core core).spad = Bytes.writeList (s.core core).spad m.addr (leBytes m.size m.operand) := by
  unfold State.messageEffect
  rw [h]
  exact s.spad_storeSpad _ _ _ _ _

/-- What a message that a core accepts or refuses does there, and its value. -/
def State.messageAnswer (s : State) (core : Nat) (m : ActiveMsg) : State × Nat :=
  match s.messageFault core m with
  | some _ => (s, 0)
  | none => s.messageEffect core m

theorem State.messageAnswer_side (s : State) (core : Nat) (m : ActiveMsg) : s.CoreSide (s.messageAnswer core m).1 := by
  unfold State.messageAnswer
  split
  · exact .refl s
  · exact .messageEffect s core m

theorem State.messageAnswer_mem (s : State) (core : Nat) (m : ActiveMsg) : (s.messageAnswer core m).1.mem = s.mem := by
  unfold State.messageAnswer
  split
  · rfl
  · exact s.messageEffect_mem core m

theorem State.messageAnswer_of_none {s : State} {core : Nat} {m : ActiveMsg} (h : s.messageFault core m = none) :
    s.messageAnswer core m = s.messageEffect core m := by rw [State.messageAnswer, h]

theorem State.messageAnswer_of_fault {s : State} {core : Nat} {m : ActiveMsg} (h : s.messageFault core m ≠ none) :
    s.messageAnswer core m = (s, 0) := by
  obtain ⟨f, hf⟩ := Option.ne_none_iff_exists'.mp h
  rw [State.messageAnswer, hf]

theorem State.messageAnswer_load (s : State) (core : Nat) {m : ActiveMsg} (h : m.kind = .load) :
    (s.messageAnswer core m).1 = s := by
  unfold State.messageAnswer
  split
  · rfl
  · exact s.messageEffect_load core h

/-- The oldest message of a core leaves its queue, and the first one held in the network enters it. -/
def State.takeMessage (s : State) (core : Nat) (rest : List ActiveMsg) : State :=
  s.modCore core (fun c => Core.admitHeld { c with inbound := rest })

/-- Messages that enter a core's queue leave the rest of the core as it is. -/
theorem Core.admitHeld_eq (c : Core) : ∃ inb net, c.admitHeld = { c with inbound := inb, network := net } := by
  unfold Core.admitHeld
  split
  · split
    · exact ⟨_, _, rfl⟩
    · exact ⟨c.inbound, c.network, rfl⟩
  · exact ⟨c.inbound, c.network, rfl⟩

theorem State.core_takeMessage (s : State) (core : Nat) (rest : List ActiveMsg) : ∃ inb net,
    (s.takeMessage core rest).core core = { s.core core with inbound := inb, network := net } := by
  obtain ⟨inb, net, h⟩ := Core.admitHeld_eq { s.core core with inbound := rest }
  exact ⟨inb, net, (State.core_modCore_same _ _ _).trans h⟩

theorem State.spad_takeMessage (s : State) (core : Nat) (rest : List ActiveMsg) :
    ((s.takeMessage core rest).core core).spad = (s.core core).spad := by
  obtain ⟨inb, net, h⟩ := s.core_takeMessage core rest
  rw [h]

/-- The queues of a core have no part in what it refuses. -/
theorem State.messageFault_takeMessage (s : State) (core : Nat) (rest : List ActiveMsg) (m : ActiveMsg) :
    (s.takeMessage core rest).messageFault core m = s.messageFault core m := by
  obtain ⟨inb, net, h⟩ := s.core_takeMessage core rest
  unfold State.messageFault
  rw [h]
  rfl

/-- The acknowledgement of the oldest message of a core. -/
def State.ackOf (s : State) (core : Nat) (m : ActiveMsg) (rest : List ActiveMsg) : Ack :=
  { core := core, msg := m, value := ((s.takeMessage core rest).messageAnswer core m).2,
    fault := (s.takeMessage core rest).messageFault core m }

theorem State.serveMessage_of_cons {s : State} {core : Nat} {m : ActiveMsg} {rest : List ActiveMsg}
    (h : (s.core core).inbound = m :: rest) : s.serveMessage core =
      (let t := ((s.takeMessage core rest).messageAnswer core m).1
       { t with acks := t.acks ++ [s.ackOf core m rest] }.schedule t.lat.activeMessage .activeMessageAck { a := m.tag }) := by
  unfold State.serveMessage
  rw [h]
  rfl

theorem State.serveMessage_of_nil {s : State} {core : Nat} (h : (s.core core).inbound = []) : s.serveMessage core = s := by
  unfold State.serveMessage
  rw [h]

/-- A message that is served: its acknowledgement leaves, and memory stays. -/
theorem State.serveMessage_spec {s : State} {core : Nat} {m : ActiveMsg} {rest : List ActiveMsg}
    (h : (s.core core).inbound = m :: rest) :
    (s.serveMessage core).acks = s.acks ++ [s.ackOf core m rest] ∧ (s.serveMessage core).mem = s.mem ∧
      planned s (s.serveMessage core) s.lat.activeMessage .activeMessageAck { a := m.tag } ∧
      (s.serveMessage core).core core = ((s.takeMessage core rest).messageAnswer core m).1.core core := by
  have hside := (State.CoreSide.modCore s core (fun c => Core.admitHeld { c with inbound := rest })).trans
    ((s.takeMessage core rest).messageAnswer_side core m)
  have hmem : ((s.takeMessage core rest).messageAnswer core m).1.mem = s.mem := State.messageAnswer_mem _ _ _
  rw [State.serveMessage_of_cons h]
  generalize ((s.takeMessage core rest).messageAnswer core m).1 = t at hside hmem ⊢
  dsimp only
  rw [← hside.lat]
  refine ⟨?_, hmem, ?_, rfl⟩
  · change t.acks ++ [s.ackOf core m rest] = _
    rw [hside.acks]
  · refine planned_schedule ?_ _ _ _
    exact hside.cycle

/-- The scratchpad of a core that refuses a message or serves a load. -/
theorem State.spad_serveMessage_kept {s : State} {core : Nat} {m : ActiveMsg} {rest : List ActiveMsg}
    (h : (s.core core).inbound = m :: rest) (hkept : s.messageFault core m ≠ none ∨ m.kind = .load) :
    ((s.serveMessage core).core core).spad = (s.core core).spad := by
  obtain ⟨-, -, -, hcore⟩ := State.serveMessage_spec h
  have hanswer : ((s.takeMessage core rest).messageAnswer core m).1 = s.takeMessage core rest := by
    rcases hkept with hfault | hload
    · rw [← s.messageFault_takeMessage core rest m] at hfault
      rw [State.messageAnswer_of_fault hfault]
    · exact State.messageAnswer_load _ _ hload
  rw [hcore, hanswer, State.spad_takeMessage]

/-- The scratchpad of a core that serves a store. -/
theorem State.spad_serveMessage_store {s : State} {core : Nat} {m : ActiveMsg} {rest : List ActiveMsg}
    (h : (s.core core).inbound = m :: rest) (hfault : s.messageFault core m = none) (hkind : m.kind = .store) :
    ((s.serveMessage core).core core).spad = Bytes.writeList (s.core core).spad m.addr (leBytes m.size m.operand) := by
  obtain ⟨-, -, -, hcore⟩ := State.serveMessage_spec h
  rw [← s.messageFault_takeMessage core rest m] at hfault
  rw [hcore, State.messageAnswer_of_none hfault, State.spad_messageEffect_store _ _ hkind, State.spad_takeMessage]

/-- A message that a core accepts and that is not a store answers with what its bytes held. -/
theorem State.value_ackOf {s : State} {core : Nat} {m : ActiveMsg} (rest : List ActiveMsg)
    (hfault : s.messageFault core m = none) (hkind : m.kind ≠ .store) :
    (s.ackOf core m rest).value = Bytes.readLE (s.core core).spad m.addr m.size := by
  rw [← s.messageFault_takeMessage core rest m] at hfault
  rw [State.ackOf, State.messageAnswer_of_none hfault, State.messageEffect_value _ _ hkind, State.spad_takeMessage]

theorem State.bankBusy_of_nil {s : State} {c : Nat} (h : (s.core c).inbound = []) : s.bankBusy c = false := by
  unfold State.bankBusy
  dsimp only
  rw [h]

/-! ### Acknowledgements at their sender (R219) -/

/-- An acquire brings in lines alone. -/
theorem State.Stored.refreshL1 (s : State) (c dom : Nat) : s.Stored (s.refreshL1 c dom) := by
  unfold State.refreshL1
  extract_lets kept t
  have ht : s.Stored t := by
    refine .foldl (fun s l => ?_) kept s
    split
    · exact .of_cores (.touchL2 s _ _ _) (State.touchL2_cores s _ _ _)
    · exact .refl s
  exact ht.trans (.of_slots (.modCore t c _) (t.slotAt_modCore c _ rfl))

/-- An answer that reaches its sender, and what it then acquires. -/
theorem messageAck_of_none {s : State} {a : Ack} (h : s.acks.find? (fun a => a.msg.tag = s.args.a) = some a)
    (hfault : a.fault = none) : ∃ wide, execActiveMessageAck s = .next
      ((({ s with acks := s.acks.filter (fun b => b.msg.tag ≠ a.msg.tag) } : State).modWaveAt a.msg.sender a.msg.slot (fun w =>
          { w with pending := w.pending.map (fun o => o.receive a.msg.tag a.value) })).acquireAt a.msg.sender a.msg.dom wide) := by
  unfold execActiveMessageAck
  rw [h]
  dsimp only
  rw [hfault]
  exact ⟨_, rfl⟩

/-- What an answer leaves: its acknowledgement is gone, memory stays, and each word of the sender has received its value. -/
theorem State.receive_spec (s : State) (a : Ack) (wide : Bool) :
    let t := (({ s with acks := s.acks.filter (fun b => b.msg.tag ≠ a.msg.tag) } : State).modWaveAt a.msg.sender a.msg.slot
      (fun w => { w with pending := w.pending.map (fun o => o.receive a.msg.tag a.value) })).acquireAt a.msg.sender a.msg.dom wide
    (∀ b ∈ t.acks, b.msg.tag ≠ a.msg.tag) ∧ t.mem = s.mem ∧ (t.slotAt a.msg.sender a.msg.slot).wave.pending =
      (s.slotAt a.msg.sender a.msg.slot).wave.pending.map (fun o => o.receive a.msg.tag a.value) := by
  intro t
  have hmem : t.mem = s.mem := State.acquireAt_mem _ _ _ _
  unfold t at *
  generalize hu : ({ s with acks := s.acks.filter (fun b => b.msg.tag ≠ a.msg.tag) } : State).modWaveAt a.msg.sender a.msg.slot
    (fun w => { w with pending := w.pending.map (fun o => o.receive a.msg.tag a.value) }) = u at hmem ⊢
  have hpending : (u.slotAt a.msg.sender a.msg.slot).wave.pending =
      (s.slotAt a.msg.sender a.msg.slot).wave.pending.map (fun o => o.receive a.msg.tag a.value) := by
    rw [← hu, State.slotAt_modWaveAt_same]
    rfl
  have hacks : u.acks = s.acks.filter (fun b => b.msg.tag ≠ a.msg.tag) := by
    rw [← hu]
    rfl
  have hstored : u.Stored (u.acquireAt a.msg.sender a.msg.dom wide) := by
    unfold State.acquireAt
    split
    · exact .refreshL1 u _ _
    · exact .refl u
  obtain ⟨r, hr⟩ := hstored.slots a.msg.sender a.msg.slot
  refine ⟨fun b hb => ?_, hmem, ?_⟩
  · rw [hstored.side.acks, hacks] at hb
    simpa using (List.mem_filter.mp hb).2
  · rw [hr, ← hpending]
    rfl

/-- A refusal that reaches a wave that runs or waits parks it late. -/
theorem messageAck_of_fault {s : State} {a : Ack} {cause : Nat} {detail : Word}
    (h : s.acks.find? (fun a => a.msg.tag = s.args.a) = some a) (hfault : a.fault = some (cause, detail))
    (hactive : active (s.slotAt a.msg.sender a.msg.slot))
    (hend : (s.slotAt a.msg.sender a.msg.slot).wave.interruptible = true) : execActiveMessageAck s = .next
      (({ s with acks := s.acks.filter (fun b => b.msg.tag ≠ a.msg.tag) } : State).refusedMessage a.core a.msg cause detail) := by
  have hlive : ¬ ((s.slotAt a.msg.sender a.msg.slot).state = .retiring ∨ (s.slotAt a.msg.sender a.msg.slot).state = .free) := by
    rcases hactive with hrun | hrun <;> simp [hrun]
  have hup : (s.slotAt a.msg.sender a.msg.slot).state ≠ .parked := by
    rcases hactive with hrun | hrun <;> simp [hrun]
  unfold execActiveMessageAck
  rw [h]
  dsimp only
  rw [hfault]
  dsimp only
  rw [if_neg hlive, if_pos ⟨hend, .inl hup⟩]

/-- A refusal waits where its sender is parked precisely (log 38). -/
theorem messageAck_of_parked {s : State} {a : Ack} (h : s.acks.find? (fun a => a.msg.tag = s.args.a) = some a)
    (hfault : a.fault.isSome = true) (hparked : (s.slotAt a.msg.sender a.msg.slot).state = .parked)
    (hlate : (s.slotAt a.msg.sender a.msg.slot).wave.lateParked = false) :
    execActiveMessageAck s = .next (s.schedule 16 .activeMessageAck { a := a.msg.tag }) := by
  obtain ⟨⟨cause, detail⟩, hf⟩ := Option.isSome_iff_exists.mp hfault
  unfold execActiveMessageAck
  rw [h]
  dsimp only
  rw [hf]
  dsimp only
  rw [hparked, hlate, if_neg (by simp), if_neg (by simp)]

/-- A refused message parks a sender that has no park yet. -/
theorem State.refusedMessage_of_active {s : State} (core : Nat) (m : ActiveMsg) (cause : Nat) (detail : Word)
    (hactive : active (s.slotAt m.sender m.slot)) (hpark : (s.slotAt m.sender m.slot).wave.park = none) :
    ∃ p, ((s.refusedMessage core m cause detail).slotAt m.sender m.slot).state = .parked ∧
      ((s.refusedMessage core m cause detail).slotAt m.sender m.slot).wave.park = some p ∧
      (s.refusedMessage core m cause detail).acks = s.acks ∧ p.late = true ∧ p.cause = cause ∧
      p.tval = BitVec.ofNat 64 m.vaddr ∧ p.msgs = [(core, m)] := by
  unfold State.refusedMessage
  dsimp only
  rw [hpark]
  dsimp only [Option.filter_none]
  obtain ⟨hstate, hset, -, hacks⟩ := s.slotAt_parkLate m.sender m.slot _ _ hactive
  exact ⟨_, hstate, hset, hacks, rfl, rfl, rfl, rfl⟩

end Sys2Proof.Machine

namespace Sys2Proof.Machine
open Sys2Proof.Claims

/-! ### The clauses of O50 -/

/-- A request that a station cannot serve joins a miss, starts a walk or waits at the mesh edge. -/
theorem stationTranslate_spec {s : State} (h : ¬ (64 ≤ s.args.a ∨ s.stationHolds s.args.a s.args.request = true)) :
    ∃ t, exec .stationTranslate s = .next t ∧ t.station s.args.a = (s.station s.args.a).enqueue s.args.request ∧
      ((s.station s.args.a).misses.length < (t.station s.args.a).misses.length →
        planned s t 640 .stationWalkComplete { a := s.args.a }) ∧
      t.cores = s.cores ∧ t.mem = s.mem := by
  have hword := (exec_stationTranslate s).trans (stationTranslate_of_miss s h)
  dsimp only at hword
  have hstation := s.station_modStation_same s.args.a (fun q => q.enqueue s.args.request)
  by_cases hwalks : (s.station s.args.a).misses.length <
      ((s.modStation s.args.a (fun q => q.enqueue s.args.request)).station s.args.a).misses.length
  · rw [if_pos hwalks] at hword
    exact ⟨_, hword, hstation, fun _ => planned_schedule (t := s.modStation s.args.a _) rfl _ _ _, rfl, rfl⟩
  · rw [if_neg hwalks] at hword
    exact ⟨_, hword, hstation, fun hmore => absurd hmore hwalks, rfl, rfl⟩

theorem stationTranslate_of_held {s : State} (h : 64 ≤ s.args.a ∨ s.stationHolds s.args.a s.args.request = true) :
    exec .stationTranslate s = .next s := by
  refine (exec_stationTranslate s).trans ?_
  unfold execStationTranslate
  dsimp only
  rw [if_pos h]

theorem walkComplete_of_none {s : State} (h : (s.station s.args.a).misses = []) : exec .stationWalkComplete s = .next s := by
  refine (exec_stationWalkComplete s).trans ?_
  unfold execStationWalkComplete
  dsimp only
  rw [h]

/-- A walk whose one request fails parks its wave late. -/
theorem walkComplete_of_error {s u : State} {rest : List (Nat × Nat)} {r : StationReq} {c i : Nat} {f : TFault}
    (hmisses : (s.station s.args.a).misses = r.key :: rest) (hbuffer : (s.station s.args.a).buffer = [r])
    (hedge : (s.station s.args.a).edge = []) (horigin : r.origin = .wave c i)
    (hwalk : (s.modStation s.args.a (fun q => { q with misses := rest, buffer := [] })).translate s.args.a r = (u, .error f))
    (hactive : active (u.slotAt c i)) (hend : (u.slotAt c i).wave.interruptible = true) :
    ∃ t p, exec .stationWalkComplete s = .next t ∧ (t.station s.args.a).misses = rest ∧ (t.slotAt c i).state = .parked ∧
      (t.slotAt c i).wave.park = some p ∧ p.late = true ∧ p.cause = (f.report r).cause ∧ p.tval = (f.report r).tval := by
  have hword := (exec_stationWalkComplete s).trans (walkComplete_of_single s rest r hmisses hbuffer hedge)
  rw [State.walked_of_error hwalk] at hword
  obtain ⟨p, hstate, hpark, hstations, hlate, hcause, htval⟩ := u.requestFails_of_active f horigin hactive hend
  have hkept := State.misses_translate (s.modStation s.args.a (fun q => { q with misses := rest, buffer := [] })) s.args.a r
  rw [hwalk, State.station_modStation_same] at hkept
  refine ⟨_, p, hword, ?_, hstate, hpark, hlate, hcause, htval⟩
  rw [State.station, hstations]
  exact hkept

/-- The events that start an invalidation, by kind. -/
theorem exec_invalidation {s : State} {e : Nat × Instr}
    (he : e ∈ [(0, Instr.invPageRange), (1, Instr.invWholePasid), (2, Instr.invHostTag), (3, Instr.invEverything)]) :
    exec e.2 s = .next (s.invStart e.1) := by
  simp only [List.mem_cons, List.not_mem_nil, or_false] at he
  rcases he with rfl | rfl | rfl | rfl
  · rfl
  · rfl
  · rfl
  · rfl

/-- The last acknowledgement ends the invalidation (R197, R199). -/
theorem invAck_of_last {s : State} {done : List Nat} {d : List Byte} (h : s.inv = some (done, d)) (hk : s.args.a < 64)
    (hdone : s.args.a ∉ done) (hm : s.messagesOfDie (s.args.a / 8) = false) (hlast : done.length = 63) :
    ∃ t, exec .stationInvAck s = .next t ∧ t.invalidation =
      (none, if (invOf d).kind = 3 then ((s.reg trpctb).toNat, (s.reg trpctl).toNat) else (s.pctb, s.pcount)) := by
  have hword := (exec_stationInvAck s).trans (invAck_of_quiet h hk hdone hm)
  rw [if_pos hlast] at hword
  have hside := State.CoreSide.invAcked s (invOf d)
  refine ⟨_, hword, ?_⟩
  rw [State.invalidation_invDone, hside.reg, hside.reg, hside.pctb, hside.pcount]
  rfl

theorem activeMessageService_of_busy {s : State} (h : s.bankBusy s.args.core = true) :
    exec .activeMessageService s = .next (s.schedule 1 .activeMessageService { core := s.args.core }) :=
  (exec_activeMessageService s).trans (congrArg Host.Outcome.next (if_pos h))

theorem activeMessageService_of_free {s : State} (h : s.bankBusy s.args.core = false) :
    exec .activeMessageService s = .next (s.serveMessage s.args.core) :=
  (exec_activeMessageService s).trans (congrArg Host.Outcome.next (if_neg (Bool.eq_false_iff.mp h)))

theorem messageAck_of_absent {s : State} (h : ∀ a ∈ s.acks, a.msg.tag ≠ s.args.a) : exec .activeMessageAck s = .next s := by
  have hnone : s.acks.find? (fun a => a.msg.tag = s.args.a) = none := List.find?_eq_none.mpr (by simpa using h)
  refine (exec_activeMessageAck s).trans ?_
  unfold execActiveMessageAck
  rw [hnone]

/-- Settles O50: the clauses are those of the operations on stations, records and messages, each shown with its operation. -/
theorem translationAndMessageEvents : Obligations.TranslationAndMessageEvents := by
  refine ⟨fun s => ⟨stationTranslate_of_held, fun h => ?_⟩, fun s => walkComplete_of_none, fun s u rest r g hm hb he hw => ?_,
    fun s u rest r c i f hm hb he ho hw ha hend => walkComplete_of_error hm hb he ho hw ha hend, fun s e he => ?_,
    fun s h => (exec_stationInvAck s).trans (invAck_of_none h), fun s done d h => ?_, fun s e => ?_, fun s => ?_, fun s => ?_,
    fun s h => ?_, fun s a h => ?_⟩
  · obtain ⟨t, hword, hstation, hplanned, hcores, hmem⟩ := stationTranslate_spec h
    refine ⟨t, hword, ?_, hplanned, hcores, hmem⟩
    rw [hstation]
    exact (s.station s.args.a).enqueue_cases s.args.request
  · have hword := (exec_stationWalkComplete s).trans (walkComplete_of_single s rest r hm hb he)
    rw [State.walked_of_ok hw] at hword
    exact hword
  · have hword := exec_invalidation (s := s) he
    refine ⟨fun hnot => ?_, fun htaken => ?_⟩
    · rw [State.invStart_of_not hnot] at hword
      exact hword
    · obtain ⟨hinv, hhead, hvalid, hkind⟩ := htaken
      exact ⟨_, hword, State.invStart_spec hinv hhead hvalid hkind⟩
  · refine ⟨fun hdone => ?_, fun hk hdone hm => ?_, fun hk hdone hm hmore => ?_, fun hk hdone hm hlast => ?_⟩
    · exact (exec_stationInvAck s).trans (invAck_of_done h hdone)
    · exact (exec_stationInvAck s).trans (invAck_of_messages h hk hdone hm)
    · have hword := (exec_stationInvAck s).trans (invAck_of_quiet h hk hdone hm)
      rw [if_neg hmore] at hword
      refine ⟨_, hword, rfl, fun l hl => ?_, fun c hc => s.invAcked_clear (invOf d) hc⟩
      have hleaves : l ∈ ((s.invAcked (invOf d)).station s.args.a).leaves := hl
      rw [State.station_invAcked, Station.mem_leaves_invalidate] at hleaves
      exact hleaves.2
    · obtain ⟨t, hword, hstate⟩ := invAck_of_last h hk hdone hm hlast
      obtain ⟨hinv, htable⟩ := Prod.ext_iff.mp hstate
      refine ⟨t, hword, hinv, fun hkind => ?_, fun hkind => ?_⟩
      · rw [if_pos hkind] at htable
        exact Prod.ext_iff.mp htable
      · rw [if_neg hkind] at htable
        exact Prod.ext_iff.mp htable
  · intro d line c h
    have hside := (State.WroteBack.drainEntry s d line c).side
    exact ⟨_, exec_releaseDirectoryDrain s, State.mem_drains_drainEntry h, State.drainEntry_clean h,
      planned_schedule hside.cycle _ _ _⟩
  · refine ⟨fun hnone => ?_, fun r h => ⟨_, exec_drainAck s, fun e => ?_, fun q hq => ?_, s.drainAcked_cores _ _ _,
      s.drainAcked_mem _ _ _⟩⟩
    · refine (exec_drainAck s).trans ?_
      rw [execDrainAck, State.drainAcked_of_none (List.find?_eq_none.mpr (by simpa using hnone))]
    · rw [(State.die_drainAcked h).1, List.mem_filter, decide_eq_true_eq, not_and_or, Nat.not_le]
    · rw [(State.die_drainAcked h).2] at hq
      simpa using (List.mem_filter.mp hq).2
  · refine ⟨fun hnil => ?_, fun hbusy => ?_, fun m rest h hfree => ?_⟩
    · have hword := activeMessageService_of_free (State.bankBusy_of_nil hnil)
      rw [State.serveMessage_of_nil hnil] at hword
      exact hword
    · exact activeMessageService_of_busy hbusy
    · obtain ⟨hacks, hmem, hplanned, -⟩ := State.serveMessage_spec h
      have hfault := s.messageFault_takeMessage s.args.core rest m
      refine ⟨_, s.ackOf s.args.core m rest, activeMessageService_of_free hfree, hacks, rfl, rfl, hfault, hmem, hplanned,
        fun hkept b => ?_, fun hnone hkind => ?_, fun hnone hkind b => ?_⟩
      · exact congrArg (Bytes.read · b) (State.spad_serveMessage_kept h (hkept.imp_left (hfault ▸ ·)))
      · exact State.value_ackOf rest (hfault.symm.trans hnone) hkind
      · rw [State.spad_serveMessage_store h (hfault.symm.trans hnone) hkind]
        exact Bytes.read_writeList_leBytes _ _ _ _ b
  · exact messageAck_of_absent h
  · refine ⟨fun hfault => ?_, fun cause detail hfault hactive hend hpark => ?_, fun hfault hparked hlate => ?_⟩
    · obtain ⟨wide, hword⟩ := messageAck_of_none h hfault
      obtain ⟨hacks, hmem, hpending⟩ := s.receive_spec a wide
      exact ⟨_, (exec_activeMessageAck s).trans hword, hacks, fun _ => hmem, hpending⟩
    · obtain ⟨p, hstate, hset, hacks, hlate, hcause, htval, hmsgs⟩ :=
        State.refusedMessage_of_active (s := { s with acks := s.acks.filter (fun b => b.msg.tag ≠ a.msg.tag) }) a.core a.msg
          cause detail hactive hpark
      refine ⟨_, p, (exec_activeMessageAck s).trans (messageAck_of_fault h hfault hactive hend), fun b hb => ?_, hstate, hset,
        hlate, hcause, htval, hmsgs⟩
      rw [hacks] at hb
      simpa using (List.mem_filter.mp hb).2
    · exact (exec_activeMessageAck s).trans (messageAck_of_parked h hfault hparked hlate)

end Sys2Proof.Machine

namespace Sys2Proof.Machine
open Sys2Proof.Claims

/-! ## O23: the drain and the images of the counting array -/

theorem exec_cntDrn (w : LaneWord) (s : State) : exec (.cntDrn w) s = execCntDrn w s := by rfl

theorem exec_cntSpl (w : LaneWord) (s : State) : exec (.cntSpl w) s = execCntSpl w s := by rfl

theorem exec_cntFil (w : LaneWord) (s : State) : exec (.cntFil w) s = execCntFil w s := by rfl

/-- A word that ends with a state completes with it. -/
theorem completes_of_done {i : Instr} {s t : State} (h : exec i s = (Issue.done t).finish) : Completes i s t := h

/-! ### Checks that find nothing -/

theorem afterCheck_of_none {r : Option Issue} (h : r = none) (k : Unit → Issue) : afterCheck r k = k () := by
  rw [h]
  rfl

theorem partialMask_of_fullMask {s : State} (w : LaneWord) (h : fullMask s = true) : partialMask (laneEnv s w) s = none :=
  if_pos (of_decide_eq_true h)

/-- A matrix word that may issue under the full mask is its body (R255). -/
theorem matrixWord_of_ready {major : Nat} {w : LaneWord} (body : LaneEnv → List Operand → State → Issue) {s : State}
    (h : s.laneReady major w = true) (hmask : fullMask s = true) :
    matrixWord major w body s = (body (laneEnv s w) (laneOperands major w) s).finish := by
  rw [matrixWord, laneIssueWith_of_ready s major w touchActive partialMask body h (partialMask_of_fullMask w hmask)]

theorem countOpen_cases {s : State} {team : Bool} (h : countOpen s team = true) :
    fullMask s = true ∧ cntCheck team (!team) s = none ∧ (s.core s.curCore).cntBusy = false := by
  simpa [countOpen, and_assoc] using h

theorem cntDomain_of_cntCheck {s : State} {team write : Bool} (h : cntCheck team write s = none) : cntDomain s write = none := by
  unfold cntCheck at h
  split at h
  · exact absurd h (by simp)
  · next hdomain => exact hdomain

theorem accDomain_of_accCheck {s : State} {write : Bool} {k : Nat} (h : accCheck write [k] s = none) :
    accDomain s write k (accTval k) = none := by
  obtain ⟨hforeign, -⟩ : accForeign write [k] s = none ∧ accUnheld write [k] s = none := by simpa [accCheck] using h
  simpa [accForeign] using hforeign

theorem cntStart_of_idle {s : State} (k : Unit → Issue) (h : (s.core s.curCore).cntBusy = false) : cntStart s k = k () := by
  rw [cntStart, h]
  rfl

/-- A word on the array that may issue is its body, where the record fits the word (R366). -/
theorem cntWord_of_open {major : Nat} {team : Bool} {w : LaneWord} {fits : Core → Bool} (body : State → Issue) {s : State}
    (h : s.laneReady major w = true) (hopen : countOpen s team = true) (hfits : fits (s.core s.curCore) = true) :
    cntWord major team w fits body s = (body s).finish := by
  obtain ⟨hmask, hcheck, -⟩ := countOpen_cases hopen
  rw [cntWord, matrixWord_of_ready _ h hmask, afterCheck_of_none hcheck, hfits]
  rfl

/-- The view of a word fits the record: a WIDE array has only view 0 (R366). -/
theorem view_fits {c : Core} {v : BitVec 8} (h : c.cntWide = true → v = 0) : (c.cntWide && decide (v.toNat ≠ 0)) = false := by
  cases hwide : c.cntWide with
  | false => rfl
  | true => simp [h hwide]

/-! ### Scratchpad sides -/

/-- What the checks of a scratchpad side before domain faults say (R180, R314). -/
theorem tileOwn_eq_none {h n align : Nat} {k : AccKind} {os : List Nat} {s : State} :
    tileOwn h n align k os s = none ↔ os = [] ∨ (tFerr (s.myTile h) ≠ 1 ∧ tileHolds (s.myTile h) = true ∧
      (∀ o ∈ os, o % align = 0) ∧ ∀ o ∈ os, o + n ≤ tLen (s.myTile h)) := by
  have halign : firstBad (fun o => decide (o % align ≠ 0)) os = none ↔ ∀ o ∈ os, o % align = 0 := by
    simp [firstBad]
  have hlen : firstBad (fun o => decide (tLen (s.myTile h) < o + n)) os = none ↔ ∀ o ∈ os, o + n ≤ tLen (s.myTile h) := by
    simp [firstBad]
  rw [← halign, ← hlen, tileOwn]
  generalize (firstBad (fun o => decide (o % align ≠ 0)) os) = misaligned
  generalize (firstBad (fun o => decide (tLen (s.myTile h) < o + n)) os) = beyond
  split_ifs with hos hferr hholds
  · simp [hos]
  · simp [hos, hferr]
  · rw [Bool.not_eq_true'] at hholds
    simp [hos, hholds]
  · rw [Bool.not_eq_true', Bool.not_eq_false] at hholds
    cases misaligned with
    | some o => simp [hos]
    | none => cases beyond <;> simp [hos, hferr, hholds]

theorem tileOwn_unaligned {h n align : Nat} {k : AccKind} {os : List Nat} {s : State} (hown : tileOwn h n align k os s = none) :
    tileOwn h n 1 k os s = none := by
  rw [tileOwn_eq_none] at hown ⊢
  exact hown.imp_right fun ⟨hferr, hholds, _, hlen⟩ => ⟨hferr, hholds, fun o _ => Nat.mod_one o, hlen⟩

theorem aligned_of_tileOwn {h n align o : Nat} {k : AccKind} {s : State} (hown : tileOwn h n align k [o] s = none) :
    o % align = 0 := by
  obtain hnil | ⟨-, -, haligned, -⟩ := tileOwn_eq_none.mp hown
  · exact absurd hnil (List.cons_ne_nil _ _)
  · exact haligned o List.mem_cons_self

theorem tileOpen_cases {h n align : Nat} {k : AccKind} {plain releases : Bool} {scope : Nat} {os : List Nat} {s : State}
    (hopen : tileOpen h n align k plain releases scope os s = true) :
    tileOwn h n align k os s = none ∧ tileReady h n k os s = none ∧ releaseHeld releases scope s = false ∧
      raceFault h n k.writes plain os s = none := by
  simpa [tileOpen, and_assoc] using hopen

/-- A transfer that no check stops goes on after its race record (R222, R264). -/
theorem tileSide_of_open {h n : Nat} {k : AccKind} {o : Nat} {s : State} (body : State → Issue)
    (hopen : sideOpen h n k o s = true) : tileSide h n k o s body = body (sideState h n k o s) := by
  obtain ⟨hown, hready, -, hrace⟩ := tileOpen_cases hopen
  rw [tileSide, afterCheck_of_none hown, afterCheck_of_none hready, afterCheck_of_none hrace, sideState]

/-- `t` is `s` but for the race records of the core that acts. -/
structure State.RaceNoted (s t : State) : Prop where
  side : s.CoreSide t
  core : ∃ r, t.core s.curCore = { s.core s.curCore with race := r }

namespace State.RaceNoted

theorem modCur {s t : State} (h : s.RaceNoted t) (f : Core → Table RaceRec) :
    s.RaceNoted (t.modCur (fun c => { c with race := f c })) where
  side := h.side.trans (.modCore t _ _)
  core := by
    obtain ⟨r, hr⟩ := h.core
    refine ⟨f (t.core s.curCore), ?_⟩
    rw [State.modCur, h.side.curCore, State.core_modCore_same, hr]

theorem of_raceRecord (h n : Nat) (write plain : Bool) (os : List Nat) (s : State) :
    s.RaceNoted (raceRecord h n write plain os s) := by
  have hrefl : s.RaceNoted s := ⟨.refl s, _, rfl⟩
  unfold raceRecord
  extract_lets v ph tw
  split
  · exact hrefl
  · exact List.foldlRecOn (motive := s.RaceNoted) _ _ hrefl (fun t ht k _ => ht.modCur _)

theorem actingCore {s t : State} (h : s.RaceNoted t) :
    ∃ r, t.core t.curCore = { s.core s.curCore with race := r } := by
  rw [h.side.curCore]
  exact h.core

theorem cntBusy {s t : State} (h : s.RaceNoted t) : (t.core t.curCore).cntBusy = (s.core s.curCore).cntBusy := by
  obtain ⟨r, hr⟩ := h.actingCore
  rw [hr]
  rfl

theorem cntWide {s t : State} (h : s.RaceNoted t) : (t.core t.curCore).cntWide = (s.core s.curCore).cntWide := by
  obtain ⟨r, hr⟩ := h.actingCore
  rw [hr]
  rfl

theorem spad {s t : State} (h : s.RaceNoted t) : (t.core t.curCore).spad = (s.core s.curCore).spad := by
  obtain ⟨r, hr⟩ := h.actingCore
  rw [hr]

theorem wave {s t : State} (h : s.RaceNoted t) : t.wave = s.wave := by
  obtain ⟨r, hr⟩ := h.core
  rw [State.wave, State.slot, State.slotAt, h.side.curCore, h.side.curSlot, hr]
  rfl

theorem myTile {s t : State} (h : s.RaceNoted t) (n : Nat) : t.myTile n = s.myTile n := by
  obtain ⟨r, hr⟩ := h.core
  have hclusters : t.clusters = s.clusters := (congrArg State.clusters h.side).trans rfl
  unfold State.myTile State.myEntry State.handleEntry State.team State.cluster
  rw [h.wave, h.side.curCore, hr, hclusters]
  rfl

end State.RaceNoted

/-! ### The words -/

/-- The scales of a drain pass the checks of its scratchpad side, where it has scales (R370). -/
theorem drainScales_open {h o : Nat} {sc : Bool} {s : State}
    (hopen : sc = true → tileOpen h 96 2 .load false false 0 [o] s = true) :
    tileOwn h 96 1 .load (if sc then [o] else []) s = none ∧ (sc && decide (o % 2 ≠ 0)) = false ∧
      tileReady h 96 .load (if sc then [o] else []) s = none := by
  cases sc with
  | false => exact ⟨rfl, rfl, rfl⟩
  | true =>
    obtain ⟨hown, hready, -, -⟩ := tileOpen_cases (hopen rfl)
    exact ⟨tileOwn_unaligned hown, by simp [aligned_of_tileOwn hown], hready⟩

/-- A transfer of an image goes on after its race record where the array is idle and its side is open (R371, R372). -/
theorem imageSide_of_open {h n : Nat} {k : AccKind} {o : Nat} {s : State} (body : State → Issue)
    (hside : sideOpen h n k o s = true) (hidle : (s.core s.curCore).cntBusy = false) :
    tileSide h n k o s (fun t => cntStart t (fun _ => body t)) = body (sideState h n k o s) := by
  have hnoted : s.RaceNoted (sideState h n k o s) := .of_raceRecord h n k.writes true [o] s
  exact (tileSide_of_open _ hside).trans (cntStart_of_idle _ (hnoted.cntBusy.trans hidle))

/-- Settles O23: no check stops a word that is open, so that each is its body; the race record that comes before the body of a
transfer leaves its tile, the scratchpad and the counting array as they were. -/
theorem countingDrainAndImages : Obligations.CountingDrainAndImages := by
  refine ⟨fun w s => ?_, fun w s => ?_, fun w s => ?_⟩
  · extract_lets c o sc scale inQuarter vals
    intro hready hopen hacc hview hscales
    obtain ⟨hmask, hcheck, hidle⟩ := countOpen_cases hopen
    have hheld := Option.isNone_iff_eq_none.mp hacc
    obtain ⟨hown, haligned, htile⟩ := drainScales_open hscales
    have hquarter (m n : Nat) :
        (m / 16 = b2n (w.func.getLsbD 2) ∧ n / 32 = b2n (w.func.getLsbD 3)) = (inQuarter m n = true) := by
      simp [inQuarter]
    refine completes_of_done ((exec_cntDrn w s).trans ((matrixWord_of_ready _ hready hmask).trans (congrArg Issue.finish ?_)))
    refine (afterCheck_of_none (cntDomain_of_cntCheck hcheck) _).trans ?_
    refine (afterCheck_of_none (accDomain_of_accCheck hheld) _).trans ?_
    refine (afterCheck_of_none hcheck _).trans ((afterCheck_of_none hheld _).trans ?_)
    refine (if_neg (ne_true_of_eq_false (view_fits hview))).trans ?_
    refine (afterCheck_of_none hown _).trans ((if_neg (ne_true_of_eq_false haligned)).trans ?_)
    refine (afterCheck_of_none htile _).trans ((cntStart_of_idle _ hidle).trans ?_)
    simp only [hquarter]
    rfl
  · extract_lets c h o size
    intro hready hopen hview hside
    obtain ⟨-, -, hidle⟩ := countOpen_cases hopen
    have hnoted : s.RaceNoted (sideState h size .store o s) := .of_raceRecord h size true true [o] s
    refine completes_of_done ((exec_cntSpl w s).trans ?_)
    unfold execCntSpl
    refine (cntWord_of_open _ hready hopen ?_).trans (congrArg Issue.finish ?_)
    · exact congrArg not (view_fits hview)
    · refine (imageSide_of_open _ hside hidle).trans ?_
      extract_lets t
      have hlat : t.lat = s.lat := (State.CoreSide.storeSpad _ _ _ _ _ _).lat.trans hnoted.side.lat
      rw [hlat]
      rfl
  · extract_lets c h o size u
    intro hready hopen hview hside
    obtain ⟨-, -, hidle⟩ := countOpen_cases hopen
    have hnoted : s.RaceNoted u := .of_raceRecord h size false true [o] s
    refine completes_of_done ((exec_cntFil w s).trans ?_)
    unfold execCntFil
    refine (cntWord_of_open _ hready hopen ?_).trans (congrArg Issue.finish ?_)
    · exact congrArg not (view_fits hview)
    · refine (imageSide_of_open _ hside hidle).trans ?_
      dsimp only
      rw [hnoted.side.lat, hnoted.myTile, hnoted.cntWide, hnoted.spad]
      rfl

end Sys2Proof.Machine

namespace Sys2Proof.Machine

/-! ## Fields of words, bit by bit -/

theorem testBit_bits (n hi lo i : Nat) : (bits n hi lo).testBit i = (decide (i < hi + 1 - lo) && n.testBit (lo + i)) := by
  rw [bits, Nat.testBit_mod_two_pow, Nat.testBit_shiftRight]

/-- A number is its bits above a field, the field, and its bits below it. -/
theorem eq_parts_bits (n : Nat) {hi lo : Nat} (h : lo ≤ hi + 1) :
    n = 2 ^ (hi + 1) * (n / 2 ^ (hi + 1)) + (bits n hi lo * 2 ^ lo + n % 2 ^ lo) := by
  have hpow : 2 ^ (hi + 1) = 2 ^ lo * 2 ^ (hi + 1 - lo) := by rw [← pow_add, Nat.add_sub_cancel' h]
  have hlow := Nat.div_add_mod n (2 ^ lo)
  have hhigh := Nat.div_add_mod (n / 2 ^ lo) (2 ^ (hi + 1 - lo))
  rw [bits, Nat.shiftRight_eq_div_pow, hpow, ← Nat.div_div_eq_div_mul]
  generalize n / 2 ^ lo = q at *
  calc n = 2 ^ lo * q + n % 2 ^ lo := hlow.symm
    _ = 2 ^ lo * (2 ^ (hi + 1 - lo) * (q / 2 ^ (hi + 1 - lo)) + q % 2 ^ (hi + 1 - lo)) + n % 2 ^ lo := by rw [hhigh]
    _ = _ := by ring

theorem setBits_eq_parts (n v : Nat) {hi lo : Nat} (h : lo ≤ hi + 1) :
    setBits n hi lo v = 2 ^ (hi + 1) * (n / 2 ^ (hi + 1)) + (2 ^ lo * (v % 2 ^ (hi + 1 - lo)) + n % 2 ^ lo) := by
  have hparts := eq_parts_bits n h
  rw [setBits, Nat.mul_comm (2 ^ lo) (v % _)]
  omega

/-- A replaced field holds the new bits, and every other bit stays. -/
theorem testBit_setBits (n v i : Nat) {hi lo : Nat} (h : lo ≤ hi + 1) :
    (setBits n hi lo v).testBit i = if lo ≤ i ∧ i ≤ hi then v.testBit (i - lo) else n.testBit i := by
  have hlow : n % 2 ^ lo < 2 ^ lo := Nat.mod_lt _ (Nat.two_pow_pos lo)
  have hmid : 2 ^ lo * (v % 2 ^ (hi + 1 - lo)) + n % 2 ^ lo < 2 ^ (hi + 1) := by
    have hv : v % 2 ^ (hi + 1 - lo) + 1 ≤ 2 ^ (hi + 1 - lo) := Nat.mod_lt _ (Nat.two_pow_pos _)
    have hpow : 2 ^ (hi + 1) = 2 ^ lo * 2 ^ (hi + 1 - lo) := by rw [← pow_add, Nat.add_sub_cancel' h]
    have := Nat.mul_le_mul_left (2 ^ lo) hv
    rw [hpow]
    lia
  rw [setBits_eq_parts n v h, Nat.testBit_two_pow_mul_add _ hmid, Nat.testBit_two_pow_mul_add _ hlow,
    Nat.testBit_mod_two_pow, Nat.testBit_mod_two_pow, ← Nat.shiftRight_eq_div_pow, Nat.testBit_shiftRight]
  by_cases habove : i < hi + 1
  · by_cases hbelow : i < lo
    · have hout : ¬ (lo ≤ i ∧ i ≤ hi) := by omega
      simp [habove, hbelow, hout]
    · have hin : lo ≤ i ∧ i ≤ hi := by omega
      have hwidth : i - lo < hi + 1 - lo := by omega
      simp [habove, hbelow, hin, hwidth]
  · have hout : ¬ (lo ≤ i ∧ i ≤ hi) := by omega
    rw [if_neg habove, if_neg hout, Nat.add_sub_cancel' (Nat.not_lt.mp habove)]

theorem testBit_fld (w : Word) (hi lo i : Nat) : (fld w hi lo).testBit i = (decide (i < hi + 1 - lo) && w.getLsbD (lo + i)) :=
  testBit_bits _ _ _ _

theorem getLsbD_setFld (w : Word) (v i : Nat) {hi lo : Nat} (h : lo ≤ hi + 1) : (setFld w hi lo v).getLsbD i =
    (decide (i < 64) && if lo ≤ i ∧ i ≤ hi then v.testBit (i - lo) else w.getLsbD i) := by
  rw [setFld, BitVec.getLsbD_ofNat, testBit_setBits _ _ _ h]
  rfl

/-- A field that was replaced holds the low bits of what it was given. -/
theorem fld_setFld (w : Word) (v : Nat) {hi lo : Nat} (h : lo ≤ hi + 1) (hhi : hi < 64) :
    fld (setFld w hi lo v) hi lo = v % 2 ^ (hi + 1 - lo) := by
  refine Nat.eq_of_testBit_eq fun i => ?_
  rw [testBit_fld, getLsbD_setFld _ _ _ h, Nat.testBit_mod_two_pow]
  by_cases hi' : i < hi + 1 - lo
  · have h64 : lo + i < 64 := by omega
    have hin : lo ≤ lo + i ∧ lo + i ≤ hi := by omega
    simp [hi', h64, hin]
  · simp [hi']

/-- A bit of a word as a one-bit field. -/
theorem bits_single (n i : Nat) : bits n i i = b2n (n.testBit i) := by
  refine Nat.eq_of_testBit_eq fun j => ?_
  rw [testBit_bits]
  cases j with
  | zero => cases n.testBit i <;> simp [b2n]
  | succ j => cases n.testBit i <;> simp [b2n, Nat.testBit_succ]

end Sys2Proof.Machine

namespace Sys2Proof.Machine
open Sys2Proof.Claims

/-! ## O30: `mret` and `sret` -/

theorem exec_mret (s : State) : exec .mret s = execMret s := by rfl

theorem exec_sret (s : State) : exec .sret s = execSret s := by rfl

/-- A base word that may issue and is legal for its wave is its effect. -/
theorem baseWord_of_legal (enc : BitVec 32) {locs : List Loc} {legal : Wave → Bool} (body : State → Issue) {s : State}
    (h : baseOpen locs s = true) (hlegal : legal s.wave = true) : baseWord enc locs legal body s = (body s).finish := by
  obtain ⟨hissue, hopen⟩ : s.canIssue = true ∧ s.windowsAllow (liveLocs locs) = true := by simpa [baseOpen] using h
  simp [baseWord, hissue, hlegal, lookahead_none_of_windowsAllow s _ hopen]

/-- A base word that is illegal for its wave raises illegal instruction (R60). -/
theorem baseWord_of_illegal (enc : BitVec 32) {locs : List Loc} {legal : Wave → Bool} (body : State → Issue) {s : State}
    (h : baseOpen locs s = true) (hlegal : legal s.wave = false) :
    baseWord enc locs legal body s = (Issue.trap 2 (enc.setWidth 64) s).finish := by
  obtain ⟨hissue, -⟩ : s.canIssue = true ∧ s.windowsAllow (liveLocs locs) = true := by simpa [baseOpen] using h
  simp [baseWord, hissue, hlegal, illegal]

/-- The wave after a word of `len` bytes that falls through and then changes its wave. -/
theorem wave_issued_modWave (s : State) (len : Nat) (f : Wave → Wave) (v : Verdict) :
    ({ (s.issued len).modWave f with verdict := v } : State).wave = f (s.issued len).wave :=
  State.wave_modWave _ f

/-! ### What the returns leave of `mstatus` -/

/-- `mstatus` after `mret` (R157). -/
def mretStatus (w : Word) : Nat :=
  let st := setBits (setBits (setBits w.toNat 3 3 (bits w.toNat 7 7)) 7 7 1) 12 11 0
  if Mode.ofCode (fld w 12 11) = .m then st else setBits st 17 17 0

/-- `mstatus` after `sret` (R157). -/
def sretStatus (w : Word) : Nat :=
  setBits (setBits (setBits (setBits w.toNat 1 1 (bits w.toNat 5 5)) 5 5 1) 8 8 0) 17 17 0

theorem mstatus_mretEffect (w : Wave) : w.mretEffect.csrs.mstatus = BitVec.ofNat 64 (mretStatus w.csrs.mstatus) := rfl

theorem mstatus_sretEffect (w : Wave) : w.sretEffect.csrs.mstatus = BitVec.ofNat 64 (sretStatus w.csrs.mstatus) := rfl

theorem testBit_setBit (n v j i : Nat) : (setBits n j j v).testBit i = if i = j then v.testBit 0 else n.testBit i := by
  rw [testBit_setBits _ _ _ (Nat.le_succ j)]
  by_cases h : i = j
  · simp [h]
  · have hout : ¬ (j ≤ i ∧ i ≤ j) := by omega
    rw [if_neg hout, if_neg h]

theorem testBit_clearMpp (n i : Nat) : (setBits n 12 11 0).testBit i = if i = 11 ∨ i = 12 then false else n.testBit i := by
  rw [testBit_setBits _ _ _ (by decide), Nat.zero_testBit]
  exact if_congr (by omega) rfl rfl

theorem testBit_bit (w : Word) (i : Nat) : (bits w.toNat i i).testBit 0 = w.getLsbD i := by
  rw [testBit_bits, Nat.add_sub_cancel_left]
  rfl

/-- The bits of `mstatus` after `mret`. -/
theorem testBit_mretStatus (w : Word) (i : Nat) : (mretStatus w).testBit i =
    if i = 17 then w.getLsbD 17 && decide (Mode.ofCode (fld w 12 11) = .m) else
    if i = 11 ∨ i = 12 then false else if i = 7 then true else if i = 3 then w.getLsbD 7 else w.getLsbD i := by
  have hst (j : Nat) : (setBits (setBits (setBits w.toNat 3 3 (bits w.toNat 7 7)) 7 7 1) 12 11 0).testBit j =
      if j = 11 ∨ j = 12 then false else if j = 7 then true else if j = 3 then w.getLsbD 7 else w.getLsbD j := by
    rw [testBit_clearMpp, testBit_setBit, testBit_setBit, testBit_bit]
    rfl
  unfold mretStatus
  extract_lets st
  by_cases hm : Mode.ofCode (fld w 12 11) = .m
  · rw [if_pos hm, hst]
    by_cases hi : i = 17
    · simp [hi, hm]
    · rw [if_neg hi]
  · rw [if_neg hm, testBit_setBit, hst]
    simp [hm]

/-- The bits of `mstatus` after `sret`. -/
theorem testBit_sretStatus (w : Word) (i : Nat) : (sretStatus w).testBit i =
    if i = 17 then false else if i = 8 then false else if i = 5 then true else if i = 1 then w.getLsbD 5 else w.getLsbD i := by
  rw [sretStatus, testBit_setBit, testBit_setBit, testBit_setBit, testBit_setBit, testBit_bit]
  rfl

theorem getLsbD_mretEffect (w : Wave) {i : Nat} (hi : i < 64) :
    w.mretEffect.csrs.mstatus.getLsbD i = (mretStatus w.csrs.mstatus).testBit i := by
  rw [mstatus_mretEffect, BitVec.getLsbD_ofNat, decide_eq_true hi, Bool.true_and]

theorem getLsbD_sretEffect (w : Wave) {i : Nat} (hi : i < 64) :
    w.sretEffect.csrs.mstatus.getLsbD i = (sretStatus w.csrs.mstatus).testBit i := by
  rw [mstatus_sretEffect, BitVec.getLsbD_ofNat, decide_eq_true hi, Bool.true_and]

theorem Mode.ofCode_eq_match (n : Nat) : Mode.ofCode n = (match n with
    | 0 => .u
    | 1 => .s
    | _ => .m) := by
  match n with
  | 0 | 1 | n + 2 => rfl

theorem pending_closed (w : Wave) : ∀ o ∈ w.closeWindows.pending, o.la = 0 := by
  intro o ho
  obtain ⟨q, -, rfl⟩ := List.mem_map.mp ho
  rfl

/-- The wave that `mret` leaves, of a wave `w` (R157). -/
theorem fields_mretEffect (w : Wave) :
    w.mretEffect.mode = (match fld w.csrs.mstatus 12 11 with
      | 0 => .u
      | 1 => .s
      | _ => .m) ∧
    w.mretEffect.csrs.mstatus.getLsbD 3 = w.csrs.mstatus.getLsbD 7 ∧ w.mretEffect.csrs.mstatus.getLsbD 7 = true ∧
    fld w.mretEffect.csrs.mstatus 12 11 = 0 ∧
    w.mretEffect.csrs.mstatus.getLsbD 17 = (w.csrs.mstatus.getLsbD 17 && decide (w.mretEffect.mode = .m)) ∧
    ∀ i, i ≠ 3 → i ≠ 7 → i ≠ 11 → i ≠ 12 → i ≠ 17 → w.mretEffect.csrs.mstatus.getLsbD i = w.csrs.mstatus.getLsbD i := by
  have hmode : w.mretEffect.mode = Mode.ofCode (fld w.csrs.mstatus 12 11) := rfl
  have hbit {i : Nat} (hi : i < 64) := (getLsbD_mretEffect w hi).trans (testBit_mretStatus _ i)
  refine ⟨hmode.trans (Mode.ofCode_eq_match _), hbit (i := 3) (by decide), hbit (i := 7) (by decide), ?_,
    hbit (i := 17) (by decide), fun i h3 h7 h11 h12 h17 => ?_⟩
  · refine Nat.eq_of_testBit_eq fun i => ?_
    rw [testBit_fld, Nat.zero_testBit, Bool.and_eq_false_imp, decide_eq_true_eq]
    intro hi
    rw [hbit (by omega), if_neg (by omega), if_pos (by omega)]
  · by_cases hi : i < 64
    · simp [hbit hi, h3, h7, h11, h12, h17]
    · rw [BitVec.getLsbD_of_ge _ _ (by omega), BitVec.getLsbD_of_ge _ _ (by omega)]

/-- The status that `sret` leaves, of a wave `w` (R157). -/
theorem fields_sretEffect (w : Wave) :
    w.sretEffect.csrs.mstatus.getLsbD 1 = w.csrs.mstatus.getLsbD 5 ∧ w.sretEffect.csrs.mstatus.getLsbD 5 = true ∧
    w.sretEffect.csrs.mstatus.getLsbD 8 = false ∧ w.sretEffect.csrs.mstatus.getLsbD 17 = false ∧
    ∀ i, i ≠ 1 → i ≠ 5 → i ≠ 8 → i ≠ 17 → w.sretEffect.csrs.mstatus.getLsbD i = w.csrs.mstatus.getLsbD i := by
  have hbit {i : Nat} (hi : i < 64) := (getLsbD_sretEffect w hi).trans (testBit_sretStatus _ i)
  refine ⟨hbit (i := 1) (by decide), hbit (i := 5) (by decide), hbit (i := 8) (by decide), hbit (i := 17) (by decide),
    fun i h1 h5 h8 h17 => ?_⟩
  by_cases hi : i < 64
  · simp [hbit hi, h1, h5, h8, h17]
  · rw [BitVec.getLsbD_of_ge _ _ (by omega), BitVec.getLsbD_of_ge _ _ (by omega)]

/-- Settles O30: a return that is legal is its effect on the wave that has issued it, and any other is illegal. -/
theorem returns : Obligations.Returns := by
  refine ⟨fun s h => ⟨fun hm => ?_, fun hm => ?_⟩, fun s h => ⟨fun hlegal => ?_, fun hillegal => ?_⟩⟩
  · have hword : exec .mret s = (Issue.done ((s.issued 4).modWave Wave.mretEffect)).finish :=
      (exec_mret s).trans (baseWord_of_legal _ _ h (decide_eq_true hm))
    have hwave : (s.issued 4).wave = _ := State.wave_issuedTo s _
    obtain ⟨hmode, h3, h7, hmpp, h17, hrest⟩ := fields_mretEffect (s.issued 4).wave
    refine ⟨_, hword, ?_⟩
    rw [wave_issued_modWave]
    have hclosed : ∀ o ∈ (s.issued 4).wave.mretEffect.pending, o.la = 0 := pending_closed (s.issued 4).wave
    rw [hwave] at hmode h3 h7 hmpp h17 hrest hclosed ⊢
    exact ⟨rfl, hmode, rfl, h3, h7, hmpp, h17, hrest, hclosed, rfl, rfl⟩
  · exact (exec_mret s).trans (baseWord_of_illegal _ _ h (decide_eq_false hm))
  · have hopen : (s.wave.mode = .m || (s.wave.mode = .s && !s.wave.csrs.mstatus.getLsbD 22)) = true := by simpa using hlegal
    have hword : exec .sret s = (Issue.done ((s.issued 4).modWave Wave.sretEffect)).finish :=
      (exec_sret s).trans (baseWord_of_legal _ _ h hopen)
    have hwave : (s.issued 4).wave = _ := State.wave_issuedTo s _
    obtain ⟨h1, h5, h8, h17, hrest⟩ := fields_sretEffect (s.issued 4).wave
    refine ⟨_, hword, ?_⟩
    rw [wave_issued_modWave]
    have hclosed : ∀ o ∈ (s.issued 4).wave.sretEffect.pending, o.la = 0 := pending_closed (s.issued 4).wave
    rw [hwave] at h1 h5 h8 h17 hrest hclosed ⊢
    exact ⟨rfl, rfl, rfl, h1, h5, h8, h17, hrest, hclosed, rfl, rfl⟩
  · have hclosed : (s.wave.mode = .m || (s.wave.mode = .s && !s.wave.csrs.mstatus.getLsbD 22)) = false := by
      rcases hillegal with hu | ⟨hs, htsr⟩
      · simp [hu]
      · simp [hs, htsr]
    exact (exec_sret s).trans (baseWord_of_illegal _ _ h hclosed)

end Sys2Proof.Machine

namespace Sys2Proof.Machine
open Sys2Proof.Claims

/-! ## O34: the mask stack -/

/-! ### The stack of a wave (R94, R139) -/

theorem Wave.depth_lt (w : Wave) : w.depth < 64 := Nat.mod_lt _ (by decide)

/-- A depth that the pointer can hold is read back. -/
theorem fld_depth {d : Nat} (h : d < 64) : fld (BitVec.ofNat 64 d) 5 0 = d := by
  rw [fld, bits, BitVec.toNat_ofNat, Nat.shiftRight_zero]
  omega

/-- The stack after a push (R139). -/
def Wave.pushed (w : Wave) (m : Mask) (word : Word) : Vector MaskEntry 32 :=
  w.stack.setIfInBounds w.depth { mask := m &&& w.wm, word := word }

theorem Wave.pushed_below (w : Wave) (m : Mask) (word : Word) {i : Nat} (h : i < w.depth) :
    (w.pushed m word).toList.getD i {} = w.entry i := by
  rw [Wave.pushed, Wave.entry]
  simp [List.getD_eq_getElem?_getD, h.ne']

theorem Wave.pushed_at (w : Wave) (m : Mask) (word : Word) (h : w.depth < 32) :
    (w.pushed m word).toList.getD w.depth {} = { mask := m &&& w.wm, word := word } := by
  rw [Wave.pushed]
  simp [List.getD_eq_getElem?_getD, h]

/-- The MASK entry of a push, under whatever active mask. -/
theorem Wave.entry_push (w : Wave) (m a : Mask) (h : w.depth < 32) :
    ((w.push kMask m 0).setAmask a).entry w.depth = { mask := m &&& w.wm, word := 0 } := w.pushed_at m 0 h

/-! ### What a custom-3 word leaves -/

theorem wave_goTo_done (s : State) (pc : Word) (f : Wave → Wave) :
    ({ goTo pc f s with verdict := .issued } : State).wave = f (s.issuedTo pc).wave := wave_goTo s pc f

/-- What a word leaves that goes on at `pc` and changes of its wave the active mask, the stack and its depth. -/
theorem maskAfter_goTo (s : State) (pc : Word) {f : Wave → Wave} {a : Mask} {stack : Vector MaskEntry 32} {mstkp : Word}
    {depth kept : Nat}
    (hf : f (s.issuedTo pc).wave = { (s.issuedTo pc).wave with
      amask := a, stack := stack, csrs := { (s.issuedTo pc).wave.csrs with mstkp := mstkp } })
    (hdepth : fld mstkp 5 0 = depth) (hkept : ∀ i, i < kept → stack.toList.getD i {} = s.wave.entry i) :
    maskAfter s { goTo pc f s with verdict := .issued } pc depth a kept := by
  unfold maskAfter
  rw [wave_goTo_done, hf, State.wave_issuedTo]
  exact ⟨rfl, hdepth, rfl, hkept, rfl, rfl, rfl, rfl, rfl, rfl⟩

theorem maskAfter_congr {s t : State} {pc pc' : Word} {depth kept : Nat} {a a' : Mask} (h : maskAfter s t pc depth a kept)
    (hpc : pc = pc') (ha : a = a') : maskAfter s t pc' depth a' kept := hpc ▸ ha ▸ h

/-- What a word leaves that pushes a MASK entry and goes on with the active mask `a`. -/
theorem maskAfter_push (s : State) (pc : Word) (a : Mask) (h : s.wave.depth < 32) :
    maskAfter s { goTo pc (fun w => (w.push kMask w.amask 0).setAmask a) s with verdict := .issued } pc (s.wave.depth + 1)
      (a &&& s.wave.wm) s.wave.depth := by
  refine maskAfter_goTo s pc (stack := s.wave.pushed s.wave.amask 0) (mstkp := BitVec.ofNat 64 (s.wave.depth + 1)) ?_
    (fld_depth (by omega)) (fun i hi => s.wave.pushed_below _ _ hi)
  rw [State.wave_issuedTo]
  rfl

theorem fld_zero_kind : fld 0 63 62 = 0 := by decide

/-- The MASK entry that such a word pushes. -/
theorem entryIs_push (s : State) (pc : Word) (a : Mask) (h : s.wave.depth < 32) :
    entryIs { goTo pc (fun w => (w.push kMask w.amask 0).setAmask a) s with verdict := .issued } s.wave.depth 0
      (s.wave.amask &&& s.wave.wm) 0 := by
  have hwave := State.wave_issuedTo s pc
  have hdepth : (s.issuedTo pc).wave.depth = s.wave.depth := by
    rw [hwave]
    rfl
  unfold entryIs
  rw [wave_goTo_done, ← hdepth, Wave.entry_push _ _ a (hdepth ▸ h), hwave]
  exact ⟨fld_zero_kind, rfl, rfl⟩

/-- What a word leaves that sets the active mask. -/
theorem maskAfter_setAmask (s : State) (pc : Word) (a : Mask) :
    maskAfter s { goTo pc (fun w => w.setAmask a) s with verdict := .issued } pc s.wave.depth (a &&& s.wave.wm) 32 := by
  refine maskAfter_goTo s pc (stack := s.wave.stack) (mstkp := s.wave.csrs.mstkp) ?_ rfl (fun i _ => rfl)
  rw [State.wave_issuedTo]
  rfl

/-- What a word leaves that pops the top entry and takes its mask. -/
theorem maskAfter_popMask (s : State) (pc : Word) :
    maskAfter s { goTo pc (fun w => w.pop.setAmask w.top.mask) s with verdict := .issued } pc (s.wave.depth - 1)
      (s.wave.top.mask &&& s.wave.wm) 32 := by
  have hlt := s.wave.depth_lt
  refine maskAfter_goTo s pc (stack := s.wave.stack) (mstkp := BitVec.ofNat 64 (s.wave.depth - 1)) ?_ (fld_depth (by omega))
    (fun i _ => rfl)
  rw [State.wave_issuedTo]
  rfl

/-- What a word leaves that pops the top entry and nothing else. -/
theorem maskAfter_pop (s : State) (pc : Word) :
    maskAfter s { goTo pc Wave.pop s with verdict := .issued } pc (s.wave.depth - 1) s.wave.amask 32 := by
  have hlt := s.wave.depth_lt
  refine maskAfter_goTo s pc (stack := s.wave.stack) (mstkp := BitVec.ofNat 64 (s.wave.depth - 1)) ?_ (fld_depth (by omega))
    (fun i _ => rfl)
  rw [State.wave_issuedTo]
  rfl

/-! ### The stack faults (R139, R140) -/

theorem Wave.need_one (w : Wave) : w.need 1 = if 32 ≤ w.depth then some (24, 1) else none :=
  if_congr (by omega) rfl rfl

theorem Wave.expect_of_empty {w : Wave} (k : Nat) (h : w.depth = 0) : w.expect k = some (25, 0) := if_pos h

theorem Wave.expect_of_kind {w : Wave} {k : Nat} (h : w.depth ≠ 0) (hk : w.top.kind = k) : w.expect k = none := by
  rw [Wave.expect, if_neg h, if_neg (not_not.mpr hk)]

theorem Wave.expect_of_other {w : Wave} {k : Nat} (h : w.depth ≠ 0) (hk : w.top.kind ≠ k) :
    w.expect k = some (26, w.depth - 1) := by
  rw [Wave.expect, if_neg h, if_pos hk]

/-- A custom-3 word that names no lane register and may issue: its stack fault (R140). -/
theorem controlWord_fault {i : Instr} {locs : List Loc} {fault : Wave → Core → StackFault} {effect : State → State} {s : State}
    (hl : i.scalarLegal = true) (h : s.wordReady 0 locs = true) {cause tval : Nat}
    (hf : fault s.wave (s.core s.curCore) = some (cause, tval)) :
    controlWord i locs [] fault (fun _ => 0) effect s = (Issue.trap cause (BitVec.ofNat 64 tval) s).finish := by
  rw [controlWord_of_ready i locs [] fault _ effect s hl h rfl rfl, hf]

/-- A custom-3 word that names no lane register and may issue: its effect, where the stack has what it needs. -/
theorem controlWord_effect {i : Instr} {locs : List Loc} {fault : Wave → Core → StackFault} {effect : State → State}
    {s : State} (hl : i.scalarLegal = true) (h : s.wordReady 0 locs = true) (hf : fault s.wave (s.core s.curCore) = none) :
    controlWord i locs [] fault (fun _ => 0) effect s = .next { effect s with verdict := .issued } := by
  rw [controlWord_of_ready i locs [] fault _ effect s hl h rfl rfl, hf]
  rfl

/-! ### The words -/

theorem exec_maskIf (off : BitVec 13) (neg : Bool) (q : BitVec 4) (s : State) :
    exec (.maskIf off neg q) s = execMaskIf off neg q s := by rfl

theorem exec_maskElse (off : BitVec 13) (s : State) : exec (.maskElse off) s = execMaskElse off s := by rfl

theorem exec_maskEndif (s : State) : exec .maskEndif s = execMaskEndif s := by rfl

theorem exec_mpush (n : BitVec 5) (s : State) : exec (.mpush n) s = execMpush n s := by rfl

theorem exec_mpop (s : State) : exec .mpop s = execMpop s := by rfl

theorem exec_mpopD (s : State) : exec .mpopD s = execMpopD s := by rfl

/-- Where a word goes on that skips to its target when no lane is left. -/
theorem skipPc_eq (s : State) (m : Mask) (off : BitVec 13) :
    s.wave.skipPc m off = if m &&& s.wave.wm = 0 then branchTo s off else s.wave.pc + 4 := by
  rw [Wave.skipPc, Wave.target, branchTo, Int.mul_comm]

/-- Settles O34: each word is its stack fault or its effect on the stack and the active mask. -/
theorem maskStackWords : Obligations.MaskStackWords := by
  refine ⟨fun off neg q s h => ⟨fun hroom => ?_, fun hfull => ?_⟩,
    fun off s h => ⟨fun hempty => ?_, fun hdepth hkind => ?_, fun hdepth hkind => ?_⟩,
    fun s h => ⟨fun hempty => ⟨?_, ?_, ?_⟩, fun hdepth hkind => ?_, fun hdepth hkind => ?_, fun hdepth hkind => ?_,
      fun hdepth => ?_⟩,
    fun n s h hn => ⟨fun hroom => ?_, fun hfull => ?_⟩⟩
  · have hneed : s.wave.need 1 = none := by rw [Wave.need_one, if_neg (by omega)]
    refine ⟨_, (exec_maskIf off neg q s).trans (controlWord_effect rfl h hneed), ?_, entryIs_push s _ _ hroom⟩
    exact maskAfter_congr (maskAfter_push s _ _ hroom) (skipPc_eq s _ off) rfl
  · exact (exec_maskIf off neg q s).trans (controlWord_fault rfl h ((Wave.need_one _).trans (if_pos hfull)))
  · exact (exec_maskElse off s).trans (controlWord_fault rfl h (Wave.expect_of_empty _ hempty))
  · exact (exec_maskElse off s).trans (controlWord_fault rfl h (Wave.expect_of_other hdepth hkind))
  · refine ⟨_, (exec_maskElse off s).trans (controlWord_effect rfl h (Wave.expect_of_kind hdepth hkind)), ?_⟩
    have hwm : s.wave.top.mask &&& ~~~s.wave.amask &&& s.wave.wm &&& s.wave.wm =
        s.wave.top.mask &&& ~~~s.wave.amask &&& s.wave.wm := by rw [BitVec.and_assoc _ s.wave.wm, BitVec.and_self]
    refine maskAfter_congr (maskAfter_setAmask s _ _) ((skipPc_eq s _ off).trans ?_) hwm
    rw [hwm]
  · exact (exec_maskEndif s).trans (controlWord_fault rfl h (Wave.expect_of_empty _ hempty))
  · exact (exec_mpop s).trans (controlWord_fault rfl h (if_pos hempty))
  · exact (exec_mpopD s).trans (controlWord_fault rfl h (if_pos hempty))
  · exact ⟨_, (exec_maskEndif s).trans (controlWord_effect rfl h (Wave.expect_of_kind hdepth hkind)), maskAfter_popMask s _⟩
  · exact ⟨_, (exec_mpop s).trans (controlWord_effect rfl h ((if_neg hdepth).trans (if_pos hkind))), maskAfter_popMask s _⟩
  · have hother : ¬ (s.wave.top.kind = kMask ∨ s.wave.top.kind = kPend) := by
      unfold kMask kPend
      omega
    exact (exec_mpop s).trans (controlWord_fault rfl h ((if_neg hdepth).trans (if_neg hother)))
  · exact ⟨_, (exec_mpopD s).trans (controlWord_effect rfl h (if_neg hdepth)), maskAfter_pop s _⟩
  · have hlegal : (Instr.mpush n).scalarLegal = true := decide_eq_true hn
    have hneed : s.wave.need 1 = none := by rw [Wave.need_one, if_neg (by omega)]
    exact ⟨_, (exec_mpush n s).trans (controlWord_effect hlegal h hneed), maskAfter_push s _ _ hroom,
      entryIs_push s _ _ hroom⟩
  · have hlegal : (Instr.mpush n).scalarLegal = true := decide_eq_true hn
    exact (exec_mpush n s).trans (controlWord_fault hlegal h ((Wave.need_one _).trans (if_pos hfull)))

end Sys2Proof.Machine

namespace Sys2Proof.Machine
open Sys2Proof.Claims

/-! ## RISC-V words that may issue -/

theorem exec_riscv (i : Rv) (s : State) : exec (.riscvScalarInstruction i) s = (rvIssue i s).finish := by rfl

/-- The outcome of a RISC-V word from what performing it comes to. -/
def RvOut.issue (i : Rv) (s : State) : RvOut → Issue
  | .trap cause tval => .trap cause tval s
  | .park cause tval => .park cause tval s
  | .hold => .hold s
  | .late f q => lateFault s.wave.pc f (.riscvScalarInstruction i, 1) (q.issued 4)
  | .now q upds target post => .done (((q.issuedTo (target.getD (s.wave.pc + 4))).applyAll upds).modWave post)
  | .later q upds acks locs lat => longDoneWith 4 0 lat (liveLocs locs) upds acks q (rvAcquires i && acks ≠ [])

/-- A RISC-V word that may issue is what performing it comes to (R90). -/
theorem rvIssue_of_open {i : Rv} {s : State} (h : rvOpen i s = true) : rvIssue i s = (rvPerform i s.wave s).issue i s := by
  obtain ⟨⟨⟨hissue, hwell⟩, hlegal⟩, hopen⟩ :
      ((s.canIssue = true ∧ i.wellFormed = true) ∧ rvLegal i s.wave = true) ∧ s.windowsAllow (liveLocs (rvLocs i)) = true := by
    simpa [rvOpen] using h
  simp only [rvIssue, hissue, hwell, hlegal, lookahead_none_of_windowsAllow s _ hopen, Bool.not_true, Bool.and_self,
    Bool.false_eq_true, if_false]
  cases rvPerform i s.wave s <;> rfl

theorem rv_of_trap {i : Rv} {s : State} {cause : Nat} {tval : Word} (h : rvOpen i s = true)
    (hp : rvPerform i s.wave s = .trap cause tval) :
    exec (.riscvScalarInstruction i) s = (Issue.trap cause tval s).finish := by
  rw [exec_riscv, rvIssue_of_open h, hp]
  rfl

/-- A RISC-V word that its wave may not run raises illegal instruction with its encoding (R60, R90). -/
theorem rv_of_illegal {i : Rv} {s : State} (hissue : s.canIssue = true) (hlegal : rvLegal i s.wave = false) :
    exec (.riscvScalarInstruction i) s = (Issue.trap 2 ((encodeRv i).setWidth 64) s).finish := by
  rw [exec_riscv]
  simp [rvIssue, hissue, hlegal, illegal, rvBits]

/-- A RISC-V word whose result comes later completes with it pending. -/
theorem completes_rv_later {i : Rv} {s q : State} {upds : List Upd} {locs : List Loc} {lat : Nat} (h : rvOpen i s = true)
    (hp : rvPerform i s.wave s = .later q upds [] locs lat) :
    Completes (.riscvScalarInstruction i) s (q.afterLong 4 0 lat (liveLocs locs) upds) := by
  have hfence : (rvAcquires i && decide (([] : List AckPut) ≠ [])) = false := by simp
  refine completes_of_done ((exec_riscv i s).trans (congrArg Issue.finish ?_))
  rw [rvIssue_of_open h, hp, RvOut.issue, hfence]
  rfl

/-! ### A wave that is listed -/

/-- What was put into a table at a key last is put there again without effect. -/
theorem Table.put_put {β : Type} (t : Table β) (k : Nat) (v v' : β) : Table.put (Table.put t k v) k v' = Table.put t k v' := by
  induction t with
  | nil => simp [Table.put]
  | cons e t ih =>
    obtain ⟨a, b⟩ := e
    simp only [Table.put]
    split
    · simp [Table.put]
    · split
      · simp [Table.put]
      · simp [Table.put, *]

/-- Slot `i` of core `c` stands where the tables put it, so that putting it there again changes nothing. -/
def State.Listed (s : State) (c i : Nat) : Prop :=
  Table.put s.cores c (s.core c) = s.cores ∧ Table.put (s.core c).slots i ((s.core c).slot i) = (s.core c).slots

theorem State.Listed.modWaveAt_id {s : State} {c i : Nat} (h : s.Listed c i) : s.modWaveAt c i id = s := by
  obtain ⟨hcores, hslots⟩ := h
  have hcore : (s.core c).modSlot i (fun k => { k with wave := id k.wave }) = s.core c := by
    change { s.core c with slots := Table.put (s.core c).slots i ((s.core c).slot i) } = _
    rw [hslots]
  change { s with cores := Table.put s.cores c ((s.core c).modSlot i (fun k => { k with wave := id k.wave })) } = s
  rw [hcore, hcores]

/-- A core that was changed is listed. -/
theorem State.listed_modCore (s : State) (c i : Nat) (f : Core → Core)
    (hslots : Table.put (f (s.core c)).slots i ((f (s.core c)).slot i) = (f (s.core c)).slots) : (s.modCore c f).Listed c i := by
  unfold State.Listed
  rw [State.core_modCore_same]
  exact ⟨Table.put_put _ _ _ _, hslots⟩

theorem State.Listed.modCore {s : State} {c i : Nat} (h : s.Listed c i) (f : Core → Core)
    (hf : (f (s.core c)).slots = (s.core c).slots) : (s.modCore c f).Listed c i := by
  refine s.listed_modCore c i f ?_
  rw [Core.slot, hf]
  exact h.2

theorem State.listed_modSlotAt (s : State) (c i : Nat) (f : Slot → Slot) : (s.modSlotAt c i f).Listed c i := by
  refine s.listed_modCore c i _ ?_
  rw [Core.slot_modSlot_same]
  exact Table.put_put _ _ _ _

theorem State.listed_issuedAt (s : State) (c i : Nat) (pc : Word) : (s.issuedAt c i pc).Listed c i :=
  (s.listed_modSlotAt c i _).modCore _ rfl

theorem State.Listed.applyAt {s : State} {c i : Nat} (h : s.Listed c i) (u : Upd) : (s.applyAt c i u).Listed c i := by
  cases u with
  | v n l v => exact h.modCore _ rfl
  | cvalid n =>
    refine h.modCore _ ?_
    split <;> rfl
  | defer cause tval =>
    simp only [State.applyAt]
    split <;> exact State.listed_modSlotAt _ c i _
  | _ => exact s.listed_modSlotAt c i _

theorem State.Listed.applyAllAt {s : State} {c i : Nat} (h : s.Listed c i) (us : List Upd) : (s.applyAllAt c i us).Listed c i :=
  List.foldlRecOn (motive := fun t : State => t.Listed c i) us _ h (fun _ ht u _ => ht.applyAt u)

/-- The wave of a word that issued is listed. -/
theorem State.modWave_id_afterWord (s : State) (len : Nat) (upds : List Upd) :
    (s.afterWord len upds).modWave id = s.afterWord len upds := by
  have hlisted := (s.listed_issuedAt s.curCore s.curSlot (s.wave.pc + BitVec.ofNat 64 len)).applyAllAt upds
  refine Eq.trans ?_ hlisted.modWaveAt_id
  rw [State.modWave, State.afterWord, State.applyAll, State.applyAllAt_curCore, State.applyAllAt_curSlot]
  rfl

/-- A RISC-V word that changes registers at once completes with its results. -/
theorem completes_rv_now {i : Rv} {s q : State} {upds : List Upd} (h : rvOpen i s = true)
    (hp : rvPerform i s.wave s = .now q upds none id) (hwave : q.wave = s.wave) :
    Completes (.riscvScalarInstruction i) s (q.afterWord 4 upds) := by
  refine completes_of_done ((exec_riscv i s).trans (congrArg Issue.finish ?_))
  rw [rvIssue_of_open h, hp, RvOut.issue, ← q.modWave_id_afterWord, ← hwave]
  rfl

/-- A RISC-V word that leaves its registers alone. -/
theorem completes_rv_none {i : Rv} {s q : State} (h : rvOpen i s = true)
    (hp : rvPerform i s.wave s = .now q [] none id) (hwave : q.wave = s.wave) :
    Completes (.riscvScalarInstruction i) s (q.issued 4) :=
  completes_rv_now h hp hwave

end Sys2Proof.Machine

namespace Sys2Proof.Machine
open Sys2Proof.Claims

/-! ## O25: floating-point words on registers -/

/-! ### Their results -/

/-- A two's complement reading of the low bits of a number. -/
theorem toSigned_eq_toInt (w v : Nat) : toSigned w v = (BitVec.ofNat w v).toInt := by
  rw [BitVec.toInt_eq_toNat_cond, BitVec.toNat_ofNat, toSigned]
  cases w with
  | zero => simp [Nat.mod_one]
  | succ w =>
    have hpow : 2 ^ (w + 1) = 2 * 2 ^ w := Nat.pow_succ'
    rw [Nat.add_sub_cancel]
    by_cases hneg : 2 ^ w ≤ v % 2 ^ (w + 1)
    · rw [if_pos ⟨Nat.succ_ne_zero w, hneg⟩, if_neg (by omega)]
      push_cast
      rfl
    · rw [if_neg (fun hboth => hneg hboth.2), if_pos (by omega)]

theorem sext32_eq_sxw (x : Word) : sext32 x = sxw x.toNat := by
  rw [sext32, sxw, BitVec.ofNat_toNat]

/-- The integer operand of a conversion to a format. -/
theorem fpOfInt_typed (int : FpInt) (x : Word) : fpOfInt.typed (fpIntShape int).1 (fpIntShape int).2 x.toNat = (match int with
    | .w => low32 x
    | .wu => ((x.toNat % 2 ^ 32 : Nat) : Int)
    | .l => x.toInt
    | .lu => (x.toNat : Int)) := by
  cases int with
  | w => exact (toSigned_eq_toInt 32 x.toNat).trans (by rw [BitVec.ofNat_toNat, low32])
  | wu => rfl
  | l => exact (toSigned_eq_toInt 64 x.toNat).trans (by rw [BitVec.ofNat_toNat, BitVec.setWidth_eq])
  | lu => exact congrArg Nat.cast (Nat.mod_eq_of_lt x.isLt)

/-- A floating-point word on registers is a word of F or D and performs its results (R90). -/
theorem rvPerform_of_floatUpds {i : Rv} {w : Wave} {upds : List Upd} (h : floatUpds i w = some upds) (s : State) :
    rvUsesFp i = true ∧ rvPerform i w s = .now s upds none id := by
  unfold floatUpds at h
  cases i with
  | fused op fm rm rd a b c => cases op <;> cases h <;> exact ⟨rfl, rfl⟩
  | farith op fm rm rd a b => cases op <;> cases h <;> exact ⟨rfl, rfl⟩
  | fcvtFmt fm rm rd a => cases fm <;> cases h <;> exact ⟨rfl, rfl⟩
  | fmvToF fm rd a => cases fm <;> cases h <;> exact ⟨rfl, rfl⟩
  | fcvtToFp int fm rm rd a =>
    have hoperand := fpOfInt_typed int (w.getX a.toNat)
    refine ⟨rfl, ?_⟩
    cases int <;> cases h <;> dsimp only at hoperand <;> rw [← hoperand] <;> rfl
  | fmvToX fm rd a =>
    cases fm <;> cases h
    · rw [← sext32_eq_sxw]
      exact ⟨rfl, rfl⟩
    · exact ⟨rfl, rfl⟩
  | fsqrt fm rm rd a => cases h; exact ⟨rfl, rfl⟩
  | fcvtToInt int fm rm rd a => cases h; exact ⟨rfl, rfl⟩
  | fminmax mx fm rd a b => cases h; exact ⟨rfl, rfl⟩
  | fcompare op fm rd a b => cases h; exact ⟨rfl, rfl⟩
  | fclass fm rd a => cases h; exact ⟨rfl, rfl⟩
  | fsgnj op fm rd a b => cases h; exact ⟨rfl, rfl⟩
  | _ => cases h

/-- A word of F or D is not legal while FS is Off. -/
theorem rvLegal_of_off {i : Rv} {w : Wave} (hfp : rvUsesFp i = true) (hoff : fld w.csrs.mstatus 14 13 = 0) :
    rvLegal i w = false := by
  have hready : rvFpReady i w = false := by simp [rvFpReady, hfp, Wave.fpOn, hoff]
  unfold rvLegal
  rw [hready, Bool.false_and]

/-! ### FS becomes Dirty -/

/-- FS of the wave of slot `i` of core `c`. -/
def State.fsAt (s : State) (c i : Nat) : Nat := fld (s.slotAt c i).wave.csrs.mstatus 14 13

theorem fld_fpDirty (w : Wave) : fld w.fpDirty.csrs.mstatus 14 13 = 3 := fld_setFld _ 3 (by decide) (by decide)

theorem State.fsAt_modWaveAt (s : State) (c i : Nat) (f : Wave → Wave) :
    (s.modWaveAt c i f).fsAt c i = fld (f (s.slotAt c i).wave).csrs.mstatus 14 13 := by
  rw [State.fsAt, State.slotAt_modWaveAt_same]

/-- FS that is Dirty stays so under a word's results. -/
theorem State.fsAt_applyAt_keeps {s : State} {c i : Nat} (u : Upd) (h : s.fsAt c i = 3) : (s.applyAt c i u).fsAt c i = 3 := by
  cases u with
  | v n l v => exact (congrArg (fun k : Slot => fld k.wave.csrs.mstatus 14 13) (s.slotAt_modCore c _ rfl c i)).trans h
  | cvalid n =>
    refine (congrArg (fun k : Slot => fld k.wave.csrs.mstatus 14 13) (s.slotAt_modCore c _ ?_ c i)).trans h
    split <;> rfl
  | defer cause tval =>
    simp only [State.applyAt]
    split
    · rw [State.fsAt_modWaveAt, State.slotAt_modCore _ _ _ rfl]
      exact h
    · rw [State.fsAt_modWaveAt]
      exact h
  | fflags b =>
    simp only [State.applyAt]
    rw [State.fsAt_modWaveAt]
    split
    · exact h
    · exact fld_fpDirty _
  | f n v => exact (s.fsAt_modWaveAt c i _).trans (fld_fpDirty _)
  | x n v =>
    simp only [State.applyAt]
    rw [State.fsAt_modWaveAt, Wave.setX_csrs]
    exact h
  | p n l b =>
    simp only [State.applyAt]
    rw [State.fsAt_modWaveAt, Wave.setP_csrs]
    exact h
  | _ =>
    simp only [State.applyAt]
    rw [State.fsAt_modWaveAt]
    exact h

/-- A result changes floating-point state: it writes an f register or sets a flag. -/
def Upd.dirties : Upd → Bool
  | .f _ _ => true
  | .fflags b => b ≠ 0
  | _ => false

theorem State.fsAt_applyAt_dirty (s : State) (c i : Nat) {u : Upd} (h : u.dirties = true) : (s.applyAt c i u).fsAt c i = 3 := by
  cases u with
  | f n v => exact (s.fsAt_modWaveAt c i _).trans (fld_fpDirty _)
  | fflags b =>
    simp only [State.applyAt]
    rw [State.fsAt_modWaveAt, if_neg (of_decide_eq_true h)]
    exact fld_fpDirty _
  | _ => exact absurd h Bool.false_ne_true

/-- A word leaves FS Dirty where one of its results changes floating-point state. -/
theorem State.afterWord_dirty (s : State) (len : Nat) {upds : List Upd} (h : upds.any Upd.dirties = true) :
    fld (s.afterWord len upds).wave.csrs.mstatus 14 13 = 3 := by
  obtain ⟨u, hu, hdirty⟩ := List.any_eq_true.mp h
  have hreached : ((s.issued len).applyAllAt s.curCore s.curSlot upds).fsAt s.curCore s.curSlot = 3 :=
    foldl_reaches (P := fun t : State => t.fsAt s.curCore s.curSlot = 3) (fun _ v hv => State.fsAt_applyAt_keeps v hv) hu
      (fun t => t.fsAt_applyAt_dirty _ _ hdirty) (s.issued len)
  refine Eq.trans ?_ hreached
  rw [State.wave, State.slot, State.afterWord, State.applyAll, State.applyAllAt_curCore, State.applyAllAt_curSlot]
  rfl

/-- Settles O25: each word is its results on registers, which leave FS Dirty; with FS Off its wave may not run it. -/
theorem scalarFloatResults : Obligations.ScalarFloatResults := by
  intro i s upds hupds
  obtain ⟨hfp, hperform⟩ := rvPerform_of_floatUpds hupds s
  refine ⟨fun h => ⟨completes_rv_now h hperform rfl, fun hdirty => ?_⟩, fun hissue hoff => ?_⟩
  · refine s.afterWord_dirty 4 (Eq.trans ?_ hdirty)
    refine congrArg (upds.any ·) (funext fun u => ?_)
    cases u <;> rfl
  · exact rv_of_illegal hissue (rvLegal_of_off hfp hoff)

end Sys2Proof.Machine

namespace Sys2Proof.Machine
open Sys2Proof.Claims

/-! ## O28: CSR words -/

/-! ### The words themselves -/

/-- A RISC-V word that changes its wave after it has issued. -/
theorem completes_rv_post {i : Rv} {s : State} {upds : List Upd} {post : Wave → Wave} (h : rvOpen i s = true)
    (hp : rvPerform i s.wave s = .now s upds none post) :
    Completes (.riscvScalarInstruction i) s ((s.afterWord 4 upds).modWave post) := by
  refine completes_of_done ((exec_riscv i s).trans (congrArg Issue.finish ?_))
  rw [rvIssue_of_open h, hp]
  rfl

/-- What a CSR word writes, for the old value and the operand (R90). -/
def csrNew (op : CsrOp) (old src : Word) : Word :=
  match op with
  | .rw => src
  | .rs => old ||| src
  | .rc => old &&& ~~~src

/-- A CSR word does not write where it would only set or clear the bits of a zero operand. -/
theorem csrWrites_eq (op : CsrOp) (a : BitVec 5) : csrWrites op a = !decide (op ≠ .rw ∧ a = 0) := by
  by_cases hop : op = .rw <;> by_cases ha : a = 0 <;> simp [csrWrites, hop, ha]

/-- A CSR word completes with the old value, and with the new one written where it writes (R90). -/
theorem completes_rvCsr {i : Rv} {s : State} {op : CsrOp} {d a : BitVec 5} {src : Word} {n : Nat} (h : rvOpen i s = true)
    (hp : rvPerform i s.wave s = rvCsr s s.wave op d (csrWrites op a) src n) :
    Completes (.riscvScalarInstruction i) s
      (if op ≠ .rw ∧ a = 0 then s.afterX d (s.csrRead s.wave n)
      else (s.afterX d (s.csrRead s.wave n)).modWave (fun q => q.csrWrite n (csrNew op (s.csrRead s.wave n) src))) := by
  by_cases hread : op ≠ .rw ∧ a = 0
  · have hnone : rvPerform i s.wave s = .now s [.x d.toNat (s.csrRead s.wave n)] none id := by
      rw [hp, csrWrites_eq, decide_eq_true hread]
      rfl
    rw [if_pos hread]
    exact completes_rv_now h hnone rfl
  · rw [csrWrites_eq, decide_eq_false hread] at hp
    rw [if_neg hread]
    exact completes_rv_post h hp

/-- `fence` orders as the wide fence does where no active message is out (R90). -/
theorem rvPerform_fence {s : State} (d a : BitVec 5) (imm : BitVec 12) (h : s.messagesOut s.curCore s.curSlot = false) :
    rvPerform (.fence d a imm) s.wave s = .now (s.wideFence s.curCore s.wave.dom) [] none id := by
  change (if s.messagesOut s.curCore s.curSlot then RvOut.hold else _) = _
  rw [h]
  rfl

/-! ### Masks and merged words, bit by bit -/

theorem getLsbD_mergeBits (old v mask : Word) (i : Nat) :
    (mergeBits old v mask).getLsbD i = if mask.getLsbD i then v.getLsbD i else old.getLsbD i := by
  by_cases hi : i < 64
  · rw [mergeBits, BitVec.getLsbD_or, BitVec.getLsbD_and, BitVec.getLsbD_and, BitVec.getLsbD_not, decide_eq_true hi]
    cases mask.getLsbD i <;> simp
  · simp [BitVec.getLsbD_of_ge _ i (Nat.not_lt.mp hi)]

theorem fld_lt (w : Word) (hi lo : Nat) : fld w hi lo < 2 ^ (hi + 1 - lo) := Nat.mod_lt _ (Nat.two_pow_pos _)

/-- Words that agree on the bits of a field have the same field. -/
theorem fld_congr {a b : Word} {hi lo : Nat} (h : ∀ i, lo ≤ i → i ≤ hi → a.getLsbD i = b.getLsbD i) :
    fld a hi lo = fld b hi lo := by
  refine Nat.eq_of_testBit_eq fun i => ?_
  rw [testBit_fld, testBit_fld]
  by_cases hin : i < hi + 1 - lo
  · rw [h (lo + i) (by omega) (by omega)]
  · simp [hin]

/-- Merged under a mask that holds within `m`, a word is the new one under both masks. -/
theorem mergeBits_within (old v m k : Word) : mergeBits old v (m &&& k) &&& m &&& k = v &&& m &&& k := by
  refine BitVec.eq_of_getLsbD_eq fun i _ => ?_
  rw [BitVec.getLsbD_and, BitVec.getLsbD_and, getLsbD_mergeBits, BitVec.getLsbD_and, BitVec.getLsbD_and, BitVec.getLsbD_and]
  cases m.getLsbD i <;> cases k.getLsbD i <;> simp

/-- Merged under a mask that holds within `m`, a word is the old one outside it. -/
theorem mergeBits_outside (old v m k : Word) : mergeBits old v (m &&& k) &&& ~~~m = old &&& ~~~m := by
  refine BitVec.eq_of_getLsbD_eq fun i hi => ?_
  rw [BitVec.getLsbD_and, BitVec.getLsbD_and, getLsbD_mergeBits, BitVec.getLsbD_and, BitVec.getLsbD_not]
  cases m.getLsbD i <;> simp

/-! ### `mstatus` -/

/-- Away from MPP, `mstatus` takes the bits of its mask. -/
theorem getLsbD_mstatusLegal (old v : Word) {i : Nat} (h : i ≠ 11 ∧ i ≠ 12) :
    (mstatusLegal old v).getLsbD i = (v &&& mstatusMask).getLsbD i := by
  have hout : ¬ (11 ≤ i ∧ i ≤ 12) := by omega
  simp only [mstatusLegal]
  split
  · rw [getLsbD_setFld _ _ _ (by decide), if_neg hout]
    by_cases hi : i < 64
    · rw [decide_eq_true hi, Bool.true_and]
    · rw [decide_eq_false hi, Bool.false_and, BitVec.getLsbD_of_ge _ _ (Nat.not_lt.mp hi)]
  · rfl

theorem fld_mpp_masked (v : Word) : fld (v &&& mstatusMask) 12 11 = fld v 12 11 := by
  refine fld_congr fun i hlo hhi => ?_
  have hmask : ∀ i, 11 ≤ i → i ≤ 12 → mstatusMask.getLsbD i = true := by
    intro i hlo hhi
    interval_cases i <;> rfl
  rw [BitVec.getLsbD_and, hmask i hlo hhi, Bool.and_true]

/-- An MPP of 2 keeps the old one. -/
theorem fld_mpp_mstatusLegal (old v : Word) :
    fld (mstatusLegal old v) 12 11 = if fld v 12 11 = 2 then fld old 12 11 else fld v 12 11 := by
  simp only [mstatusLegal, fld_mpp_masked]
  split
  · rw [fld_setFld _ _ (by decide) (by decide)]
    exact Nat.mod_eq_of_lt (fld_lt old 12 11)
  · exact fld_mpp_masked v

/-- The low half of `mstatus` reads as it is held. -/
theorem getLsbD_mstatusRead (v : Word) {i : Nat} (h : i < 32) : (mstatusRead v).getLsbD i = v.getLsbD i := by
  have hlow : (v.toNat + 2 * 2 ^ 32 + 2 * 2 ^ 34 + b2n (decide (fld v 14 13 = 3)) * 2 ^ 63) % 2 ^ 32 = v.toNat % 2 ^ 32 := by
    omega
  have hbit (n : Nat) : n.testBit i = (n % 2 ^ 32).testBit i := by rw [Nat.testBit_mod_two_pow, decide_eq_true h, Bool.true_and]
  rw [mstatusRead, BitVec.getLsbD_ofNat, decide_eq_true (by omega : i < 64), Bool.true_and, hbit, hlow, ← hbit]
  rfl

theorem csrRead_mstatus (s : State) (w : Wave) : s.csrRead w 0x300 = mstatusRead w.csrs.mstatus := rfl

theorem csrRead_sstatus (s : State) (w : Wave) :
    s.csrRead w 0x100 = mstatusRead (w.csrs.mstatus &&& sstatusMask) &&& ~~~0xC00000000#64 := rfl

theorem csrWrite_mstatus (w : Wave) (v : Word) : (w.csrWrite 0x300 v).csrs.mstatus = mstatusLegal w.csrs.mstatus v := rfl

theorem csrWrite_sstatus (w : Wave) (v : Word) :
    (w.csrWrite 0x100 v).csrs.mstatus = mstatusLegal w.csrs.mstatus (mergeBits w.csrs.mstatus v sstatusMask) := rfl

/-- The bits of `sstatus` as `sstatus` reads them. -/
theorem getLsbD_csrRead_sstatus (s : State) (w : Wave) {i : Nat} (h : i < 32) (hmask : sstatusMask.getLsbD i = true) :
    (s.csrRead w 0x100).getLsbD i = w.csrs.mstatus.getLsbD i := by
  have huxl : (~~~0xC00000000#64).getLsbD i = true := by
    revert i
    decide
  rw [csrRead_sstatus, BitVec.getLsbD_and, getLsbD_mstatusRead _ h, BitVec.getLsbD_and, hmask, huxl, Bool.and_true, Bool.and_true]

/-- What a write leaves in the status, interrupt and trap registers is their rule. -/
theorem trapCsrRule_csrWrite (s : State) (w : Wave) (v : Word) : trapCsrRule s w v := by
  dsimp only [trapCsrRule]
  refine ⟨fun b hb => ?_, ?_, fun b hb => ?_, fun b hb => ?_, rfl, rfl, rfl, ?_, ?_, rfl, ?_, rfl, rfl, rfl, rfl⟩
  · obtain ⟨hlow, hmpp, hmask⟩ : b < 32 ∧ (b ≠ 11 ∧ b ≠ 12) ∧ mstatusMask.getLsbD b = true := by
      revert b
      decide
    rw [csrRead_mstatus, csrWrite_mstatus, getLsbD_mstatusRead _ hlow, getLsbD_mstatusLegal _ _ hmpp, BitVec.getLsbD_and, hmask,
      Bool.and_true]
  · rw [csrRead_mstatus, csrWrite_mstatus, ← fld_mpp_mstatusLegal]
    exact fld_congr fun i _ hhi => getLsbD_mstatusRead _ (by omega)
  · obtain ⟨hlow, hmpp, hmask, hshown⟩ :
        b < 32 ∧ (b ≠ 11 ∧ b ≠ 12) ∧ mstatusMask.getLsbD b = true ∧ sstatusMask.getLsbD b = true := by
      revert b
      decide
    rw [getLsbD_csrRead_sstatus s _ hlow hshown, csrWrite_sstatus, getLsbD_mstatusLegal _ _ hmpp, BitVec.getLsbD_and, hmask,
      Bool.and_true, getLsbD_mergeBits, if_pos hshown]
  · obtain ⟨hlow, hmpp, hmask, hshown⟩ :
        b < 32 ∧ (b ≠ 11 ∧ b ≠ 12) ∧ mstatusMask.getLsbD b = true ∧ sstatusMask.getLsbD b = false := by
      revert b
      decide
    rw [csrRead_mstatus, csrWrite_sstatus, getLsbD_mstatusRead _ hlow, getLsbD_mstatusLegal _ _ hmpp, BitVec.getLsbD_and, hmask,
      Bool.and_true, getLsbD_mergeBits, hshown]
    rfl
  · exact mergeBits_within _ _ _ _
  · exact mergeBits_outside _ _ _ _
  · exact (BitVec.and_assoc v w.csrs.mideleg 2).symm ▸ rfl

/-! ### `fflags` and `frm` -/

/-- A mask of low bits. -/
theorem getLsbD_lowMask (n k i : Nat) : (BitVec.ofNat n (2 ^ k - 1)).getLsbD i = (decide (i < n) && decide (i < k)) := by
  rw [BitVec.getLsbD_ofNat, Nat.testBit_two_pow_sub_one]

theorem getLsbD_and_lowMask {n : Nat} (a : BitVec n) (k i : Nat) :
    (a &&& BitVec.ofNat n (2 ^ k - 1)).getLsbD i = (decide (i < k) && a.getLsbD i) := by
  rw [BitVec.getLsbD_and, getLsbD_lowMask]
  by_cases hi : i < n
  · simp [hi, Bool.and_comm]
  · simp [BitVec.getLsbD_of_ge a i (Nat.not_lt.mp hi)]

/-- `fcsr` after a write of `fflags`. -/
theorem getLsbD_fflags_write (f : BitVec 32) (v : Word) (i : Nat) :
    ((f &&& 0xE0) ||| (v.setWidth 32 &&& 0x1F)).getLsbD i =
      if i < 5 then v.getLsbD i else (decide (i < 8) && f.getLsbD i) := by
  have hmask : (0xE0 : BitVec 32) = BitVec.ofNat 32 (2 ^ 8 - 1) &&& ~~~BitVec.ofNat 32 (2 ^ 5 - 1) := by decide
  have hlow : (0x1F : BitVec 32) = BitVec.ofNat 32 (2 ^ 5 - 1) := rfl
  rw [hmask, hlow, BitVec.getLsbD_or, getLsbD_and_lowMask, ← BitVec.and_assoc, BitVec.getLsbD_and, getLsbD_and_lowMask,
    BitVec.getLsbD_not, getLsbD_lowMask, BitVec.getLsbD_setWidth]
  by_cases h5 : i < 5
  · have h32 : i < 32 := by omega
    simp [h5, h32]
  · by_cases h32 : i < 32
    · simp [h5, h32]
    · have h8 : ¬ i < 8 := by omega
      simp [h5, h8]

/-- `fcsr` after a write of `frm`. -/
theorem getLsbD_frm_write (f : BitVec 32) (v : Word) (i : Nat) :
    ((f &&& 0x1F#32) ||| ((v.setWidth 32 &&& 7#32) <<< 5)).getLsbD i =
      if i < 5 then f.getLsbD i else (decide (i < 8) && v.getLsbD (i - 5)) := by
  have hlow : 0x1F#32 = BitVec.ofNat 32 (2 ^ 5 - 1) := rfl
  have hseven : 7#32 = BitVec.ofNat 32 (2 ^ 3 - 1) := rfl
  rw [hlow, hseven, BitVec.getLsbD_or, getLsbD_and_lowMask, BitVec.getLsbD_shiftLeft, getLsbD_and_lowMask,
    BitVec.getLsbD_setWidth]
  by_cases h5 : i < 5
  · simp [h5]
  · by_cases h8 : i < 8
    · have h3 : i - 5 < 3 := by omega
      have h32 : i < 32 := by omega
      have h32' : i - 5 < 32 := by omega
      simp [h5, h8, h3, h32, h32']
    · have h3 : ¬ i - 5 < 3 := by omega
      simp [h5, h8, h3]

/-- What `fflags` reads of `fcsr`. -/
theorem getLsbD_fflags_read (f : BitVec 32) (i : Nat) :
    (f.setWidth 64 &&& (0x1F : Word)).getLsbD i = (decide (i < 5) && f.getLsbD i) := by
  have hlow : (0x1F : Word) = BitVec.ofNat 64 (2 ^ 5 - 1) := rfl
  rw [hlow, getLsbD_and_lowMask, BitVec.getLsbD_setWidth]
  by_cases h5 : i < 5
  · have h64 : i < 64 := by omega
    simp [h5, h64]
  · simp [h5]

/-- What `frm` reads of `fcsr`. -/
theorem getLsbD_frm_read (f : BitVec 32) (i : Nat) :
    ((f.setWidth 64 >>> 5) &&& (7 : Word)).getLsbD i = (decide (i < 3) && f.getLsbD (5 + i)) := by
  have hseven : (7 : Word) = BitVec.ofNat 64 (2 ^ 3 - 1) := rfl
  rw [hseven, getLsbD_and_lowMask, BitVec.getLsbD_ushiftRight, BitVec.getLsbD_setWidth]
  by_cases h3 : i < 3
  · have h64 : 5 + i < 64 := by omega
    simp [h3, h64]
  · simp [h3]

theorem fflags_after_fflags (f : BitVec 32) (v : Word) :
    ((f &&& 0xE0) ||| (v.setWidth 32 &&& 0x1F)).setWidth 64 &&& (0x1F : Word) = v &&& 0x1F := by
  have hlow : (0x1F : Word) = BitVec.ofNat 64 (2 ^ 5 - 1) := rfl
  refine BitVec.eq_of_getLsbD_eq fun i _ => ?_
  rw [getLsbD_fflags_read, getLsbD_fflags_write, hlow, getLsbD_and_lowMask]
  by_cases h5 : i < 5 <;> simp [h5]

theorem frm_after_fflags (f : BitVec 32) (v : Word) :
    (((f &&& 0xE0) ||| (v.setWidth 32 &&& 0x1F)).setWidth 64 >>> 5) &&& (7 : Word) = (f.setWidth 64 >>> 5) &&& 7 := by
  refine BitVec.eq_of_getLsbD_eq fun i _ => ?_
  rw [getLsbD_frm_read, getLsbD_frm_read, getLsbD_fflags_write, if_neg (by omega)]
  by_cases h3 : i < 3
  · have h8 : 5 + i < 8 := by omega
    simp [h8]
  · simp [h3]

theorem frm_after_frm (f : BitVec 32) (v : Word) :
    (((f &&& 0x1F#32) ||| ((v.setWidth 32 &&& 7#32) <<< 5)).setWidth 64 >>> 5) &&& (7 : Word) = v &&& 7 := by
  have hseven : (7 : Word) = BitVec.ofNat 64 (2 ^ 3 - 1) := rfl
  refine BitVec.eq_of_getLsbD_eq fun i _ => ?_
  rw [getLsbD_frm_read, getLsbD_frm_write, if_neg (by omega), Nat.add_sub_cancel_left, hseven, getLsbD_and_lowMask]
  by_cases h3 : i < 3
  · have h8 : 5 + i < 8 := by omega
    simp [h8]
  · simp [h3]

theorem fflags_after_frm (f : BitVec 32) (v : Word) :
    ((f &&& 0x1F#32) ||| ((v.setWidth 32 &&& 7#32) <<< 5)).setWidth 64 &&& (0x1F : Word) = f.setWidth 64 &&& 0x1F := by
  refine BitVec.eq_of_getLsbD_eq fun i _ => ?_
  rw [getLsbD_fflags_read, getLsbD_fflags_read, getLsbD_frm_write]
  by_cases h5 : i < 5 <;> simp [h5]

/-- A write of `fcsr`, as `fcsr` reads it. -/
theorem fcsr_after_fcsr (v : Word) : (v.setWidth 32 &&& 0xFF).setWidth 64 &&& (0xFF : Word) = v &&& 0xFF := by
  have hlow : (0xFF : Word) = BitVec.ofNat 64 (2 ^ 8 - 1) := rfl
  have hlow' : (0xFF : BitVec 32) = BitVec.ofNat 32 (2 ^ 8 - 1) := rfl
  refine BitVec.eq_of_getLsbD_eq fun i hi => ?_
  rw [hlow, hlow', getLsbD_and_lowMask, getLsbD_and_lowMask, BitVec.getLsbD_setWidth, getLsbD_and_lowMask, BitVec.getLsbD_setWidth]
  by_cases h8 : i < 8
  · have h32 : i < 32 := by omega
    simp [h8, hi, h32]
  · simp [h8]

/-! ### `nround` -/

/-- Clearing the flags that a write names. -/
theorem sub_and_eq_and_compl {a b : Nat} (ha : a < 16) (hb : b < 16) : a - (a &&& b) = a &&& (15 - b) := by
  have hall : ∀ a b : Fin 16, a.val - (a.val &&& b.val) = a.val &&& (15 - b.val) := by decide
  exact hall ⟨a, ha⟩ ⟨b, hb⟩

/-- The parts that a write leaves in `nround`: mode, saturation, half and flags. -/
theorem nroundWrite_parts (old v : Word) : ∃ flags half sat mode : Nat,
    flags = fld old 11 8 &&& (15 - fld v 11 8) ∧ half = fld v 5 5 ∧ sat = (if fld v 4 3 = 3 then 0 else fld v 4 3) ∧
    mode = (if 4 < fld v 2 0 then 0 else fld v 2 0) ∧ flags < 16 ∧ half < 2 ∧ sat < 4 ∧ mode < 8 ∧
    nroundWrite old v = BitVec.ofNat 64 (flags * 256 + half * 32 + sat * 8 + mode) := by
  have hold : fld old 11 8 < 16 := fld_lt old 11 8
  have hnew : fld v 11 8 < 16 := fld_lt v 11 8
  have hhalf : fld v 5 5 < 2 := fld_lt v 5 5
  have hsat : fld v 4 3 < 4 := fld_lt v 4 3
  have hmode : fld v 2 0 < 8 := fld_lt v 2 0
  refine ⟨_, _, _, _, rfl, rfl, rfl, rfl, Nat.and_lt_two_pow (n := 4) _ (by omega), hhalf, by split <;> omega, by split <;> omega,
    ?_⟩
  rw [← sub_and_eq_and_compl hold hnew]
  rfl

/-- What a write leaves in `nround`, as `nround` reads it (R95). -/
theorem nround_after_nround (old v : Word) :
    fld (nroundWrite old v) 11 8 = fld old 11 8 &&& (15 - fld v 11 8) ∧
    (nroundWrite old v).getLsbD 5 = v.getLsbD 5 ∧
    fld (nroundWrite old v) 4 3 = (if fld v 4 3 = 3 then 0 else fld v 4 3) ∧
    fld (nroundWrite old v) 2 0 = (if 4 < fld v 2 0 then 0 else fld v 2 0) ∧
    nroundWrite old v &&& ~~~0xF3F#64 = 0#64 := by
  obtain ⟨flags, half, sat, mode, hflags, hhalf, hsat, hmode, hflags16, hhalf2, hsat4, hmode8, hword⟩ := nroundWrite_parts old v
  have hnat : (nroundWrite old v).toNat = flags * 256 + half * 32 + sat * 8 + mode := by
    rw [hword, BitVec.toNat_ofNat]
    omega
  have hfld (hi lo : Nat) : fld (nroundWrite old v) hi lo =
      (flags * 256 + half * 32 + sat * 8 + mode) / 2 ^ lo % 2 ^ (hi + 1 - lo) := by
    rw [fld, bits, hnat, Nat.shiftRight_eq_div_pow]
  rw [← hflags, ← hsat, ← hmode]
  refine ⟨by rw [hfld]; omega, ?_, by rw [hfld]; omega, by rw [hfld]; omega, ?_⟩
  · have hfive : fld (nroundWrite old v) 5 5 = fld v 5 5 := by
      rw [hfld, ← hhalf]
      omega
    exact (testBit_bit _ 5).symm.trans ((congrArg (Nat.testBit · 0) hfive).trans (testBit_bit v 5))
  · have hlow : half * 32 + sat * 8 + mode < 2 ^ 6 := by omega
    have hlow' : half * 32 + sat * 8 + mode < 2 ^ 8 := by omega
    have hsum : (nroundWrite old v).toNat = 2 ^ 8 * flags + (half * 32 + sat * 8 + mode) := by omega
    have hclear : ∀ i : Fin 64, (0xF3F#64).getLsbD i = false → 6 ≤ i.val ∧ ¬ (8 ≤ i.val ∧ i.val < 12) := by decide
    refine BitVec.eq_of_getLsbD_eq fun i hi => ?_
    rw [BitVec.getLsbD_and, BitVec.getLsbD_not, decide_eq_true hi, Bool.true_and, BitVec.getLsbD_zero, Bool.and_eq_false_imp,
      BitVec.getLsbD, hsum, Nat.testBit_two_pow_mul_add _ hlow', Bool.not_eq_false']
    intro hset
    by_contra hmask
    obtain ⟨hsix, hout⟩ := hclear ⟨i, hi⟩ (by simpa using hmask)
    split at hset
    · rw [Nat.testBit_lt_two_pow (hlow.trans_le (Nat.pow_le_pow_right (by decide) hsix))] at hset
      exact Bool.false_ne_true hset
    next hbelow =>
      have hfour : 2 ^ 4 ≤ 2 ^ (i - 8) := Nat.pow_le_pow_right (by decide) (by dsimp only at hout; omega)
      rw [Nat.testBit_lt_two_pow (hflags16.trans_le hfour)] at hset
      exact Bool.false_ne_true hset

/-! ### The mask and the shown entry -/

theorem setWidth_maskOf (low high : Word) : (maskOf low high).setWidth 64 = low := by
  refine BitVec.eq_of_getLsbD_eq fun i hi => ?_
  simp [maskOf, hi]

theorem setWidth_maskOf_shift (low high : Word) : ((maskOf low high) >>> 64).setWidth 64 = high := by
  refine BitVec.eq_of_getLsbD_eq fun i hi => ?_
  have hup : 64 + i < 128 := by omega
  simp [maskOf, hi, hup]

/-- The high half of a mask, in place. -/
theorem setWidth_shift_back (m : Mask) : (((m >>> 64).setWidth 64 : Word).setWidth 128 <<< 64) = m >>> 64 <<< 64 := by
  refine BitVec.eq_of_getLsbD_eq fun i hi => ?_
  simp only [BitVec.getLsbD_shiftLeft, BitVec.getLsbD_setWidth, BitVec.getLsbD_ushiftRight]
  by_cases h64 : i < 64
  · simp [h64]
  · have hin : i - 64 < 64 := by omega
    have hwide : i - 64 < 128 := by omega
    simp [hin, hwide]

/-- The entry a window shows, after it was changed. -/
theorem Wave.shownEntry_setShown (w : Wave) (f : MaskEntry → MaskEntry) : (w.setShown f).shownEntry = f w.shownEntry := by
  have hin : fld w.csrs.mstksel 4 0 < 32 := fld_lt w.csrs.mstksel 4 0
  change (w.stack.setIfInBounds (fld w.csrs.mstksel 4 0) (f w.shownEntry)).toList.getD (fld w.csrs.mstksel 4 0) {} = _
  simp [Vector.toList_setIfInBounds, hin]

/-- Changing the shown entry keeps every other one. -/
theorem Wave.getD_setShown (w : Wave) (f : MaskEntry → MaskEntry) {k : Nat} (h : k ≠ fld w.csrs.mstksel 4 0) :
    (w.setShown f).stack.toList.getD k {} = w.stack.toList.getD k {} := by
  change (w.stack.setIfInBounds (fld w.csrs.mstksel 4 0) (f w.shownEntry)).toList.getD k {} = _
  simp [Vector.toList_setIfInBounds, h.symm]

/-- The halves of an entry's mask that was written within `wm`. -/
theorem low_of_masked (low high : Word) (wm : Mask) :
    (maskOf low high &&& wm &&& wm).setWidth 64 = low &&& (wm.setWidth 64 : Word) := by
  rw [BitVec.and_assoc, BitVec.and_self, BitVec.setWidth_and, setWidth_maskOf]

theorem high_of_masked (low high : Word) (wm : Mask) :
    ((maskOf low high &&& wm &&& wm) >>> 64).setWidth 64 = high &&& ((wm >>> 64).setWidth 64 : Word) := by
  rw [BitVec.and_assoc, BitVec.and_self, BitVec.ushiftRight_and_distrib, BitVec.setWidth_and, setWidth_maskOf_shift]

theorem csrRead_stackLow (s : State) (w : Wave) (f : MaskEntry → MaskEntry) :
    s.csrRead (w.setShown f) 0x806 = ((f w.shownEntry).mask &&& w.wm).setWidth 64 :=
  congrArg (fun e : MaskEntry => (e.mask &&& w.wm).setWidth 64) (w.shownEntry_setShown f)

theorem csrRead_stackHigh (s : State) (w : Wave) (f : MaskEntry → MaskEntry) :
    s.csrRead (w.setShown f) 0x807 = (((f w.shownEntry).mask &&& w.wm) >>> 64).setWidth 64 :=
  congrArg (fun e : MaskEntry => ((e.mask &&& w.wm) >>> 64).setWidth 64) (w.shownEntry_setShown f)

/-- What a write leaves in the flag, mask and record registers is their rule. -/
theorem flagCsrRule_csrWrite (s : State) (w : Wave) (v : Word) : flagCsrRule s w v := by
  dsimp only [flagCsrRule]
  obtain ⟨hflags, hhalf, hsat, hmode, hrest⟩ := nround_after_nround w.csrs.nround v
  have hword := w.shownEntry_setShown (fun e => { e with word := v &&& 0xC001FFFFFFFFFFFC })
  refine ⟨fflags_after_fflags _ v, frm_after_fflags _ v, frm_after_frm _ v, fflags_after_frm _ v, fun n hn => ?_, hflags, hhalf,
    hsat, hmode, hrest, rfl, rfl, ?_, ?_, ?_, ?_, congrArg MaskEntry.word hword, fun n hn k hk => ?_, rfl, rfl⟩
  · simp only [List.mem_cons, List.not_mem_nil, or_false] at hn
    rcases hn with rfl | rfl | rfl <;> exact fld_fpDirty _
  · exact (csrRead_stackLow s w _).trans (low_of_masked _ _ _)
  · refine (csrRead_stackHigh s w _).trans ((high_of_masked _ _ _).trans ?_)
    rw [← BitVec.setWidth_and, ← BitVec.ushiftRight_and_distrib]
    rfl
  · exact (csrRead_stackHigh s w _).trans (high_of_masked _ _ _)
  · refine (csrRead_stackLow s w _).trans ((low_of_masked _ _ _).trans ?_)
    rw [← BitVec.setWidth_and]
    rfl
  · simp only [List.mem_cons, List.not_mem_nil, or_false] at hn
    rcases hn with rfl | rfl | rfl <;> exact w.getD_setShown _ hk

/-! ### The other registers, and what a write keeps -/

/-- A register that holds every bit reads back what was written. -/
theorem csrRead_csrWrite_full (s : State) (w : Wave) (v : Word) {n : Nat}
    (h : n ∈ [0x140, 0x142, 0x143, 0x340, 0x342, 0x343, 0xB02, 0x5C0, 0x5C1, 0x5C2, 0x7C0, 0x7C1]) :
    s.csrRead (w.csrWrite n v) n = v := by
  simp only [List.mem_cons, List.not_mem_nil, or_false] at h
  rcases h with rfl | rfl | rfl | rfl | rfl | rfl | rfl | rfl | rfl | rfl | rfl | rfl <;> rfl

/-- A write of a register that cannot be written changes nothing. -/
theorem csrWrite_readOnly (w : Wave) (v : Word) {n : Nat}
    (h : n ∈ [0x301, 0x180, 0xB00, 0xF11, 0xF12, 0xF13, 0xF14, 0xCC0, 0xCC1, 0xCC2, 0xFC0]) : w.csrWrite n v = w := by
  simp only [List.mem_cons, List.not_mem_nil, or_false] at h
  rcases h with rfl | rfl | rfl | rfl | rfl | rfl | rfl | rfl | rfl | rfl | rfl <;> rfl

theorem csrRead_maskDepth (s : State) (w : Wave) (v : Word) :
    (s.csrRead (w.csrWrite 0x804 v) 0x804).toNat = min (v.toNat % 64) 32 := by
  change (BitVec.ofNat 64 (if 32 < fld v 5 0 then 32 else fld v 5 0)).toNat = _
  have hfld : fld v 5 0 = v.toNat % 64 := rfl
  rw [hfld, BitVec.toNat_ofNat]
  split <;> omega

/-- STIP stands as soon as a write of `sturncmp` reaches `turn` (R97). -/
theorem stip_after_sturncmp (w : Wave) (v : Word) :
    (w.csrWrite 0x5C0 v).csrs.mip.getLsbD 5 = decide (v.toNat ≤ w.csrs.turn.toNat) := by
  change (setFld w.csrs.mip 5 5 (b2n (decide (v.toNat ≤ w.csrs.turn.toNat)))).getLsbD 5 = _
  rw [getLsbD_setFld _ _ _ (by decide)]
  cases decide (v.toNat ≤ w.csrs.turn.toNat) <;> rfl

/-- CSR fields that agree on the wave's identity, its turn count and its gate. -/
def Csrs.Kept (c d : Csrs) : Prop := d.turn = c.turn ∧ d.wid = c.wid ∧ d.did = c.did ∧ d.sgate = c.sgate

theorem Csrs.kept_write (c : Csrs) (n : Nat) (v : Word) : c.Kept (c.write n v) := by
  unfold Csrs.write
  split <;> exact ⟨rfl, rfl, rfl, rfl⟩

/-- A CSR write is a write of the mask, of the shown entry or of other CSR fields. -/
theorem csrWrite_cases (w : Wave) (n : Nat) (v : Word) :
    ((n = 0x802 ∨ n = 0x803) ∧ ∃ m, w.csrWrite n v = w.setAmask m) ∨
    (¬ (n = 0x802 ∨ n = 0x803) ∧ ((∃ f, w.csrWrite n v = w.setShown f) ∨
      ∃ c, w.csrs.Kept c ∧ w.csrWrite n v = { w with csrs := c })) := by
  have hkept := w.csrs.kept_write n v
  unfold Wave.csrWrite
  split
  case h_1 => exact .inl ⟨.inl rfl, _, rfl⟩
  case h_2 => exact .inl ⟨.inr rfl, _, rfl⟩
  case h_3 => exact .inr ⟨by decide, .inl ⟨_, rfl⟩⟩
  case h_4 => exact .inr ⟨by decide, .inl ⟨_, rfl⟩⟩
  case h_5 => exact .inr ⟨by decide, .inl ⟨_, rfl⟩⟩
  case h_6 h802 h803 _ _ _ =>
    refine .inr ⟨not_or.mpr ⟨h802, h803⟩, .inr ?_⟩
    generalize w.csrs.write n v = c at hkept ⊢
    dsimp only
    split
    · obtain ⟨hturn, hwid, hdid, hsgate⟩ := hkept
      refine ⟨_, ?_, rfl⟩
      exact ⟨hturn, hwid, hdid, hsgate⟩
    · exact ⟨_, hkept, rfl⟩

/-- A CSR write changes the CSRs, the mask within the width and the mask stack, and nothing else of the wave. -/
theorem csrWrite_keeps (w : Wave) (v : Word) (n : Nat) : let q := w.csrWrite n v
    q = { w with csrs := q.csrs, amask := q.amask, stack := q.stack } ∧ q.csrs.turn = w.csrs.turn ∧
      q.csrs.wid = w.csrs.wid ∧ q.csrs.did = w.csrs.did ∧ q.csrs.sgate = w.csrs.sgate ∧
      q.amask &&& ~~~w.wm = w.amask &&& ~~~w.wm &&& (if n = 0x802 ∨ n = 0x803 then 0 else BitVec.allOnes 128) := by
  have hfull (m : Mask) : m = m &&& BitVec.allOnes 128 := BitVec.and_allOnes.symm
  rcases csrWrite_cases w n v with ⟨hn, m, hq⟩ | ⟨hn, ⟨f, hq⟩ | ⟨c, ⟨hturn, hwid, hdid, hsgate⟩, hq⟩⟩ <;> rw [hq]
  · have hclear : m &&& w.wm &&& ~~~w.wm = 0#128 := by
      rw [BitVec.and_assoc, BitVec.and_not_self]
      exact BitVec.and_zero
    rw [if_pos hn]
    exact ⟨rfl, rfl, rfl, rfl, rfl, hclear.trans BitVec.and_zero.symm⟩
  · rw [if_neg hn]
    exact ⟨rfl, rfl, rfl, rfl, rfl, hfull _⟩
  · rw [if_neg hn]
    exact ⟨rfl, hturn, hwid, hdid, hsgate, hfull _⟩

/-- Settles O28: the words from what performing them comes to, each register by the bits its write keeps. -/
theorem csrAndFenceWords : Obligations.CsrAndFenceWords := by
  refine ⟨⟨fun op d a n s h => completes_rvCsr h rfl, fun op d u n s h => ?_, fun a b s h => completes_rv_none h rfl rfl,
    fun d a imm s h hout => ?_, fun s h => rv_of_trap h rfl⟩,
    fun w v n hn s => csrRead_csrWrite_full s w v hn, fun w v s => ?_,
    fun w v s => ⟨trapCsrRule_csrWrite s w v, flagCsrRule_csrWrite s w v⟩, fun w v n hn => csrWrite_readOnly w v hn, csrWrite_keeps⟩
  · rw [BitVec.ofNat_toNat]
    exact completes_rvCsr h rfl
  · exact completes_rv_none h (rvPerform_fence d a imm hout) (State.WroteBack.wideFence s s.curCore s.wave.dom).wave
  · refine ⟨rfl, rfl, rfl, rfl, rfl, rfl, fcsr_after_fcsr v, csrRead_maskDepth s w v, ?_, stip_after_sturncmp w v⟩
    exact congrArg (fun m => (m ||| v.setWidth 128) &&& w.wm) (setWidth_shift_back w.amask)

end Sys2Proof.Machine

namespace Sys2Proof.Machine
open Sys2Proof.Claims

/-! ## Work on memory by the wave that acts -/

/-! ### The slot that acts and every core's registers stay -/

/-- Two cores with the same lane registers, accumulators and operand buffers. -/
def Core.SameRegs (k q : Core) : Prop := q.regs = k.regs ∧ q.acc = k.acc ∧ q.obuf = k.obuf

theorem Core.SameRegs.trans {k q r : Core} (h : k.SameRegs q) (h' : q.SameRegs r) : k.SameRegs r := by
  obtain ⟨hregs, hacc, hobuf⟩ := h
  obtain ⟨hregs', hacc', hobuf'⟩ := h'
  exact ⟨hregs'.trans hregs, hacc'.trans hacc, hobuf'.trans hobuf⟩

theorem Core.sameRegs_setLines (k : Core) (i : CacheId) (ls : List CacheLine) : k.SameRegs (k.setLines i ls) := by
  cases i <;> exact ⟨rfl, rfl, rfl⟩

/-- `t` is `s` after work in caches and memory that left the slot that acts and the registers of every core alone. -/
structure State.Framed (s t : State) : Prop where
  side : s.CoreSide t
  slot : t.slotAt s.curCore s.curSlot = s.slotAt s.curCore s.curSlot
  regs : ∀ c, (s.core c).SameRegs (t.core c)

namespace State.Framed

theorem of_cores {s t : State} (hside : s.CoreSide t) (hcores : t.cores = s.cores) : s.Framed t where
  side := hside
  slot := by rw [State.slotAt, hside.core hcores, State.slotAt]
  regs c := by rw [hside.core hcores]; exact ⟨rfl, rfl, rfl⟩

theorem refl (s : State) : s.Framed s := of_cores (.refl s) rfl

theorem trans {s t u : State} (h : s.Framed t) (h' : t.Framed u) : s.Framed u where
  side := h.side.trans h'.side
  slot := by
    have hslot := h'.slot
    rw [h.side.curCore, h.side.curSlot] at hslot
    exact hslot.trans h.slot
  regs c := (h.regs c).trans (h'.regs c)

theorem foldl {α : Type} {f : State → α → State} (hf : ∀ (s : State) (a : α), s.Framed (f s a)) (l : List α) (s : State) :
    s.Framed (l.foldl f s) :=
  List.foldlRecOn (motive := fun t : State => s.Framed t) l f (refl s) (fun t h a _ => h.trans (hf t a))

theorem ite {s a b : State} (p : Prop) [Decidable p] (ha : s.Framed a) (hb : s.Framed b) : s.Framed (if p then a else b) := by
  split
  · exact ha
  · exact hb

theorem wave {s t : State} (h : s.Framed t) : t.wave = s.wave := by
  rw [State.wave, State.slot, h.side.curCore, h.side.curSlot, h.slot, State.wave, State.slot]

theorem modDie (s : State) (d : Nat) (f : Die → Die) : s.Framed (s.modDie d f) := of_cores (.modDie s d f) rfl

/-- A change of a core that keeps its slots and registers. -/
theorem modCore (s : State) (c : Nat) (f : Core → Core) (hslots : (f (s.core c)).slots = (s.core c).slots)
    (hregs : (s.core c).SameRegs (f (s.core c))) : s.Framed (s.modCore c f) where
  side := .modCore s c f
  slot := s.slotAt_modCore c f hslots _ _
  regs d := by
    by_cases h : d = c
    · rw [h, State.core_modCore_same]
      exact hregs
    · rw [State.core_modCore_other _ _ h]
      exact ⟨rfl, rfl, rfl⟩

/-- Lines written back, and other lines in their cache. -/
theorem replaceLines (s : State) (ws : List CacheLine) (c : Nat) (k : CacheId) (ls : List CacheLine) :
    s.Framed ((ws.foldl State.writeBack s).modCore c (fun d => d.setLines k ls)) :=
  (of_cores (.writeBacks s ws) (s.writeBacks_cores ws)).trans
    (modCore _ c _ (Core.slots_setLines _ _ _) (Core.sameRegs_setLines _ _ _))

theorem dropLines (s : State) (c : Nat) (k : CacheId) (q : CacheLine → Bool) : s.Framed (s.dropLines c k q) :=
  replaceLines s _ c k _

theorem cleanLines (s : State) (c : Nat) (k : CacheId) (q : CacheLine → Bool) : s.Framed (s.cleanLines c k q) :=
  replaceLines s _ c k _

theorem keepLine (s : State) (c : Nat) (k : CacheId) (l : CacheLine) : s.Framed (s.keepLine c k l) := replaceLines s _ c k _

theorem touchL2 (s : State) (pa dom : Nat) (b : Bool) : s.Framed (s.touchL2 pa dom b) :=
  of_cores (.touchL2 s pa dom b) (s.touchL2_cores pa dom b)

theorem writePhys (s : State) (pa : Nat) (bs : List Byte) : s.Framed (s.writePhys pa bs) :=
  of_cores (.writePhys s pa bs) (s.writePhys_cores pa bs)

theorem drainEntry (s : State) (d line c : Nat) : s.Framed (s.drainEntry d line c) := by
  unfold State.drainEntry
  split
  · exact refl s
  · exact (cleanLines s c .lane _).trans (modDie _ d _)

theorem drainAcked (s : State) (d line c : Nat) : s.Framed (s.drainAcked d line c) := by
  unfold State.drainAcked
  dsimp only
  split
  · exact refl s
  · exact modDie s d _

theorem refreshL1 (s : State) (c dom : Nat) : s.Framed (s.refreshL1 c dom) := by
  unfold State.refreshL1
  extract_lets kept t
  have ht : s.Framed t := foldl (fun s l => ite _ (touchL2 s _ _ _) (refl s)) kept s
  clear_value t
  exact ht.trans (modCore t c _ rfl ⟨rfl, rfl, rfl⟩)

theorem acquireLine (s : State) (c dom pa : Nat) : s.Framed (s.acquireLine c dom pa) := by
  unfold State.acquireLine
  exact (foldl (fun s (e : Nat × Nat) => (drainEntry s _ _ e.1).trans (drainAcked _ _ _ e.1)) _ s).trans (refreshL1 _ c dom)

theorem releaseLine (s : State) (c pa : Nat) : s.Framed (s.releaseLine c pa) := by
  unfold State.releaseLine
  extract_lets d e t entry
  have ht : s.Framed t := modCore s c _ rfl ⟨rfl, rfl, rfl⟩
  clear_value t
  exact ht.trans (ite _ (cleanLines t c .lane _) (of_cores rfl rfl))

/-- A slot that a wave's own store never names keeps its reservation. -/
theorem clearReservation (s : State) {c i : Nat} (h : some (s.curCore, s.curSlot) ≠ some (c, i)) :
    s.Framed (s.modWaveAt c i (fun w => { w with reservation := none })) where
  side := .modWaveAt s c i _
  slot := s.slotAt_modSlotAt_other _ (fun hsame => h (by rw [hsame.1, hsame.2]))
  regs d := by
    unfold State.modWaveAt State.modSlotAt
    by_cases hd : d = c
    · rw [hd, State.core_modCore_same]
      exact ⟨rfl, rfl, rfl⟩
    · rw [State.core_modCore_other _ _ hd]
      exact ⟨rfl, rfl, rfl⟩

/-- A wave's own store breaks no reservation of its own. -/
theorem breakBlock (s : State) (pa n : Nat) : s.Framed (s.breakBlock pa n (some (s.curCore, s.curSlot))) := by
  unfold State.breakBlock
  refine List.foldlRecOn (motive := fun t : State => s.Framed t) _ _ (refl s) (fun t ht c _ => ?_)
  refine List.foldlRecOn (motive := fun t : State => s.Framed t) _ _ ht (fun t ht k _ => ?_)
  split
  · next h =>
    refine ht.trans (clearReservation t ?_)
    rw [ht.side.curCore, ht.side.curSlot]
    exact h.2
  · exact ht

theorem usedFree (s : State) (pa n : Nat) : s.Framed (s.usedFree pa n) := by
  unfold State.usedFree
  dsimp only
  split <;> exact of_cores rfl rfl

end State.Framed

/-! ### Where nothing waits to be written back -/

/-- No data line of the core that acts has dirty bytes. -/
def State.clean (s : State) : Prop := ∀ k, k = .lane ∨ k = .hart → ∀ l ∈ (s.core s.curCore).lines k, l.dirty = 0

theorem settled_iff (s : State) : settled s ↔ s.clean ∧ s.hostCopies = [] ∧ ∀ d, (s.die d).reldir = [] := by
  have hlines : (∀ l ∈ (s.core s.curCore).laneL1 ++ (s.core s.curCore).hartData, l.dirty = 0) ↔ s.clean := by
    constructor
    · rintro h k (rfl | rfl) l hl
      · exact h l (List.mem_append_left _ hl)
      · exact h l (List.mem_append_right _ hl)
    · intro h l hl
      rcases List.mem_append.mp hl with hlane | hhart
      · exact h .lane (.inl rfl) l hlane
      · exact h .hart (.inr rfl) l hhart
  unfold settled
  rw [hlines]

theorem CacheLine.dirty_refill (l : CacheLine) (home : Nat) : (l.refill home).dirty = l.dirty := by simp only [CacheLine.refill]

/-- Clean lines are written back without effect. -/
theorem State.writeBacks_of_clean (s : State) {ls : List CacheLine} (h : ∀ l ∈ ls, l.dirty = 0) :
    ls.foldl State.writeBack s = s := by
  induction ls with
  | nil => rfl
  | cons l ls ih =>
    have hl : s.writeBack l = s := by rw [State.writeBack, if_pos (h l List.mem_cons_self)]
    rw [List.foldl_cons, hl]
    exact ih (fun m hm => h m (List.mem_cons_of_mem _ hm))

theorem State.lines_modCore (s : State) (c : Nat) (f : Core → Core) (hf : ∀ k, (f (s.core c)).lines k = (s.core c).lines k)
    (d : Nat) (k : CacheId) : ((s.modCore c f).core d).lines k = (s.core d).lines k := by
  by_cases h : d = c
  · rw [h, State.core_modCore_same, hf]
  · rw [State.core_modCore_other _ _ h]

theorem State.lines_modWaveAt (s : State) (c i : Nat) (f : Wave → Wave) (d : Nat) (k : CacheId) :
    ((s.modWaveAt c i f).core d).lines k = (s.core d).lines k :=
  s.lines_modCore c _ (fun k => by cases k <;> rfl) d k

theorem clean_modWaveAt {s : State} (c i : Nat) (f : Wave → Wave) (h : s.clean) : (s.modWaveAt c i f).clean := by
  intro k hk l hl
  rw [State.lines_modWaveAt] at hl
  exact h k hk l hl

/-- A change of a wave leaves it so that nothing waits. -/
theorem settled_modWaveAt {s : State} (c i : Nat) (f : Wave → Wave) (h : settled s) : settled (s.modWaveAt c i f) := by
  obtain ⟨hclean, hrest⟩ := (settled_iff s).mp h
  exact (settled_iff _).mpr ⟨clean_modWaveAt c i f hclean, hrest⟩

/-- `t` is `s` after such work that, where nothing waits to be written back, leaves memory and that as they are. -/
structure State.Works (s t : State) : Prop extends s.Framed t where
  settles : settled s → settled t ∧ t.mem = s.mem

namespace State.Works

theorem refl (s : State) : s.Works s := ⟨.refl s, fun h => ⟨h, rfl⟩⟩

theorem trans {s t u : State} (h : s.Works t) (h' : t.Works u) : s.Works u where
  toFramed := h.toFramed.trans h'.toFramed
  settles hs := by
    obtain ⟨ht, hmem⟩ := h.settles hs
    obtain ⟨hu, hmem'⟩ := h'.settles ht
    exact ⟨hu, hmem'.trans hmem⟩

theorem foldl {α : Type} {f : State → α → State} (hf : ∀ (s : State) (a : α), s.Works (f s a)) (l : List α) (s : State) :
    s.Works (l.foldl f s) :=
  List.foldlRecOn (motive := fun t : State => s.Works t) l f (refl s) (fun t h a _ => h.trans (hf t a))

theorem ite {s a b : State} (p : Prop) [Decidable p] (ha : s.Works a) (hb : s.Works b) : s.Works (if p then a else b) := by
  split
  · exact ha
  · exact hb

/-- Work that leaves the cores, memory, the host's copies and the release directories alone. -/
theorem of_home {s t : State} (hside : s.CoreSide t) (hcores : t.cores = s.cores) (hmem : t.mem = s.mem)
    (hhost : t.hostCopies = s.hostCopies) (hdir : ∀ d, (t.die d).reldir = (s.die d).reldir) : s.Works t where
  toFramed := .of_cores hside hcores
  settles hs := by
    obtain ⟨hclean, hcopies, hempty⟩ := (settled_iff s).mp hs
    refine ⟨(settled_iff t).mpr ⟨?_, hhost.trans hcopies, fun d => (hdir d).trans (hempty d)⟩, hmem⟩
    unfold State.clean
    rwa [hside.core hcores, hside.curCore]

theorem modDie (s : State) (d : Nat) (f : Die → Die) (hf : (f (s.die d)).reldir = (s.die d).reldir) :
    s.Works (s.modDie d f) := by
  refine of_home (.modDie s d f) rfl rfl rfl (fun e => ?_)
  by_cases h : e = d
  · rw [h, State.die_modDie_same]
    exact hf
  · rw [State.die, State.modDie, Table.get_put_other _ _ _ h]
    rfl

theorem touchL2 (s : State) (pa dom : Nat) (b : Bool) : s.Works (s.touchL2 pa dom b) := by
  unfold State.touchL2
  exact ite _ (of_home rfl rfl rfl rfl (fun _ => rfl)) (ite _ (refl s) (modDie s _ _ rfl))

theorem usedFree (s : State) (pa n : Nat) : s.Works (s.usedFree pa n) := by
  unfold State.usedFree
  dsimp only
  split <;> exact of_home rfl rfl rfl rfl (fun _ => rfl)

/-- The acting core's lines of a data cache are replaced by clean ones, after clean ones were written back. -/
theorem replaceLines (s : State) {ws ls : List CacheLine} {c : Nat} {k : CacheId} (hc : c = s.curCore) (hk : k = .lane ∨ k = .hart)
    (hws : ∀ l ∈ ws, l ∈ (s.core c).lines k) (hls : ∀ l ∈ ls, l.dirty = 0 ∨ ∃ m ∈ (s.core c).lines k, l.dirty = m.dirty) :
    s.Works ((ws.foldl State.writeBack s).modCore c (fun d => d.setLines k ls)) where
  toFramed := .replaceLines s ws c k ls
  settles hs := by
    subst hc
    obtain ⟨hclean, hcopies, hempty⟩ := (settled_iff s).mp hs
    rw [s.writeBacks_of_clean (fun l hl => hclean k hk l (hws l hl))]
    refine ⟨(settled_iff _).mpr ⟨fun j hj l hl => ?_, hcopies, hempty⟩, rfl⟩
    change l ∈ ((s.modCore s.curCore (fun d => d.setLines k ls)).core s.curCore).lines j at hl
    rw [State.core_modCore_same] at hl
    by_cases hjk : j = k
    · rw [hjk, Core.lines_setLines_same] at hl
      rcases hls l hl with hzero | ⟨m, hm, hsame⟩
      · exact hzero
      · exact hsame.trans (hclean k hk m hm)
    · rw [Core.lines_setLines_other _ _ hjk] at hl
      exact hclean j hj l hl

section Lines

variable (s : State) {c : Nat} {k : CacheId} (hc : c = s.curCore) (hk : k = .lane ∨ k = .hart)
include hc hk

theorem dropLines (q : CacheLine → Bool) : s.Works (s.dropLines c k q) :=
  replaceLines s hc hk (fun _ hl => List.mem_of_mem_filter hl) (fun l hl => .inr ⟨l, List.mem_of_mem_filter hl, rfl⟩)

theorem cleanLines (q : CacheLine → Bool) : s.Works (s.cleanLines c k q) := by
  refine replaceLines s hc hk (fun _ hl => List.mem_of_mem_filter hl) (fun l hl => ?_)
  obtain ⟨m, hm, rfl⟩ := List.mem_map.mp hl
  split
  · exact .inl rfl
  · exact .inr ⟨m, hm, rfl⟩

/-- A clean line is kept. -/
theorem keepLine {l : CacheLine} (hl : l.dirty = 0) : s.Works (s.keepLine c k l) := by
  refine replaceLines s hc hk (fun _ hm => List.mem_of_mem_filter (List.mem_of_mem_drop hm)) (fun m hm => ?_)
  rcases List.mem_cons.mp hm with rfl | hrest
  · exact .inl hl
  · exact .inr ⟨m, List.mem_of_mem_filter (List.mem_of_mem_take hrest), rfl⟩

end Lines

section Acting

variable (s : State) {c : Nat} (hc : c = s.curCore)
include hc

theorem toHome (pa : Nat) : s.Works (s.toHome c pa) := dropLines s hc (.inl rfl) _

theorem releaseAt (b : Bool) : s.Works (s.releaseAt c b) := by
  unfold State.releaseAt
  exact ite _ (cleanLines s hc (.inl rfl) _) (refl s)

theorem hartTouch (dom pasid va pa : Nat) : s.Works (s.hartTouch c dom pasid va pa) := by
  unfold State.hartTouch
  extract_lets t u
  have ht : s.Works t := dropLines s hc (.inl rfl) _
  have hct : c = t.curCore := hc.trans ht.side.curCore.symm
  have hu : t.Works u := dropLines t hct (.inr rfl) _
  exact (ht.trans hu).trans (keepLine u (hct.trans hu.side.curCore.symm) (.inr rfl) rfl)

theorem refreshL1 (dom : Nat) : s.Works (s.refreshL1 c dom) := by
  unfold State.refreshL1
  extract_lets kept t
  have hkept : ∀ l ∈ kept, l ∈ (s.core c).laneL1 := fun l hl => List.mem_of_mem_filter hl
  have ht : s.Works t := foldl (fun s l => ite _ (touchL2 s _ _ _) (refl s)) kept s
  have hcores : t.cores = s.cores := List.foldlRecOn (motive := fun t : State => t.cores = s.cores) kept _ rfl (fun u hu l _ => by
    split
    · exact (u.touchL2_cores _ _ _).trans hu
    · exact hu)
  clear_value t
  refine ht.trans (replaceLines t (ws := []) (k := .lane) (hc.trans ht.side.curCore.symm) (.inl rfl) (fun _ hl => nomatch hl)
    (fun l hl => ?_))
  obtain ⟨m, hm, rfl⟩ := List.mem_map.mp hl
  rw [ht.side.core hcores]
  refine .inr ⟨m, hkept m hm, ?_⟩
  split
  · exact CacheLine.dirty_refill m _
  · rfl

/-- Where nothing waits at a home, an acquire has no core to drain. -/
theorem acquireLine (dom pa : Nat) : s.Works (s.acquireLine c dom pa) where
  toFramed := .acquireLine s c dom pa
  settles hs := by
    obtain ⟨-, -, hempty⟩ := (settled_iff s).mp hs
    have hnone : s.acquireLine c dom pa = s.refreshL1 c dom := by
      have hline : Table.get (s.die (s.homeDie pa)).reldir (pa / 64) [] = [] := by rw [hempty]; rfl
      simp only [State.acquireLine, hline, List.filter_nil, List.foldl_nil]
    rw [hnone]
    exact (refreshL1 s hc dom).settles hs

end Acting

theorem placeAtomic (s : State) (c pa hint : Nat) : s.Works (s.placeAtomic c pa hint) := by
  refine modDie s _ _ ?_
  extract_lets line key n
  split <;> rfl

/-- A wave's own store breaks reservations alone. -/
theorem breakBlock (s : State) (pa n : Nat) : s.Works (s.breakBlock pa n (some (s.curCore, s.curSlot))) where
  toFramed := .breakBlock s pa n
  settles hs := by
    refine ⟨?_, s.breakBlock_mem _ _ _⟩
    unfold State.breakBlock
    refine List.foldlRecOn (motive := fun t : State => settled t) _ _ hs (fun t ht c _ => ?_)
    refine List.foldlRecOn (motive := fun t : State => settled t) _ _ ht (fun t ht k _ => ?_)
    split
    · exact settled_modWaveAt _ _ _ ht
    · exact ht

end State.Works

/-! ### A release (R188) -/

/-- Writing back cleans no line to a dirty one. -/
theorem State.WroteBack.clean {s t : State} (h : s.WroteBack t) (hs : s.clean) : t.clean := by
  intro k hk
  rw [h.side.curCore]
  exact h.all (P := fun l => l.dirty = 0) (fun _ _ => rfl) (hs k hk)

theorem State.mem_cleanLines (s : State) (q : CacheLine → Bool) (h : s.clean) :
    (s.cleanLines s.curCore .lane q).mem = s.mem := by
  change (((s.core s.curCore).lines .lane |>.filter q).foldl State.writeBack s).mem = s.mem
  rw [s.writeBacks_of_clean (fun l hl => h .lane (.inl rfl) l (List.mem_of_mem_filter hl))]

theorem State.mem_toHome (s : State) (pa : Nat) (h : s.clean) : (s.toHome s.curCore pa).mem = s.mem := by
  change (((s.core s.curCore).lines .lane |>.filter _).foldl State.writeBack s).mem = s.mem
  rw [s.writeBacks_of_clean (fun l hl => h .lane (.inl rfl) l (List.mem_of_mem_filter hl))]

/-- A release leaves memory as it is, and no dirty line, where there is none. -/
theorem State.clean_releaseLine (s : State) (pa : Nat) (h : s.clean) :
    (s.releaseLine s.curCore pa).clean ∧ (s.releaseLine s.curCore pa).mem = s.mem := by
  unfold State.releaseLine
  extract_lets d e t entry
  have ht : t.clean := fun k hk l hl => h k hk l (by
    rwa [s.lines_modCore s.curCore _ (fun j => by cases j <;> rfl)] at hl)
  split
  · exact ⟨(State.WroteBack.cleanLines t s.curCore .lane _).clean ht, t.mem_cleanLines _ ht⟩
  · exact ⟨ht, rfl⟩

end Sys2Proof.Machine

namespace Sys2Proof.Machine
open Sys2Proof.Claims

/-! ## Where a hart access goes, and what it moves -/

/-! ### The address (R177, R178) -/

/-- `t` is `s` after addresses were looked up: the stations and the count of free values are its own. -/
def State.Looked (s t : State) : Prop := t = { s with stations := t.stations, freeCount := t.freeCount }

theorem State.Looked.tookFree {s t : State} (h : s.Looked t) : s.Looked t.tookFree := by
  unfold State.Looked at h ⊢
  rw [h]
  rfl

theorem State.looked_translateWith (s : State) (k pasid dom va : Nat) (chk : LeafChecks) :
    s.Looked (s.translateWith k pasid dom va chk).1 := by
  unfold State.translateWith
  split
  · rfl
  · split
    · rfl
    · split <;> rfl

theorem State.looked_translate (s : State) (k : Nat) (r : StationReq) : s.Looked (s.translate k r).1 := by
  have hwith := s.looked_translateWith k r.pasid r.dom r.va (requestChecks r)
  unfold State.translate
  generalize s.translateWith k r.pasid r.dom r.va (requestChecks r) = q at hwith ⊢
  obtain ⟨t, e | g⟩ := q
  · exact hwith
  · dsimp only at hwith ⊢
    split <;> exact hwith

/-- An access that goes somewhere has only looked its address up. -/
theorem State.looked_resolve {s u : State} {c i : Nat} {w : Wave} {cache : CacheId} {k : AccKind} {va n : Nat} {d : Dest}
    (h : s.resolve c i w cache k va n = (u, .ok d)) : s.Looked u := by
  unfold State.resolve at h
  split at h
  · cases h
  · extract_lets r at h
    have hlooked := s.looked_translate (stationOf (dieOf c) va) r
    generalize s.translate (stationOf (dieOf c) va) r = q at hlooked h
    obtain ⟨t, e | g⟩ := q
    · cases h
    · have hdone {v : State} {x : Dest} (hv : s.Looked v)
          (heq : (v, (Except.ok x : Except ReqFault Dest)) = (u, .ok d)) : s.Looked u :=
        (Prod.mk.inj heq).1 ▸ hv
      dsimp only at hlooked h
      split at h
      · split at h
        · cases h
        · split at h
          · exact hdone hlooked h
          · split at h
            · cases h
            · split at h
              · cases h
              · exact hdone hlooked h
      · exact hdone hlooked h
      · split at h
        · cases h
        · exact hdone hlooked.tookFree h
      · split at h
        · cases h
        · exact hdone hlooked h

/-! ### Bytes below the core caches -/

theorem State.CoreSide.paKind {s t : State} (h : s.CoreSide t) (pa : Nat) : t.paKind pa = s.paKind pa := by
  rw [h]
  rfl

/-- The bytes of device or host memory, where the host holds no line of the device. -/
theorem State.readPhys_of_memory (s : State) (pa n : Nat) (hkind : s.paKind pa = .dram ∨ s.paKind pa = .host)
    (hhost : s.hostCopies = []) : s.readPhys pa n = Bytes.readLE s.mem pa n := by
  unfold State.readPhys
  rcases hkind with hk | hk <;> rw [hk, if_pos hhost]

theorem State.mem_writePhys_of_memory (s : State) (pa : Nat) (bs : List Byte)
    (hkind : s.paKind pa = .dram ∨ s.paKind pa = .host) : (s.writePhys pa bs).mem = Bytes.writeList s.mem pa bs := by
  rw [State.mem_writePhys, if_neg]
  rcases hkind with hk | hk <;> simp [hk]

/-- Bytes read after work that left memory alone. -/
theorem State.Works.readPhys {s t : State} (h : s.Works t) (hs : settled s) {pa : Nat}
    (hkind : s.paKind pa = .dram ∨ s.paKind pa = .host) (n : Nat) : t.readPhys pa n = Bytes.readLE s.mem pa n := by
  obtain ⟨ht, hmem⟩ := h.settles hs
  obtain ⟨-, hcopies, -⟩ := (settled_iff t).mp ht
  rw [t.readPhys_of_memory pa n (by rwa [h.side.paKind]) hcopies, hmem]

/-- A hart read of memory: work that leaves memory alone, and the bytes there. -/
theorem State.readDest_memory (s : State) (w : Wave) (acq : Bool) (n va : Nat) (t : Target) :
    s.Works (s.readDest s.curCore w .hart acq n (.mem va t)).1 ∧
      (settled s → s.paKind t.pa = .dram ∨ s.paKind t.pa = .host →
        (s.readDest s.curCore w .hart acq n (.mem va t)).2 = Bytes.readLE s.mem t.pa n) := by
  have htail {u : State} (hu : s.Works u) : s.Works ((u.touchL2 t.pa w.dom false).usedFree t.pa n) :=
    (hu.trans (.touchL2 u _ _ _)).trans (.usedFree _ _ _)
  have hhome := State.Works.toHome s rfl t.pa
  unfold State.readDest
  dsimp only
  split
  · have hacquired := hhome.trans (.acquireLine _ hhome.side.curCore.symm w.dom t.pa)
    exact ⟨htail hacquired, fun hs hk => hacquired.readPhys hs hk n⟩
  · split
    · next h => exact absurd rfl h.2
    · split
      · have htouched := State.Works.hartTouch s rfl w.dom w.pasid va t.pa
        exact ⟨htouched.trans (.touchL2 _ _ _ _), fun hs hk => htouched.readPhys hs hk n⟩
      · exact ⟨htail hhome, fun hs hk => hhome.readPhys hs hk n⟩

/-- `t` is `s` after work that may be a release: where nothing waited to be written back, memory is as it was and no line of
the core that acts is dirty. -/
structure State.Keeps (s t : State) : Prop extends s.Framed t where
  keeps : settled s → t.clean ∧ t.mem = s.mem

/-- `t` has the bytes `bs` at `pa`, and else the memory of `s`, where nothing waited to be written back. -/
structure State.Writes (s t : State) (pa : Nat) (bs : List Byte) : Prop extends s.Framed t where
  bytes : settled s → t.mem = Bytes.writeList s.mem pa bs

theorem State.Works.keepsMemory {s t : State} (h : s.Works t) : s.Keeps t where
  toFramed := h.toFramed
  keeps hs := by
    obtain ⟨ht, hmem⟩ := h.settles hs
    exact ⟨((settled_iff t).mp ht).1, hmem⟩

namespace State.Keeps

theorem ite {s a b : State} (p : Prop) [Decidable p] (ha : s.Keeps a) (hb : s.Keeps b) : s.Keeps (if p then a else b) := by
  split
  · exact ha
  · exact hb

section Steps

variable {s t : State} (h : s.Keeps t)
include h

theorem releaseLine {c : Nat} (hc : c = s.curCore) (pa : Nat) : s.Keeps (t.releaseLine c pa) where
  toFramed := h.toFramed.trans (.releaseLine t c pa)
  keeps hs := by
    obtain ⟨hclean, hmem⟩ := h.keeps hs
    rw [hc, ← h.side.curCore]
    obtain ⟨hclean', hmem'⟩ := t.clean_releaseLine pa hclean
    exact ⟨hclean', hmem'.trans hmem⟩

theorem toHome {c : Nat} (hc : c = s.curCore) (pa : Nat) : s.Keeps (t.toHome c pa) where
  toFramed := h.toFramed.trans (.dropLines t c .lane _)
  keeps hs := by
    obtain ⟨hclean, hmem⟩ := h.keeps hs
    rw [hc, ← h.side.curCore]
    exact ⟨(State.WroteBack.dropLines t _ .lane _).clean hclean, (t.mem_toHome pa hclean).trans hmem⟩

theorem breakBlock (pa n : Nat) : s.Keeps (t.breakBlock pa n (some (s.curCore, s.curSlot))) where
  toFramed := by
    rw [← h.side.curCore, ← h.side.curSlot]
    exact h.toFramed.trans (.breakBlock t pa n)
  keeps hs := by
    obtain ⟨hclean, hmem⟩ := h.keeps hs
    refine ⟨?_, (t.breakBlock_mem _ _ _).trans hmem⟩
    unfold State.breakBlock
    refine List.foldlRecOn (motive := fun u : State => u.clean) _ _ hclean (fun u hu c _ => ?_)
    refine List.foldlRecOn (motive := fun u : State => u.clean) _ _ hu (fun u hu k _ => ?_)
    split
    · exact clean_modWaveAt _ _ _ hu
    · exact hu

/-- The last step of a write: the bytes reach their home. -/
theorem write (dom : Nat) {pa : Nat} (hkind : s.paKind pa = .dram ∨ s.paKind pa = .host) (bs : List Byte) :
    s.Writes ((t.touchL2 pa dom true).writePhys pa bs) pa bs where
  toFramed := (h.toFramed.trans (.touchL2 t _ _ _)).trans (.writePhys _ _ _)
  bytes hs := by
    have hside := h.side.trans (.touchL2 t pa dom true)
    rw [State.mem_writePhys_of_memory _ _ _ (by rwa [hside.paKind]), State.touchL2_mem, (h.keeps hs).2]

end Steps

end State.Keeps

/-- A hart write of memory puts its bytes there. -/
theorem State.writeDest_memory (s : State) (w : Wave) (ord scope : Nat) (rel : Bool) (bs : List Byte) (va : Nat) {t : Target}
    (hkind : s.paKind t.pa = .dram ∨ s.paKind t.pa = .host) :
    s.Writes (s.writeDest s.curCore s.curSlot w .hart ord scope rel bs (.mem va t)) t.pa bs := by
  have hbroken := State.Works.breakBlock s t.pa bs.length
  have hcore := hbroken.side.curCore.symm
  unfold State.writeDest
  dsimp only
  split
  · exact ((hbroken.keepsMemory.releaseLine rfl t.pa).toHome rfl t.pa).write w.dom hkind bs
  · split
    · next h => exact absurd h.2 (by decide)
    · split
      · exact (hbroken.trans (.hartTouch _ hcore w.dom w.pasid va t.pa)).keepsMemory.write w.dom hkind bs
      · exact (hbroken.trans (.toHome _ hcore t.pa)).keepsMemory.write w.dom hkind bs

/-- What an atomic on memory does before it reads: the line is placed, the core's own copies leave it, and an acquire drains it. -/
def State.atomicReady (s : State) (dom hint : Nat) (acq : Bool) (t : Target) : State :=
  let p := if t.mt = 0 ∧ s.paKind t.pa = .dram then s.placeAtomic s.curCore t.pa hint else s
  let q := (p.toHome s.curCore t.pa).dropLines s.curCore .hart (fun l => l.pline = t.pa / 64)
  if acq then q.acquireLine s.curCore dom t.pa else q

theorem State.works_atomicReady (s : State) (dom hint : Nat) (acq : Bool) (t : Target) :
    s.Works (s.atomicReady dom hint acq t) := by
  unfold State.atomicReady
  extract_lets p q
  have hp : s.Works p := .ite _ (.placeAtomic s _ _ _) (.refl s)
  have hhome : s.Works (p.toHome s.curCore t.pa) := hp.trans (.toHome p hp.side.curCore.symm t.pa)
  have hq : s.Works q := hhome.trans (.dropLines _ hhome.side.curCore.symm (.inr rfl) _)
  exact .ite _ (hq.trans (.acquireLine q hq.side.curCore.symm dom t.pa)) hq

/-- An atomic on memory that is no peer's, in its steps. -/
theorem State.atomicDest_eq (s : State) (w : Wave) (fadd : Nat → Nat → Nat → Nat) (op ty wd ord scope hint : Nat)
    (sgn acq rel : Bool) (n operand va : Nat) {t : Target} (hkind : (s.atomicReady w.dom hint acq t).paKind t.pa ≠ .peer) :
    s.atomicDest s.curCore s.curSlot w fadd (.rmw op ty sgn wd) ord scope hint acq rel n operand (.mem va t) =
      let u := (s.atomicReady w.dom hint acq t).usedFree t.pa n
      let old := (s.atomicReady w.dom hint acq t).readPhys t.pa n
      (((((if rel then u.releaseLine s.curCore t.pa else u).breakBlock t.pa n (some (s.curCore, s.curSlot))).touchL2 t.pa w.dom
        true).writePhys t.pa (leBytes n (amoNew (fadd ty) op sgn wd old operand))), old) :=
  if_neg hkind

/-- An atomic on memory answers the old bytes and puts its result there. -/
theorem State.atomicDest_memory (s : State) (w : Wave) (fadd : Nat → Nat → Nat → Nat) (op ty wd ord scope hint : Nat)
    (sgn acq rel : Bool) (n operand va : Nat) {t : Target} (hkind : s.paKind t.pa = .dram ∨ s.paKind t.pa = .host) :
    let r := s.atomicDest s.curCore s.curSlot w fadd (.rmw op ty sgn wd) ord scope hint acq rel n operand (.mem va t)
    s.Writes r.1 t.pa (leBytes n (amoNew (fadd ty) op sgn wd r.2 operand)) ∧
      (settled s → r.2 = Bytes.readLE s.mem t.pa n) := by
  have hready := s.works_atomicReady w.dom hint acq t
  have hpeer : (s.atomicReady w.dom hint acq t).paKind t.pa ≠ .peer := by
    rw [hready.side.paKind]
    rcases hkind with hk | hk <;> simp [hk]
  intro r
  have hr : r = _ := s.atomicDest_eq w fadd op ty wd ord scope hint sgn acq rel n operand va hpeer
  rw [hr]
  have hused := (hready.trans (.usedFree _ t.pa n)).keepsMemory
  refine ⟨?_, fun hs => hready.readPhys hs hkind n⟩
  exact ((State.Keeps.ite _ (hused.releaseLine rfl t.pa) hused).breakBlock t.pa n).write w.dom hkind _

/-! ### A hart word that leads to memory -/

theorem hartKept_of_looked {s u : State} (h : s.Looked u) : hartKept s u s.wave.reservation := by
  rw [h]
  exact ⟨rfl, rfl, rfl, fun _ => ⟨rfl, rfl, rfl⟩⟩

theorem settled_of_looked {s u : State} (h : s.Looked u) (hs : settled s) : settled u := by
  rw [h]
  exact hs

theorem State.Looked.mem {s u : State} (h : s.Looked u) : u.mem = s.mem := (congrArg State.mem h).trans rfl
theorem State.Looked.lat {s u : State} (h : s.Looked u) : u.lat = s.lat := (congrArg State.lat h).trans rfl

/-- Work on memory keeps what a hart word must keep. -/
theorem hartKept_framed {s t u : State} {r : Option Nat} (h : hartKept s t r) (h' : t.Framed u) : hartKept s u r := by
  obtain ⟨hwave, hcore, hslot, hregs⟩ := h
  refine ⟨h'.wave.trans hwave, h'.side.curCore.trans hcore, h'.side.curSlot.trans hslot, fun c => ?_⟩
  obtain ⟨hreg, hacc, hobuf⟩ := hregs c
  obtain ⟨hreg', hacc', hobuf'⟩ := h'.regs c
  exact ⟨hreg'.trans hreg, hacc'.trans hacc, hobuf'.trans hobuf⟩

/-- A new reservation is all that changes with it. -/
theorem hartKept_reserve {s t : State} {r : Option Nat} (h : hartKept s t r) (r' : Option Nat) :
    hartKept s (t.modWave (fun q => { q with reservation := r' })) r' := by
  obtain ⟨hwave, hcore, hslot, hregs⟩ := h
  refine ⟨?_, hcore, hslot, fun c => ?_⟩
  · rw [State.wave_modWave, hwave]
  · rw [State.modWave, State.modWaveAt, State.modSlotAt]
    by_cases hc : c = t.curCore
    · subst hc
      rw [State.core_modCore_same]
      exact hregs _
    · rw [State.core_modCore_other _ _ hc]
      exact hregs c

/-- What leads to memory, taken apart. -/
theorem hartTo_cases {s u : State} {k : AccKind} {a n va : Nat} {t : Target} (h : hartTo s k a n u va t) (cause : Nat) :
    hartCheck k cause a n = none ∧ s.resolve s.curCore s.curSlot s.wave .hart k a n = (u, .ok (.mem va t)) ∧
      (u.paKind t.pa = .dram ∨ u.paKind t.pa = .host) ∧ s.Looked u := by
  obtain ⟨haligned, hrange, hresolve, hkind⟩ := h
  have hin : outside49 a n = false := decide_eq_false (Nat.not_lt.mpr hrange)
  have hnone : hartCheck k cause a n = none := by simp [hartCheck, haligned, hin]
  exact ⟨hnone, hresolve, hkind, State.looked_resolve hresolve⟩

theorem hartCheck_of_misaligned (k : AccKind) (cause : Nat) {a n : Nat} (h : a % n ≠ 0) :
    hartCheck k cause a n = some (.trap cause (BitVec.ofNat 64 a)) := if_pos h

end Sys2Proof.Machine

namespace Sys2Proof.Machine
open Sys2Proof.Claims

/-! ## O26: scalar loads and stores -/

theorem sameMemory_of_mem {s q : State} (h : q.mem = s.mem) : sameMemory s q := fun a => by rw [h]

theorem hartKept_wave {s q : State} (h : hartKept s q s.wave.reservation) : q.wave = s.wave := h.1

/-- A number written in little-endian order at `pa` stands there byte by byte. -/
theorem storedAt_of_mem {s q : State} {pa n v : Nat} (h : q.mem = Bytes.writeList s.mem pa (leBytes n v)) :
    storedAt s q pa n v := by
  refine ⟨fun k hk => ?_, fun b hb => ?_⟩
  · rw [h, Bytes.read_writeList_leBytes, if_pos (by omega), Nat.add_sub_cancel_left, BitVec.toNat_ofNat]
  · rw [h, Bytes.read_writeList_leBytes, if_neg (by omega)]

theorem wrapTo_eq_toNat (w : Nat) (y : Int) : wrapTo w y = (BitVec.ofInt w y).toNat := by
  rw [BitVec.toNat_ofInt, wrapTo]
  push_cast
  rfl

/-- A loaded value, extended as its load says. -/
theorem loadValue_eq (n : Nat) (sgn : Bool) (v : Nat) :
    loadValue n sgn v = if sgn then BitVec.ofInt 64 (toSigned (8 * n) v) else BitVec.ofNat 64 v := by
  cases sgn with
  | false => rfl
  | true =>
    refine BitVec.eq_of_toNat_eq ?_
    change (BitVec.ofNat 64 (wrapTo 64 (toSigned (8 * n) v))).toNat = _
    rw [wrapTo_eq_toNat, BitVec.ofNat_toNat, BitVec.setWidth_eq]
    rfl

/-- A hart load that leads to memory answers the bytes there, and else does only work that leaves memory alone. -/
theorem hartLoad_memory {s u : State} {a n va : Nat} {t : Target} (h : hartTo s .load a n u va t) (locs : List Loc) (acq : Bool)
    (ack : AckPut) (put : Nat → List Upd) : ∃ q v, hartLoad s s.wave a n locs acq ack put = .later q (put v) [] locs s.lat.l2 ∧
      hartKept s q s.wave.reservation ∧ (settled s → v = Bytes.readLE s.mem t.pa n ∧ sameMemory s q) := by
  obtain ⟨hcheck, hresolve, hkind, hlooked⟩ := hartTo_cases h 4
  obtain ⟨hworks, hread⟩ := u.readDest_memory s.wave acq n va t
  refine ⟨(u.readDest u.curCore s.wave .hart acq n (.mem va t)).1, (u.readDest u.curCore s.wave .hart acq n (.mem va t)).2, ?_,
    hartKept_framed (hartKept_of_looked hlooked) hworks.toFramed, fun hs => ?_⟩
  · rw [hartLoad, hcheck]
    dsimp only
    rw [hresolve, ← hlooked.lat]
  · have hu := settled_of_looked hlooked hs
    exact ⟨(hread hu hkind).trans (by rw [hlooked.mem]), sameMemory_of_mem ((hworks.settles hu).2.trans hlooked.mem)⟩

/-- A hart store that leads to memory puts its bytes there. -/
theorem hartStore_memory {s u : State} {a n va : Nat} {t : Target} (h : hartTo s .store a n u va t) (v : Nat) :
    ∃ q, hartStore s s.wave a n v = .now q [] none id ∧ hartKept s q s.wave.reservation ∧
      (settled s → storedAt s q t.pa n v) := by
  obtain ⟨hcheck, hresolve, hkind, hlooked⟩ := hartTo_cases h 6
  have hwrites := u.writeDest_memory s.wave 0 0 false (leBytes n v) va hkind
  refine ⟨_, ?_, hartKept_framed (hartKept_of_looked hlooked) hwrites.toFramed, fun hs => storedAt_of_mem ?_⟩
  · rw [hartStore, hcheck]
    dsimp only
    rw [hresolve]
  · rw [hwrites.bytes (settled_of_looked hlooked hs), hlooked.mem]

theorem hartLoad_misaligned {s : State} {a n : Nat} (h : a % n ≠ 0) (w : Wave) (locs : List Loc) (acq : Bool) (ack : AckPut)
    (put : Nat → List Upd) : hartLoad s w a n locs acq ack put = .trap 4 (BitVec.ofNat 64 a) := by
  rw [hartLoad, hartCheck_of_misaligned _ _ h]

theorem hartStore_misaligned {s : State} {a n : Nat} (h : a % n ≠ 0) (w : Wave) (v : Nat) :
    hartStore s w a n v = .trap 6 (BitVec.ofNat 64 a) := by
  rw [hartStore, hartCheck_of_misaligned _ _ h]

/-- A word that is a hart load: it traps where it is misaligned, and answers the bytes of the memory it leads to. -/
theorem loadWord {i : Rv} {s : State} {a n : Nat} {locs : List Loc} {ack : AckPut} {put : Nat → List Upd}
    (h : rvOpen i s = true) (hp : rvPerform i s.wave s = hartLoad s s.wave a n locs false ack put) :
    (a % n ≠ 0 → exec (.riscvScalarInstruction i) s = (Issue.trap 4 (BitVec.ofNat 64 a) s).finish) ∧
    (∀ (u : State) (va : Nat) (t : Target), hartTo s .load a n u va t →
      ∃ (q : State) (v : Nat),
        Completes (.riscvScalarInstruction i) s (q.afterLong 4 0 s.lat.l2 (liveLocs locs) (put v)) ∧
        hartKept s q s.wave.reservation ∧ (settled s → v = Bytes.readLE s.mem t.pa n ∧ sameMemory s q)) := by
  refine ⟨fun hmis => rv_of_trap h (hp.trans (hartLoad_misaligned hmis _ _ _ _ _)), fun u va t hto => ?_⟩
  obtain ⟨q, v, hload, hkept, hvalue⟩ := hartLoad_memory hto locs false ack put
  exact ⟨q, v, completes_rv_later h (hp.trans hload), hkept, hvalue⟩

/-- A word that is a hart store. -/
theorem storeWord {i : Rv} {s : State} {a n v : Nat} (h : rvOpen i s = true)
    (hp : rvPerform i s.wave s = hartStore s s.wave a n v) :
    (a % n ≠ 0 → exec (.riscvScalarInstruction i) s = (Issue.trap 6 (BitVec.ofNat 64 a) s).finish) ∧
    (∀ (u : State) (va : Nat) (t : Target), hartTo s .store a n u va t →
      ∃ q : State, Completes (.riscvScalarInstruction i) s (q.issued 4) ∧
        hartKept s q s.wave.reservation ∧ (settled s → storedAt s q t.pa n v)) := by
  refine ⟨fun hmis => rv_of_trap h (hp.trans (hartStore_misaligned hmis _ _)), fun u va t hto => ?_⟩
  obtain ⟨q, hstore, hkept, hbytes⟩ := hartStore_memory hto v
  exact ⟨q, completes_rv_none h (hp.trans hstore) (hartKept_wave hkept), hkept, hbytes⟩

theorem rvPerform_load (op : LoadOp) (d a : BitVec 5) (imm : BitVec 12) (s : State) :
    rvPerform (.load op d a imm) s.wave s = hartLoad s s.wave (effective s a imm) (loadShape op).1 [.x d.toNat] false
      { tag := 0, wd := 8 * (loadShape op).1, sgn := (loadShape op).2, toX := true, reg := d.toNat, lane := 0 }
      (fun v => [.x d.toNat (loadValue (loadShape op).1 (loadShape op).2 v)]) := rfl

theorem rvPerform_fload (fm : FpFmt) (d a : BitVec 5) (imm : BitVec 12) (s : State) :
    rvPerform (.fload fm d a imm) s.wave s = hartLoad s s.wave (effective s a imm) (if fm = .s then 4 else 8) [.f d.toNat] false
      { tag := 0, wd := 8 * (if fm = .s then 4 else 8), sgn := false, toX := false, toF := true, reg := d.toNat, lane := 0 }
      (fun v => [.f d.toNat
        (if fm = .s then BitVec.ofNat 64 ((2 ^ 32 - 1) * 2 ^ 32 + v % 2 ^ 32) else BitVec.ofNat 64 v)]) := by
  cases fm <;> rfl

theorem rvPerform_fstore (fm : FpFmt) (a b : BitVec 5) (imm : BitVec 12) (s : State) :
    rvPerform (.fstore fm a b imm) s.wave s =
      hartStore s s.wave (effective s a imm) (if fm = .s then 4 else 8) (s.wave.getF b.toNat).toNat := by
  cases fm <;> rfl

/-- Settles O26: each word is a hart load or store of the bytes at its effective address. -/
theorem scalarLoadsStores : Obligations.ScalarLoadsStores := by
  refine ⟨fun op d a imm s h => ?_, fun op a b imm s h => storeWord h rfl,
    fun fm d a imm s h => loadWord h (rvPerform_fload fm d a imm s),
    fun fm a b imm s h => storeWord h (rvPerform_fstore fm a b imm s)⟩
  obtain ⟨hmis, hmem⟩ := loadWord h (rvPerform_load op d a imm s)
  refine ⟨hmis, fun u va t hto => ?_⟩
  obtain ⟨q, v, hword, hrest⟩ := hmem u va t hto
  rw [loadValue_eq] at hword
  exact ⟨q, v, hword, hrest⟩

end Sys2Proof.Machine

namespace Sys2Proof.Machine
open Sys2Proof.Claims

/-! ## O27: LR, SC and AMO -/

theorem rvReleaseHeld_of_quiet {s : State} {rl : Bool} (h : rl = true → s.messagesOut s.curCore s.curSlot = false) :
    rvReleaseHeld s rl = false := by
  cases rl with
  | false => rfl
  | true => exact h rfl

/-! ### LR -/

/-- What an LR does before it reads: a release, and the wave's one reservation. -/
def State.reserving (u : State) (rl : Bool) (r : Option Nat) : State :=
  (if rl then u.releaseAt u.curCore true else u).modWave (fun q => { q with reservation := r })

theorem hartLr_eq {s u : State} {w : Wave} {n a va : Nat} {aq rl : Bool} {rd : Nat} {t : Target}
    (hcheck : hartCheck .load 4 a n = none) (hheld : rvReleaseHeld s rl = false)
    (hresolve : s.resolve s.curCore s.curSlot w .hart .load a n = (u, .ok (.mem va t))) :
    hartLr s w n aq rl rd a =
      let v := u.reserving rl (some (t.pa / 64))
      let r := v.readDest v.curCore w .hart aq n (.mem va t)
      .later r.1 [.x rd (loadValue n true r.2)] [] [.x rd] v.lat.l2 := by
  rw [hartLr, hcheck]
  dsimp only
  rw [hheld, if_neg Bool.false_ne_true, hresolve]
  rfl

/-- A release before a read only writes lines back. -/
theorem State.works_release (u : State) (rl : Bool) : u.Works (if rl then u.releaseAt u.curCore true else u) :=
  .ite _ (.releaseAt u rfl true) (.refl u)

/-- An LR that leads to memory answers the bytes there and reserves their block. -/
theorem hartLr_memory {s u : State} {n a va : Nat} {t : Target} (h : hartTo s .load a n u va t) (aq rl : Bool) (rd : Nat)
    (hheld : rvReleaseHeld s rl = false) : ∃ q v,
      hartLr s s.wave n aq rl rd a = .later q [.x rd (loadValue n true v)] [] [.x rd] s.lat.l2 ∧
      hartKept s q (some (t.pa / 64)) ∧ (settled s → v = Bytes.readLE s.mem t.pa n ∧ sameMemory s q) := by
  obtain ⟨hcheck, hresolve, hkind, hlooked⟩ := hartTo_cases h 4
  have hreleased := u.works_release rl
  have hkept : hartKept s (u.reserving rl (some (t.pa / 64))) (some (t.pa / 64)) :=
    hartKept_reserve (hartKept_framed (hartKept_of_looked hlooked) hreleased.toFramed) _
  have hside : u.CoreSide (u.reserving rl (some (t.pa / 64))) := hreleased.side.trans rfl
  have hsettles (hs : settled s) : settled (u.reserving rl (some (t.pa / 64))) ∧ (u.reserving rl (some (t.pa / 64))).mem = s.mem := by
    obtain ⟨hsettled, hmem⟩ := hreleased.settles (settled_of_looked hlooked hs)
    exact ⟨settled_modWaveAt _ _ _ hsettled, hmem.trans hlooked.mem⟩
  have hlr := hartLr_eq (aq := aq) (rd := rd) hcheck hheld hresolve
  generalize u.reserving rl (some (t.pa / 64)) = v at hkept hside hsettles hlr
  obtain ⟨hworks, hread⟩ := v.readDest_memory s.wave aq n va t
  refine ⟨(v.readDest v.curCore s.wave .hart aq n (.mem va t)).1, (v.readDest v.curCore s.wave .hart aq n (.mem va t)).2, ?_,
    hartKept_framed hkept hworks.toFramed, fun hs => ?_⟩
  · rw [hlr, ← hlooked.lat, ← hside.lat]
  · obtain ⟨hsettled, hmem⟩ := hsettles hs
    have hkind' : v.paKind t.pa = .dram ∨ v.paKind t.pa = .host := by rwa [hside.paKind]
    exact ⟨(hread hsettled hkind').trans (by rw [hmem]), sameMemory_of_mem ((hworks.settles hsettled).2.trans hmem)⟩

/-! ### SC -/

/-- What an SC leaves: its reservation has ended, and where it succeeds its bytes stand behind its ordering. -/
def State.conditional (u : State) (w : Wave) (ok aq rl : Bool) (n src va : Nat) (t : Target) : State :=
  let e := u.modWave (fun q => { q with reservation := none })
  let q := if ok && aq then e.acquireLine e.curCore w.dom t.pa else e
  if ok then q.writeDest q.curCore q.curSlot w .hart (b2n (aq || rl)) 4 rl (leBytes n src) (.mem va t) else q

theorem hartSc_eq {s u : State} {w : Wave} {n a va src : Nat} {aq rl : Bool} {rd : Nat} {t : Target}
    (hcheck : hartCheck .amo 6 a n = none) (hheld : rvReleaseHeld s rl = false)
    (hresolve : s.resolve s.curCore s.curSlot w .hart .amo a n = (u, .ok (.mem va t))) :
    hartSc s w n aq rl rd a src =
      let ok : Bool := u.wave.reservation = some (t.pa / 64)
      let q := u.conditional w ok aq rl n src va t
      .later q [.x rd (if ok then 0 else 1)] [] [.x rd] q.lat.l2 := by
  rw [hartSc, hcheck]
  dsimp only
  rw [hheld, if_neg Bool.false_ne_true, hresolve]
  rfl

/-- An acquire before a write leaves memory where nothing waits. -/
theorem State.works_conditional (e : State) (dom pa : Nat) (b : Bool) :
    e.Works (if b then e.acquireLine e.curCore dom pa else e) :=
  .ite _ (.acquireLine e rfl dom pa) (.refl e)

/-- The end of a reservation leaves the state so that nothing waits, and the memory of `s`. -/
theorem settled_modWave {s u : State} (hlooked : s.Looked u) (f : Wave → Wave) (hs : settled s) :
    settled (u.modWave f) ∧ (u.modWave f).mem = s.mem :=
  ⟨settled_modWaveAt _ _ f (settled_of_looked hlooked hs), hlooked.mem⟩

/-- An SC that leads to memory ends the reservation, and writes its bytes where the reservation stood on their block. -/
theorem hartSc_memory {s u : State} {n a va : Nat} {t : Target} (h : hartTo s .amo a n u va t) (aq rl : Bool) (rd src : Nat)
    (hheld : rvReleaseHeld s rl = false) : ∃ q,
      hartSc s s.wave n aq rl rd a src =
        .later q [.x rd (oneIf (¬ s.wave.reservation = some (t.pa / 64)))] [] [.x rd] s.lat.l2 ∧
      hartKept s q none ∧ (¬ s.wave.reservation = some (t.pa / 64) → sameMemory s q) ∧
      (s.wave.reservation = some (t.pa / 64) → settled s → storedAt s q t.pa n src) := by
  obtain ⟨hcheck, hresolve, hkind, hlooked⟩ := hartTo_cases h 6
  have hkept : hartKept s (u.modWave (fun q => { q with reservation := none })) none :=
    hartKept_reserve (hartKept_of_looked hlooked) _
  have hside : u.CoreSide (u.modWave (fun q => { q with reservation := none })) := rfl
  have hsettled := settled_modWave hlooked (fun q => { q with reservation := none })
  have hmem : (u.modWave (fun q => { q with reservation := none })).mem = s.mem := hlooked.mem
  have hsc := hartSc_eq (aq := aq) (rd := rd) (src := src) hcheck hheld hresolve
  have hwave : u.wave = s.wave := hartKept_wave (hartKept_of_looked hlooked)
  rw [hwave] at hsc
  unfold State.conditional at hsc
  generalize u.modWave (fun q => { q with reservation := none }) = e at hkept hside hsettled hmem hsc
  by_cases hholds : s.wave.reservation = some (t.pa / 64)
  · have hworks := e.works_conditional s.wave.dom t.pa aq
    simp only [hholds, decide_true, Bool.true_and, if_true] at hsc
    generalize (if aq then e.acquireLine e.curCore s.wave.dom t.pa else e) = v at hworks hsc
    have hwrites := v.writeDest_memory s.wave (b2n (aq || rl)) 4 rl (leBytes n src) va
      (t := t) (by rwa [hworks.side.paKind, hside.paKind])
    refine ⟨_, ?_, hartKept_framed hkept (hworks.toFramed.trans hwrites.toFramed), fun hnot => absurd hholds hnot,
      fun _ hs => storedAt_of_mem ?_⟩
    · rw [hsc, hwrites.side.lat, hworks.side.lat, hside.lat, hlooked.lat, oneIf, if_neg (not_not_intro hholds)]
    · obtain ⟨he, -⟩ := hsettled hs
      obtain ⟨hv, hmemv⟩ := hworks.settles he
      rw [hwrites.bytes hv, hmemv, hmem]
  · simp only [hholds, decide_false, Bool.false_and, Bool.false_eq_true, if_false] at hsc
    refine ⟨e, ?_, hkept, fun _ => sameMemory_of_mem hmem, fun h => absurd h hholds⟩
    rw [hsc, hside.lat, hlooked.lat, oneIf, if_pos hholds]

/-! ### AMO -/

theorem hartAmo_eq {s u : State} {w : Wave} {op : AmoOp} {n a va src : Nat} {aq rl : Bool} {rd : Nat} {t : Target}
    (hcheck : hartCheck .amo 6 a n = none) (hheld : rvReleaseHeld s rl = false)
    (hresolve : s.resolve s.curCore s.curSlot w .hart .amo a n = (u, .ok (.mem va t))) :
    hartAmo s w op n aq rl rd a src =
      let r := u.atomicDest u.curCore u.curSlot w amoFadd (.rmw (amoShape op).1 (amoType n (amoShape op).2) (amoShape op).2 (8 * n))
        (b2n (aq || rl)) 4 0 aq rl n (src % 2 ^ (8 * n)) (.mem va t)
      .later r.1 [.x rd (loadValue n true r.2)] [] [.x rd] u.lat.l2 := by
  rw [hartAmo, hcheck]
  dsimp only
  rw [hheld, if_neg Bool.false_ne_true, hresolve]

/-- What an AMO leaves in memory is what its operation says. -/
theorem amoNew_eq_amoValue (fadd : Nat → Nat → Nat) (op : AmoOp) (n : Nat) {old src : Nat} (hold : old < 2 ^ (8 * n))
    (hsrc : src < 2 ^ (8 * n)) : amoNew fadd (amoShape op).1 (amoShape op).2 (8 * n) old src = amoValue op n old src := by
  have hmin : typed (8 * n) false old ≤ typed (8 * n) false src ↔ old ≤ src := by
    simp [typed, Nat.mod_eq_of_lt hold, Nat.mod_eq_of_lt hsrc]
  cases op with
  | add =>
    change wrapTo (8 * n) (toSigned (8 * n) old + toSigned (8 * n) src) = (old + src) % 2 ^ (8 * n)
    rw [wrapTo_eq_toNat, toSigned_eq_toInt, toSigned_eq_toInt, BitVec.ofInt_add, BitVec.ofInt_toInt, BitVec.ofInt_toInt,
      ← BitVec.ofNat_add, BitVec.toNat_ofNat]
  | minu =>
    change (if typed (8 * n) false old ≤ typed (8 * n) false src then old else src) = min old src
    rw [Nat.min_def]
    exact if_congr hmin rfl rfl
  | maxu =>
    change (if typed (8 * n) false old ≤ typed (8 * n) false src then src else old) = max old src
    rw [Nat.max_def]
    exact if_congr hmin rfl rfl
  | _ => rfl

theorem readLE_lt (m : Table Byte) (a n : Nat) : Bytes.readLE m a n < 2 ^ (8 * n) := by
  induction n generalizing a with
  | zero => exact Nat.one_pos
  | succ n ih =>
    have hpow : 2 ^ (8 * (n + 1)) = 256 * 2 ^ (8 * n) := by rw [Nat.mul_succ, Nat.pow_add, Nat.mul_comm]
    have hbyte := (Bytes.read m a).isLt
    have hrest := ih (a + 1)
    rw [Bytes.readLE, hpow]
    omega

/-- An AMO that leads to memory answers the old bytes and puts its result there. -/
theorem hartAmo_memory {s u : State} {n a va : Nat} {t : Target} (h : hartTo s .amo a n u va t) (op : AmoOp) (aq rl : Bool)
    (rd src : Nat) (hheld : rvReleaseHeld s rl = false) : ∃ q old,
      hartAmo s s.wave op n aq rl rd a src = .later q [.x rd (loadValue n true old)] [] [.x rd] s.lat.l2 ∧
      hartKept s q s.wave.reservation ∧
      (settled s → old = Bytes.readLE s.mem t.pa n ∧ storedAt s q t.pa n (amoValue op n old (src % 2 ^ (8 * n)))) := by
  obtain ⟨hcheck, hresolve, hkind, hlooked⟩ := hartTo_cases h 6
  have hamo := hartAmo_eq (op := op) (aq := aq) (rd := rd) (src := src) hcheck hheld hresolve
  obtain ⟨hwrites, hold⟩ := u.atomicDest_memory s.wave amoFadd (amoShape op).1 (amoType n (amoShape op).2) (8 * n) (b2n (aq || rl)) 4 0
    (amoShape op).2 aq rl n (src % 2 ^ (8 * n)) va hkind
  dsimp only at hamo hwrites hold
  generalize u.atomicDest u.curCore u.curSlot s.wave amoFadd _ _ _ _ _ _ _ _ _ = r at hamo hwrites hold
  refine ⟨r.1, r.2, ?_, hartKept_framed (hartKept_of_looked hlooked) hwrites.toFramed, fun hs => ?_⟩
  · rw [hamo, hlooked.lat]
  · have hu := settled_of_looked hlooked hs
    have hvalue : r.2 = Bytes.readLE s.mem t.pa n := (hold hu).trans (by rw [hlooked.mem])
    have hlt : r.2 < 2 ^ (8 * n) := hvalue ▸ readLE_lt _ _ _
    refine ⟨hvalue, storedAt_of_mem ?_⟩
    rw [hwrites.bytes hu, hlooked.mem, amoNew_eq_amoValue _ op n hlt (Nat.mod_lt _ (Nat.two_pow_pos _))]

/-! ### Misaligned addresses -/

theorem hartLr_misaligned {s : State} {a n : Nat} (h : a % n ≠ 0) (w : Wave) (aq rl : Bool) (rd : Nat) :
    hartLr s w n aq rl rd a = .trap 4 (BitVec.ofNat 64 a) := by
  rw [hartLr, hartCheck_of_misaligned _ _ h]

theorem hartSc_misaligned {s : State} {a n : Nat} (h : a % n ≠ 0) (w : Wave) (aq rl : Bool) (rd src : Nat) :
    hartSc s w n aq rl rd a src = .trap 6 (BitVec.ofNat 64 a) := by
  rw [hartSc, hartCheck_of_misaligned _ _ h]

theorem hartAmo_misaligned {s : State} {a n : Nat} (h : a % n ≠ 0) (w : Wave) (op : AmoOp) (aq rl : Bool) (rd src : Nat) :
    hartAmo s w op n aq rl rd a src = .trap 6 (BitVec.ofNat 64 a) := by
  rw [hartAmo, hartCheck_of_misaligned _ _ h]

/-- A misaligned atomic word traps with its address. -/
theorem rv_of_misaligned {i : Rv} {s : State} {cause : Nat} {x : Word} (h : rvOpen i s = true)
    (hp : rvPerform i s.wave s = .trap cause (BitVec.ofNat 64 x.toNat)) :
    exec (.riscvScalarInstruction i) s = (Issue.trap cause x s).finish := by
  have hx : BitVec.ofNat 64 x.toNat = x := by rw [BitVec.ofNat_toNat, BitVec.setWidth_eq]
  rw [hx] at hp
  exact rv_of_trap h hp

/-- Settles O27: each word is its hart access at the address of its register. -/
theorem scalarAtomics : Obligations.ScalarAtomics := by
  refine ⟨fun dw aq rl d a s u va t => ?_, fun dw aq rl d a b s u va t => ?_, fun op dw aq rl d a b s u va t => ?_,
    fun i dw aq rl d a b s => ?_⟩
  · intro i n h hrel hto
    obtain ⟨q, v, hlr, hrest⟩ := hartLr_memory hto aq rl d.toNat (rvReleaseHeld_of_quiet hrel)
    rw [loadValue_eq] at hlr
    exact ⟨q, v, completes_rv_later h hlr, hrest⟩
  · intro i n holds h hrel hto
    obtain ⟨q, hsc, hrest⟩ := hartSc_memory hto aq rl d.toNat (s.wave.getX b.toNat).toNat (rvReleaseHeld_of_quiet hrel)
    exact ⟨q, completes_rv_later h hsc, hrest⟩
  · intro i n h hrel hto
    obtain ⟨q, old, hamo, hkept, hbytes⟩ :=
      hartAmo_memory hto op aq rl d.toNat (s.wave.getX b.toNat).toNat (rvReleaseHeld_of_quiet hrel)
    rw [loadValue_eq] at hamo
    exact ⟨q, old, completes_rv_later h hamo, hkept, hbytes⟩
  · intro n h hmis
    refine ⟨?_, ?_⟩
    · rintro rfl
      exact rv_of_misaligned h (hartLr_misaligned hmis _ _ _ _)
    · rintro (rfl | ⟨op, rfl⟩)
      · exact rv_of_misaligned h (hartSc_misaligned hmis _ _ _ _ _)
      · exact rv_of_misaligned h (hartAmo_misaligned hmis _ _ _ _ _ _)

end Sys2Proof.Machine

namespace Sys2Proof.Machine
open Sys2Proof.Claims

/-! ## What a word that falls through leaves -/

/-! ### The results of a word on the wave that acts -/

/-- A result that a word which falls through may have, for a wave of a width: it goes to a lane register of one of the
wave's lanes, to an x register, a predicate, a mask register, the active mask or the narrowing flags. -/
def Upd.inWave (width : Nat) : Upd → Prop
  | .v _ l _ => l < width
  | .x _ _ | .p _ _ _ | .m _ _ _ | .amask _ | .nflags _ => True
  | _ => False

/-- What such a result does to the wave itself. -/
def Upd.onWave : Upd → Wave → Wave
  | .x n val, w => w.setX n val
  | .p n l b, w => w.setP n (BitVec.ofNat 128 (2 ^ l)) (if b then BitVec.ofNat 128 (2 ^ l) else 0)
  | .m n mask val, w => w.setM n mask val
  | .amask val, w => w.setAmask val
  | .nflags b, w => { w with csrs := { w.csrs with nround := w.csrs.nround ||| (b.setWidth 64 <<< 8) } }
  | _, w => w

/-- What the results of a word do to its wave, one after the other. -/
def Wave.withResults (w : Wave) (us : List Upd) : Wave := us.foldl (fun w u => u.onWave w) w

/-- A wave is another but for the registers that the results of a word which falls through may change. -/
def Wave.FellTo (w q : Wave) : Prop :=
  q = { w with x := q.x, p := q.p, m := q.m, amask := q.amask, csrs := { w.csrs with nround := q.csrs.nround } }

theorem Wave.fellTo_onWave (w : Wave) (u : Upd) : w.FellTo (u.onWave w) := by
  cases u with
  | x n v => simp only [Upd.onWave, Wave.setX]; split <;> rfl
  | p n l b => simp only [Upd.onWave, Wave.setP]; split <;> rfl
  | _ => rfl

theorem State.slotAt_applyAt {u : Upd} {width : Nat} (hu : u.inWave width) (s : State) (c i : Nat) :
    (s.applyAt c i u).slotAt c i = { s.slotAt c i with wave := u.onWave (s.slotAt c i).wave } := by
  cases u with
  | v n l val => exact s.slotAt_modCore c (fun k => k.setLane (k.slot i).wave n l val) rfl c i
  | f | fflags | defer | cvalid => exact hu.elim
  | _ => exact s.slotAt_modWaveAt_same c i _

theorem State.sameOutside.refl (s : State) : s.sameOutside s := ⟨rfl, fun _ _ => rfl, rfl, fun _ _ => rfl, fun _ => rfl⟩

theorem State.sameOutside.trans {s t u : State} (h : s.sameOutside t) (h' : t.sameOutside u) : s.sameOutside u := by
  obtain ⟨hside, hcores, hcore, hslots, hmem⟩ := h
  obtain ⟨hside', hcores', hcore', hslots', hmem'⟩ := h'
  have hc : t.curCore = s.curCore := (congrArg State.curCore hside).trans rfl
  have hi : t.curSlot = s.curSlot := (congrArg State.curSlot hside).trans rfl
  rw [hc] at hcores' hcore' hslots'
  rw [hi] at hslots'
  refine ⟨?_, fun c h => (hcores' c h).trans (hcores c h), ?_, fun i h => (hslots' i h).trans (hslots i h),
    fun a => (hmem' a).trans (hmem a)⟩
  · rw [hside', hside]
  · rw [hcore', hcore]

/-- A change of the slots, lane registers and event counts of the core that acts, which keeps every slot but the one that
acts. -/
theorem State.sameOutside_modCur (s : State) (f : Core → Core)
    (hf : f (s.core s.curCore) = { s.core s.curCore with
      slots := (f (s.core s.curCore)).slots, regs := (f (s.core s.curCore)).regs, ev := (f (s.core s.curCore)).ev })
    (hslots : ∀ i, i ≠ s.curSlot → (f (s.core s.curCore)).slot i = (s.core s.curCore).slot i) :
    s.sameOutside (s.modCore s.curCore f) := by
  refine ⟨rfl, fun c h => s.core_modCore_other f h, ?_, fun i h => ?_, fun _ => rfl⟩
  · rw [State.core_modCore_same]
    exact hf
  · rw [State.slotAt, State.core_modCore_same]
    exact hslots i h

theorem State.sameOutside_modSlot (s : State) (f : Slot → Slot) : s.sameOutside (s.modSlotAt s.curCore s.curSlot f) :=
  s.sameOutside_modCur _ rfl (fun _ h => Core.slot_modSlot_other _ f h)

theorem State.sameOutside_verdict (s : State) (v : Verdict) : s.sameOutside { s with verdict := v } :=
  ⟨rfl, fun _ _ => rfl, rfl, fun _ _ => rfl, fun _ => rfl⟩

theorem State.sameOutside_count (s : State) (k n : Nat) : s.sameOutside (s.count s.curCore k n) :=
  s.sameOutside_modCur (fun q => { q with ev := Table.put q.ev k ((Table.get q.ev k 0 + n) % 2 ^ 64) }) rfl (fun _ _ => rfl)

theorem State.sameOutside_issued (s : State) (len : Nat) : s.sameOutside (s.issued len) :=
  (s.sameOutside_modSlot _).trans (State.sameOutside_count _ 0 1)

theorem State.sameOutside_apply {u : Upd} {width : Nat} (hu : u.inWave width) (s : State) :
    s.sameOutside (s.applyAt s.curCore s.curSlot u) := by
  cases u with
  | v n l val => exact s.sameOutside_modCur (fun k => k.setLane (k.slot s.curSlot).wave n l val) rfl (fun _ _ => rfl)
  | f | fflags | defer | cvalid => exact hu.elim
  | _ => exact s.sameOutside_modSlot _

/-- The results of a word are applied one after the other to the wave that acts. -/
theorem State.applyAll_cons (s : State) (u : Upd) (us : List Upd) :
    s.applyAll (u :: us) = (s.applyAt s.curCore s.curSlot u).applyAll us := by
  rw [State.applyAll, State.applyAll, State.applyAt_curCore, State.applyAt_curSlot]
  rfl

theorem State.sameOutside_applyAll {us : List Upd} {width : Nat} (hus : ∀ u ∈ us, u.inWave width) (s : State) :
    s.sameOutside (s.applyAll us) := by
  induction us generalizing s with
  | nil => exact .refl s
  | cons u us ih =>
    obtain ⟨hu, hrest⟩ := List.forall_mem_cons.mp hus
    rw [State.applyAll_cons]
    exact (s.sameOutside_apply hu).trans (ih hrest _)

theorem Wave.withResults_cons (w : Wave) (u : Upd) (us : List Upd) :
    w.withResults (u :: us) = (u.onWave w).withResults us := rfl

theorem Wave.FellTo.trans {w q r : Wave} (h : w.FellTo q) (h' : q.FellTo r) : w.FellTo r := by
  unfold Wave.FellTo at h h' ⊢
  refine h'.trans ?_
  rw [h]

theorem State.slot_apply {u : Upd} {width : Nat} (hu : u.inWave width) (s : State) :
    (s.applyAt s.curCore s.curSlot u).slot = { s.slot with wave := u.onWave s.wave } := by
  rw [State.slot, State.applyAt_curCore, State.applyAt_curSlot, State.slotAt_applyAt hu]
  rfl

/-- The wave after results that it may have is what they do to it, one after the other. -/
theorem State.slot_applyAll {us : List Upd} {width : Nat} (hus : ∀ u ∈ us, u.inWave width) (s : State) :
    (s.applyAll us).slot = { s.slot with wave := s.wave.withResults us } := by
  induction us generalizing s with
  | nil => rfl
  | cons u us ih =>
    obtain ⟨hu, hrest⟩ := List.forall_mem_cons.mp hus
    rw [State.applyAll_cons, ih hrest, Wave.withResults_cons, State.wave, State.slot_apply hu]

/-- A slot after a word that may issue: it runs. -/
theorem State.slot_issued {s : State} (h : s.canIssue = true) (len : Nat) :
    (s.issued len).slot = { s.slot with state := .running, lastIssue := some s.cycle, wave := (s.issued len).wave } := by
  have hslot : (s.issued len).slot = { s.slot with
      state := if s.slot.state = .waiting then .running else s.slot.state, lastIssue := some s.cycle,
      wave := (s.issued len).wave } := by
    rw [State.wave, State.issued, State.issuedTo, State.issuedAt, State.slot_count]
    rw [State.slot, State.modSlotAt_curCore, State.modSlotAt_curSlot, State.slotAt_modSlotAt_same]
    rfl
  have hrun : (if s.slot.state = .waiting then .running else s.slot.state) = SlotState.running := by
    split
    · rfl
    · next hwait => simpa [State.canIssue, hwait] using h
  rw [hslot, hrun]

theorem Wave.fellTo_withResults (us : List Upd) (w : Wave) : w.FellTo (w.withResults us) :=
  List.foldlRecOn (motive := w.FellTo) us _ rfl (fun q h u _ => h.trans (q.fellTo_onWave u))

/-- The wave after a word that falls through. -/
theorem State.wave_afterWord {us : List Upd} {width : Nat} (hus : ∀ u ∈ us, u.inWave width) (s : State) (len : Nat) :
    (s.afterWord len us).wave = (s.issued len).wave.withResults us :=
  congrArg Slot.wave ((s.issued len).slot_applyAll hus)

theorem State.sameOutside_afterWord {us : List Upd} {width : Nat} (hus : ∀ u ∈ us, u.inWave width) (s : State) (len : Nat) :
    s.sameOutside (s.afterWord len us) :=
  (s.sameOutside_issued len).trans (State.sameOutside_applyAll hus _)

theorem State.fellThrough_afterWord {s : State} {us : List Upd} {width : Nat} (hissue : s.canIssue = true)
    (hus : ∀ u ∈ us, u.inWave width) (len : Nat) : s.fellThrough (s.afterWord len us) len := by
  have hfell : (s.issued len).wave.FellTo (s.afterWord len us).wave := by
    rw [s.wave_afterWord hus]
    exact Wave.fellTo_withResults us _
  refine ⟨?_, ?_⟩
  · rw [s.wave_afterWord hus, State.afterWord, State.slot_applyAll hus, State.slot_issued hissue]
  · refine Eq.trans (by exact hfell) ?_
    rw [State.issued, State.wave_issuedTo]

/-! ### Lane registers -/

theorem Wave.laneKey_congr {w q : Wave} (hbase : q.regBase = w.regBase) (hwid : q.csrs.wid = w.csrs.wid) (n l : Nat) :
    q.laneKey n l = w.laneKey n l := by
  simp only [Wave.laneKey, Wave.region, Wave.halves, Wave.widthCode, hbase, hwid]

theorem Wave.width_eq_halves (w : Wave) : w.width = 16 * w.halves := by
  rw [Wave.width, Wave.halves, Nat.shiftLeft_eq, Nat.shiftLeft_eq, Nat.one_mul]

/-- Two lane registers of a wave lie at different places of the lane register file (R104). -/
theorem Wave.laneKey_inj (w : Wave) {n l n' l' : Nat} (hl : l < w.width) (hl' : l' < w.width)
    (h : w.laneKey n l = w.laneKey n' l') : n = n' ∧ l = l' := by
  rw [Wave.width_eq_halves] at hl hl'
  unfold Wave.laneKey Wave.region at h
  generalize w.halves = k at h hl hl'
  have hblock : l / 16 + k * (n / 32) = l' / 16 + k * (n' / 32) := by
    rw [Nat.mul_comm k, Nat.mul_comm k]
    omega
  have hn : n / 32 = n' / 32 := by
    have hdiv := congrArg (· / k) hblock
    simpa [Nat.add_mul_div_left _ _ (show 0 < k by omega), Nat.div_eq_of_lt (show l / 16 < k by omega),
      Nat.div_eq_of_lt (show l' / 16 < k by omega)] using hdiv
  rw [hn] at hblock h
  omega

/-- Lane registers of the wave that acts, read off the lane register file of its core. -/
theorem State.laneReg_congr {s t : State} (hregs : (t.core t.curCore).regs = (s.core s.curCore).regs)
    (hbase : t.wave.regBase = s.wave.regBase) (hwid : t.wave.csrs.wid = s.wave.csrs.wid) (n l : Nat) :
    t.laneReg n l = s.laneReg n l := by
  rw [State.laneReg, State.laneReg, Core.lane, Core.lane, hregs, Wave.laneKey_congr hbase hwid]

theorem State.regs_modSlotAt (s : State) (c i : Nat) (f : Slot → Slot) :
    ((s.modSlotAt c i f).core c).regs = (s.core c).regs := by
  rw [State.modSlotAt, State.core_modCore_same]
  rfl

theorem State.laneReg_issued (s : State) (len n l : Nat) : (s.issued len).laneReg n l = s.laneReg n l := by
  have hwave : (s.issued len).wave = _ := s.wave_issuedTo _
  refine State.laneReg_congr ?_ ?_ ?_ n l
  · change ((s.issued len).core s.curCore).regs = _
    rw [State.issued, State.issuedTo, State.issuedAt, State.count, State.core_modCore_same]
    exact s.regs_modSlotAt _ _ _
  · rw [hwave]
  · rw [hwave]

theorem State.wave_apply {u : Upd} {width : Nat} (hu : u.inWave width) (s : State) :
    (s.applyAt s.curCore s.curSlot u).wave = u.onWave s.wave := congrArg Slot.wave (s.slot_apply hu)

theorem State.wid_apply {u : Upd} {width : Nat} (hu : u.inWave width) (s : State) :
    (s.applyAt s.curCore s.curSlot u).wave.csrs.wid = s.wave.csrs.wid := by
  rw [s.wave_apply hu, s.wave.fellTo_onWave u]

theorem State.regBase_apply {u : Upd} {width : Nat} (hu : u.inWave width) (s : State) :
    (s.applyAt s.curCore s.curSlot u).wave.regBase = s.wave.regBase := by
  rw [s.wave_apply hu, s.wave.fellTo_onWave u]

theorem State.width_apply {u : Upd} {width : Nat} (hu : u.inWave width) (s : State) :
    (s.applyAt s.curCore s.curSlot u).wave.width = s.wave.width := by
  rw [Wave.width, Wave.widthCode, s.wid_apply hu, Wave.width, Wave.widthCode]

/-- A lane register after a result that goes to a lane register. -/
theorem State.laneReg_apply_v (s : State) (n l n' l' : Nat) (val : Word32) :
    (s.applyAt s.curCore s.curSlot (.v n' l' val)).laneReg n l =
      if s.wave.laneKey n l = s.wave.laneKey n' l' then val else s.laneReg n l := by
  have hwave : (s.applyAt s.curCore s.curSlot (.v n' l' val)).wave = s.wave :=
    s.wave_apply (u := .v n' l' val) (width := l' + 1) (Nat.lt_succ_self l')
  rw [State.laneReg, Core.lane, hwave, State.applyAt_curCore, State.applyAt, State.core_modCore_same, Core.setLane]
  split
  · next h =>
    rw [h]
    exact Table.get_put_same _ _ _ _
  · next h => exact Table.get_put_other _ _ _ h

theorem State.laneReg_apply_other {s : State} {u : Upd} {n l : Nat} (hu : u.inWave s.wave.width) (hl : l < s.wave.width)
    (hne : ∀ val, u ≠ .v n l val) : (s.applyAt s.curCore s.curSlot u).laneReg n l = s.laneReg n l := by
  cases u with
  | v n' l' val =>
    rw [State.laneReg_apply_v, if_neg]
    intro hkey
    obtain ⟨rfl, rfl⟩ := s.wave.laneKey_inj hl hu hkey
    exact hne val rfl
  | f | fflags | defer | cvalid => exact hu.elim
  | _ =>
    refine State.laneReg_congr ?_ (s.regBase_apply hu) (s.wid_apply hu) n l
    exact s.regs_modSlotAt _ _ _

/-- A lane register that no result goes to. -/
theorem State.laneReg_applyAll_other {s : State} {us : List Upd} {n l : Nat} (hus : ∀ u ∈ us, u.inWave s.wave.width)
    (hl : l < s.wave.width) (hno : ∀ val, .v n l val ∉ us) : (s.applyAll us).laneReg n l = s.laneReg n l := by
  induction us generalizing s with
  | nil => rfl
  | cons u us ih =>
    obtain ⟨hu, hrest⟩ := List.forall_mem_cons.mp hus
    have hwidth := s.width_apply hu
    rw [State.applyAll_cons, ih (by rwa [hwidth]) (by rwa [hwidth]) (fun val h => hno val (List.mem_cons_of_mem u h))]
    exact State.laneReg_apply_other hu hl (fun val h => hno val (h ▸ List.mem_cons_self))

/-- A lane register that one value goes to. -/
theorem State.laneReg_applyAll_of_mem {s : State} {us : List Upd} {n l : Nat} {val : Word32}
    (hus : ∀ u ∈ us, u.inWave s.wave.width) (hmem : .v n l val ∈ us) (huniq : ∀ val', .v n l val' ∈ us → val' = val) :
    (s.applyAll us).laneReg n l = val := by
  have hl : l < s.wave.width := hus _ hmem
  induction us generalizing s with
  | nil => exact absurd hmem List.not_mem_nil
  | cons u us ih =>
    obtain ⟨hu, hrest⟩ := List.forall_mem_cons.mp hus
    have hwidth := s.width_apply hu
    rw [← hwidth] at hrest hl
    rw [State.applyAll_cons]
    by_cases hlater : ∃ val', .v n l val' ∈ us
    · obtain ⟨val', hval'⟩ := hlater
      obtain rfl := huniq val' (List.mem_cons_of_mem u hval')
      exact ih hrest hval' (fun v h => huniq v (List.mem_cons_of_mem u h)) hl
    · obtain rfl : .v n l val = u := (List.mem_cons.mp hmem).resolve_right (fun h => hlater ⟨val, h⟩)
      rw [State.laneReg_applyAll_other hrest hl (fun v h => hlater ⟨v, h⟩), State.laneReg_apply_v, if_pos rfl]

theorem State.width_issued (s : State) (len : Nat) : (s.issued len).wave.width = s.wave.width := by
  rw [State.issued, State.wave_issuedTo]
  rfl

theorem State.laneReg_afterWord_other {s : State} {us : List Upd} {n l : Nat} (hus : ∀ u ∈ us, u.inWave s.wave.width)
    (hl : l < s.wave.width) (hno : ∀ val, .v n l val ∉ us) (len : Nat) : (s.afterWord len us).laneReg n l = s.laneReg n l := by
  rw [← s.width_issued len] at hus hl
  exact (State.laneReg_applyAll_other hus hl hno).trans (s.laneReg_issued len n l)

theorem State.laneReg_afterWord_of_mem {s : State} {us : List Upd} {n l : Nat} {val : Word32}
    (hus : ∀ u ∈ us, u.inWave s.wave.width) (hmem : .v n l val ∈ us) (huniq : ∀ val', .v n l val' ∈ us → val' = val) (len : Nat) :
    (s.afterWord len us).laneReg n l = val := by
  rw [← s.width_issued len] at hus
  exact State.laneReg_applyAll_of_mem hus hmem huniq

/-- A word whose results go to lane registers alone leaves every other register of the wave as it was. -/
theorem State.sameButLanes_afterWord {s : State} {us : List Upd} {width : Nat}
    (hus : ∀ u ∈ us, ∃ n l val, u = .v n l val ∧ l < width) (len : Nat) : s.sameButLanes (s.afterWord len us) := by
  have hwave : (s.afterWord len us).wave = (s.issued len).wave := by
    rw [State.wave_afterWord (width := width)]
    · refine List.foldlRecOn (motive := fun q : Wave => q = (s.issued len).wave) us _ rfl (fun q h u hu => ?_)
      obtain ⟨n, l, val, rfl, -⟩ := hus u hu
      exact h
    · intro u hu
      obtain ⟨n, l, val, rfl, hl⟩ := hus u hu
      exact hl
  rw [State.sameButLanes, hwave, State.issued, State.wave_issuedTo]
  exact ⟨rfl, rfl, rfl, rfl, rfl⟩

/-! ### Predicates -/

theorem Wave.width_le (w : Wave) : w.width ≤ 128 := by
  have hcode : w.widthCode < 4 := Nat.mod_lt _ (by decide)
  unfold Wave.width
  interval_cases w.widthCode <;> decide

/-- A lane of a predicate: p0 reads all ones, and lanes at or above the width read 0. -/
theorem Wave.getLsbD_getP (w : Wave) (n l : Nat) :
    (w.getP n).getLsbD l = (decide (l < w.width) && (decide (n = 0) || (w.p.toList.getD n 0).getLsbD l)) := by
  have hwidth := w.width_le
  rw [Wave.getP, BitVec.getLsbD_and, Wave.wm, getLsbD_lowMask]
  by_cases hl : l < w.width
  · have hlane : l < 128 := by omega
    by_cases hn : n = 0
    · rw [if_pos hn, BitVec.getLsbD_allOnes]
      simp [hl, hlane, hn]
    · rw [if_neg hn]
      simp [hl, hlane, hn]
  · simp [hl]

theorem getLsbD_twoPow_lane (l i : Nat) : (BitVec.ofNat 128 (2 ^ l)).getLsbD i = (decide (i < 128) && decide (l = i)) := by
  rw [BitVec.getLsbD_ofNat, Nat.testBit_two_pow]

@[simp] theorem Wave.width_onWave (w : Wave) (u : Upd) : (u.onWave w).width = w.width := by
  rw [Wave.width, Wave.widthCode, w.fellTo_onWave u]
  rfl

/-- A lane of a predicate after a result that goes there. -/
theorem Wave.getLsbD_getP_onWave_same (w : Wave) {n l : Nat} (b : Bool) (hn : n ≠ 0) (hp : n < 16) (hl : l < w.width) :
    (((Upd.p n l b).onWave w).getP n).getLsbD l = b := by
  have hlane : l < 128 := Nat.lt_of_lt_of_le hl w.width_le
  have hbit : (BitVec.ofNat 128 (2 ^ l)).getLsbD l = true := by
    rw [getLsbD_twoPow_lane, decide_eq_true hlane, decide_eq_true rfl]
    rfl
  have hwm : w.wm.getLsbD l = true := by rw [Wave.wm, getLsbD_lowMask]; simp [hl, hlane]
  rw [Wave.getLsbD_getP, Wave.width_onWave, Upd.onWave, Wave.setP, if_neg hn]
  generalize BitVec.ofNat 128 (2 ^ l) = m at hbit ⊢
  cases b <;> simp [hl, hn, hp, hbit, hwm]

/-- A lane of a predicate after a result that goes elsewhere. -/
theorem Wave.getLsbD_getP_onWave_other (w : Wave) {u : Upd} {n l : Nat} (h : n = 0 ∨ ∀ b, u ≠ .p n l b) :
    ((u.onWave w).getP n).getLsbD l = (w.getP n).getLsbD l := by
  rw [Wave.getLsbD_getP, Wave.getLsbD_getP, Wave.width_onWave]
  by_cases hwl : l < w.width
  case neg => rw [decide_eq_false hwl, Bool.false_and, Bool.false_and]
  have hlane : l < 128 := Nat.lt_of_lt_of_le hwl w.width_le
  by_cases hn : n = 0
  · simp [hn]
  · cases u with
    | p n' l' b =>
      by_cases hn' : n' = 0
      · subst hn'
        rfl
      · by_cases hsame : n' = n
        · subst hsame
          have hl : l' ≠ l := fun hl => h.elim hn (fun hno => hno b (by rw [hl]))
          have hbit : (BitVec.ofNat 128 (2 ^ l')).getLsbD l = false := by rw [getLsbD_twoPow_lane, decide_eq_false hl, Bool.and_false]
          rw [Upd.onWave, Wave.setP, if_neg hn']
          generalize BitVec.ofNat 128 (2 ^ l') = m at hbit ⊢
          by_cases hp : n' < 16
          · have hbit' : m[l] = false := hbit
            cases b <;> simp [hp, hbit', hlane]
          · simp [hp]
        · simp [Upd.onWave, Wave.setP, hn', List.getElem?_set_ne hsame]
    | x n' val =>
      have hp : ((Upd.x n' val).onWave w).p = w.p := w.setX_p n' val
      rw [hp]
    | _ => rfl

/-! ### Predicates of the results -/

/-- A lane of a predicate that no result goes to. -/
theorem Wave.getP_withResults_other (w : Wave) {us : List Upd} {n l : Nat} (h : n = 0 ∨ ∀ b, .p n l b ∉ us) :
    ((w.withResults us).getP n).getLsbD l = (w.getP n).getLsbD l :=
  List.foldlRecOn (motive := fun q : Wave => (q.getP n).getLsbD l = (w.getP n).getLsbD l) us _ rfl fun q hq _ hu =>
    (q.getLsbD_getP_onWave_other (h.imp_right fun hno b heq => hno b (heq ▸ hu))).trans hq

/-- A lane of a predicate that one value goes to. -/
theorem Wave.getP_withResults_of_mem (w : Wave) {us : List Upd} {n l : Nat} {b : Bool} (hn : n ≠ 0) (hp : n < 16) (hl : l < w.width)
    (hmem : .p n l b ∈ us) (huniq : ∀ c, .p n l c ∈ us → c = b) :
    ((w.withResults us).getP n).getLsbD l = b := by
  induction us generalizing w with
  | nil => exact absurd hmem List.not_mem_nil
  | cons u us ih =>
    rw [Wave.withResults_cons]
    by_cases hlater : ∃ c, .p n l c ∈ us
    · obtain ⟨c, hc⟩ := hlater
      obtain rfl := huniq c (List.mem_cons_of_mem u hc)
      exact ih (u.onWave w) (by rwa [Wave.width_onWave]) hc (fun d hd => huniq d (List.mem_cons_of_mem u hd))
    · obtain rfl : .p n l b = u := (List.mem_cons.mp hmem).resolve_right (fun h => hlater ⟨b, h⟩)
      rw [Wave.getP_withResults_other _ (.inr fun c hc => hlater ⟨c, hc⟩), w.getLsbD_getP_onWave_same b hn hp hl]

theorem State.getP_issued (s : State) (len n : Nat) : (s.issued len).wave.getP n = s.wave.getP n := by
  rw [State.issued, State.wave_issuedTo]
  rfl

theorem State.getP_afterWord_other {s : State} {us : List Upd} {width n l : Nat} (hus : ∀ u ∈ us, u.inWave width)
    (h : n = 0 ∨ ∀ b, .p n l b ∉ us) (len : Nat) :
    ((s.afterWord len us).wave.getP n).getLsbD l = (s.wave.getP n).getLsbD l := by
  rw [s.wave_afterWord hus, Wave.getP_withResults_other _ h, State.getP_issued]

theorem State.getP_afterWord_of_mem {s : State} {us : List Upd} {width n l : Nat} {b : Bool} (hus : ∀ u ∈ us, u.inWave width)
    (hn : n ≠ 0) (hp : n < 16) (hl : l < s.wave.width) (hmem : .p n l b ∈ us) (huniq : ∀ c, .p n l c ∈ us → c = b) (len : Nat) :
    ((s.afterWord len us).wave.getP n).getLsbD l = b := by
  rw [s.wave_afterWord hus]
  exact Wave.getP_withResults_of_mem _ hn hp (by rwa [s.width_issued]) hmem huniq

/-- A word whose results go to predicates alone leaves the other registers of its wave as they were. -/
theorem State.others_afterWord_p {s : State} {us : List Upd} (hus : ∀ u ∈ us, ∃ n l b, u = .p n l b) (len : Nat) :
    let t := s.afterWord len us
    t.wave.x = s.wave.x ∧ t.wave.m = s.wave.m ∧ t.wave.amask = s.wave.amask ∧ t.wave.csrs.nround = s.wave.csrs.nround := by
  intro t
  have hwave : t.wave = { (s.issued len).wave with p := t.wave.p } := by
    rw [show t.wave = _ from s.wave_afterWord (width := 0) (fun u hu => by obtain ⟨n, l, b, rfl⟩ := hus u hu; trivial) len]
    refine List.foldlRecOn (motive := fun q : Wave => q = { (s.issued len).wave with p := q.p }) us _ rfl (fun q h u hu => ?_)
    obtain ⟨n, l, b, rfl⟩ := hus u hu
    simp only [Upd.onWave, Wave.setP]
    split
    · exact h
    · rw [h]
  rw [hwave, State.issued, State.wave_issuedTo]
  exact ⟨rfl, rfl, rfl, rfl⟩

end Sys2Proof.Machine

namespace Sys2Proof.Machine
open Sys2Proof.Claims

/-! ## Lane integer and packed words that may issue -/

theorem laneForm_int {major : Nat} (h : major < 0x40) (w : LaneWord) :
    laneForm major false w = rowForm (intRow major) major false w := if_pos h

theorem laneForm_packed {major : Nat} (h : 0x40 ≤ major ∧ major < 0x60) (w : LaneWord) :
    laneForm major false w = rowForm (packedRow major) major false w := (if_neg (Nat.not_lt.mpr h.1)).trans (if_pos h.2)

/-! ### Patterns of exact integers -/

theorem ofNat_wrapTo (n : Nat) (y : Int) : BitVec.ofNat n (wrapTo n y) = BitVec.ofInt n y := by
  rw [wrapTo_eq_toNat, BitVec.ofNat_toNat, BitVec.setWidth_eq]

theorem lanes_lt_width {s : State} {w : LaneWord} {l : Nat} (h : l ∈ (laneEnv s w).lanes) : l < s.wave.width :=
  List.mem_range.mp (List.mem_filter.mp h).1

theorem canIssue_of_laneReady {s : State} {major : Nat} {w : LaneWord} (h : s.laneReady major w = true) : s.canIssue = true := by
  obtain ⟨-, -, hissue, -⟩ := s.laneReady_cases major w touchActive h
  exact hissue

/-- A lane integer word that may issue completes with its results. -/
theorem intLane_of_ready {major : Nat} (hmajor : major < 0x40) {w : LaneWord} (f : LaneEnv → List Upd) {s : State}
    (h : s.laneReady major w = true) : ordinaryLane major (rowForm (intRow major) major false w) w f s =
      .next { s.afterWord (laneBytes w) (f (laneEnv s w)) with verdict := .issued } := by
  rw [← laneForm_int hmajor]
  exact ordinaryLane_of_ready s major w f h

/-- A packed word that may issue completes with its results. -/
theorem packedLane_of_ready {major : Nat} (hmajor : 0x40 ≤ major ∧ major < 0x60) {w : LaneWord} (f : LaneEnv → List Upd) {s : State}
    (h : s.laneReady major w = true) : ordinaryLane major (rowForm (packedRow major) major false w) w f s =
      .next { s.afterWord (laneBytes w) (f (laneEnv s w)) with verdict := .issued } := by
  rw [← laneForm_packed hmajor]
  exact ordinaryLane_of_ready s major w f h

/-! ### Put -/

/-- The low register of a 64-bit pattern. -/
theorem low_wrapTo (y : Int) : BitVec.ofNat 32 (wrapTo 64 y) = BitVec.ofInt 32 y := by
  refine BitVec.eq_of_toNat_eq ?_
  rw [BitVec.toNat_ofNat, BitVec.toNat_ofInt, wrapTo]
  omega

/-- The high register of a 64-bit pattern. -/
theorem high_wrapTo (y : Int) : BitVec.ofNat 32 (wrapTo 64 y / 2 ^ 32) = BitVec.ofInt 32 (y / 2 ^ 32) := by
  refine BitVec.eq_of_toNat_eq ?_
  rw [BitVec.toNat_ofNat, BitVec.toNat_ofInt, wrapTo]
  omega

/-- Put writes a pair for a 64-bit type, else one register (R111). -/
theorem putUpd_eq (wd : Nat) (sgn : Bool) (n l : Nat) (y : Int) : putUpd wd sgn n l y =
    if wd = 64 then [.v n l (BitVec.ofInt 32 y), .v (n + 1) l (BitVec.ofInt 32 (y / 2 ^ 32))]
    else [.v n l (BitVec.ofInt 32 (typed wd sgn (wrapTo wd y)))] := by
  unfold putUpd
  dsimp only
  split
  · subst wd
    rw [low_wrapTo, high_wrapTo]
  · cases sgn with
    | true => rw [if_pos rfl, signExt, ofNat_wrapTo]; rfl
    | false =>
      have hlt : wrapTo wd y < 2 ^ wd := by
        rw [wrapTo_eq_toNat]
        exact BitVec.isLt _
      have htyped : typed wd false (wrapTo wd y) = (wrapTo wd y : Nat) := congrArg Nat.cast (Nat.mod_eq_of_lt hlt)
      rw [htyped, BitVec.ofInt_natCast]
      rfl

/-- The results of Put lie in its lane, in one register or in a pair. -/
theorem mem_putUpd {wd : Nat} {sgn : Bool} {n l : Nat} {y : Int} {u : Upd} (h : u ∈ putUpd wd sgn n l y) :
    ∃ n' val, u = .v n' l val ∧ (n' = n ∨ (wd = 64 ∧ n' = n + 1)) := by
  rw [putUpd_eq] at h
  split at h
  · next hwide =>
    rcases List.mem_pair.mp h with rfl | rfl
    · exact ⟨n, _, rfl, .inl rfl⟩
    · exact ⟨n + 1, _, rfl, .inr ⟨hwide, rfl⟩⟩
  · exact ⟨n, _, List.mem_singleton.mp h, .inl rfl⟩

/-- A state holds an integer in a lane as Put writes it, where it holds each register that Put writes. -/
theorem laneHolds_of_putUpd {t : State} {wd : Nat} {sgn : Bool} {n l : Nat} {y : Int}
    (h : ∀ n' val, .v n' l val ∈ putUpd wd sgn n l y → t.laneReg n' l = val) : t.laneHolds wd sgn n l y := by
  rw [putUpd_eq] at h
  unfold State.laneHolds
  split
  · next hwide =>
    rw [if_pos hwide] at h
    exact ⟨h _ _ List.mem_cons_self, h _ _ (List.mem_cons_of_mem _ List.mem_cons_self)⟩
  · next hwide =>
    rw [if_neg hwide] at h
    exact h _ _ List.mem_cons_self

/-- Put gives each register one value. -/
theorem putUpd_unique {wd : Nat} {sgn : Bool} {n l n' : Nat} {y : Int} {a b : Word32}
    (ha : .v n' l a ∈ putUpd wd sgn n l y) (hb : .v n' l b ∈ putUpd wd sgn n l y) : a = b := by
  rw [putUpd_eq] at ha hb
  split at ha
  · next hwide =>
    rw [if_pos hwide] at hb
    simp only [List.mem_pair, Upd.v.injEq] at ha hb
    obtain ⟨rfl, -, rfl⟩ | ⟨rfl, -, rfl⟩ := ha <;> obtain ⟨hn, -, rfl⟩ | ⟨hn, -, rfl⟩ := hb
    · rfl
    · omega
    · omega
    · rfl
  · next hwide =>
    rw [if_neg hwide] at hb
    simp only [List.mem_singleton, Upd.v.injEq] at ha hb
    exact ha.2.2.trans hb.2.2.symm

/-- What a lane word leaves whose results go to lane registers alone, each to one with one value. -/
theorem laneResults_leave {s : State} {us : List Upd} (hissue : s.canIssue = true)
    (hus : ∀ u ∈ us, ∃ n l val, u = .v n l val ∧ l < s.wave.width)
    (huniq : ∀ n l a b, .v n l a ∈ us → .v n l b ∈ us → a = b) (len : Nat) :
    let t := { s.afterWord len us with verdict := .issued }
    (∀ n l val, .v n l val ∈ us → t.laneReg n l = val) ∧ s.sameLanes t (fun n l => ∃ val, .v n l val ∈ us) ∧
      s.sameOutside t ∧ s.fellThrough t len ∧ s.sameButLanes t := by
  have hin : ∀ u ∈ us, u.inWave s.wave.width := by
    intro u hu
    obtain ⟨n, l, val, rfl, hl⟩ := hus u hu
    exact hl
  refine ⟨fun n l val hu => ?_, fun n l hl hdst => ?_, ?_, State.fellThrough_afterWord hissue hin len,
    State.sameButLanes_afterWord hus len⟩
  · exact State.laneReg_afterWord_of_mem hin hu (fun val' hu' => huniq n l val' val hu' hu) len
  · exact State.laneReg_afterWord_other hin hl (fun val hu => hdst ⟨val, hu⟩) len
  · exact (s.sameOutside_afterWord hin len).trans (State.sameOutside_verdict _ _)

/-- A frame of lane registers may name more of them. -/
theorem State.sameLanes.mono {s t : State} {p q : Nat → Nat → Prop} (h : s.sameLanes t p) (hpq : ∀ n l, p n l → q n l) :
    s.sameLanes t q := fun n l hl hq => h n l hl (fun hp => hq (hpq n l hp))

/-- What a lane word that writes an integer by Put in each of some lanes leaves. -/
theorem put_leaves {s : State} {lanes : List Nat} (hissue : s.canIssue = true) (hlanes : ∀ l ∈ lanes, l < s.wave.width)
    (wd : Nat) (sgn : Bool) (n : Nat) (y : Nat → Int) (len : Nat) :
    let t := { s.afterWord len (lanes.flatMap (fun l => putUpd wd sgn n l (y l))) with verdict := .issued }
    (∀ l ∈ lanes, t.laneHolds wd sgn n l (y l)) ∧
      s.sameLanes t (fun n' l => l ∈ lanes ∧ (n' = n ∨ (wd = 64 ∧ n' = n + 1))) ∧
      s.sameOutside t ∧ s.fellThrough t len ∧ s.sameButLanes t := by
  have hlane : ∀ n' l val, .v n' l val ∈ lanes.flatMap (fun l => putUpd wd sgn n l (y l)) →
      l ∈ lanes ∧ .v n' l val ∈ putUpd wd sgn n l (y l) := by
    intro n' l val hu
    obtain ⟨l', hl', hput⟩ := List.mem_flatMap.mp hu
    obtain ⟨_, _, heq, -⟩ := mem_putUpd hput
    obtain ⟨-, rfl, -⟩ := Upd.v.inj heq
    exact ⟨hl', hput⟩
  have hus : ∀ u ∈ lanes.flatMap (fun l => putUpd wd sgn n l (y l)), ∃ n' l val, u = .v n' l val ∧ l < s.wave.width := by
    intro u hu
    obtain ⟨l, hl, hput⟩ := List.mem_flatMap.mp hu
    obtain ⟨n', val, rfl, -⟩ := mem_putUpd hput
    exact ⟨n', l, val, rfl, hlanes l hl⟩
  obtain ⟨hvalue, hsame, hframe⟩ := laneResults_leave hissue hus
    (fun n' l a b ha hb => putUpd_unique (hlane n' l a ha).2 (hlane n' l b hb).2) len
  refine ⟨fun l hl => laneHolds_of_putUpd fun n' val hput => ?_, hsame.mono fun n' l hu => ?_, hframe⟩
  · exact hvalue n' l val (List.mem_flatMap.mpr ⟨l, hl, hput⟩)
  · obtain ⟨val, hval⟩ := hu
    obtain ⟨hl, hput⟩ := hlane n' l val hval
    obtain ⟨_, _, heq, hn⟩ := mem_putUpd hput
    obtain ⟨rfl, -, -⟩ := Upd.v.inj heq
    exact ⟨hl, hn⟩

/-- What a lane word that writes one register in each of some lanes leaves. -/
theorem oneRegister_leaves {s : State} {lanes : List Nat} (hissue : s.canIssue = true) (hlanes : ∀ l ∈ lanes, l < s.wave.width)
    (n : Nat) (val : Nat → Word32) (len : Nat) :
    let t := { s.afterWord len (lanes.map (fun l => .v n l (val l))) with verdict := .issued }
    (∀ l ∈ lanes, t.laneReg n l = val l) ∧ s.sameLanes t (fun n' l => l ∈ lanes ∧ n' = n) ∧
      s.sameOutside t ∧ s.fellThrough t len ∧ s.sameButLanes t := by
  have hlane : ∀ n' l a, .v n' l a ∈ lanes.map (fun l => Upd.v n l (val l)) → l ∈ lanes ∧ n' = n ∧ a = val l := by
    intro n' l a hu
    obtain ⟨l', hl', heq⟩ := List.mem_map.mp hu
    obtain ⟨rfl, rfl, rfl⟩ := Upd.v.inj heq
    exact ⟨hl', rfl, rfl⟩
  have hus : ∀ u ∈ lanes.map (fun l => Upd.v n l (val l)), ∃ n l a, u = .v n l a ∧ l < s.wave.width := by
    intro u hu
    obtain ⟨l, hl, rfl⟩ := List.mem_map.mp hu
    exact ⟨n, l, val l, rfl, hlanes l hl⟩
  obtain ⟨hvalue, hsame, hframe⟩ := laneResults_leave hissue hus
    (fun n' l a b ha hb => (hlane n' l a ha).2.2.trans (hlane n' l b hb).2.2.symm) len
  refine ⟨fun l hl => hvalue n l _ (List.mem_map.mpr ⟨l, hl, rfl⟩), hsame.mono fun n' l hu => ?_, hframe⟩
  obtain ⟨a, ha⟩ := hu
  obtain ⟨hl, hn, -⟩ := hlane n' l a ha
  exact ⟨hl, hn⟩

/-- What a lane word that writes one predicate in each of some lanes leaves. -/
theorem onePredicate_leaves {s : State} {lanes : List Nat} (hissue : s.canIssue = true) (hlanes : ∀ l ∈ lanes, l < s.wave.width)
    {n : Nat} (hn : n < 16) (b : Nat → Bool) (len : Nat) :
    let t := { s.afterWord len (lanes.map (fun l => .p n l (b l))) with verdict := .issued }
    (∀ l ∈ lanes, n ≠ 0 → (t.wave.getP n).getLsbD l = b l) ∧
      (∀ n' l, n' ≠ n ∨ n' = 0 ∨ l ∉ lanes → (t.wave.getP n').getLsbD l = (s.wave.getP n').getLsbD l) ∧
      s.sameLanes t (fun _ _ => False) ∧ s.sameOutside t ∧ s.fellThrough t len ∧
      t.wave.x = s.wave.x ∧ t.wave.m = s.wave.m ∧ t.wave.amask = s.wave.amask ∧ t.wave.csrs.nround = s.wave.csrs.nround := by
  have hus : ∀ u ∈ lanes.map (fun l => Upd.p n l (b l)), ∃ l ∈ lanes, u = .p n l (b l) := by
    intro u hu
    obtain ⟨l, hl, rfl⟩ := List.mem_map.mp hu
    exact ⟨l, hl, rfl⟩
  have hin : ∀ u ∈ lanes.map (fun l => Upd.p n l (b l)), u.inWave s.wave.width := by
    intro u hu
    obtain ⟨l, -, rfl⟩ := hus u hu
    trivial
  have hother := State.others_afterWord_p (s := s) (us := lanes.map (fun l => Upd.p n l (b l)))
    (fun u hu => by obtain ⟨l, -, rfl⟩ := hus u hu; exact ⟨n, l, b l, rfl⟩) len
  refine ⟨fun l hl hzero => ?_, fun n' l h => ?_, fun n' l hl _ => ?_, ?_, State.fellThrough_afterWord hissue hin len, hother⟩
  · refine State.getP_afterWord_of_mem hin hzero hn (hlanes l hl) (List.mem_map.mpr ⟨l, hl, rfl⟩) (fun c hc => ?_) len
    obtain ⟨l', -, heq⟩ := hus _ hc
    obtain ⟨-, rfl, rfl⟩ := Upd.p.inj heq
    rfl
  · refine State.getP_afterWord_other hin (h.elim (fun hne => .inr fun c hc => ?_) (Or.imp_right fun hno c hc => ?_)) len
    · obtain ⟨l', -, heq⟩ := hus _ hc
      exact hne (Upd.p.inj heq).1
    · obtain ⟨l', hl', heq⟩ := hus _ hc
      obtain ⟨-, rfl, -⟩ := Upd.p.inj heq
      exact hno hl'
  · refine State.laneReg_afterWord_other hin hl (fun val hu => ?_) len
    obtain ⟨l', -, heq⟩ := hus _ hu
    cases heq
  · exact (s.sameOutside_afterWord hin len).trans (State.sameOutside_verdict _ _)

end Sys2Proof.Machine

namespace Sys2Proof.Machine
open Sys2Proof.Claims

/-! ## O1: lane integer words -/

theorem intWord_congr {major : Nat} {f g : IntOps → Int} (h : ∀ o, f o = g o) (w : LaneWord) (s : State) :
    intWord major w f s = intWord major w g s := congrArg (fun f => intWord major w f s) (funext h)

theorem natAbs_eq_ite (x : Int) : (x.natAbs : Int) = if x < 0 then -x else x := by
  split <;> omega

/-- A nibble of a word, taken apart: its bit 3, and its low bits. -/
theorem bits_nibble (b i : Nat) : bit (bits b (4 * i + 3) (4 * i)) 3 = bit b (4 * i + 3) ∧
    bits b (4 * i + 3) (4 * i) % 8 = bits b (4 * i + 2) (4 * i) := by
  have hfour : 4 * i + 3 + 1 - 4 * i = 4 := by omega
  have hthree : 4 * i + 2 + 1 - 4 * i = 3 := by omega
  refine ⟨?_, ?_⟩
  · rw [bit, testBit_bits, hfour]
    rfl
  · rw [bits, bits, hfour, hthree]
    omega

theorem bits_byte (v k : Nat) : bits v (8 * k + 7) (8 * k) = v / 256 ^ k % 256 := by
  have hlen : 8 * k + 7 + 1 - 8 * k = 8 := by omega
  have hpow : 2 ^ (8 * k) = 256 ^ k := Nat.pow_mul 2 8 k
  rw [bits, hlen, Nat.shiftRight_eq_div_pow, hpow]
  rfl

/-- The byte that nibble `i` of the selector picks from the eight bytes of `src`, or zero (R116). -/
theorem permByte_eq (b src i : Nat) :
    (if bit (bits b (4 * i + 3) (4 * i)) 3 then 0
      else bits src (8 * (bits b (4 * i + 3) (4 * i) % 8) + 7) (8 * (bits b (4 * i + 3) (4 * i) % 8))) =
      if bit b (4 * i + 3) then 0 else src / 256 ^ bits b (4 * i + 2) (4 * i) % 256 := by
  obtain ⟨hzero, hbyte⟩ := bits_nibble b i
  rw [hzero, hbyte, bits_byte]

/-- The meaning of a word that writes by Put is its rule. -/
theorem exec_integerRules {r : LaneRule (LaneWord → IntOps → Int)} (hr : r ∈ integerRules) (w : LaneWord) (s : State) :
    r.major < 0x40 ∧ exec (r.con w) s = intWord r.major w (r.value w) s := by
  simp only [integerRules, List.mem_cons, List.not_mem_nil, or_false] at hr
  obtain rfl | rfl | rfl | rfl | rfl | rfl | rfl | rfl | rfl | rfl | rfl | rfl | rfl | rfl | rfl | rfl | rfl | rfl | rfl |
    rfl | rfl | rfl | rfl | rfl | rfl | rfl | rfl | rfl | rfl | rfl | rfl := hr
  any_goals exact ⟨by decide, rfl⟩
  · exact ⟨by decide, show execVabs w s = _ from intWord_congr (fun o => natAbs_eq_ite o.av) w s⟩
  · exact ⟨by decide, show execVperm w s = _ from intWord_congr (fun o => by simp only [permByte_eq]) w s⟩

/-- Settles O1: each word puts its rule's value in every active lane, and a wave's lane registers lie apart. -/
theorem laneIntegerResults : Obligations.LaneIntegerResults := by
  intro r hr w s h
  obtain ⟨hmajor, hexec⟩ := exec_integerRules hr w s
  exact ⟨_, hexec.trans (intLane_of_ready hmajor _ h),
    put_leaves (canIssue_of_laneReady h) (fun _ hl => lanes_lt_width hl) _ _ _ _ _⟩

/-! ## O2: bit counts and compares -/

/-- The meaning of a bit count is its rule. -/
theorem exec_countRules {r : LaneRule (IntOps → Nat)} (hr : r ∈ countRules) (w : LaneWord) (s : State) :
    r.major < 0x40 ∧ exec (r.con w) s = intCountWord r.major w r.value s := by
  simp only [countRules, List.mem_cons, List.not_mem_nil, or_false] at hr
  obtain rfl | rfl | rfl | rfl := hr
  all_goals exact ⟨by decide, rfl⟩

/-- The meaning of a compare decides its rule, and its row names a predicate as destination. -/
theorem exec_compareRules {r : LaneRule (IntOps → Prop)} (hr : r ∈ compareRules) :
    ∃ f : IntOps → Bool, (∀ o, f o = true ↔ r.value o) ∧ r.major < 0x40 ∧
      (∃ row, intRow r.major = some row ∧ row.d = .pred) ∧ ∀ w s, exec (r.con w) s = intCompare r.major w f s := by
  simp only [compareRules, List.mem_cons, List.not_mem_nil, or_false] at hr
  obtain rfl | rfl | rfl | rfl | rfl | rfl | rfl := hr
  all_goals exact ⟨_, fun o => decide_eq_true_iff, by decide, ⟨_, rfl, rfl⟩, fun _ _ => rfl⟩

/-- A lane integer word that may issue names a predicate below 16 where its row has one as destination (R112). -/
theorem vd_lt_of_laneReady {major : Nat} (hmajor : major < 0x40) {row : LaneRow} (hrow : intRow major = some row)
    (hpred : row.d = .pred) {w : LaneWord} {s : State} (h : s.laneReady major w = true) : w.vd.toNat < 16 := by
  obtain ⟨ops, hform, -⟩ := s.laneReady_cases major w touchActive h
  rw [laneForm_int hmajor, hrow] at hform
  by_contra hvd
  have hfield (ty : Nat) (rd wr : Bool) : fieldOperand .pred ty w.vd.toNat rd wr = none := if_neg hvd
  simp [rowForm, rowOperands, hpred, hfield] at hform

/-- Settles O2: each bit count writes its register, and each compare its predicate, in every active lane. -/
theorem laneCountAndCompareResults : Obligations.LaneCountAndCompareResults := by
  refine ⟨fun r hr w s h => ?_, fun r hr w s h => ?_⟩
  · obtain ⟨hmajor, hexec⟩ := exec_countRules hr w s
    exact ⟨_, hexec.trans (intLane_of_ready hmajor _ h),
      oneRegister_leaves (canIssue_of_laneReady h) (fun _ hl => lanes_lt_width hl) _ _ _⟩
  · obtain ⟨f, hf, hmajor, ⟨row, hrow, hpred⟩, hexec⟩ := exec_compareRules hr
    obtain ⟨hvalue, hrest⟩ := onePredicate_leaves (canIssue_of_laneReady h) (fun _ hl => lanes_lt_width hl)
      (vd_lt_of_laneReady hmajor hrow hpred h) (fun l => f (intOps (takesImm (intRow r.major) w) (laneEnv s w) w l)) (laneBytes w)
    refine ⟨_, (hexec w s).trans (intLane_of_ready hmajor _ h), fun l hl hvd => ?_, hrest⟩
    rw [hvalue l hl (fun hzero => hvd (BitVec.eq_of_toNat_eq hzero))]
    exact hf _

/-! ## O3: field, wide, select, move and carry words -/

/-- The meaning of a field word is its rule. -/
theorem exec_fieldRules {r : LaneRule (LaneEnv → LaneWord → Nat → List Upd)} (hr : r ∈ fieldRules) (w : LaneWord) (s : State) :
    r.major < 0x40 ∧ exec (r.con w) s = intLaneWord r.major w (fun e l => r.value e w l) s := by
  simp only [fieldRules, List.mem_cons, List.not_mem_nil, or_false] at hr
  obtain rfl | rfl | rfl | rfl | rfl | rfl | rfl | rfl | rfl | rfl := hr
  any_goals exact ⟨by decide, rfl⟩
  · exact ⟨by decide, show execVsubc w s = _ by simp only [execVsubc, ofNat_wrapTo]⟩
  · refine ⟨by decide, show execVdot4 w s = _ from ?_⟩
    simp only [execVdot4, ofNat_wrapTo, add_ite, Int.add_zero]

/-- Settles O3: each word is its rule in every active lane. -/
theorem laneFieldResults : Obligations.LaneFieldResults := by
  intro r hr w s h
  obtain ⟨hmajor, hexec⟩ := exec_fieldRules hr w s
  exact hexec.trans (intLane_of_ready hmajor _ h)

/-! ## O4: packed words -/

theorem packedWord_congr {major : Nat} {f g : HalfOps → Word32} (h : ∀ o, f o = g o) (w : LaneWord) (s : State) :
    packedWord major w f s = packedWord major w g s := congrArg (fun f => packedWord major w f s) (funext h)

/-- The meaning of a word of two result halves is its rule. -/
theorem exec_halfRules {r : LaneRule (LaneWord → HalfOps → Nat → Int)} (hr : r ∈ halfRules) (w : LaneWord) (s : State) :
    (0x40 ≤ r.major ∧ r.major < 0x60) ∧ exec (r.con w) s = halvesWord r.major w (r.value w) s := by
  simp only [halfRules, List.mem_cons, List.not_mem_nil, or_false] at hr
  obtain rfl | rfl | rfl | rfl | rfl | rfl | rfl | rfl | rfl | rfl | rfl | rfl | rfl | rfl := hr
  all_goals exact ⟨by decide, rfl⟩

/-- The meaning of a packed word of one value is its rule. -/
theorem exec_packedRules {r : LaneRule (LaneWord → HalfOps → Int)} (hr : r ∈ packedRules) (w : LaneWord) (s : State) :
    (0x40 ≤ r.major ∧ r.major < 0x60) ∧
      exec (r.con w) s = packedWord r.major w (fun o => BitVec.ofInt 32 (r.value w o)) s := by
  simp only [packedRules, List.mem_cons, List.not_mem_nil, or_false] at hr
  obtain rfl | rfl | rfl | rfl | rfl := hr
  · exact ⟨by decide, show execHdot2 w s = _ from packedWord_congr (fun _ => ofNat_wrapTo 32 _) w s⟩
  · exact ⟨by decide, show execHdot2s w s = _ from packedWord_congr (fun _ => ofNat_wrapTo 32 _) w s⟩
  · exact ⟨by decide, show execHsad w s = _ from packedWord_congr (fun _ => (BitVec.ofInt_natCast 32 _).symm) w s⟩
  · exact ⟨by decide, show execHpack w s = _ from packedWord_congr (fun _ => (BitVec.ofInt_natCast 32 _).symm) w s⟩
  · exact ⟨by decide, show execHpk8 w s = _ from packedWord_congr (fun _ => (BitVec.ofInt_natCast 32 _).symm) w s⟩

/-- Settles O4: each packed word is its rule in every active lane; a stream word takes the bits of its register across the
wave, which it reads in every lane below the width. -/
theorem packedResults : Obligations.PackedResults := by
  refine ⟨fun r hr w s h => ?_, fun r hr w s h => ?_, fun w s h => ?_, fun w s h => ?_, fun w s h => ?_⟩
  · obtain ⟨hmajor, hexec⟩ := exec_halfRules hr w s
    exact hexec.trans (packedLane_of_ready hmajor _ h)
  · obtain ⟨hmajor, hexec⟩ := exec_packedRules hr w s
    exact hexec.trans (packedLane_of_ready hmajor _ h)
  · exact ordinaryLane_of_ready s 0x52 w _ h
  · exact congrArg Issue.finish (laneIssue_of_ready s 0x54 w (touchStream w) _ h)
  · exact congrArg Issue.finish (laneIssue_of_ready s 0x55 w (touchStream w) _ h)

end Sys2Proof.Machine
